-- ==== Sys2Proof/Word.lean ====
section
/-!
DEFINITION. The word types of the Psiane P4 and the bit positions every instruction word shares
(spec/05_formats_and_opcode_map.md R99, R100).
-/
namespace Sys2Proof

/-- A byte of memory. -/
abbrev Byte := BitVec 8

/-- A 32-bit register or instruction word. -/
abbrev Word := BitVec 32

/-- A 64-bit pair, uniform register, address or program counter. -/
abbrev DWord := BitVec 64

end Sys2Proof
end

