-- ==== Sys2Proof/Syntax.lean ====
section
/-!
DEFINITION. The instruction words of Psiane ISA 4 and the events of the part: one constructor for each row of
spec/opcode_table.json. A word's constructor holds the fields of its encoding (spec/05_formats_and_opcode_map.md R99 to
R112), named by the table; an event's constructor names what the event acts on.
-/
namespace Sys2Proof

/-- The two fields every word has: the predicate index and the stall count (R99). -/
structure Guard where
  pred  : BitVec 3
  stall : BitVec 2
deriving DecidableEq, Repr

/-- A core of a compute die of a module (R10, R11). -/
structure CoreId where
  dev  : Nat
  die  : Nat
  core : Nat
deriving DecidableEq, Repr

/-- A port of a base die (R254). -/
structure PortId where
  dev  : Nat
  die  : Nat
  port : Nat
deriving DecidableEq, Repr

/-- A request ring: the ring of a context on a module, or the module ring (R427). -/
structure RingId where
  dev : Nat
  ctx : Option Nat
deriving DecidableEq, Repr

/-- The four engine classes (R294). -/
inductive EngClass where
  | copy | press | matrix | fabric
deriving DecidableEq, Repr

/-- A bind record (R213), its fields at their widths. KIND and the reserved field are kept as written, so that other values can be
refused. -/
structure BindRec where
  ctx    : BitVec 32
  node   : BitVec 16
  kind   : BitVec 16
  source : BitVec 64
  lanes  : BitVec 64
  vbase  : BitVec 16
  kbase  : BitVec 8
  macros : BitVec 8
  sbase  : BitVec 16
  rsvd   : BitVec 16
deriving DecidableEq, Repr

/-- What a compute die's sensors read (R425): temperatures in degrees Celsius, power in watts. -/
structure Sensors where
  macroT : Nat
  baseT  : Nat
  power  : Nat
deriving DecidableEq, Repr

/-- What Glesko is given to create a context: its number, for each module it runs on the DPA of its page-table root and
of its path-state pages, the frames set aside after the root for its tables, the virtual address of those pages, the frames it owns
and the rights it may map (bit 0 read, bit 1 write, bit 2 execute) (R240, R258, R382, R403). -/
structure CtxSpec where
  num   : Nat
  mods  : List (Nat × Nat × Nat)
  room  : List (Nat × Nat)
  path  : BitVec 64
  owned : List (Nat × Nat × Nat)
  grant : BitVec 3
deriving DecidableEq, Repr

set_option maxRecDepth 4000 in
/-- One constructor for each row of spec/opcode_table.json. -/
inductive Instr where
  | iadd (g : Guard) (d a b : BitVec 7)
  | isub (g : Guard) (d a b : BitVec 7)
  | imul (g : Guard) (d a b : BitVec 7)
  | imad (g : Guard) (d a b : BitVec 7)
  | and (g : Guard) (d a b : BitVec 7)
  | or (g : Guard) (d a b : BitVec 7)
  | xor (g : Guard) (d a b : BitVec 7)
  | shl (g : Guard) (d a b : BitVec 7)
  | shr (g : Guard) (d a b : BitVec 7)
  | icmp (g : Guard) (c : BitVec 4) (q : BitVec 3) (a b : BitVec 7)
  | sel (g : Guard) (d a b : BitVec 7)
  | lea (g : Guard) (d a b : BitVec 7)
  | bfi (g : Guard) (d a b : BitVec 7)
  | idp4 (g : Guard) (d a b : BitVec 7)
  | imulh (g : Guard) (d a : BitVec 7)
  | imulhUns (g : Guard) (d a : BitVec 7)
  | idiv (g : Guard) (d a : BitVec 7)
  | idivUns (g : Guard) (d a : BitVec 7)
  | irem (g : Guard) (d a : BitVec 7)
  | iremUns (g : Guard) (d a : BitVec 7)
  | imin (g : Guard) (d a : BitVec 7)
  | iminUns (g : Guard) (d a : BitVec 7)
  | imax (g : Guard) (d a : BitVec 7)
  | imaxUns (g : Guard) (d a : BitVec 7)
  | andn (g : Guard) (d a : BitVec 7)
  | sar (g : Guard) (d a : BitVec 7)
  | rotl (g : Guard) (d a : BitVec 7)
  | bfx (g : Guard) (d a : BitVec 7)
  | bfxUns (g : Guard) (d a : BitVec 7)
  | iaddD (g : Guard) (d a : BitVec 7)
  | isubD (g : Guard) (d a : BitVec 7)
  | imulD (g : Guard) (d a : BitVec 7)
  | andD (g : Guard) (d a : BitVec 7)
  | orD (g : Guard) (d a : BitVec 7)
  | xorD (g : Guard) (d a : BitVec 7)
  | andnD (g : Guard) (d a : BitVec 7)
  | iminD (g : Guard) (d a : BitVec 7)
  | shlD (g : Guard) (d a : BitVec 7)
  | shrD (g : Guard) (d a : BitVec 7)
  | sarD (g : Guard) (d a : BitVec 7)
  | rotlD (g : Guard) (d a : BitVec 7)
  | iminDUns (g : Guard) (d a : BitVec 7)
  | imaxD (g : Guard) (d a : BitVec 7)
  | imaxDUns (g : Guard) (d a : BitVec 7)
  | mov (g : Guard) (d a : BitVec 7)
  | iabs (g : Guard) (d a : BitVec 7)
  | ineg (g : Guard) (d a : BitVec 7)
  | not (g : Guard) (d a : BitVec 7)
  | popc (g : Guard) (d a : BitVec 7)
  | clz (g : Guard) (d a : BitVec 7)
  | ctz (g : Guard) (d a : BitVec 7)
  | brev (g : Guard) (d a : BitVec 7)
  | movD (g : Guard) (d a : BitVec 7)
  | iabsD (g : Guard) (d a : BitVec 7)
  | inegD (g : Guard) (d a : BitVec 7)
  | notD (g : Guard) (d a : BitVec 7)
  | popcD (g : Guard) (d a : BitVec 7)
  | clzD (g : Guard) (d a : BitVec 7)
  | ctzD (g : Guard) (d a : BitVec 7)
  | brevD (g : Guard) (d a : BitVec 7)
  | iaddImm (g : Guard) (d a i : BitVec 7)
  | shlImm (g : Guard) (d a : BitVec 7) (n : BitVec 5)
  | shrImm (g : Guard) (d a : BitVec 7) (n : BitVec 5)
  | sarImm (g : Guard) (d a : BitVec 7) (n : BitVec 5)
  | rotlImm (g : Guard) (d a : BitVec 7) (n : BitVec 5)
  | movi (g : Guard) (d : BitVec 7) (i : BitVec 14)
  | movhi (g : Guard) (d : BitVec 7) (i : BitVec 14)
  | pand (g : Guard) (q : BitVec 3) (a b : BitVec 7)
  | por (g : Guard) (q : BitVec 3) (a b : BitVec 7)
  | pxor (g : Guard) (q : BitVec 3) (a b : BitVec 7)
  | pnot (g : Guard) (q : BitVec 3) (a : BitVec 7)
  | mfs (g : Guard) (d : BitVec 7) (r : BitVec 6)
  | mts (g : Guard) (a : BitVec 7) (r : BitVec 6)
  | mvs (g : Guard) (d a : BitVec 7)
  | mvsD (g : Guard) (d a : BitVec 7)
  | movs (g : Guard) (d a : BitVec 7)
  | movsD (g : Guard) (d a : BitVec 7)
  | fadd (g : Guard) (d a b : BitVec 7)
  | fsub (g : Guard) (d a b : BitVec 7)
  | fmul (g : Guard) (d a b : BitVec 7)
  | ffma (g : Guard) (d a b : BitVec 7)
  | fcmp (g : Guard) (c q : BitVec 3) (a b : BitVec 7)
  | fdiv (g : Guard) (d a : BitVec 7)
  | fmin (g : Guard) (d a : BitVec 7)
  | fmax (g : Guard) (d a : BitVec 7)
  | hadd2Hf (g : Guard) (d a : BitVec 7)
  | hadd2Bf (g : Guard) (d a : BitVec 7)
  | hmul2Hf (g : Guard) (d a : BitVec 7)
  | hmul2Bf (g : Guard) (d a : BitVec 7)
  | frcp (g : Guard) (d a : BitVec 7)
  | frsq (g : Guard) (d a : BitVec 7)
  | fsqrt (g : Guard) (d a : BitVec 7)
  | fexp2 (g : Guard) (d a : BitVec 7)
  | flog2 (g : Guard) (d a : BitVec 7)
  | fclass (g : Guard) (d a : BitVec 7)
  | cvt (g : Guard) (d a : BitVec 7) (x : BitVec 3) (y : BitVec 4)
  | hfma2Hf (g : Guard) (d a b : BitVec 7)
  | hfma2Bf (g : Guard) (d a b : BitVec 7)
  | ldW (g : Guard) (d a o : BitVec 7)
  | stW (g : Guard) (d a o : BitVec 7)
  | ld (g : Guard) (d a : BitVec 7) (z : BitVec 3)
  | ldAcq (g : Guard) (d a : BitVec 7) (z k : BitVec 3)
  | st (g : Guard) (d a : BitVec 7) (z : BitVec 3)
  | stRel (g : Guard) (d a : BitVec 7) (z k : BitVec 3)
  | lds (g : Guard) (d a : BitVec 7) (z : BitVec 3)
  | sts (g : Guard) (d a : BitVec 7) (z : BitVec 3)
  | ldo (g : Guard) (d a : BitVec 7) (z : BitVec 3)
  | ldoAcq (g : Guard) (d a : BitVec 7) (z k : BitVec 3)
  | amoAdd (g : Guard) (d a : BitVec 7) (k : BitVec 3)
  | amoSub (g : Guard) (d a : BitVec 7) (k : BitVec 3)
  | amoMin (g : Guard) (d a : BitVec 7) (k : BitVec 3)
  | amoMax (g : Guard) (d a : BitVec 7) (k : BitVec 3)
  | amoMinUns (g : Guard) (d a : BitVec 7) (k : BitVec 3)
  | amoMaxUns (g : Guard) (d a : BitVec 7) (k : BitVec 3)
  | amoAnd (g : Guard) (d a : BitVec 7) (k : BitVec 3)
  | amoOr (g : Guard) (d a : BitVec 7) (k : BitVec 3)
  | amoXor (g : Guard) (d a : BitVec 7) (k : BitVec 3)
  | amoSwp (g : Guard) (d a : BitVec 7) (k : BitVec 3)
  | amoAddF (g : Guard) (d a : BitVec 7) (k : BitVec 3)
  | acas (g : Guard) (d a : BitVec 7) (k : BitVec 3)
  | amoAddD (g : Guard) (d a : BitVec 7) (k : BitVec 3)
  | amoSwpD (g : Guard) (d a : BitVec 7) (k : BitVec 3)
  | acasD (g : Guard) (d a : BitVec 7) (k : BitVec 3)
  | amosAdd (g : Guard) (d a : BitVec 7)
  | amosSub (g : Guard) (d a : BitVec 7)
  | amosMin (g : Guard) (d a : BitVec 7)
  | amosMax (g : Guard) (d a : BitVec 7)
  | amosMinUns (g : Guard) (d a : BitVec 7)
  | amosMaxUns (g : Guard) (d a : BitVec 7)
  | amosAnd (g : Guard) (d a : BitVec 7)
  | amosOr (g : Guard) (d a : BitVec 7)
  | amosXor (g : Guard) (d a : BitVec 7)
  | amosSwp (g : Guard) (d a : BitVec 7)
  | amosCas (g : Guard) (d a : BitVec 7)
  | fenceAcq (g : Guard) (k : BitVec 3)
  | fenceRel (g : Guard) (k : BitVec 3)
  | fence (g : Guard) (k : BitVec 3)
  | invl1 (g : Guard) (a : BitVec 7)
  | invl1All (g : Guard)
  | tkrel (g : Guard) (a : BitVec 7)
  | bra (g : Guard) (f : BitVec 21)
  | call (g : Guard) (f : BitVec 21)
  | brp (g : Guard) (n : BitVec 3) (i : BitVec 14)
  | bdec (g : Guard) (d : BitVec 7) (i : BitVec 14)
  | nop (g : Guard)
  | exit (g : Guard)
  | ret (g : Guard)
  | callv (g : Guard) (a : BitVec 7)
  | jmpv (g : Guard) (a : BitVec 7)
  | trap (g : Guard) (n : BitVec 7)
  | bkpt (g : Guard) (n : BitVec 7)
  | yieldp (g : Guard)
  | rte (g : Guard)
  | rteRerun (g : Guard)
  | trrec (g : Guard) (d a : BitVec 7)
  | rep (g : Guard) (n : BitVec 6) (x y z : BitVec 3)
  | hintWait (g : Guard) (w : BitVec 17)
  | hintExt (g : Guard) (e : BitVec 17)
  | hintMod (g : Guard) (x : BitVec 1) (r : BitVec 2)
  | hintCache (g : Guard) (l c : BitVec 2)
  | hintFetchI (g : Guard) (o : BitVec 16)
  | hintFetchD (g : Guard) (a : BitVec 7) (o : BitVec 9)
  | xlmIdx (g : Guard) (d a : BitVec 7) (m : BitVec 5)
  | xlmXor (g : Guard) (d a : BitVec 7) (m : BitVec 5)
  | xlmUp (g : Guard) (d a : BitVec 7) (m : BitVec 5)
  | xlmDn (g : Guard) (d a : BitVec 7) (m : BitVec 5)
  | red (g : Guard) (d a : BitVec 7) (o : BitVec 5)
  | scan (g : Guard) (d a : BitVec 7) (o : BitVec 5)
  | scanExcl (g : Guard) (d a : BitVec 7) (o : BitVec 5)
  | elect (g : Guard) (d a : BitVec 7)
  | cvset (g : Guard) (d a : BitVec 7)
  | phase (g : Guard) (a : BitVec 7)
  | bar (g : Guard) (a : BitVec 7) (k : BitVec 3)
  | barcfg (g : Guard) (a : BitVec 7) (k : BitVec 3)
  | voteAny (g : Guard) (d a : BitVec 7) (x : BitVec 3)
  | voteAll (g : Guard) (d a : BitVec 7) (x : BitVec 3)
  | voteBallot (g : Guard) (d a : BitVec 7) (x : BitVec 3)
  | qrsv (g : Guard) (d a : BitVec 7) (x : BitVec 3)
  | qcmt (g : Guard) (a : BitVec 7)
  | qdrop (g : Guard) (a : BitVec 7)
  | qfree (g : Guard) (a : BitVec 7)
  | qstat (g : Guard) (d a : BitVec 7)
  | batt (g : Guard) (d : BitVec 7)
  | knnew (g : Guard) (d : BitVec 7) (x : BitVec 3)
  | knset (g : Guard) (d a : BitVec 7)
  | knadd (g : Guard) (d a : BitVec 7)
  | knget (g : Guard) (d a : BitVec 7) (x : BitVec 3)
  | knwait (g : Guard) (d a : BitVec 7)
  | knpoll (g : Guard) (a : BitVec 7) (x : BitVec 3)
  | knfree (g : Guard) (a : BitVec 7)
  | knbrk (g : Guard) (a : BitVec 7)
  | hzrd (g : Guard) (d : BitVec 7)
  | hzseq (g : Guard) (d : BitVec 7)
  | hzwait (g : Guard) (a : BitVec 7)
  | hzbrClr (g : Guard) (i : BitVec 14)
  | hzbrNclr (g : Guard) (i : BitVec 14)
  | tdef (g : Guard) (d a : BitVec 7)
  | tld (g : Guard) (d a : BitVec 7) (m : BitVec 5)
  | tst (g : Guard) (d a : BitVec 7)
  | tcopy (g : Guard) (a : BitVec 7)
  | swinit (g : Guard) (d a : BitVec 7)
  | swait (g : Guard) (d a : BitVec 7)
  | swadd (g : Guard) (d a : BitVec 7)
  | waito (g : Guard) (n : BitVec 7) (c : BitVec 2)
  | press (g : Guard) (d : BitVec 7) (m : BitVec 3)
  | pressw (g : Guard) (d a : BitVec 7) (m : BitVec 3)
  | mma (g : Guard) (d a : BitVec 7) (m j : BitVec 3)
  | skadd (g : Guard) (d a : BitVec 7) (r : BitVec 1)
  | sksub (g : Guard) (d a : BitVec 7) (r : BitVec 1)
  | skmax (g : Guard) (d a : BitVec 7) (r : BitVec 1)
  | skmin (g : Guard) (d a : BitVec 7) (r : BitVec 1)
  | skset (g : Guard) (d a : BitVec 7) (r : BitVec 1)
  | skmov (g : Guard) (d a : BitVec 7) (r : BitVec 1)
  | skext (g : Guard) (d a : BitVec 7)
  | skins (g : Guard) (d a : BitVec 7) (r : BitVec 1)
  | skbind (g : Guard) (d a : BitVec 7)
  | cmpr (g : Guard) (d a : BitVec 7)
  | sbmap (g : Guard) (d a : BitVec 7)
  | cbld (g : Guard) (a : BitVec 7)
  | cbldDef (g : Guard)
  | cbdec (g : Guard) (d a : BitVec 7)
  | rsend (g : Guard) (a : BitVec 7)
  | rsendAdd (g : Guard) (a : BitVec 7)
  | tsend (g : Guard) (d a : BitVec 7)
  | tscncl (g : Guard) (a : BitVec 7)
  | esend (g : Guard) (a : BitVec 7)
  | erecv (g : Guard) (a : BitVec 7)
  /-- an active strand meets a word that is no instruction (R114) -/
  | illegalInstruction (w : BitVec 32)
  /-- the instruction cache of core c fills the aligned span of va (R66) -/
  | instructionFill (c : CoreId) (va : BitVec 64) (ctx : Nat)
  /-- the divide unit delivers the oldest result of the strand on lane l of cord c (R57, R129) -/
  | divideResult (c l : Nat)
  /-- cord c ends its phase (R177) -/
  | phaseEnd (c : Nat)
  /-- the timer of an open batt expires (R207, R208) -/
  | battTimerExpiry (ctx graph node dev die : Nat)
  /-- the knot event number k from another die reaches the arbiter of the die that holds the knot (R206) -/
  | remoteKnotEvent (k : Nat)
  /-- the first waiter of a knot is woken (R220) -/
  | waiterWake (ctx dev slot : Nat)
  /-- the steward writes a bind record (R213, R214) -/
  | bindRecord (c : CoreId) (entry : Nat) (b : BindRec)
  /-- a bound entry launches or resumes its cord (R211, R214) -/
  | launch (c : CoreId) (entry : Nat)
  /-- an ordinary load takes its bytes from the L1 (R263) -/
  | l1Read (c l u : Nat)
  /-- an access is sent to its homes (R263) -/
  | send (c l u : Nat)
  /-- the home decides request number r of the arrival queues (R265) -/
  | perform (r : Nat)
  /-- a performed load fills the L1 (R263) -/
  | fill (c l u : Nat)
  /-- a release-kind access takes its RELEASE step (R266) -/
  | release (c l u : Nat)
  /-- an acquire-kind access takes its ACQUIRE step (R263) -/
  | acquire (c l u : Nat)
  /-- an invl1 or invl1.all drops L1 words (R263) -/
  | drop (c l u : Nat)
  /-- a valid L1 word becomes invalid (R263) -/
  | evict (c : CoreId) (word : Nat)
  /-- an access settles (R263, R348) -/
  | settle (c l u : Nat)
  /-- a TLB miss of core c walks the page table (R241) -/
  | tableWalk (c : CoreId) (ctx : Nat) (va : BitVec 64)
  /-- the TLB entries of a context are dropped everywhere (R244) -/
  | tlbShootdown (ctx : Nat)
  /-- the next step of moving the frame that va maps to frame (R245) -/
  | migration (ctx : Nat) (va : BitVec 64) (frame : Nat)
  /-- the base die serves a READ packet (R255) -/
  | readPacket (p : PortId) (tag : Nat)
  /-- the base die performs a WRITE packet (R255, R256) -/
  | writePacket (p : PortId) (tag : Nat)
  /-- a reply frees its tag (R254) -/
  | portReply (p : PortId) (tag : Nat)
  /-- a weight-store bank group enters a refresh window (R253) -/
  | refreshWindowStart (dev die grp : Nat)
  /-- a weight-store bank group leaves its refresh window (R253) -/
  | refreshWindowEnd (dev die grp : Nat)
  /-- a requested write window opens (R252, R430) -/
  | writeWindowOpens (dev win : Nat)
  /-- an engine operation starts (R298) -/
  | engineStart (c u : Nat)
  /-- chunk k of a copy lands and credits its sync word (R300, R302) -/
  | chunkCredit (c u k : Nat)
  /-- a press completes (R331, R332) -/
  | pressComplete (c u : Nat)
  /-- a cbld completes (R333) -/
  | cbldComplete (c u : Nat)
  /-- the pass of an mma starts (R306, R307, R313) -/
  | passStart (c u : Nat)
  /-- the pass of an mma writes its accumulators back (R309) -/
  | passWriteback (c u : Nat)
  /-- the oldest operation of a class retires (R296) -/
  | engineRetire (c : Nat) (cls : EngClass)
  /-- the fault of a strand is resolved and its trap record written (R352, R353) -/
  | failure (c l : Nat)
  /-- the masked-off strands of a cord enter handler mode (R356, R357) -/
  | trapEntry (c : Nat)
  /-- the steward pre-empts a cord (R361) -/
  | preempt (c : Nat)
  /-- a draining cord meets the drain limit (R361) -/
  | drainLimitExpiry (c : Nat)
  /-- a pre-empted cord is flushed (R362) -/
  | flush (c : Nat)
  /-- a pre-empted cord is saved (R363 to R365) -/
  | save (c : Nat)
  /-- a saved cord is restored (R363, R364) -/
  | restore (c : CoreId) (entry : Nat) (b : BindRec)
  /-- a request from another module is decided (R388) -/
  | remoteRequest (pkt : Nat)
  /-- an end-to-end acknowledgement returns (R393, R395) -/
  | acknowledgement (pkt : Nat)
  /-- the end-to-end timeout of a packet (R393) -/
  | endToEndTimeout (pkt : Nat)
  /-- a stomped packet is discarded (R394) -/
  | stompedPacket (pkt : Nat)
  /-- a link leaves the up state to retrain (R393, R395) -/
  | linkRetrain (dev st : Nat)
  /-- a link returns to the up state (R395) -/
  | linkReturn (dev st : Nat)
  /-- a link is declared down (R385, R395) -/
  | linkDownDeclared (dev st : Nat)
  /-- Glesko retires a plane (R391) -/
  | planeRetire (dev plane : Nat)
  /-- a fabric arrival is checked, performed and credited (R408, R411) -/
  | fabricArrival (pkt : Nat)
  /-- an Ethernet packet is checked, placed and credited (R402, R411) -/
  | ethernetPacket (pkt : Nat)
  /-- an esend sends its next packet (R402) -/
  | sprayPacketSend (c u : Nat)
  /-- an esend meets the retry limit (R402) -/
  | esendRetryLimit (c u : Nat)
  /-- a die sets its clock from its sensors (R425) -/
  | clockStep (dev die : Nat) (x : Sensors)
  /-- the seven steps of a cold start, stopping at a failing step (R421, R423) -/
  | coldStart (dev : Nat) (fail : Option Nat)
  /-- a warm start (R422) -/
  | warmStart (dev : Nat)
  /-- the MAP request at the head of a ring (R258, R428, R429) -/
  | mapReq (q : RingId)
  /-- the UNMAP request at the head of a ring (R258, R389) -/
  | unmapReq (q : RingId)
  /-- the PROTECT request at the head of a ring (R258, R389) -/
  | protectReq (q : RingId)
  /-- the EXPORT request at the head of a ring (R387, R428) -/
  | exportFrame (q : RingId)
  /-- the GRAPH_LOAD request at the head of a ring (R200, R202) -/
  | graphLoad (q : RingId)
  /-- the GRAPH_SEED request at the head of a ring (R235) -/
  | graphSeed (q : RingId)
  /-- the GRAPH_CLOSE request at the head of a ring (R222) -/
  | graphClose (q : RingId)
  /-- the WINDOW_OPEN request at the head of a ring (R252, R430) -/
  | windowOpen (q : RingId)
  /-- the WINDOW_CLOSE request at the head of a ring (R252, R428) -/
  | windowClose (q : RingId)
  /-- the PEER_SET request at the head of a ring (R415, R428) -/
  | peerSet (q : RingId)
  /-- the SET request at the head of a ring (R424, R428) -/
  | setReq (q : RingId)
  /-- the LOG_READ request at the head of a ring (R431) -/
  | logRead (q : RingId)
  /-- the HEALTH request at the head of a ring (R432) -/
  | healthReq (q : RingId)
  /-- the RESET request at the head of a ring (R366, R430) -/
  | resetReq (q : RingId)
  /-- a request with an unknown code or a non-zero reserved byte (R428) -/
  | malformedRequest (q : RingId)
  /-- Glesko creates a context (R382, R403) -/
  | contextCreation (x : CtxSpec)
  /-- the transport sends a lost packet again (R402, R403) -/
  | transportRetransmission (pkt : Nat)
  /-- the receiving endpoint acknowledges a packet and the path state is updated (R402, R403) -/
  | transportAcknowledgement (pkt cwnd srtt : Nat)
  /-- a station replays the flits of its replay buffer (R390, R392) -/
  | linkLevelReplay (dev st : Nat)
  /-- a receive slot is freed and its credit returns (R392) -/
  | linkCreditReturn (dev st ctx : Nat)
deriving DecidableEq, Repr

end Sys2Proof
end

