-- ==== Sys2Proof/Machine/State.lean ====
section
/-!
DEFINITION. The state of the machine: everything the manual gives it, as plain data (INVENTORY.md, State).
-/
namespace Sys2Proof.Machine

/-- Sparse data by key: pairs in rising key order, one for each key. -/
abbrev SMap (α : Type) := List (Nat × α)

/-- The stops that are no effect of the machine. -/
inductive Fault where
  /-- Raised by a home asked to perform a request at a DPA that R239 says holds no storage. Safe: the machine stops
  where no leaf can name such an address. -/
  | noStorage
deriving DecidableEq, Repr

/-- The reasons the model gives no meaning. -/
inductive Refusal where
  /-- The constructor named by its mnemonic has no meaning yet. Raised by exec only. Safe. -/
  | notModelled (mnemonic : String)
deriving DecidableEq, Repr

/-- A register the issue rules of R55 to R62 and R157 to R159 follow. -/
inductive Reg where
  | v (n : BitVec 7)
  | s (n : BitVec 6)
  | p (n : BitVec 3)
deriving DecidableEq, Repr

/-- A register value that becomes visible in a later cycle (R57, R58); var marks a Variable result, which the scoreboard
of R60 guards until then. -/
structure Pend where
  reg : Reg
  val : BitVec 64
  at_ : Nat
  var : Bool
deriving DecidableEq, Repr

/-- A uniform write not yet visible, with the cycle, braid and lowest lane of the braid that issued it (R159). -/
structure UPend where
  n   : BitVec 6
  val : BitVec 64
  at_ : Nat
  cyc : Nat
  br  : Nat
  lo  : Nat
  var : Bool
deriving DecidableEq, Repr

/-- A register that the operation, instance or engine operation named uid will write (R60). -/
structure Held where
  reg : Reg
  uid : Nat
deriving DecidableEq, Repr

/-- A fixed-latency write, its latency and the encoded distance from it so far (R59). -/
structure Chk where
  reg  : Reg
  lat  : Nat
  dist : Nat
deriving DecidableEq, Repr

/-- A divide or square root in the lane's unit: its result and whether an enabled flag fails it (R57, R34). -/
structure DivOp where
  uid : Nat
  d   : BitVec 7
  val : BitVec 32
deriving DecidableEq, Repr

/-- The strand state of rep: repetitions left, the index of the next one and the three steps (R117). -/
structure Rep where
  left : Nat
  idx  : Nat
  sd   : BitVec 3
  sa   : BitVec 3
  sb   : BitVec 3
deriving DecidableEq, Repr

/-- What an access of the pending sequence, or another fallible operation, is (R260, R346). -/
inductive OpKind where
  | load | store | obs | acqLoad | relStore | atomic | fenceAcq | fenceRel | fence | tkrel | invl1 | invl1All
  | spill | refill | engine | flag
deriving DecidableEq, Repr

/-- How far an operation has come (R261, R348). -/
inductive OpState where
  | unsent | sent | performed | settled | failed
deriving DecidableEq, Repr

/-- The work of an atomic at its home (R282 to R284): operation code, operand, new value of a compare and swap, FTZ and
enable bits taken at issue. -/
structure AtomSpec where
  op  : Nat
  x   : BitVec 64
  y   : BitVec 64
  ftz : Bool
  en  : BitVec 5
deriving DecidableEq, Repr

/-- An operation of a strand: an access of its pending sequence, an engine operation it issued, or a word that can raise
an enabled flag. born is the cycle of its issue (R369); grp names the word and braid it issued with (R247, R285); home lists the home address of each byte once sent, and
line the L1 words an ordinary load was performed with, which its FILL makes valid (R250, R263). -/
structure Op where
  uid   : Nat
  born  : Nat
  seq   : Option (BitVec 16)
  kind  : OpKind
  pc    : BitVec 64
  word  : BitVec 32
  repi  : Nat
  hint  : BitVec 32
  va    : BitVec 64
  size  : Nat
  scope : Nat
  dst   : BitVec 7
  szc   : BitVec 3
  data  : List (BitVec 8)
  atom  : Option AtomSpec
  na    : Bool
  state : OpState
  left  : Nat
  got   : List (Nat × BitVec 8)
  filled : Bool
  rel   : Bool
  acq   : Bool
  tries : Nat
  flags : BitVec 5
  cause : Nat
  addr  : BitVec 64
  detail : BitVec 64
  due   : Nat
  grp   : Nat
  home  : List Nat
  line  : List (Nat × BitVec 32)
  rep   : Option Rep
deriving DecidableEq, Repr

/-- A listed operation of a trap record (R354). -/
structure TrapEntry where
  seq   : BitVec 16
  state : BitVec 8
  repi  : BitVec 8
  word  : BitVec 32
  pc    : BitVec 64
  hint  : BitVec 32
  spill : Option (BitVec 64 × BitVec 64)
  rep   : Option Rep
deriving DecidableEq, Repr

/-- A trap record (R354). The repetition in progress, the steps of a repeated word and, for a spill, its slot and data are
kept beside it for the return (R358; log 11). -/
structure TrapRec where
  cause   : BitVec 32
  flags   : BitVec 32
  pc      : BitVec 64
  resume  : BitVec 64
  word    : BitVec 32
  seq     : BitVec 16
  repi    : BitVec 8
  addr    : BitVec 64
  detail  : BitVec 64
  repleft : BitVec 8
  rep     : Option Rep
  hint    : BitVec 32
  fhint   : BitVec 32
  spill   : Option (BitVec 64 × BitVec 64)
  frep    : Option Rep
  list    : List TrapEntry
deriving DecidableEq, Repr

/-- A fault the strand has met and not yet recorded (R353): after marks trap and bkpt, whose RESUME is the next word
(R372); here marks a word the strand has left already and that is taken back (R195). -/
structure PFault where
  cause  : Nat
  pc     : BitVec 64
  word   : BitVec 32
  repi   : Nat
  addr   : BitVec 64
  detail : BitVec 64
  async  : Bool
  after  : Bool
  hint   : BitVec 32
  redo   : Bool
  here   : Bool
deriving DecidableEq, Repr

/-- What a strand that issues nothing waits in (R172, R220, R356): a polling word with the operands it read at its issue, an hzwait with
the n and the NEXT it took at its issue (R370). -/
inductive Wait where
  | none
  | bar (kind : Nat)
  | phase
  | poll (x y : BitVec 32)
  | sign
  | answer
  | knot (dev slot : Nat)
  | horizon (n : BitVec 16) (next : BitVec 16)
deriving DecidableEq, Repr

/-- The modes of a strand (R356, R357, R360, R365). -/
inductive Mode where
  | running | masked | handler | frozen | ended
deriving DecidableEq, Repr

/-- RESUME, REPLEFT, HINT and the repetition kept across a rerun sequence (R358). -/
structure Resume where
  pc   : BitVec 64
  rep  : Option Rep
  hint : BitVec 32
deriving DecidableEq, Repr

/-- A word of a rerun sequence not yet re-executed (R358). -/
structure Rerun where
  word : BitVec 32
  pc   : BitVec 64
  repi : BitVec 8
  hint : BitVec 32
  rep  : Option Rep
  spill : Option (BitVec 64 × BitVec 64)
deriving DecidableEq, Repr

/-- A tile register (R304). -/
structure Tile where
  state  : BitVec 2
  fmt    : BitVec 4
  sparse : Bool
  rows   : Nat
  cols   : Nat
  base   : Nat
  pitch  : Nat
  bk     : Nat
  btag   : BitVec 12
deriving DecidableEq, Repr

/-- A cmpr or sbmap that has issued and has not written its tile yet (R339, R340): its order number, whether it is the sbmap, and the tiles and
tile registers it reads and writes, as it captured them at issue (R324). -/
structure Tiling where
  uid   : Nat
  prune : Bool
  src   : Tile
  srcNo : Nat
  dst   : Tile
  dstNo : Nat
deriving DecidableEq, Repr

/-- A strand (R49 to R54, R169, R347 to R358). -/
structure Strand where
  v       : Vector (BitVec 32) 128
  preds   : BitVec 7
  pc      : BitVec 64
  rs      : List (BitVec 64)
  csp     : BitVec 64
  fpf     : BitVec 32
  stat    : BitVec 32
  ready   : Nat
  pend    : List Pend
  held    : List Held
  chk     : List Chk
  divs    : List DivOp
  hint    : BitVec 32
  rep     : Option Rep
  ops     : List Op
  next    : BitVec 16
  sync    : Vector (BitVec 16) 7
  wait    : Wait
  mode    : Mode
  fault   : Option PFault
  trap    : Option TrapRec
  rerun   : List Rerun
  resume  : Option Resume
  fbusy   : Nat
  issued  : Nat
  idle    : Nat
  stopped : Bool
  depth   : Nat
  record  : BitVec 64
  spill   : BitVec 64
  tiling  : Option Tiling
deriving DecidableEq, Repr

/-- A convergence register (R173), with what the signers of the current round left at their signature: the FTZ of each lane, the name
that holds the accumulators, and each lane's program counter, word and whether it signed in a rerun sequence (R358). -/
structure Conv where
  signers : BitVec 64
  signed  : BitVec 64
  word    : BitVec 27
  round   : BitVec 32
  first   : Nat
  fzs     : BitVec 64
  uid     : Nat
  sigs    : List (Nat × BitVec 64 × BitVec 32 × Bool)
deriving DecidableEq, Repr

/-- A strand's arrival at an instance with the inputs it gave (R185): source value, selector or value, predicate,
destination, rounding mode and saturation of its hint, FTZ, the predicate destination of xlm, the name that holds the
destination, where the word stood and the hint it consumed. -/
structure Arrival where
  lane : Nat
  x    : BitVec 32
  y    : BitVec 32
  pr   : Bool
  d    : BitVec 7
  mod_ : BitVec 3
  ftz  : Bool
  pd   : Option (BitVec 3)
  uid  : Nat
  pc   : BitVec 64
  word : BitVec 32
  hint : BitVec 32
  redo : Bool
deriving DecidableEq, Repr

/-- A synchronisation instance not yet complete (R169 to R171). Kinds: 0 cross-lane, 1 to 5 bar at the scope of that
code, 6 phase. -/
structure Inst where
  uid   : Nat
  kind  : Nat
  count : BitVec 16
  mask  : BitVec 64
  word  : BitVec 27
  first : Nat
  br    : Nat
  cyc   : Nat
  arr   : List Arrival
deriving DecidableEq, Repr

/-- The kinds of engine operation (R294). -/
inductive EKind where
  | tld | tst | tcopy | press | pressw | cbld | mma | rsend | rsendAdd | esend | erecv
deriving DecidableEq, Repr

/-- The last write of a barrier setting (key 2 to 5, its scope) or a signer set (key 8 + n) by R159: cycle, braid and the
braid's lowest lane. -/
structure Once where
  key : Nat
  cyc : Nat
  br  : Nat
  lo  : Nat
deriving DecidableEq, Repr

/-- How far an engine operation has come (R296, R298): reading is one that has started and still fetches bytes of other modules that it
reads as it starts. -/
inductive EState where
  | waiting | reading | started | complete | failed
deriving DecidableEq, Repr

/-- What an engine's request to another module brought back of one byte (R298, R388): its virtual address, 0 or the cause it cannot be read
with and DETAIL, and the byte. -/
structure EByte where
  va     : Nat
  cause  : Nat
  detail : BitVec 64
  val    : BitVec 8
deriving DecidableEq, Repr

/-- An engine operation (R294 to R300) with everything it captured at issue (R324): descriptor registers, the tile, tile
number, scale register, macro, SE8 planes read at issue or pass start or the bytes of a conversion or of a send, FTZ, rounding, enable
bits, the fate of each chunk or arrival (0 outstanding, 1 landed, 2 failed, 3 a chunk whose writes are under
way, or an arrival not sent), the destination bytes that cannot be written
(offset, cause, address, detail), and for an mma its signers, its first accumulator, in desc the macro's BFMT and SPARSE, and
in bad each signer's lane, program counter and word. sent is the first failed chunk of a
copy or send, or the cycle a pass started. hint is the hint pending at the issue (R365), at_ the cycle of the issue, tver the write of
the tile that was last then (R307), arow the A bytes the row buffer held at the pass start (R306), got the bytes of other modules it
has fetched and not yet used (R388), and numbered says that the
operation has its sequence number, which a fired send may wait for (R413). -/
structure EOp where
  uid    : Nat
  cls    : EngClass
  kind   : EKind
  lane   : Nat
  after  : Nat
  state  : EState
  desc   : List (BitVec 64)
  tile   : Tile
  tileNo : Nat
  kreg   : Nat
  mac    : Nat
  sa     : List (BitVec 8)
  sb     : List (BitVec 8)
  ftz    : Bool
  mod_   : BitVec 3
  en     : BitVec 5
  flags  : BitVec 5
  chunks : List (BitVec 2)
  signers : BitVec 64
  fzs    : BitVec 64
  vacc   : Nat
  rows   : Nat
  cols   : Nat
  spray  : List (BitVec 16)
  sprayK : Nat
  sent   : Nat
  bad    : List (Nat × Nat × BitVec 64 × BitVec 64)
  cause  : Nat
  addr   : BitVec 64
  detail : BitVec 64
  word   : BitVec 32
  pc     : BitVec 64
  hint   : BitVec 32
  at_    : Nat
  tver   : Nat
  arow   : List (BitVec 8)
  got    : List EByte
  numbered : Bool
deriving DecidableEq, Repr

/-- A trigger entry (R412); armed is false again from the step its send fires (R418). -/
structure Trig where
  armed  : Bool
  count  : BitVec 12
  lane   : Nat
  after  : Nat
  sw     : Nat
  thresh : Nat
  gen    : BitVec 32
  desc   : List (BitVec 64)
  add    : Bool
  pc     : BitVec 64
  word   : BitVec 32
deriving DecidableEq, Repr

/-- A lease range of a node (R215). -/
structure Lease where
  lo : Nat
  hi : Nat
  ro : Bool
deriving DecidableEq, Repr

/-- A node header (R201). -/
structure NodeHdr where
  limit   : Nat
  hint    : Nat
  cord    : Nat
  recSize : Nat
  shared  : Bool
  batt    : Nat
  thresh  : Nat
  timer   : Nat
  queue   : Nat
  carryV  : BitVec 128
  carryS  : BitVec 64
  vregs   : Nat
  kregs   : Nat
  scratch : Nat
  macros  : Nat
  kept    : Bool
  idem    : Bool
  leases  : List Lease
  entry   : BitVec 64
deriving DecidableEq, Repr

/-- The batt a cord was launched on, and what batt and the launch registers tell the cord (R209, R211, R230). -/
structure BattInfo where
  id     : Nat
  n      : Nat
  list   : BitVec 64
  slots  : List Nat
  shared : Bool
deriving DecidableEq, Repr

/-- The methods of pre-emption (R361). -/
inductive Method where
  | drain | flush | save
deriving DecidableEq, Repr

/-- The life of a cord (R176, R177, R214, R362, R363). -/
inductive Life where
  | running | queued | saved | flushed | ended
deriving DecidableEq, Repr

/-- A scale register (R311). -/
structure Scale where
  crown : BitVec 12
  bytes : SMap (BitVec 8)
deriving DecidableEq, Repr

/-- A product macro (R305). pos holds the positions of a sparse one's kept elements, which stand beside its cells (R310): byte 32 n + g
those of vector g of column n. -/
structure Mac where
  state  : BitVec 2
  bfmt   : BitVec 1
  cols   : Nat
  sparse : Bool
  bk     : Nat
  btag0  : BitVec 12
  btag1  : BitVec 12
  cells  : SMap (BitVec 8)
  pos    : SMap (BitVec 8)
deriving DecidableEq, Repr

/-- The structured copy of a save area's engine part (R365): the scratchpad image, scale entries and macro entries. -/
structure Image where
  scratch : SMap (BitVec 8)
  scales  : List Scale
  macros  : List Mac
deriving DecidableEq, Repr

/-- A cord (R152, R153). tileAt names, for each tile, the word that wrote the tile register last (R307); pod is what %pkg reads for the life of
its strands (R144, R382). -/
structure Cord where
  ctx     : Nat
  dev     : Nat
  die     : Nat
  serial  : Nat
  core    : Nat
  entry   : Nat
  lanes   : BitVec 64
  graph   : Nat
  node    : Nat
  hdr     : NodeHdr
  bind    : BindRec
  batt    : BattInfo
  phase   : Nat
  life    : Life
  u       : Vector (BitVec 64) 64
  upend   : List UPend
  uheld   : List Held
  tiles   : Vector Tile 16
  tileAt  : Vector Nat 16
  conv    : Vector Conv 8
  eops    : List EOp
  tagctr  : BitVec 12
  barcfg  : Vector (BitVec 64) 5
  insts   : List Inst
  groups  : List (Nat × Nat × Nat × Nat)
  onces   : List Once
  trig    : Vector Trig 16
  preempt : Option Method
  drainAt : Nat
  p2      : Bool
  debug   : Bool
  image   : Option Image
  area    : Nat
  slice   : Nat
  savedAt : Nat
  pod     : Nat
  strands : SMap Strand
deriving DecidableEq, Repr

/-- An entry of a core's slot table (R213): bound names the bind record with its batt or its queued cord. -/
inductive SlotEntry where
  | free
  | bound (b : BindRec) (batt : Option Nat) (cord : Option Nat)
  | running (cord : Nat)
deriving DecidableEq, Repr

/-- A TLB entry (R241): context, first virtual address, page size, home module and DPA, generation and rights. -/
structure TlbEntry where
  ctx  : Nat
  base : Nat
  size : Nat
  dev  : Nat
  dpa  : Nat
  gen  : BitVec 8
  r    : Bool
  w    : Bool
  x    : Bool
deriving DecidableEq, Repr

/-- A cached instruction span (R66): context, address and its sixteen words. -/
structure Span where
  ctx   : Nat
  base  : Nat
  words : List (BitVec 32)
deriving DecidableEq, Repr

/-- A miss-status entry (R248): region, cycle of allocation and the loads joined. -/
structure Mshr where
  region : Nat
  at_    : Nat
  uids   : List Nat
deriving DecidableEq, Repr

/-- A core (R14, R15). rowBuf is the A row buffer, 4 KiB: the rows the latest pass start staged (R306); asks
lists the instruction spans hint words have asked for, and dasks the data spans (R67), by context and address; early the L1 words that
loads with .l1ef allocated, the first to be replaced (R250). -/
structure Core where
  slots    : Vector SlotEntry 32
  tlb      : List TlbEntry
  icache   : List Span
  l1       : SMap (BitVec 32)
  mshr     : List Mshr
  scratch  : SMap (BitVec 8)
  scales   : Vector Scale 64
  macros   : Vector Mac 8
  codebook : SMap (BitVec 16)
  owner    : Option Nat
  rowBuf   : List (BitVec 8)
  asks     : List (Nat × Nat)
  dasks    : List (Nat × Nat)
  early    : List Nat
deriving DecidableEq, Repr

/-- A packet between an LLC and its base die (R254). -/
structure PPkt where
  tag    : Nat
  read   : Bool
  bytes  : List (Nat × BitVec 8)
  served : Bool
  poison : Bool
deriving DecidableEq, Repr

/-- A port of a base die (R254, R255): packets waiting for a tag, and packets sent, in arrival order. -/
structure Port where
  waiting : List PPkt
  sent    : List PPkt
deriving DecidableEq, Repr

/-- What a die's LLC holds of a 256-byte region whose home the die is (R15, R251): a word mask, the bytes whose write-back is due,
and whether the replacement keeps the span (.llckeep, R251). The bytes themselves stand in the memory of the machine. -/
structure LlcSpan where
  region : Nat
  words  : BitVec 64
  dirty  : List Nat
  keep   : Bool
deriving DecidableEq, Repr

/-- A compute die with its base die (R10, R15, R144, R206, R216, R220, R253, R259, R425). llc lists the spans of the LLC, least
recently used first; turn and left are the context the steward's round-robin serves and the binds it has left; arbAt and arbKey the
cycle and the place in its order of the last event another die's core sent the arbiter (R206). -/
structure Die where
  cyc       : Nat
  clock     : Nat
  clockAt   : Option Nat
  sensors   : Sensors
  corrected : Nat
  refAct    : BitVec 8
  refLong   : BitVec 8
  refEnd    : Vector Nat 8
  serial    : Nat
  ports     : SMap Port
  reports   : List (Nat × Nat)
  llc       : List LlcSpan
  turn      : Nat
  left      : Nat
  arbAt     : Nat
  arbKey    : Nat
  cores     : SMap Core
deriving DecidableEq, Repr

/-- The states of a link (R393, R395). -/
inductive Link where
  | up | retrain | down
deriving DecidableEq, Repr

/-- A station (R390, R392): link state, the time it left the up state, receive slots in use by context, and the packets
in its replay buffer. -/
structure Station where
  link   : Link
  leftAt : Nat
  inUse  : SMap Nat
  replay : List Nat
deriving DecidableEq, Repr

/-- An export-table entry (R387): context, frame, rights (bit 0 read, bit 1 write, bit 2 execute), and the modules that lost
the mapping (R389). -/
structure ExportEntry where
  ctx    : Nat
  frame  : Nat
  rights : BitVec 3
  cut    : List Nat
deriving DecidableEq, Repr

/-- A write window (R252, R430): a DPA range, the contexts that may write, and whether it is open. -/
structure Window where
  id   : Nat
  lo   : Nat
  hi   : Nat
  ctxs : List Nat
  open_ : Bool
deriving DecidableEq, Repr

/-- A module (R10, R17, R421 to R425). joined says that it counts in the pod: one that has only failed its starts does not (R17, R423). ether holds the link state of each die's Ethernet endpoint (R16, R401), retiring the planes that
take no new request until they retire (R391). -/
structure Module where
  dev      : Nat
  joined   : Bool
  started  : Bool
  powered  : Bool
  trained  : Bool
  cleared  : Bool
  image    : Nat
  fails    : Nat
  dies     : Vector Die 4
  stations : Vector Station 16
  ether    : Vector Link 4
  planes   : Vector Nat 16
  retiring : BitVec 16
  exports  : List ExportEntry
  windows  : List Window
  drainLimit : Nat
  linkLimit  : Nat
  e2eLimit   : Nat
deriving DecidableEq, Repr

/-- The states of a record slot (R203). -/
inductive SlotState where
  | free | reserved | committed | batted | held
deriving DecidableEq, Repr

/-- A record slot (R202, R203, R212): the holder is a cord and, where one strand holds it, its lane. -/
structure Slot where
  addr  : Nat
  graph : Nat
  node  : Nat
  dev   : Nat
  die   : Nat
  state : SlotState
  cord  : Nat
  lane  : Option Nat
  depth : Nat
deriving DecidableEq, Repr

/-- The open batt of a node on a die (R207): records in order, the cycle it opened and the cycle it became ready. -/
structure OpenBatt where
  graph : Nat
  node  : Nat
  dev   : Nat
  die   : Nat
  slots : List Nat
  start : Nat
  ready : Option Nat
deriving DecidableEq, Repr

/-- A closed batt (R209). -/
structure Batt where
  id    : Nat
  graph : Nat
  node  : Nat
  dev   : Nat
  die   : Nat
  slots : List Nat
  at_   : Nat
  bound : Bool
deriving DecidableEq, Repr

/-- The queue memory of a graph on a die (R202, R211, R178): the virtual addresses of its slabs, of its batt lists and of
its spill areas, with the pages the steward maps for them (virtual page, first DPA, write right), and the DPA of its record and
save areas, which no page reaches, with their number. -/
structure Alloc where
  die    : Nat
  slab   : Nat
  lists  : Nat
  areas  : Nat
  slices : Nat
  spills : Nat
  pages  : List (Nat × Nat × Bool)
deriving DecidableEq, Repr

/-- A loaded graph (R200, R201, R222). -/
structure Graph where
  id     : Nat
  dev    : Nat
  nodes  : List NodeHdr
  closed : Bool
  allocs : List Alloc
deriving DecidableEq, Repr

/-- A waiter of a knot: the strand, its destination, where its word stands and the hint it consumed, and, once woken, the value or the breakage
it was woken with (R220). -/
structure Waiter where
  cord : Nat
  lane : Nat
  d    : BitVec 7
  pc   : BitVec 64
  word : BitVec 32
  hint : BitVec 32
  woken : Option (Option (BitVec 64))
deriving DecidableEq, Repr

/-- The states of a knot (R218). -/
inductive KnotState where
  | free | pending | resolved | broken
deriving DecidableEq, Repr

/-- A knot entry (R218): owner is a cord's number, its die in bits 31:28 and its serial in bits 27:0, or 0xFFFF_FFFF for the graph
run. -/
structure Knot where
  value   : BitVec 64
  state   : KnotState
  gen     : BitVec 12
  owner   : BitVec 32
  graph   : Nat
  expect  : Nat
  waiters : List Waiter
  wokeAt  : Nat
deriving DecidableEq, Repr

/-- A barrier group (R195): scope code, scope instance, group number, generation, the COUNT its first arriver gave, the
cords arrived at the current generation with the lanes that arrived, and the cords that have ended while configured in it. -/
structure BarGroup where
  scope : Nat
  inst  : Nat
  group : Nat
  gen   : Nat
  count : Nat
  arr   : List (Nat × BitVec 64)
  ended : List Nat
deriving DecidableEq, Repr

/-- A landing (R410): the credits held while its cord is saved are in arrival order. -/
structure Landing where
  dev  : Nat
  tag  : Nat
  buf  : BitVec 64
  len  : Nat
  port : Bool
  cord : Nat
  sw   : Nat
  held : List Nat
deriving DecidableEq, Repr

/-- An event-log record (R257, R357). -/
structure LogRec where
  ctx   : Nat
  node  : Nat
  lane  : Nat
  kind  : Nat
  pc    : BitVec 64
  va    : BitVec 64
  core  : Nat
  die   : Nat
  cause : Nat
deriving DecidableEq, Repr

/-- A peer-table entry (R415): the module and die of an endpoint. -/
structure Peer where
  dev : Nat
  die : Nat
deriving DecidableEq, Repr

/-- A context (R217, R238 to R240, R357, R366, R373, R382, R388, R403, R424, R431). notes is what the stewards log outside the
event log. tables counts, for each module, the tables below the root, and room the frames set aside for them. -/
structure Context where
  num      : Nat
  roots    : List (Nat × Nat × Nat)
  tables   : SMap Nat
  room     : SMap Nat
  pathVa   : BitVec 64
  owned    : List (Nat × Nat × Nat)
  grant    : BitVec 3
  stSlots  : Nat
  waiters  : Nat
  weight   : Nat
  vector   : Option (BitVec 64)
  debug    : Bool
  graphs   : List Graph
  slots    : List Slot
  opens    : List OpenBatt
  batts    : List Batt
  queued   : List Nat
  knots    : SMap Knot
  bars     : List BarGroup
  landings : List Landing
  log      : List LogRec
  unread   : Nat
  lost     : BitVec 32
  notes    : List LogRec
  peers    : SMap Peer
deriving DecidableEq, Repr

/-- A party of the consistency model (R259). -/
structure Party where
  dev    : Nat
  ctx    : Nat
  die    : Nat
  serial : Nat
  lane   : Nat
deriving DecidableEq, Repr

/-- The marks of a token record (R262). -/
inductive Mark where
  | none | unrel | rel | stale
deriving DecidableEq, Repr

/-- A token record (R262), with the name of the word and braid whose ordinary store wrote the byte last (R247). -/
structure Token where
  holder : Option Party
  mark   : Mark
  grp    : Nat
deriving DecidableEq, Repr

/-- The states of a frame (R243). -/
inductive FrameState where
  | free | valid | moving | moved
deriving DecidableEq, Repr

/-- The generation and state of a frame (R243), and whether it has been mapped and not been freed since: a frame that has not is cleared
when it is mapped (R275, R422). -/
structure Frame where
  gen   : BitVec 8
  state : FrameState
  seen  : Bool
deriving DecidableEq, Repr

/-- A frame being moved (R245): context, virtual page, old and new frame, and the steps done. -/
structure Migration where
  ctx  : Nat
  va   : BitVec 64
  old  : Nat
  new_ : Nat
  step : Nat
deriving DecidableEq, Repr

/-- A request to a home (R246, R263, R265): the strand and operation it serves, the bytes with their offsets in the
access, the byte addresses, the generation that formed it, the hint of the access (R251), and the 64-bit words the whole access
covers (R256). -/
structure Req where
  uid    : Nat
  party  : Party
  cord   : Nat
  lane   : Nat
  op     : Nat
  core   : CoreId
  kind   : OpKind
  offs   : List Nat
  addrs  : List Nat
  va     : BitVec 64
  gen    : BitVec 8
  data   : List (BitVec 8)
  atom   : Option AtomSpec
  tries  : Nat
  grp    : Nat
  hint   : BitVec 32
  covers : List Nat
deriving DecidableEq, Repr

/-- What performing a request answers: a failure (cause, offset of the first failing byte, detail), or the bytes read with the L1
words they lie in (R250). -/
structure Reply where
  cause  : Nat
  off    : Nat
  detail : BitVec 64
  bytes  : List (BitVec 8)
  flags  : BitVec 5
  words  : List (Nat × BitVec 32)
deriving DecidableEq, Repr

/-- What a packet carries (R388, R402, R408): a request, an arrival of a send, an Ethernet payload, an engine's request for bytes of one
region (virtual addresses, home bytes, the data of a write, what a read brings), or a core's request for a span of instructions or, with
data, of data (R67, R383). -/
inductive Payload where
  | req (r : Req)
  | arrival (addrs : List Nat) (data : List (BitVec 8)) (va : BitVec 64) (gen : BitVec 8) (tag : Option Nat)
      (etype : Option Nat) (ftz : Bool) (en : BitVec 5)
  | ether (data : List (BitVec 8)) (roff : Nat) (tag : Nat) (entropy : BitVec 16) (peer : Nat)
  | engine (vas as : List Nat) (data : List (BitVec 8)) (write : Bool) (gen : BitVec 8) (got : List EByte)
  | fetch (base : Nat) (as : List Nat) (gen : BitVec 8) (data : Bool)
deriving DecidableEq, Repr

/-- A packet between modules or dies (R391 to R394, R402): source and target, plane, sender's operation, chunk number, payload,
whether it has reached its target, what the target answered (reply bytes, flags or failure), whether it was resent, whether a
switch stomped it, how often it was refused for an old generation, and its end-to-end timer (R393): the wall time since which it
counts, and what it counted before both links were last up. been says that it has reached its target station at some time, whether or not
it still stands there (R396); pc and node are those of the word it serves (R388). -/
structure Packet where
  id      : Nat
  src     : CoreId
  dst     : Nat
  dstDie  : Nat
  plane   : Nat
  ctx     : Nat
  cord    : Nat
  lane    : Nat
  op      : Nat
  chunk   : Nat
  payload : Payload
  reached : Bool
  answer  : Option Reply
  resent  : Bool
  stomped : Bool
  tries   : Nat
  since   : Nat
  spent   : Nat
  been    : Bool
  pc      : BitVec 64
  node    : Nat
deriving DecidableEq, Repr

/-- A perform in the arbiter order of a region (R261): the kind of the access, the party (none for an engine or fabric access, which has
no token), and its bytes in the region. -/
structure Perform where
  kind  : OpKind
  party : Option Party
  bytes : List Nat
deriving DecidableEq, Repr

/-- A holder in the home's directory (R251, R383): the LLC of a die, the words it keeps, and whether its replacement keeps them
(.llckeep). -/
structure Holder where
  region : Nat
  dev    : Nat
  die    : Nat
  words  : BitVec 64
  keep   : Bool
deriving DecidableEq, Repr

/-- A relocatable value of a section (R85, R198): its offset, whether a .dword holds it, and its value: the base of the section it
names plus an addend. -/
structure Reloc where
  at_    : Nat
  wide   : Bool
  sec    : Nat
  addend : BitVec 64
deriving DecidableEq, Repr

/-- A section of a graph image (R85): the 64 KiB page the loader fixes its base at, its bytes, and its relocatable values. -/
structure Section where
  page   : Nat
  bytes  : List (BitVec 8)
  relocs : List Reloc
deriving DecidableEq, Repr

/-- A graph image as GRAPH_LOAD reads it: its node headers, each entry point an offset in the first section, and its sections. The
manual gives no byte layout of an image (log 4). -/
structure GraphImage where
  nodes    : List NodeHdr
  sections : List Section
  /-- the queue memory the steward found on each die of the request (R202) -/
  allocs   : List Alloc
deriving DecidableEq, Repr

/-- A request record (R427). The image and the seed record's bytes stand for what ARG0 and ARG2 address in
application-die memory, which the manual does not describe (log 4). -/
structure ReqRec where
  code   : BitVec 32
  ctx    : BitVec 32
  arg0   : BitVec 64
  arg1   : BitVec 64
  arg2   : BitVec 64
  status : BitVec 32
  result : BitVec 32
  rsvd   : BitVec 192
  image  : Option GraphImage
  bytes  : List (BitVec 8)
deriving DecidableEq, Repr

/-- A request ring (R427): its size, the tail software keeps (the place of the next record), the records the tail has
passed and not completed, and the completed ones. -/
structure Ring where
  id      : RingId
  size    : Nat
  tail    : Nat
  pending : List ReqRec
  done_   : List ReqRec
  out     : List (BitVec 8)
deriving DecidableEq, Repr

/-- What comes from outside: an event; a ring placed in application-die memory with its number of records; or a 64-byte record written at
a ring's tail and its doorbell (R427), with what ARG0 or ARG2 addresses (log 4). -/
inductive Input where
  | event (i : Instr)
  | ring (q : RingId) (size : Nat)
  | doorbell (q : RingId) (rec : BitVec 512) (image : Option GraphImage) (bytes : List (BitVec 8))
deriving DecidableEq, Repr

/-- A knot event on its way to the die that holds the knot (R206), with the cycle and braid of its issue (R224) and the hint its word
consumed. -/
structure KnotEv where
  id   : Nat
  cord : Nat
  lane : Nat
  op   : Nat
  handle : BitVec 32
  val  : BitVec 64
  d    : BitVec 7
  x    : BitVec 3
  pc   : BitVec 64
  word : BitVec 32
  hint : BitVec 32
  at_  : Nat
  br   : Nat
deriving DecidableEq, Repr

/-- A strand selected in the current cycle (R163): its cord, its lane, its braid and the braid's lowest lane. -/
structure Sel where
  cord : Nat
  lane : Nat
  br   : Nat
  lo   : Nat
deriving DecidableEq, Repr

/-- A recall under way (R275): the context and the module, die and serial of the cord whose tokens go. -/
structure Recall where
  ctx    : Nat
  dev    : Nat
  die    : Nat
  serial : Nat
deriving DecidableEq, Repr

/-- The machine. order is the arbiter order of each 256-byte region (R261); loads holds what the loads of one word and braid took at each
byte while one of them is pending (R247). -/
structure State where
  modules   : SMap Module
  pod       : Nat
  contexts  : SMap Context
  cords     : SMap Cord
  mem       : List Host.Cell
  tokens    : SMap Token
  poison    : List Nat
  frames    : SMap Frame
  moves     : List Migration
  arrivals  : List Req
  order     : SMap (List Perform)
  loads     : List (Nat × Nat × BitVec 8)
  directory : List Holder
  recalls   : List Recall
  packets   : List Packet
  knotEvs   : List KnotEv
  rings     : List Ring
  wall      : Nat
  todo      : List Sel
  inputs    : List Input
  choices   : Nat
  uid       : Nat
deriving DecidableEq, Repr

/-- A core at cold start: no entry bound, caches empty, engine state empty (R180, R213, R311, R333; log 6). -/
def Core.reset : Core where
  slots := Vector.replicate 32 .free
  tlb := []
  icache := []
  l1 := []
  mshr := []
  scratch := []
  scales := Vector.replicate 64 ⟨0, []⟩
  macros := Vector.replicate 8 ⟨0, 0, 0, false, 0, 0, 0, [], []⟩
  codebook := []
  owner := none
  rowBuf := []
  asks := []
  dasks := []
  early := []

/-- A compute die at step 7 of a start: %cyc 0 (R422), the first clock step (R425), no refresh window begun (R253). -/
def Die.reset : Die where
  cyc := 0
  clock := 0
  clockAt := none
  sensors := ⟨0, 0, 0⟩
  corrected := 0
  refAct := 0
  refLong := 0
  refEnd := Vector.replicate 8 0
  serial := 0
  ports := []
  reports := []
  llc := []
  turn := 0
  left := 0
  arbAt := 0
  arbKey := 0
  cores := []

/-- A module whose cold start has succeeded (R421), with the settings of R424. Times are in nanoseconds. -/
def Module.reset (dev : Nat) : Module where
  dev := dev
  joined := true
  started := true
  powered := true
  trained := true
  cleared := true
  image := 1
  fails := 0
  dies := Vector.replicate 4 Die.reset
  stations := Vector.replicate 16 ⟨.up, 0, [], []⟩
  ether := Vector.replicate 4 .up
  planes := Vector.ofFn (fun i : Fin 16 => i.val)
  retiring := 0
  exports := []
  windows := []
  drainLimit := 200000
  linkLimit := 1000000
  e2eLimit := 25000

/-- The machine right after the cold start of a pod of one module, with no context created (log 1). -/
def State.reset : State where
  modules := [(0, Module.reset 0)]
  pod := 1
  contexts := []
  cords := []
  mem := []
  tokens := []
  poison := []
  frames := []
  moves := []
  arrivals := []
  order := []
  loads := []
  directory := []
  recalls := []
  packets := []
  knotEvs := []
  rings := []
  wall := 0
  todo := []
  inputs := []
  choices := 0
  uid := 0

end Sys2Proof.Machine
end

