-- ==== Sys2Proof/Machine/Map.lean ====
section
/-!
DEFINITION. Sparse maps, the byte memory in its canonical form, and the helpers of
spec/06_strand_instructions.md R125 on patterns and exact integers.
-/
namespace Sys2Proof.Machine

/-- The entry of a key. -/
def mget {α : Type} : SMap α → Nat → Option α
  | [], _ => none
  | (k', v) :: m, k => if k' = k then some v else mget m k

/-- Set the entry of a key, keeping the keys in rising order. -/
def mset {α : Type} : SMap α → Nat → α → SMap α
  | [], k, v => [(k, v)]
  | (k', v') :: m, k, v =>
    if k' = k then (k, v) :: m else if k < k' then (k, v) :: (k', v') :: m else (k', v') :: mset m k v

/-- Remove the entry of a key. -/
def mdel {α : Type} : SMap α → Nat → SMap α
  | [], _ => []
  | (k', v') :: m, k => if k' = k then mdel m k else (k', v') :: mdel m k

/-- Change the entry of a key where there is one. -/
def mmod {α : Type} : SMap α → Nat → (α → α) → SMap α
  | [], _, _ => []
  | (k', v') :: m, k, f => if k' = k then (k', f v') :: m else (k', v') :: mmod m k f

/-- The keys. -/
def mkeys {α : Type} (m : SMap α) : List Nat := m.map (·.1)

/-- What an address the memory does not list reads as: 0, since every frame and the weight store are cleared before use
(R421, R422; log 5). -/
def unlisted : BitVec 8 := 0

/-- The byte at an address. -/
def readCell : List Host.Cell → Nat → BitVec 8
  | [], _ => unlisted
  | (k, b) :: m, a => if k = a then b else readCell m a

/-- Write one byte, keeping the canonical form: addresses rising, no entry equal to what an unlisted address reads as. -/
def writeCell : List Host.Cell → Nat → BitVec 8 → List Host.Cell
  | [], a, b => if b = unlisted then [] else [(a, b)]
  | (k, c) :: m, a, b =>
    if k = a then (if b = unlisted then m else (a, b) :: m)
    else if a < k then (if b = unlisted then (k, c) :: m else (a, b) :: (k, c) :: m)
    else (k, c) :: writeCell m a b

/-- The cells lie strictly above an address, rise strictly, and none equals what an unlisted address reads as. -/
def cellsAbove : Option Nat → List Host.Cell → Bool
  | _, [] => true
  | lo, (k, b) :: m => (match lo with | none => true | some l => decide (l < k)) && b != unlisted && cellsAbove (some k) m

/-- The canonical form of a byte memory. -/
abbrev Memory.wf (m : List Host.Cell) : Prop := cellsAbove none m = true

/-- Write a list of bytes at their addresses, in order. -/
def writeCells (m : List Host.Cell) (as : List Nat) (bs : List (BitVec 8)) : List Host.Cell :=
  (as.zip bs).foldl (fun m p => writeCell m p.1 p.2) m

/-- The sparse bytes of a scratchpad, scale register or macro: an absent byte reads 0. -/
def byteAt (m : SMap (BitVec 8)) (a : Nat) : BitVec 8 := (mget m a).getD 0

/-- Write bytes upward from an offset. -/
def putBytes (m : SMap (BitVec 8)) (a : Nat) : List (BitVec 8) → SMap (BitVec 8)
  | [] => m
  | b :: bs => putBytes (mset m a b) (a + 1) bs

/-- Read n bytes upward from an offset. -/
def getBytes (m : SMap (BitVec 8)) (a n : Nat) : List (BitVec 8) := (List.range n).map (fun i => byteAt m (a + i))

/-- The number little-endian bytes hold (R2). -/
def leNat : List (BitVec 8) → Nat
  | [] => 0
  | b :: bs => b.toNat + 256 * leNat bs

/-- The n little-endian bytes of a number (R2). -/
def leBytes : Nat → Nat → List (BitVec 8)
  | 0, _ => []
  | n + 1, x => BitVec.ofNat 8 x :: leBytes n (x / 256)

/-- sat(v, lo, hi) of R41. -/
def sat (v lo hi : Int) : Int := if v < lo then lo else if hi < v then hi else v

/-- int_res of R125: wrap, or clamp to the signed range when a hint mod with sat = 1 stands before the word (R122). -/
def intRes (w : Nat) (sg : Bool) (y : Int) : BitVec w :=
  BitVec.ofInt w (if sg then sat y (-(2 ^ (w - 1))) (2 ^ (w - 1) - 1) else y)

/-- a is older than b in a counter of width w (R7). -/
def older {w : Nat} (a b : BitVec w) : Bool :=
  let d := (b - a).toNat
  1 ≤ d && d < 2 ^ (w - 1)

/-- The lane set of a 64-bit mask. -/
def laneIn (m : BitVec 64) (l : Nat) : Bool := m.getLsbD l

/-- The mask with one lane. -/
def laneBit (l : Nat) : BitVec 64 := BitVec.ofNat 64 (2 ^ l)

/-- The number of set bits below bit n. -/
def popBelow (m : BitVec 64) : Nat → Nat
  | 0 => 0
  | n + 1 => (if m.getLsbD n then 1 else 0) + popBelow m n

/-- The number of set bits. -/
def popCount {w : Nat} (x : BitVec w) : Nat := ((List.range w).filter (x.getLsbD ·)).length

/-- The i-th set bit of an 8-bit value, counted from bit 0 (R305). -/
def nthSet (x : BitVec 8) (i : Nat) : Option Nat := ((List.range 8).filter (x.getLsbD ·))[i]?

end Sys2Proof.Machine
end

