-- ==== Sys2Proof/Machine/Float.lean ====
section
/-!
DEFINITION. The floating-point formats and the exact arithmetic of spec/02_number_formats.md: values as exact dyadic
numbers, one rounding, the flags of R32.
-/
namespace Sys2Proof.Machine

/-- A floating-point format (R20): fraction bits, bias, exponent width, whether it has infinities, whether it has NaN
codes, the canonical NaN, and the largest finite code without its sign. -/
structure Fmt where
  width : Nat
  frac  : Nat
  expw  : Nat
  bias  : Nat
  inf   : Bool
  nan   : Bool
  canon : Nat
  top   : Nat
deriving DecidableEq, Repr

def fp32 : Fmt := ⟨32, 23, 8, 127, true, true, 0x7FC00000, 0x7F7FFFFF⟩
def fp16 : Fmt := ⟨16, 10, 5, 15, true, true, 0x7E00, 0x7BFF⟩
def bf16 : Fmt := ⟨16, 7, 8, 127, true, true, 0x7FC0, 0x7F7F⟩
def e4m3 : Fmt := ⟨8, 3, 4, 7, false, true, 0x7F, 0x7E⟩
def e5m2 : Fmt := ⟨8, 2, 5, 15, true, true, 0x7E, 0x7B⟩
def e2m1 : Fmt := ⟨4, 1, 2, 1, false, false, 0, 0x7⟩

/-- The value of a code: a NaN (signalling or not), an infinity, or (-1)^neg times m times 2^e. -/
inductive FVal where
  | nan (signalling : Bool)
  | inf (neg : Bool)
  | fin (neg : Bool) (m : Nat) (e : Int)
deriving DecidableEq, Repr

/-- The value of a code (R19 to R21). -/
def fval (f : Fmt) (x : Nat) : FVal :=
  let fr := x % 2 ^ f.frac
  let ex := (x / 2 ^ f.frac) % 2 ^ f.expw
  let neg := (x / 2 ^ (f.width - 1)) % 2 == 1
  if f.inf && ex == 2 ^ f.expw - 1 then
    (if fr == 0 then .inf neg else .nan (fr < 2 ^ (f.frac - 1)))
  else if f.nan && !f.inf && x % 2 ^ (f.width - 1) == f.canon then .nan false
  else if ex == 0 then .fin neg fr (1 - (f.bias : Int) - f.frac)
  else .fin neg (2 ^ f.frac + fr) ((ex : Int) - f.bias - f.frac)

/-- The code of an infinity; the largest finite code where the format has none. -/
def infCode (f : Fmt) : Nat := if f.inf then (2 ^ f.expw - 1) * 2 ^ f.frac else f.top

/-- A code with its sign bit. -/
def withSign (f : Fmt) (neg : Bool) (x : Nat) : Nat := if neg then x + 2 ^ (f.width - 1) else x

/-- The flags of %fpf (R32). -/
abbrev Flags := BitVec 5
def NV : Flags := 1
def DZ : Flags := 2
def OF : Flags := 4
def UF : Flags := 8
def NX : Flags := 16

/-- The rounding modes of R30, as hint mod encodes them (R120): nearest even, toward zero, down, up. -/
abbrev Rnd := BitVec 2

/-- Whether a magnitude q.rem moves up: rem compared with half of one unit (2 above, 1 equal, 0 below), whether
anything is lost, and the oddness of q. -/
def roundUp (mode : Rnd) (neg odd lost : Bool) (half : Nat) : Bool :=
  if mode == 0#2 then half == 2 || (half == 1 && odd)
  else if mode == 1#2 then false
  else if mode == 2#2 then neg && lost
  else !neg && lost

/-- Round the magnitude m 2^e (strictly above it, by less than 2^e, when sticky) to a multiple of 2^lsb: the multiple and
whether anything was lost (R31). -/
def roundAt (mode : Rnd) (neg : Bool) (m : Nat) (e lsb : Int) (sticky : Bool) : Nat × Bool :=
  if lsb ≤ e then (m * 2 ^ (e - lsb).toNat, sticky)
  else
    let sh := (lsb - e).toNat
    let q := m / 2 ^ sh
    let r := m % 2 ^ sh
    let h := 2 ^ (sh - 1)
    let lost := r != 0 || sticky
    let half := if r > h || (r == h && sticky) then 2 else if r == h then 1 else 0
    (if roundUp mode neg (q % 2 == 1) lost half then q + 1 else q, lost)

/-- The code of the magnitude q 2^lsb, which the format represents. -/
def packMag (f : Fmt) (q : Nat) (lsb : Int) : Nat :=
  if q == 0 then 0 else
  let l := Nat.log2 q
  let ex : Int := l + lsb
  let emin : Int := 1 - f.bias
  if emin ≤ ex then
    let man := if l ≤ f.frac then q * 2 ^ (f.frac - l) else q / 2 ^ (l - f.frac)
    (ex + f.bias).toNat * 2 ^ f.frac + (man - 2 ^ f.frac)
  else q * 2 ^ (lsb - (emin - f.frac)).toNat

/-- q 2^lsb exceeds the largest finite magnitude of the format. -/
def overTop (f : Fmt) (q : Nat) (lsb : Int) : Bool :=
  if q == 0 then false else
  let l := Nat.log2 q
  let ex : Int := l + lsb
  let temax : Int := (f.top / 2 ^ f.frac : Nat) - (f.bias : Int)
  let tman := 2 ^ f.frac + f.top % 2 ^ f.frac
  temax < ex || (ex == temax && decide (tman * 2 ^ l < q * 2 ^ f.frac))

/-- The exact finite result of an operation, ready to round. -/
structure Exact where
  neg    : Bool
  m      : Nat
  e      : Int
  sticky : Bool
deriving DecidableEq, Repr

/-- The unit in the last place an exact result is rounded to (R31): the format's precision, or its subnormal grid. -/
def unitOf (f : Fmt) (x : Exact) (bounded : Bool) : Int :=
  let ex : Int := (Nat.log2 x.m : Nat) + x.e - f.frac
  if bounded then max ex (1 - (f.bias : Int) - f.frac) else ex

/-- Tiny (R35): rounded with unbounded exponent range, non-zero and below the smallest normal. -/
def tiny (f : Fmt) (mode : Rnd) (x : Exact) : Bool :=
  if x.m == 0 then x.sticky else
  let lsb := unitOf f x false
  let q := (roundAt mode x.neg x.m x.e lsb x.sticky).1
  decide (((Nat.log2 q : Nat) : Int) + lsb < 1 - (f.bias : Int))

/-- Round an exact non-zero result by R31, R35 and R36: overflow becomes infinity or the largest finite value by the
mode, or the largest finite value when saturating (R122); ftz flushes a subnormal result, in FP32 only. -/
def roundArith (f : Fmt) (mode : Rnd) (sg ftz : Bool) (x : Exact) : Nat × Flags :=
  if x.m == 0 && !x.sticky then (withSign f x.neg 0, 0) else
  let lsb := if x.m == 0 then 1 - (f.bias : Int) - f.frac else unitOf f x true
  let (q, lost) := roundAt mode x.neg x.m x.e lsb x.sticky
  if overTop f q lsb then
    let toInf := !sg && (mode == 0#2 || (mode == 2#2 && x.neg) || (mode == 3#2 && !x.neg))
    (withSign f x.neg (if toInf then infCode f else f.top), OF ||| NX)
  else
    let c := packMag f q lsb
    if ftz && f == fp32 && c != 0 && c < 2 ^ f.frac then (withSign f x.neg 0, UF ||| NX)
    else (withSign f x.neg c, (if lost then NX else 0) ||| (if lost && tiny f mode x then UF else 0))

/-- An FP32 operand under FTZ (R35): a subnormal reads as a zero of its sign. -/
def flushIn (f : Fmt) (ftz : Bool) (x : Nat) : Nat :=
  if ftz && f == fp32 && x % 2 ^ 31 < 2 ^ 23 then x - x % 2 ^ 31 else x

/-- The sum of two exact signed dyadic numbers. -/
def addExact (n1 : Bool) (m1 : Nat) (e1 : Int) (n2 : Bool) (m2 : Nat) (e2 : Int) : Exact :=
  let e := min e1 e2
  let a : Int := (if n1 then -1 else 1) * (m1 * 2 ^ (e1 - e).toNat : Nat)
  let b : Int := (if n2 then -1 else 1) * (m2 * 2 ^ (e2 - e).toNat : Nat)
  ⟨decide (a + b < 0), (a + b).natAbs, e, false⟩

/-- How an arithmetic operation rounds: format, mode, saturation, FTZ. -/
structure RMode where
  fmt  : Fmt
  mode : Rnd
  sat  : Bool
  ftz  : Bool
deriving DecidableEq, Repr

/-- The canonical NaN with the flag of a signalling operand (R21, R36). -/
def nanOut (r : RMode) (snan : Bool) : Nat × Flags := (r.fmt.canon, if snan then NV else 0)

/-- The operand x of r, flushed, as a value. -/
def operand (r : RMode) (x : Nat) : FVal := fval r.fmt (flushIn r.fmt r.ftz x)

/-- A signalling NaN. -/
def FVal_isSig : FVal → Bool
  | .nan s => s
  | _ => false

/-- A NaN. -/
def FVal_isNan : FVal → Bool
  | .nan _ => true
  | _ => false

/-- Round a sum; an exact zero sum of opposite signs is +0, or -0 under rounding down (R137). -/
def roundSum (r : RMode) (n1 : Bool) (m1 : Nat) (e1 : Int) (n2 : Bool) (m2 : Nat) (e2 : Int) : Nat × Flags :=
  let x := addExact n1 m1 e1 n2 m2 e2
  if x.m == 0 then (withSign r.fmt (if n1 == n2 then n1 else r.mode == 2#2) 0, 0)
  else roundArith r.fmt r.mode r.sat r.ftz x

/-- a + b on values (R36, R137). -/
def addVal (r : RMode) (a b : FVal) : Nat × Flags :=
  match a, b with
  | .nan s, y => nanOut r (s || FVal_isSig y)
  | x, .nan s => nanOut r (s || FVal_isSig x)
  | .inf n1, .inf n2 => if n1 == n2 then (withSign r.fmt n1 (infCode r.fmt), 0) else (r.fmt.canon, NV)
  | .inf n, .fin _ _ _ => (withSign r.fmt n (infCode r.fmt), 0)
  | .fin _ _ _, .inf n => (withSign r.fmt n (infCode r.fmt), 0)
  | .fin n1 m1 e1, .fin n2 m2 e2 => roundSum r n1 m1 e1 n2 m2 e2

/-- A value with its sign changed. -/
def negVal : FVal → FVal
  | .nan s => .nan s
  | .inf n => .inf (!n)
  | .fin n m e => .fin (!n) m e

def fAdd (r : RMode) (a b : Nat) : Nat × Flags := addVal r (operand r a) (operand r b)
def fSub (r : RMode) (a b : Nat) : Nat × Flags := addVal r (operand r a) (negVal (operand r b))

/-- a times b (R36). -/
def fMul (r : RMode) (a b : Nat) : Nat × Flags :=
  match operand r a, operand r b with
  | .nan s, y => nanOut r (s || FVal_isSig y)
  | x, .nan s => nanOut r (s || FVal_isSig x)
  | .inf n1, .inf n2 => (withSign r.fmt (n1 != n2) (infCode r.fmt), 0)
  | .inf n1, .fin n2 m _ => if m == 0 then (r.fmt.canon, NV) else (withSign r.fmt (n1 != n2) (infCode r.fmt), 0)
  | .fin n1 m _, .inf n2 => if m == 0 then (r.fmt.canon, NV) else (withSign r.fmt (n1 != n2) (infCode r.fmt), 0)
  | .fin n1 m1 e1, .fin n2 m2 e2 => roundArith r.fmt r.mode r.sat r.ftz ⟨n1 != n2, m1 * m2, e1 + e2, false⟩

/-- a times b plus c with one rounding (R36, R42): a zero times an infinity is invalid even beside a quiet NaN addend. -/
def fFma (r : RMode) (a b c : Nat) : Nat × Flags :=
  let va := operand r a
  let vb := operand r b
  let vc := operand r c
  let sn := FVal_isSig va || FVal_isSig vb || FVal_isSig vc
  match va, vb with
  | .nan _, _ => nanOut r sn
  | _, .nan _ => nanOut r sn
  | .inf n1, .inf n2 => addVal r (.inf (n1 != n2)) vc
  | .inf n1, .fin n2 m _ => if m == 0 then (r.fmt.canon, NV) else addVal r (.inf (n1 != n2)) vc
  | .fin n1 m _, .inf n2 => if m == 0 then (r.fmt.canon, NV) else addVal r (.inf (n1 != n2)) vc
  | .fin n1 m1 e1, .fin n2 m2 e2 => addVal r (.fin (n1 != n2) (m1 * m2) (e1 + e2)) vc

/-- The quotient of two non-zero magnitudes to more bits than any format keeps, with a sticky remainder. -/
def divExact (neg : Bool) (m1 : Nat) (e1 : Int) (m2 : Nat) (e2 : Int) : Exact :=
  let k := 40 + Nat.log2 m2
  let n := m1 * 2 ^ k
  ⟨neg, n / m2, e1 - e2 - k, n % m2 != 0⟩

/-- a divided by b (R36, R137). -/
def fDiv (r : RMode) (a b : Nat) : Nat × Flags :=
  match operand r a, operand r b with
  | .nan s, y => nanOut r (s || FVal_isSig y)
  | x, .nan s => nanOut r (s || FVal_isSig x)
  | .inf _, .inf _ => (r.fmt.canon, NV)
  | .inf n1, .fin n2 _ _ => (withSign r.fmt (n1 != n2) (infCode r.fmt), 0)
  | .fin n1 _ _, .inf n2 => (withSign r.fmt (n1 != n2) 0, 0)
  | .fin n1 m1 e1, .fin n2 m2 e2 =>
    if m2 == 0 then
      (if m1 == 0 then (r.fmt.canon, NV) else (withSign r.fmt (n1 != n2) (infCode r.fmt), DZ))
    else if m1 == 0 then (withSign r.fmt (n1 != n2) 0, 0)
    else roundArith r.fmt r.mode r.sat r.ftz (divExact (n1 != n2) m1 e1 m2 e2)

/-- The integer square root below 2^bits, one binary digit at a time. -/
def isqrt : Nat → Nat → Nat → Nat
  | 0, _, r => r
  | k + 1, n, r => isqrt k n (if (r + 2 ^ k) * (r + 2 ^ k) ≤ n then r + 2 ^ k else r)

/-- The reciprocal (R138). -/
def fRcp (r : RMode) (a : Nat) : Nat × Flags :=
  match operand r a with
  | .nan s => nanOut r s
  | .inf n => (withSign r.fmt n 0, 0)
  | .fin n m e =>
    if m == 0 then (withSign r.fmt n (infCode r.fmt), DZ)
    else roundArith r.fmt r.mode r.sat r.ftz (divExact n 1 0 m e)

/-- The square root (R138): of m 2^e with e made even and m scaled by 2^64. -/
def fSqrt (r : RMode) (a : Nat) : Nat × Flags :=
  match operand r a with
  | .nan s => nanOut r s
  | .inf n => if n then (r.fmt.canon, NV) else (infCode r.fmt, 0)
  | .fin n m e =>
    if m == 0 then (withSign r.fmt n 0, 0)
    else if n then (r.fmt.canon, NV)
    else
      let (m, e) := if e % 2 == 0 then (m, e) else (m * 2, e - 1)
      let n2 := m * 2 ^ 64
      let s := isqrt 48 n2 0
      roundArith r.fmt r.mode r.sat r.ftz ⟨false, s, e / 2 - 32, s * s != n2⟩

/-- The reciprocal square root (R138): the integer square root of 2^160 over m. -/
def fRsq (r : RMode) (a : Nat) : Nat × Flags :=
  match operand r a with
  | .nan s => nanOut r s
  | .inf n => if n then (r.fmt.canon, NV) else (0, 0)
  | .fin n m e =>
    if m == 0 then (withSign r.fmt n (infCode r.fmt), DZ)
    else if n then (r.fmt.canon, NV)
    else
      let (m, e) := if e % 2 == 0 then (m, e) else (m * 2, e - 1)
      let s := isqrt 82 (2 ^ 160 / m) 0
      roundArith r.fmt r.mode r.sat r.ftz ⟨false, s, -(e / 2) - 80, s * s * m != 2 ^ 160⟩

/-- The fixed point of the series below: numbers are multiples of 2^-256 (log 9). -/
def seriesBits : Nat := 256

/-- 2 (z + z^3/3 + z^5/5 + ...): twice the inverse hyperbolic tangent of the fixed-point z; t is z^(2k+1). -/
def atanh2 : Nat → Nat → Nat → Nat → Nat → Nat
  | 0, _, _, _, acc => 2 * acc
  | n + 1, z2, t, k, acc => atanh2 n z2 (t * z2 / 2 ^ seriesBits) (k + 2) (acc + t / k)

/-- The natural logarithm of t / 2^seriesBits for t from 2^seriesBits to twice that. -/
def lnFix (t : Nat) : Nat :=
  let one := 2 ^ seriesBits
  let z := (t - one) * one / (t + one)
  atanh2 100 (z * z / one) z 1 0

/-- ln 2. -/
def ln2Fix : Nat := lnFix (2 * 2 ^ seriesBits)

/-- exp of the fixed-point y below 1: t is y^k / k!. -/
def expFix : Nat → Nat → Nat → Nat → Nat → Nat
  | 0, _, _, _, acc => acc
  | n + 1, y, t, k, acc => expFix n y (t * y / 2 ^ seriesBits / k) (k + 1) (acc + t)

/-- 2^x for x = (-1)^n m 2^e, as an exact result with a sticky tail (R138; log 9): beyond 200 the result overflows or
vanishes whatever its digits. -/
def exp2Exact (n : Bool) (m : Nat) (e : Int) : Exact :=
  if decide (8 ≤ ((Nat.log2 m : Nat) : Int) + e) then
    (if n then ⟨false, 2 ^ 40, -400, true⟩ else ⟨false, 2 ^ 40, 400, true⟩)
  else
    let scaled : Int := if 0 ≤ e then ((m * 2 ^ e.toNat : Nat) : Int) * 2 ^ 160
      else ((m * 2 ^ 160 / 2 ^ (-e).toNat : Nat) : Int)
    let x : Int := if n then -scaled else scaled
    let ip := x / 2 ^ 160
    let fp := (x % 2 ^ 160).toNat
    if fp == 0 then ⟨false, 1, ip, false⟩
    else
      let y := fp * ln2Fix / 2 ^ 160
      ⟨false, expFix 80 y (2 ^ seriesBits) 1 0 / 2 ^ 64, ip - 192, true⟩

/-- 2^x (R138). -/
def fExp2 (r : RMode) (a : Nat) : Nat × Flags :=
  match operand r a with
  | .nan s => nanOut r s
  | .inf n => if n then (0, 0) else (infCode r.fmt, 0)
  | .fin n m e => if m == 0 then (packMag r.fmt 1 0, 0) else roundArith r.fmt r.mode r.sat r.ftz (exp2Exact n m e)

/-- log2 of m 2^e, m > 0, as an exact result with a sticky tail (R138; log 9). -/
def log2Exact (m : Nat) (e : Int) : Exact :=
  let l := Nat.log2 m
  let ip : Int := l + e
  if m == 2 ^ l then ⟨decide (ip < 0), ip.natAbs, 0, false⟩
  else
    let t := m * 2 ^ seriesBits / 2 ^ l
    let v : Int := ip * 2 ^ seriesBits + ((lnFix t * 2 ^ seriesBits / ln2Fix : Nat) : Int)
    ⟨decide (v < 0), v.natAbs / 2 ^ 64, -192, true⟩

/-- log2 (R138). -/
def fLog2 (r : RMode) (a : Nat) : Nat × Flags :=
  match operand r a with
  | .nan s => nanOut r s
  | .inf n => if n then (r.fmt.canon, NV) else (infCode r.fmt, 0)
  | .fin n m e =>
    if m == 0 then (withSign r.fmt true (infCode r.fmt), DZ)
    else if n then (r.fmt.canon, NV)
    else roundArith r.fmt r.mode r.sat r.ftz (log2Exact m e)

/-- a < b for finite or infinite values, with -0 equal to +0. -/
def ltVal (a b : FVal) : Bool :=
  match a, b with
  | .inf n1, .inf n2 => n1 && !n2
  | .inf n1, .fin _ _ _ => n1
  | .fin _ _ _, .inf n2 => !n2
  | .fin n1 m1 e1, .fin n2 m2 e2 =>
    let e := min e1 e2
    let x : Int := (if n1 then -1 else 1) * (m1 * 2 ^ (e1 - e).toNat : Nat)
    let y : Int := (if n2 then -1 else 1) * (m2 * 2 ^ (e2 - e).toNat : Nat)
    decide (x < y)
  | _, _ => false

/-- The sign of a value. -/
def signVal : FVal → Bool
  | .inf n => n
  | .fin n _ _ => n
  | .nan _ => false

/-- fmin or fmax (R44): -0 below +0; the operand that is no NaN when exactly one is. A signalling one raises NV by R36, and the other operand
is still the result, as R44 says of any NaN, where R36 would have the canonical NaN (DEDUCED, log 87). -/
def fMinMax (r : RMode) (wantMax : Bool) (a b : Nat) : Nat × Flags :=
  let a := flushIn r.fmt r.ftz a
  let b := flushIn r.fmt r.ftz b
  let va := fval r.fmt a
  let vb := fval r.fmt b
  let fl : Flags := if FVal_isSig va || FVal_isSig vb then NV else 0
  if FVal_isNan va && FVal_isNan vb then (r.fmt.canon, fl)
  else if FVal_isNan va then (b, fl)
  else if FVal_isNan vb then (a, fl)
  else
    let aLess := ltVal va vb || (!ltVal vb va && signVal va && !signVal vb)
    (if aLess != wantMax then a else b, fl)

/-- An FP32 comparison (R106, R134): the condition code's low three bits. -/
def fCmp (ftz : Bool) (c : BitVec 3) (a b : Nat) : Bool × Flags :=
  let va := fval fp32 (flushIn fp32 ftz a)
  let vb := fval fp32 (flushIn fp32 ftz b)
  let un := FVal_isNan va || FVal_isNan vb
  let sn := FVal_isSig va || FVal_isSig vb
  let quiet : Flags := if sn then NV else 0
  let loud : Flags := if un then NV else 0
  let lt := ltVal va vb
  let gt := ltVal vb va
  if c == 0#3 then (!un && !lt && !gt, quiet)
  else if c == 1#3 then (un || lt || gt, quiet)
  else if c == 2#3 then (!un && lt, loud)
  else if c == 3#3 then (!un && !gt, loud)
  else if c == 4#3 then (!un && gt, loud)
  else if c == 5#3 then (!un && !lt, loud)
  else if c == 6#3 then (un, quiet)
  else (!un, quiet)

/-- fclass (R139): the number of the one bit set, from the raw code. -/
def fClassBit (x : Nat) : Nat :=
  match fval fp32 x with
  | .nan s => if s then 8 else 9
  | .inf n => if n then 0 else 7
  | .fin n m _ =>
    if m == 0 then (if n then 3 else 4)
    else if m < 2 ^ 23 then (if n then 2 else 5)
    else (if n then 1 else 6)

/-- A narrowing conversion of a finite or infinite value (R38): overflow and infinities give the largest finite value. -/
def narrow (f : Fmt) (mode : Rnd) (ftz : Bool) (v : FVal) : Nat × Flags :=
  match v with
  | .nan s => if f.nan then (f.canon, if s then NV else 0) else (0, NV)
  | .inf n => (withSign f n f.top, OF ||| NX)
  | .fin n m e => if m == 0 then (withSign f n 0, 0) else roundArith f mode true ftz ⟨n, m, e, false⟩

/-- A widening conversion (R37): exact; an infinity stays one; a signalling NaN raises NV. -/
def widen (f : Fmt) (ftz : Bool) (v : FVal) : Nat × Flags :=
  match v with
  | .nan s => (f.canon, if s then NV else 0)
  | .inf n => (withSign f n (infCode f), 0)
  | .fin n m e => if m == 0 then (withSign f n 0, 0) else roundArith f 0 true ftz ⟨n, m, e, false⟩

/-- Whether a conversion from one floating format to another is widening (R37). -/
def isWiden (s d : Fmt) : Bool :=
  ((s == fp16 || s == bf16) && d == fp32) || ((s == e4m3 || s == e5m2 || s == e2m1) && (d == fp32 || d == fp16 || d == bf16))

/-- Round a value to an integer, as floor and the flag that something was lost. -/
def roundInt (mode : Rnd) (n : Bool) (m : Nat) (e : Int) : Int × Bool :=
  let (q, lost) := roundAt mode n m e 0 false
  (if n then -(q : Int) else q, lost)

/-- A conversion to an integer range (R40). -/
def toInt (mode : Rnd) (lo hi : Int) (v : FVal) : Int × Flags :=
  match v with
  | .nan _ => (0, NV)
  | .inf n => (if n then lo else hi, NV)
  | .fin n m e =>
    let (y, lost) := roundInt mode n m e
    if y < lo then (lo, NV) else if hi < y then (hi, NV) else (y, if lost then NX else 0)

/-- A conversion from an integer to a floating format (R37, R40). -/
def fromInt (f : Fmt) (mode : Rnd) (ftz : Bool) (x : Int) : Nat × Flags :=
  narrow f mode ftz (.fin (decide (x < 0)) x.natAbs 0)

/-- The largest finite value of a format. -/
def topVal (f : Fmt) (n : Bool) : FVal := fval f (withSign f n f.top)

/-- floor(log2 |v|) of a finite non-zero value. -/
def floorLog2 (m : Nat) (e : Int) : Int := (Nat.log2 m : Nat) + e

/-- a ≤ b for magnitudes m 2^e. -/
def magLe (m1 : Nat) (e1 : Int) (m2 : Nat) (e2 : Int) : Bool :=
  let e := min e1 e2
  m1 * 2 ^ (e1 - e).toNat ≤ m2 * 2 ^ (e2 - e).toNat

/-- The source values of a block conversion after FTZ and the replacement of infinities (R41 steps 1 and 3). -/
def blockVals (f : Fmt) (ftz : Bool) (xs : List Nat) : List (Bool × Nat × Int) :=
  xs.map (fun x => match fval f (flushIn f ftz x) with
    | .fin n m e => (n, m, e)
    | .inf n => (match topVal f n with | .fin n' m e => (n', m, e) | _ => (n, 0, 0))
    | .nan _ => (false, 0, 0))

/-- The largest magnitude of a list of values. -/
def maxMag (vs : List (Bool × Nat × Int)) : Nat × Int :=
  vs.foldl (fun a v => if magLe v.2.1 v.2.2 a.1 a.2 then a else v.2) (0, 0)

/-- One element of a block (R41 steps 5 and 6): its integer and the flags it raises. -/
def blockElem (q : Nat) (mode : Rnd) (e : Int) (v : Bool × Nat × Int) : Int × Flags :=
  let (y, lost) := roundInt mode v.1 v.2.1 (v.2.2 - (e - 127))
  let z := sat y (-(2 ^ (q - 1) - 1)) (2 ^ (q - 1) - 1)
  (z, (if lost || z != y then NX else 0) ||| (if v.2.1 != 0 && z == 0 then UF else 0))

/-- The conversion of a block of 32 source codes into q-bit block integers (R41): scale, elements and flags. -/
def toBlock (f : Fmt) (q : Nat) (mode : Rnd) (ftz : Bool) (xs : List Nat) : Nat × List Int × Flags :=
  let vals := xs.map (fun x => fval f (flushIn f ftz x))
  if vals.any FVal_isNan then (0xFF, xs.map (fun _ => 0), if vals.any FVal_isSig then NV else 0)
  else
    let infFl : Flags := if vals.any (fun v => match v with | .inf _ => true | _ => false) then OF ||| NX else 0
    let vs := blockVals f ftz xs
    let mm := maxMag vs
    if mm.1 == 0 then (0, xs.map (fun _ => 0), infFl)
    else
      let e := sat (floorLog2 mm.1 mm.2 + 127 - (q - 2 : Int)) 0 254
      let rs := vs.map (blockElem q mode e)
      (e.toNat, rs.map (·.1), rs.foldl (fun fl r => fl ||| r.2) infFl)

/-- scale_fp32 of R46. -/
def scaleFp32 (ftz : Bool) (p : Int) (x : Int) : Nat × Flags :=
  if p == 0 then (0, 0)
  else if overTop fp32 p.natAbs x then (withSign fp32 (decide (p < 0)) fp32.top, OF ||| NX)
  else roundArith fp32 0 true ftz ⟨decide (p < 0), p.natAbs, x, false⟩

/-- The exact dot product of one block. -/
def dot (a b : List Int) : Int := ((a.zip b).map (fun p => p.1 * p.2)).sum

/-- The block values of R46: the scaled dot product, or the canonical NaN for a NaN scale. -/
def blockValue (ftz : Bool) (a b : List Int) (ea eb : Nat) : Nat × Flags :=
  if ea == 0xFF || eb == 0xFF then (fp32.canon, 0) else scaleFp32 ftz (dot a b) ((ea : Int) + eb - 254)

/-- Add a list of values in order, rounding after each, with the union of the flags. -/
def addChain (r : RMode) : Nat × Flags → List (Nat × Flags) → Nat × Flags
  | acc, [] => acc
  | acc, x :: xs => let y := fAdd r acc.1 x.1; addChain r (y.1, acc.2 ||| x.2 ||| y.2) xs

/-- Cut a list into n pieces of k. -/
def pieces {α : Type} (k : Nat) : Nat → List α → List (List α)
  | 0, _ => []
  | n + 1, xs => xs.take k :: pieces k n (xs.drop k)

/-- mma_element of R46, with the flags of R47. -/
def mmaElement (ftz : Bool) (acc : Nat) (a b : List Int) (ea eb : List Nat) : Nat × Flags :=
  let r : RMode := ⟨fp32, 0, false, ftz⟩
  let blks := ((pieces 32 8 a).zip (pieces 32 8 b)).zip (ea.zip eb) |>.map (fun q => blockValue ftz q.1.1 q.1.2 q.2.1 q.2.2)
  match blks with
  | [] => (acc, 0)
  | b0 :: bs =>
    let s := addChain r b0 bs
    let y := fAdd r acc s.1
    (y.1, s.2 ||| y.2)

/-- tree_reduce of R43 over 64 lanes: one level joins lane pairs at distance w. A lane without a value is none. -/
def treeLevel {α : Type} (op : α → α → α) : List (Option α) → List (Option α)
  | some x :: some y :: r => some (op x y) :: treeLevel op r
  | none :: some y :: r => some y :: treeLevel op r
  | x :: none :: r => x :: treeLevel op r
  | [x] => [x]
  | [] => []

/-- The levels of tree_reduce: six for 64 lanes. -/
def treeReduce {α : Type} (op : α → α → α) : Nat → List (Option α) → Option α
  | 0, xs => xs.headD none
  | n + 1, xs => treeReduce op n (treeLevel op xs)

end Sys2Proof.Machine
end

