-- ==== Sys2Proof/Config.lean ====
section
/-!
DEFINITION. What the manual leaves open, as constants without a body: nothing can be proved of their values, so a claim
holds whatever they are (logs 2 and 8).
-/
namespace Sys2Proof.Config

/-- Which enabled move comes next, and every other free choice of order (R163, R182, R263): applied to State.choices. -/
opaque choice : Nat → Nat

/-- The extra cycles a Variable result takes (R57): applied to State.choices. -/
opaque delay : Nat → Nat

/-- Nanoseconds that pass before the next move (R5, R6): applied to State.choices. -/
opaque elapse : Nat → Nat

/-- What the base die finds in an aligned 8-byte word (R256): 0 nothing, 1 a single-bit error, otherwise an
uncorrectable error. Applied to State.choices and the word. -/
opaque bitError : Nat → Nat → Nat

/-- The first window, in bytes, of a path the endpoint has not used before (R401 to R403). -/
opaque firstWindow : Nat → Nat

end Sys2Proof.Config
end

