-- ==== Sys2Proof/WellFormed.lean ====
section
/-!
DEFINITION. Which instruction terms an encoding can hold: the assigned function values and the register classes
(spec/05_formats_and_opcode_map.md R101 to R112, spec/15_memory_instructions.md R276, R277,
spec/18_engine_instructions.md R317, spec/24_fabric_instructions.md R404). Events carry no encoding.
-/
namespace Sys2Proof

/-- A register field of class V2: an even number (R51, R101). -/
def even (x : BitVec 7) : Bool := x.extractLsb' 0 1 == 0#1

/-- A register field of class V4: a multiple of 4 (R101). -/
def quad (x : BitVec 7) : Bool := x.extractLsb' 0 2 == 0#2

/-- A register field of a class with n registers (R101). -/
def below (n : Nat) (x : BitVec 7) : Bool := x.toNat < n

/-- The first accumulator of an mma: even, 0 to 96 (R111). -/
def vacc (x : BitVec 7) : Bool := even x && x.toNat ≤ 96

/-- The class of a data field fixed by a size code: V2 for .d, V4 for .q, V otherwise (R107). -/
def sized (z : BitVec 3) (d : BitVec 7) : Bool :=
  if z == 5#3 then even d else if z == 6#3 then quad d else true

/-- Size codes of ld and lds: 0 to 6 (R107). -/
def loadSize (z : BitVec 3) : Bool := z != 7#3

/-- Size codes of ldo: 0 to 5 (R107). -/
def obsSize (z : BitVec 3) : Bool := z != 7#3 && z != 6#3

/-- Size codes of st and sts: 0, 2, 4, 5 and 6 (R107). -/
def storeSize (z : BitVec 3) : Bool := z == 0#3 || z == 2#3 || z == 4#3 || z == 5#3 || z == 6#3

/-- Scope codes core to sys: 1 to 6 (R107). -/
def hasScope (k : BitVec 3) : Bool := k != 0#3 && k != 7#3

/-- Scope codes of bar and barcfg: core to pod, 1 to 5 (R109, R184). -/
def barScope (k : BitVec 3) : Bool := k != 0#3 && k != 6#3 && k != 7#3

/-- Operations of red and scan: 0 to 10 (R109, R184). -/
def redOp (o : BitVec 5) : Bool := o.toNat ≤ 10

/-- A cache hint field: value 3 is unassigned (R120). -/
def cacheHint (x : BitVec 2) : Bool := x != 3#2

/-- Assigned pairs of cvt codes: source x, destination y (R105). -/
def cvtCodes (x : BitVec 3) (y : BitVec 4) : Bool := y.toNat ≤ 9 && x.toNat != y.toNat

/-- icmp conditions 10 to 15 take pairs (R106). -/
def icmpClass (c : BitVec 4) (a b : BitVec 7) : Bool := if c.toNat < 10 then true else even a && even b

/-- Special registers mfs can read: numbers 0 to 13 (R112). -/
def spReadable (r : BitVec 6) : Bool := r.toNat ≤ 13

/-- Special registers mts can write: %stat, %fpf and %csp (R112). -/
def spWritable (r : BitVec 6) : Bool := r == 8#6 || r == 9#6 || r == 10#6

/-- Special registers of 64 bits: %csp, %wsr and %cyc (R112). -/
def spWide (r : BitVec 6) : Bool := r == 10#6 || r == 11#6 || r == 12#6

/-- The class of the vector field of mfs and mts follows the width of the special register (R112). -/
def spWidth (r : BitVec 6) (x : BitVec 7) : Bool := if spWide r then even x else true

/-- Every field of the instruction holds a value its encoding admits. -/
def Instr.wellFormed : Instr → Bool
  | .iadd _ _ _ _ => true
  | .isub _ _ _ _ => true
  | .imul _ _ _ _ => true
  | .imad _ _ _ _ => true
  | .and _ _ _ _ => true
  | .or _ _ _ _ => true
  | .xor _ _ _ _ => true
  | .shl _ _ _ _ => true
  | .shr _ _ _ _ => true
  | .icmp _ c _ a b => icmpClass c a b
  | .sel _ _ _ _ => true
  | .lea _ d a _ => even d && even a
  | .bfi _ _ _ _ => true
  | .idp4 _ _ _ _ => true
  | .imulh _ _ _ => true
  | .imulhUns _ _ _ => true
  | .idiv _ _ _ => true
  | .idivUns _ _ _ => true
  | .irem _ _ _ => true
  | .iremUns _ _ _ => true
  | .imin _ _ _ => true
  | .iminUns _ _ _ => true
  | .imax _ _ _ => true
  | .imaxUns _ _ _ => true
  | .andn _ _ _ => true
  | .sar _ _ _ => true
  | .rotl _ _ _ => true
  | .bfx _ _ _ => true
  | .bfxUns _ _ _ => true
  | .iaddD _ d a => even d && even a
  | .isubD _ d a => even d && even a
  | .imulD _ d a => even d && even a
  | .andD _ d a => even d && even a
  | .orD _ d a => even d && even a
  | .xorD _ d a => even d && even a
  | .andnD _ d a => even d && even a
  | .iminD _ d a => even d && even a
  | .shlD _ d _ => even d
  | .shrD _ d _ => even d
  | .sarD _ d _ => even d
  | .rotlD _ d _ => even d
  | .iminDUns _ d a => even d && even a
  | .imaxD _ d a => even d && even a
  | .imaxDUns _ d a => even d && even a
  | .mov _ _ _ => true
  | .iabs _ _ _ => true
  | .ineg _ _ _ => true
  | .not _ _ _ => true
  | .popc _ _ _ => true
  | .clz _ _ _ => true
  | .ctz _ _ _ => true
  | .brev _ _ _ => true
  | .movD _ d a => even d && even a
  | .iabsD _ d a => even d && even a
  | .inegD _ d a => even d && even a
  | .notD _ d a => even d && even a
  | .popcD _ _ a => even a
  | .clzD _ _ a => even a
  | .ctzD _ _ a => even a
  | .brevD _ d a => even d && even a
  | .iaddImm _ _ _ _ => true
  | .shlImm _ _ _ _ => true
  | .shrImm _ _ _ _ => true
  | .sarImm _ _ _ _ => true
  | .rotlImm _ _ _ _ => true
  | .movi _ _ _ => true
  | .movhi _ _ _ => true
  | .pand _ _ a b => below 8 a && below 8 b
  | .por _ _ a b => below 8 a && below 8 b
  | .pxor _ _ a b => below 8 a && below 8 b
  | .pnot _ _ a => below 8 a
  | .mfs _ d r => spReadable r && spWidth r d
  | .mts _ a r => spWritable r && spWidth r a
  | .mvs _ _ a => below 64 a
  | .mvsD _ d a => even d && below 64 a
  | .movs _ d _ => below 64 d
  | .movsD _ d a => below 64 d && even a
  | .fadd _ _ _ _ => true
  | .fsub _ _ _ _ => true
  | .fmul _ _ _ _ => true
  | .ffma _ _ _ _ => true
  | .fcmp _ _ _ _ _ => true
  | .fdiv _ _ _ => true
  | .fmin _ _ _ => true
  | .fmax _ _ _ => true
  | .hadd2Hf _ _ _ => true
  | .hadd2Bf _ _ _ => true
  | .hmul2Hf _ _ _ => true
  | .hmul2Bf _ _ _ => true
  | .frcp _ _ _ => true
  | .frsq _ _ _ => true
  | .fsqrt _ _ _ => true
  | .fexp2 _ _ _ => true
  | .flog2 _ _ _ => true
  | .fclass _ _ _ => true
  | .cvt _ _ _ x y => cvtCodes x y
  | .hfma2Hf _ _ _ _ => true
  | .hfma2Bf _ _ _ _ => true
  | .ldW _ _ a _ => even a
  | .stW _ _ a _ => even a
  | .ld _ d a z => loadSize z && even a && sized z d
  | .ldAcq _ d a z k => loadSize z && hasScope k && even a && sized z d
  | .st _ d a z => storeSize z && even a && sized z d
  | .stRel _ d a z k => storeSize z && hasScope k && even a && sized z d
  | .lds _ d _ z => loadSize z && sized z d
  | .sts _ d _ z => storeSize z && sized z d
  | .ldo _ d a z => obsSize z && even a && sized z d
  | .ldoAcq _ d a z k => obsSize z && hasScope k && even a && sized z d
  | .amoAdd _ _ a k => hasScope k && even a
  | .amoSub _ _ a k => hasScope k && even a
  | .amoMin _ _ a k => hasScope k && even a
  | .amoMax _ _ a k => hasScope k && even a
  | .amoMinUns _ _ a k => hasScope k && even a
  | .amoMaxUns _ _ a k => hasScope k && even a
  | .amoAnd _ _ a k => hasScope k && even a
  | .amoOr _ _ a k => hasScope k && even a
  | .amoXor _ _ a k => hasScope k && even a
  | .amoSwp _ _ a k => hasScope k && even a
  | .amoAddF _ _ a k => hasScope k && even a
  | .acas _ d a k => hasScope k && even a && even d
  | .amoAddD _ d a k => hasScope k && even a && even d
  | .amoSwpD _ d a k => hasScope k && even a && even d
  | .acasD _ d a k => hasScope k && even a && quad d
  | .amosAdd _ _ _ => true
  | .amosSub _ _ _ => true
  | .amosMin _ _ _ => true
  | .amosMax _ _ _ => true
  | .amosMinUns _ _ _ => true
  | .amosMaxUns _ _ _ => true
  | .amosAnd _ _ _ => true
  | .amosOr _ _ _ => true
  | .amosXor _ _ _ => true
  | .amosSwp _ _ _ => true
  | .amosCas _ d _ => even d
  | .fenceAcq _ k => hasScope k
  | .fenceRel _ k => hasScope k
  | .fence _ k => hasScope k
  | .invl1 _ a => even a
  | .invl1All _ => true
  | .tkrel _ a => even a
  | .bra _ _ => true
  | .call _ _ => true
  | .brp _ _ _ => true
  | .bdec _ _ _ => true
  | .nop _ => true
  | .exit _ => true
  | .ret _ => true
  | .callv _ a => even a
  | .jmpv _ a => even a
  | .trap _ _ => true
  | .bkpt _ _ => true
  | .yieldp _ => true
  | .rte _ => true
  | .rteRerun _ => true
  | .trrec _ _ _ => true
  | .rep _ _ _ _ _ => true
  | .hintWait _ _ => true
  | .hintExt _ _ => true
  | .hintMod _ _ _ => true
  | .hintCache _ l c => cacheHint l && cacheHint c
  | .hintFetchI _ _ => true
  | .hintFetchD _ _ _ => true
  | .xlmIdx _ _ _ _ => true
  | .xlmXor _ _ _ _ => true
  | .xlmUp _ _ _ _ => true
  | .xlmDn _ _ _ _ => true
  | .red _ _ a o => redOp o && below 64 a
  | .scan _ _ a o => redOp o && below 64 a
  | .scanExcl _ _ a o => redOp o && below 64 a
  | .elect _ d a => below 8 d && below 64 a
  | .cvset _ d a => below 8 d && below 64 a
  | .phase _ a => below 64 a
  | .bar _ a k => barScope k && below 64 a
  | .barcfg _ a k => barScope k && below 64 a
  | .voteAny _ d a _ => below 8 d && below 64 a
  | .voteAll _ d a _ => below 8 d && below 64 a
  | .voteBallot _ d a _ => below 64 d && below 64 a
  | .qrsv _ d a _ => even d && below 64 a
  | .qcmt _ a => even a
  | .qdrop _ a => even a
  | .qfree _ a => even a
  | .qstat _ _ a => below 64 a
  | .batt _ _ => true
  | .knnew _ _ _ => true
  | .knset _ d _ => even d
  | .knadd _ d _ => even d
  | .knget _ d _ _ => even d
  | .knwait _ d _ => even d
  | .knpoll _ _ _ => true
  | .knfree _ _ => true
  | .knbrk _ _ => true
  | .hzrd _ _ => true
  | .hzseq _ _ => true
  | .hzwait _ _ => true
  | .hzbrClr _ _ => true
  | .hzbrNclr _ _ => true
  | .tdef _ d a => below 16 d && below 49 a
  | .tld _ d a _ => below 16 d && below 64 a
  | .tst _ d a => below 16 d && below 64 a
  | .tcopy _ a => below 49 a
  | .swinit _ _ _ => true
  | .swait _ _ _ => true
  | .swadd _ _ _ => true
  | .waito _ _ _ => true
  | .press _ d _ => below 16 d
  | .pressw _ d a _ => below 16 d && below 64 a
  | .mma _ d a _ _ => vacc d && below 16 a
  | .skadd _ d a _ => below 32 d && below 32 a
  | .sksub _ d a _ => below 32 d && below 32 a
  | .skmax _ d a _ => below 32 d && below 32 a
  | .skmin _ d a _ => below 32 d && below 32 a
  | .skset _ d a _ => below 32 d && below 64 a
  | .skmov _ d a _ => below 32 d && below 32 a
  | .skext _ _ a => below 32 a
  | .skins _ d _ _ => below 32 d
  | .skbind _ d a => below 16 d && below 32 a
  | .cmpr _ d a => below 16 d && below 16 a
  | .sbmap _ d a => below 16 d && below 16 a
  | .cbld _ a => below 64 a
  | .cbldDef _ => true
  | .cbdec _ _ _ => true
  | .rsend _ a => below 62 a
  | .rsendAdd _ a => below 62 a
  | .tsend _ d a => below 61 a && below 64 d
  | .tscncl _ a => below 64 a
  | .esend _ a => below 61 a
  | .erecv _ a => below 62 a
  | .illegalInstruction _ => true
  | .instructionFill _ _ _ => true
  | .divideResult _ _ => true
  | .phaseEnd _ => true
  | .battTimerExpiry _ _ _ _ _ => true
  | .remoteKnotEvent _ => true
  | .waiterWake _ _ _ => true
  | .bindRecord _ _ _ => true
  | .launch _ _ => true
  | .l1Read _ _ _ => true
  | .send _ _ _ => true
  | .perform _ => true
  | .fill _ _ _ => true
  | .release _ _ _ => true
  | .acquire _ _ _ => true
  | .drop _ _ _ => true
  | .evict _ _ => true
  | .settle _ _ _ => true
  | .tableWalk _ _ _ => true
  | .tlbShootdown _ => true
  | .migration _ _ _ => true
  | .readPacket _ _ => true
  | .writePacket _ _ => true
  | .portReply _ _ => true
  | .refreshWindowStart _ _ _ => true
  | .refreshWindowEnd _ _ _ => true
  | .writeWindowOpens _ _ => true
  | .engineStart _ _ => true
  | .chunkCredit _ _ _ => true
  | .pressComplete _ _ => true
  | .cbldComplete _ _ => true
  | .passStart _ _ => true
  | .passWriteback _ _ => true
  | .engineRetire _ _ => true
  | .failure _ _ => true
  | .trapEntry _ => true
  | .preempt _ => true
  | .drainLimitExpiry _ => true
  | .flush _ => true
  | .save _ => true
  | .restore _ _ _ => true
  | .remoteRequest _ => true
  | .acknowledgement _ => true
  | .endToEndTimeout _ => true
  | .stompedPacket _ => true
  | .linkRetrain _ _ => true
  | .linkReturn _ _ => true
  | .linkDownDeclared _ _ => true
  | .planeRetire _ _ => true
  | .fabricArrival _ => true
  | .ethernetPacket _ => true
  | .sprayPacketSend _ _ => true
  | .esendRetryLimit _ _ => true
  | .clockStep _ _ _ => true
  | .coldStart _ _ => true
  | .warmStart _ => true
  | .mapReq _ => true
  | .unmapReq _ => true
  | .protectReq _ => true
  | .exportFrame _ => true
  | .graphLoad _ => true
  | .graphSeed _ => true
  | .graphClose _ => true
  | .windowOpen _ => true
  | .windowClose _ => true
  | .peerSet _ => true
  | .setReq _ => true
  | .logRead _ => true
  | .healthReq _ => true
  | .resetReq _ => true
  | .malformedRequest _ => true
  | .contextCreation _ => true
  | .transportRetransmission _ => true
  | .transportAcknowledgement _ _ _ => true
  | .linkLevelReplay _ _ => true
  | .linkCreditReturn _ _ _ => true

/-- An instruction whose fields all hold values its encoding admits. -/
abbrev WF (i : Instr) : Prop := i.wellFormed = true

/-- The constructor is one of the 227 instruction words (not an event). -/
def Instr.isWord : Instr → Bool
  | .illegalInstruction _ => false
  | .instructionFill _ _ _ => false
  | .divideResult _ _ => false
  | .phaseEnd _ => false
  | .battTimerExpiry _ _ _ _ _ => false
  | .remoteKnotEvent _ => false
  | .waiterWake _ _ _ => false
  | .bindRecord _ _ _ => false
  | .launch _ _ => false
  | .l1Read _ _ _ => false
  | .send _ _ _ => false
  | .perform _ => false
  | .fill _ _ _ => false
  | .release _ _ _ => false
  | .acquire _ _ _ => false
  | .drop _ _ _ => false
  | .evict _ _ => false
  | .settle _ _ _ => false
  | .tableWalk _ _ _ => false
  | .tlbShootdown _ => false
  | .migration _ _ _ => false
  | .readPacket _ _ => false
  | .writePacket _ _ => false
  | .portReply _ _ => false
  | .refreshWindowStart _ _ _ => false
  | .refreshWindowEnd _ _ _ => false
  | .writeWindowOpens _ _ => false
  | .engineStart _ _ => false
  | .chunkCredit _ _ _ => false
  | .pressComplete _ _ => false
  | .cbldComplete _ _ => false
  | .passStart _ _ => false
  | .passWriteback _ _ => false
  | .engineRetire _ _ => false
  | .failure _ _ => false
  | .trapEntry _ => false
  | .preempt _ => false
  | .drainLimitExpiry _ => false
  | .flush _ => false
  | .save _ => false
  | .restore _ _ _ => false
  | .remoteRequest _ => false
  | .acknowledgement _ => false
  | .endToEndTimeout _ => false
  | .stompedPacket _ => false
  | .linkRetrain _ _ => false
  | .linkReturn _ _ => false
  | .linkDownDeclared _ _ => false
  | .planeRetire _ _ => false
  | .fabricArrival _ => false
  | .ethernetPacket _ => false
  | .sprayPacketSend _ _ => false
  | .esendRetryLimit _ _ => false
  | .clockStep _ _ _ => false
  | .coldStart _ _ => false
  | .warmStart _ => false
  | .mapReq _ => false
  | .unmapReq _ => false
  | .protectReq _ => false
  | .exportFrame _ => false
  | .graphLoad _ => false
  | .graphSeed _ => false
  | .graphClose _ => false
  | .windowOpen _ => false
  | .windowClose _ => false
  | .peerSet _ => false
  | .setReq _ => false
  | .logRead _ => false
  | .healthReq _ => false
  | .resetReq _ => false
  | .malformedRequest _ => false
  | .contextCreation _ => false
  | .transportRetransmission _ => false
  | .transportAcknowledgement _ _ _ => false
  | .linkLevelReplay _ _ => false
  | .linkCreditReturn _ _ _ => false
  | _ => true

end Sys2Proof
end

