-- ==== Sys2Proof/Decode.lean ====
section
/-!
DEFINITION. From a word to the instruction it is, or the check of R114 that refuses it, and back
(spec/05_formats_and_opcode_map.md R99 to R124; the function tables R104 to R112).
-/
namespace Sys2Proof

/-- The check of R114 that a word fails. -/
inductive Reject where
  /-- check 1: the major opcode is unassigned -/
  | major
  /-- check 2: a function or split field holds an unassigned value -/
  | function
  /-- check 3: a reserved field is not 0 -/
  | reserved
  /-- check 4: a register field lies outside its class (R101) -/
  | register
  /-- check 5: the word after rep may not be repeated so (R118) -/
  | pairing
deriving DecidableEq, Repr

/-- Go on when the check holds, refuse by its name otherwise. -/
def need (ok : Bool) (r : Reject) (k : Except Reject Instr) : Except Reject Instr :=
  if ok then k else .error r

/-- The predicate and stall fields of a word (R99). -/
def guardOf (w : Word) : Guard := ⟨w.extractLsb' 29 3, w.extractLsb' 27 2⟩

/-- The major opcode of a word (R99). -/
def majorOf (w : Word) : BitVec 6 := w.extractLsb' 21 6

/-- Major opcode 0x0F (R103). -/
def decode0F (g : Guard) (w : Word) : Except Reject Instr :=
  if w.extractLsb' 0 7 == 0x0#7 then .ok (.imulh g (w.extractLsb' 14 7) (w.extractLsb' 7 7)) else
  if w.extractLsb' 0 7 == 0x1#7 then .ok (.imulhUns g (w.extractLsb' 14 7) (w.extractLsb' 7 7)) else
  if w.extractLsb' 0 7 == 0x2#7 then .ok (.idiv g (w.extractLsb' 14 7) (w.extractLsb' 7 7)) else
  if w.extractLsb' 0 7 == 0x3#7 then .ok (.idivUns g (w.extractLsb' 14 7) (w.extractLsb' 7 7)) else
  if w.extractLsb' 0 7 == 0x4#7 then .ok (.irem g (w.extractLsb' 14 7) (w.extractLsb' 7 7)) else
  if w.extractLsb' 0 7 == 0x5#7 then .ok (.iremUns g (w.extractLsb' 14 7) (w.extractLsb' 7 7)) else
  if w.extractLsb' 0 7 == 0x6#7 then .ok (.imin g (w.extractLsb' 14 7) (w.extractLsb' 7 7)) else
  if w.extractLsb' 0 7 == 0x7#7 then .ok (.iminUns g (w.extractLsb' 14 7) (w.extractLsb' 7 7)) else
  if w.extractLsb' 0 7 == 0x8#7 then .ok (.imax g (w.extractLsb' 14 7) (w.extractLsb' 7 7)) else
  if w.extractLsb' 0 7 == 0x9#7 then .ok (.imaxUns g (w.extractLsb' 14 7) (w.extractLsb' 7 7)) else
  if w.extractLsb' 0 7 == 0xA#7 then .ok (.andn g (w.extractLsb' 14 7) (w.extractLsb' 7 7)) else
  if w.extractLsb' 0 7 == 0xB#7 then .ok (.sar g (w.extractLsb' 14 7) (w.extractLsb' 7 7)) else
  if w.extractLsb' 0 7 == 0xC#7 then .ok (.rotl g (w.extractLsb' 14 7) (w.extractLsb' 7 7)) else
  if w.extractLsb' 0 7 == 0xD#7 then .ok (.bfx g (w.extractLsb' 14 7) (w.extractLsb' 7 7)) else
  if w.extractLsb' 0 7 == 0xE#7 then .ok (.bfxUns g (w.extractLsb' 14 7) (w.extractLsb' 7 7)) else
  if w.extractLsb' 0 7 == 0x20#7 then need (even (w.extractLsb' 14 7) && even (w.extractLsb' 7 7)) .register (.ok (.iaddD g (w.extractLsb' 14 7) (w.extractLsb' 7 7))) else
  if w.extractLsb' 0 7 == 0x21#7 then need (even (w.extractLsb' 14 7) && even (w.extractLsb' 7 7)) .register (.ok (.isubD g (w.extractLsb' 14 7) (w.extractLsb' 7 7))) else
  if w.extractLsb' 0 7 == 0x22#7 then need (even (w.extractLsb' 14 7) && even (w.extractLsb' 7 7)) .register (.ok (.imulD g (w.extractLsb' 14 7) (w.extractLsb' 7 7))) else
  if w.extractLsb' 0 7 == 0x23#7 then need (even (w.extractLsb' 14 7) && even (w.extractLsb' 7 7)) .register (.ok (.andD g (w.extractLsb' 14 7) (w.extractLsb' 7 7))) else
  if w.extractLsb' 0 7 == 0x24#7 then need (even (w.extractLsb' 14 7) && even (w.extractLsb' 7 7)) .register (.ok (.orD g (w.extractLsb' 14 7) (w.extractLsb' 7 7))) else
  if w.extractLsb' 0 7 == 0x25#7 then need (even (w.extractLsb' 14 7) && even (w.extractLsb' 7 7)) .register (.ok (.xorD g (w.extractLsb' 14 7) (w.extractLsb' 7 7))) else
  if w.extractLsb' 0 7 == 0x26#7 then need (even (w.extractLsb' 14 7) && even (w.extractLsb' 7 7)) .register (.ok (.andnD g (w.extractLsb' 14 7) (w.extractLsb' 7 7))) else
  if w.extractLsb' 0 7 == 0x27#7 then need (even (w.extractLsb' 14 7) && even (w.extractLsb' 7 7)) .register (.ok (.iminD g (w.extractLsb' 14 7) (w.extractLsb' 7 7))) else
  if w.extractLsb' 0 7 == 0x28#7 then need (even (w.extractLsb' 14 7)) .register (.ok (.shlD g (w.extractLsb' 14 7) (w.extractLsb' 7 7))) else
  if w.extractLsb' 0 7 == 0x29#7 then need (even (w.extractLsb' 14 7)) .register (.ok (.shrD g (w.extractLsb' 14 7) (w.extractLsb' 7 7))) else
  if w.extractLsb' 0 7 == 0x2A#7 then need (even (w.extractLsb' 14 7)) .register (.ok (.sarD g (w.extractLsb' 14 7) (w.extractLsb' 7 7))) else
  if w.extractLsb' 0 7 == 0x2B#7 then need (even (w.extractLsb' 14 7)) .register (.ok (.rotlD g (w.extractLsb' 14 7) (w.extractLsb' 7 7))) else
  if w.extractLsb' 0 7 == 0x2C#7 then need (even (w.extractLsb' 14 7) && even (w.extractLsb' 7 7)) .register (.ok (.iminDUns g (w.extractLsb' 14 7) (w.extractLsb' 7 7))) else
  if w.extractLsb' 0 7 == 0x2D#7 then need (even (w.extractLsb' 14 7) && even (w.extractLsb' 7 7)) .register (.ok (.imaxD g (w.extractLsb' 14 7) (w.extractLsb' 7 7))) else
  if w.extractLsb' 0 7 == 0x2E#7 then need (even (w.extractLsb' 14 7) && even (w.extractLsb' 7 7)) .register (.ok (.imaxDUns g (w.extractLsb' 14 7) (w.extractLsb' 7 7))) else
  .error .function

/-- Major opcode 0x10 (R103). -/
def decode10 (g : Guard) (w : Word) : Except Reject Instr :=
  if w.extractLsb' 0 7 == 0x0#7 then .ok (.mov g (w.extractLsb' 14 7) (w.extractLsb' 7 7)) else
  if w.extractLsb' 0 7 == 0x1#7 then .ok (.iabs g (w.extractLsb' 14 7) (w.extractLsb' 7 7)) else
  if w.extractLsb' 0 7 == 0x2#7 then .ok (.ineg g (w.extractLsb' 14 7) (w.extractLsb' 7 7)) else
  if w.extractLsb' 0 7 == 0x3#7 then .ok (.not g (w.extractLsb' 14 7) (w.extractLsb' 7 7)) else
  if w.extractLsb' 0 7 == 0x4#7 then .ok (.popc g (w.extractLsb' 14 7) (w.extractLsb' 7 7)) else
  if w.extractLsb' 0 7 == 0x5#7 then .ok (.clz g (w.extractLsb' 14 7) (w.extractLsb' 7 7)) else
  if w.extractLsb' 0 7 == 0x6#7 then .ok (.ctz g (w.extractLsb' 14 7) (w.extractLsb' 7 7)) else
  if w.extractLsb' 0 7 == 0x7#7 then .ok (.brev g (w.extractLsb' 14 7) (w.extractLsb' 7 7)) else
  if w.extractLsb' 0 7 == 0x20#7 then need (even (w.extractLsb' 14 7) && even (w.extractLsb' 7 7)) .register (.ok (.movD g (w.extractLsb' 14 7) (w.extractLsb' 7 7))) else
  if w.extractLsb' 0 7 == 0x21#7 then need (even (w.extractLsb' 14 7) && even (w.extractLsb' 7 7)) .register (.ok (.iabsD g (w.extractLsb' 14 7) (w.extractLsb' 7 7))) else
  if w.extractLsb' 0 7 == 0x22#7 then need (even (w.extractLsb' 14 7) && even (w.extractLsb' 7 7)) .register (.ok (.inegD g (w.extractLsb' 14 7) (w.extractLsb' 7 7))) else
  if w.extractLsb' 0 7 == 0x23#7 then need (even (w.extractLsb' 14 7) && even (w.extractLsb' 7 7)) .register (.ok (.notD g (w.extractLsb' 14 7) (w.extractLsb' 7 7))) else
  if w.extractLsb' 0 7 == 0x24#7 then need (even (w.extractLsb' 7 7)) .register (.ok (.popcD g (w.extractLsb' 14 7) (w.extractLsb' 7 7))) else
  if w.extractLsb' 0 7 == 0x25#7 then need (even (w.extractLsb' 7 7)) .register (.ok (.clzD g (w.extractLsb' 14 7) (w.extractLsb' 7 7))) else
  if w.extractLsb' 0 7 == 0x26#7 then need (even (w.extractLsb' 7 7)) .register (.ok (.ctzD g (w.extractLsb' 14 7) (w.extractLsb' 7 7))) else
  if w.extractLsb' 0 7 == 0x27#7 then need (even (w.extractLsb' 14 7) && even (w.extractLsb' 7 7)) .register (.ok (.brevD g (w.extractLsb' 14 7) (w.extractLsb' 7 7))) else
  .error .function

/-- Major opcode 0x12 (R103). -/
def decode12 (g : Guard) (w : Word) : Except Reject Instr :=
  if w.extractLsb' 5 2 == 0x0#2 then .ok (.shlImm g (w.extractLsb' 14 7) (w.extractLsb' 7 7) (w.extractLsb' 0 5)) else
  if w.extractLsb' 5 2 == 0x1#2 then .ok (.shrImm g (w.extractLsb' 14 7) (w.extractLsb' 7 7) (w.extractLsb' 0 5)) else
  if w.extractLsb' 5 2 == 0x2#2 then .ok (.sarImm g (w.extractLsb' 14 7) (w.extractLsb' 7 7) (w.extractLsb' 0 5)) else
  if w.extractLsb' 5 2 == 0x3#2 then .ok (.rotlImm g (w.extractLsb' 14 7) (w.extractLsb' 7 7) (w.extractLsb' 0 5)) else
  .error .function

/-- Major opcode 0x15 (R103). -/
def decode15 (g : Guard) (w : Word) : Except Reject Instr :=
  if w.extractLsb' 17 4 == 0x0#4 then need (below 8 (w.extractLsb' 7 7) && below 8 (w.extractLsb' 0 7)) .register (.ok (.pand g (w.extractLsb' 14 3) (w.extractLsb' 7 7) (w.extractLsb' 0 7))) else
  if w.extractLsb' 17 4 == 0x1#4 then need (below 8 (w.extractLsb' 7 7) && below 8 (w.extractLsb' 0 7)) .register (.ok (.por g (w.extractLsb' 14 3) (w.extractLsb' 7 7) (w.extractLsb' 0 7))) else
  if w.extractLsb' 17 4 == 0x2#4 then need (below 8 (w.extractLsb' 7 7) && below 8 (w.extractLsb' 0 7)) .register (.ok (.pxor g (w.extractLsb' 14 3) (w.extractLsb' 7 7) (w.extractLsb' 0 7))) else
  if w.extractLsb' 17 4 == 0x3#4 then need (w.extractLsb' 0 7 == 0x0#7) .reserved (need (below 8 (w.extractLsb' 7 7)) .register (.ok (.pnot g (w.extractLsb' 14 3) (w.extractLsb' 7 7)))) else
  .error .function

/-- Major opcode 0x16 (R103). -/
def decode16 (g : Guard) (w : Word) : Except Reject Instr :=
  if w.extractLsb' 6 1 == 0x0#1 then need (spReadable (w.extractLsb' 0 6)) .function (need (w.extractLsb' 7 7 == 0x0#7) .reserved (need (spWidth (w.extractLsb' 0 6) (w.extractLsb' 14 7)) .register (.ok (.mfs g (w.extractLsb' 14 7) (w.extractLsb' 0 6))))) else
  if w.extractLsb' 6 1 == 0x1#1 then need (spWritable (w.extractLsb' 0 6)) .function (need (w.extractLsb' 14 7 == 0x0#7) .reserved (need (spWidth (w.extractLsb' 0 6) (w.extractLsb' 7 7)) .register (.ok (.mts g (w.extractLsb' 7 7) (w.extractLsb' 0 6))))) else
  .error .function

/-- Major opcode 0x17 (R103). -/
def decode17 (g : Guard) (w : Word) : Except Reject Instr :=
  if w.extractLsb' 0 7 == 0x0#7 then need (below 64 (w.extractLsb' 7 7)) .register (.ok (.mvs g (w.extractLsb' 14 7) (w.extractLsb' 7 7))) else
  if w.extractLsb' 0 7 == 0x1#7 then need (even (w.extractLsb' 14 7) && below 64 (w.extractLsb' 7 7)) .register (.ok (.mvsD g (w.extractLsb' 14 7) (w.extractLsb' 7 7))) else
  if w.extractLsb' 0 7 == 0x2#7 then need (below 64 (w.extractLsb' 14 7)) .register (.ok (.movs g (w.extractLsb' 14 7) (w.extractLsb' 7 7))) else
  if w.extractLsb' 0 7 == 0x3#7 then need (below 64 (w.extractLsb' 14 7) && even (w.extractLsb' 7 7)) .register (.ok (.movsD g (w.extractLsb' 14 7) (w.extractLsb' 7 7))) else
  .error .function

/-- Major opcode 0x1C (R103). -/
def decode1C (g : Guard) (w : Word) : Except Reject Instr :=
  if w.extractLsb' 20 1 == 0x0#1 then .ok (.fcmp g (w.extractLsb' 17 3) (w.extractLsb' 14 3) (w.extractLsb' 7 7) (w.extractLsb' 0 7)) else
  .error .function

/-- Major opcode 0x1D (R103). -/
def decode1D (g : Guard) (w : Word) : Except Reject Instr :=
  if w.extractLsb' 0 7 == 0x0#7 then .ok (.fdiv g (w.extractLsb' 14 7) (w.extractLsb' 7 7)) else
  if w.extractLsb' 0 7 == 0x1#7 then .ok (.fmin g (w.extractLsb' 14 7) (w.extractLsb' 7 7)) else
  if w.extractLsb' 0 7 == 0x2#7 then .ok (.fmax g (w.extractLsb' 14 7) (w.extractLsb' 7 7)) else
  if w.extractLsb' 0 7 == 0x10#7 then .ok (.hadd2Hf g (w.extractLsb' 14 7) (w.extractLsb' 7 7)) else
  if w.extractLsb' 0 7 == 0x11#7 then .ok (.hadd2Bf g (w.extractLsb' 14 7) (w.extractLsb' 7 7)) else
  if w.extractLsb' 0 7 == 0x12#7 then .ok (.hmul2Hf g (w.extractLsb' 14 7) (w.extractLsb' 7 7)) else
  if w.extractLsb' 0 7 == 0x13#7 then .ok (.hmul2Bf g (w.extractLsb' 14 7) (w.extractLsb' 7 7)) else
  .error .function

/-- Major opcode 0x1E (R103). -/
def decode1E (g : Guard) (w : Word) : Except Reject Instr :=
  if w.extractLsb' 0 7 == 0x0#7 then .ok (.frcp g (w.extractLsb' 14 7) (w.extractLsb' 7 7)) else
  if w.extractLsb' 0 7 == 0x1#7 then .ok (.frsq g (w.extractLsb' 14 7) (w.extractLsb' 7 7)) else
  if w.extractLsb' 0 7 == 0x2#7 then .ok (.fsqrt g (w.extractLsb' 14 7) (w.extractLsb' 7 7)) else
  if w.extractLsb' 0 7 == 0x3#7 then .ok (.fexp2 g (w.extractLsb' 14 7) (w.extractLsb' 7 7)) else
  if w.extractLsb' 0 7 == 0x4#7 then .ok (.flog2 g (w.extractLsb' 14 7) (w.extractLsb' 7 7)) else
  if w.extractLsb' 0 7 == 0x5#7 then .ok (.fclass g (w.extractLsb' 14 7) (w.extractLsb' 7 7)) else
  .error .function

/-- Major opcode 0x24 (R103). -/
def decode24 (g : Guard) (w : Word) : Except Reject Instr :=
  if w.extractLsb' 0 4 == 0x0#4 then need (loadSize (w.extractLsb' 4 3)) .function (need (even (w.extractLsb' 7 7) && sized (w.extractLsb' 4 3) (w.extractLsb' 14 7)) .register (.ok (.ld g (w.extractLsb' 14 7) (w.extractLsb' 7 7) (w.extractLsb' 4 3)))) else
  if w.extractLsb' 3 1 == 0x1#1 then need (loadSize (w.extractLsb' 4 3) && hasScope (w.extractLsb' 0 3)) .function (need (even (w.extractLsb' 7 7) && sized (w.extractLsb' 4 3) (w.extractLsb' 14 7)) .register (.ok (.ldAcq g (w.extractLsb' 14 7) (w.extractLsb' 7 7) (w.extractLsb' 4 3) (w.extractLsb' 0 3)))) else
  .error .function

/-- Major opcode 0x25 (R103). -/
def decode25 (g : Guard) (w : Word) : Except Reject Instr :=
  if w.extractLsb' 0 4 == 0x0#4 then need (storeSize (w.extractLsb' 4 3)) .function (need (even (w.extractLsb' 7 7) && sized (w.extractLsb' 4 3) (w.extractLsb' 14 7)) .register (.ok (.st g (w.extractLsb' 14 7) (w.extractLsb' 7 7) (w.extractLsb' 4 3)))) else
  if w.extractLsb' 3 1 == 0x1#1 then need (storeSize (w.extractLsb' 4 3) && hasScope (w.extractLsb' 0 3)) .function (need (even (w.extractLsb' 7 7) && sized (w.extractLsb' 4 3) (w.extractLsb' 14 7)) .register (.ok (.stRel g (w.extractLsb' 14 7) (w.extractLsb' 7 7) (w.extractLsb' 4 3) (w.extractLsb' 0 3)))) else
  .error .function

/-- Major opcode 0x26 (R103). -/
def decode26 (g : Guard) (w : Word) : Except Reject Instr :=
  if w.extractLsb' 6 1 == 0x0#1 then need (loadSize (w.extractLsb' 3 3)) .function (need (w.extractLsb' 0 3 == 0x0#3) .reserved (need (sized (w.extractLsb' 3 3) (w.extractLsb' 14 7)) .register (.ok (.lds g (w.extractLsb' 14 7) (w.extractLsb' 7 7) (w.extractLsb' 3 3))))) else
  if w.extractLsb' 6 1 == 0x1#1 then need (storeSize (w.extractLsb' 3 3)) .function (need (w.extractLsb' 0 3 == 0x0#3) .reserved (need (sized (w.extractLsb' 3 3) (w.extractLsb' 14 7)) .register (.ok (.sts g (w.extractLsb' 14 7) (w.extractLsb' 7 7) (w.extractLsb' 3 3))))) else
  .error .function

/-- Major opcode 0x27 (R103). -/
def decode27 (g : Guard) (w : Word) : Except Reject Instr :=
  if w.extractLsb' 0 4 == 0x0#4 then need (obsSize (w.extractLsb' 4 3)) .function (need (even (w.extractLsb' 7 7) && sized (w.extractLsb' 4 3) (w.extractLsb' 14 7)) .register (.ok (.ldo g (w.extractLsb' 14 7) (w.extractLsb' 7 7) (w.extractLsb' 4 3)))) else
  if w.extractLsb' 3 1 == 0x1#1 then need (obsSize (w.extractLsb' 4 3) && hasScope (w.extractLsb' 0 3)) .function (need (even (w.extractLsb' 7 7) && sized (w.extractLsb' 4 3) (w.extractLsb' 14 7)) .register (.ok (.ldoAcq g (w.extractLsb' 14 7) (w.extractLsb' 7 7) (w.extractLsb' 4 3) (w.extractLsb' 0 3)))) else
  .error .function

/-- Major opcode 0x28 (R103). -/
def decode28 (g : Guard) (w : Word) : Except Reject Instr :=
  if w.extractLsb' 0 7 == 0x0#7 then .ok (.amosAdd g (w.extractLsb' 14 7) (w.extractLsb' 7 7)) else
  if w.extractLsb' 0 7 == 0x8#7 then .ok (.amosSub g (w.extractLsb' 14 7) (w.extractLsb' 7 7)) else
  if w.extractLsb' 0 7 == 0x10#7 then .ok (.amosMin g (w.extractLsb' 14 7) (w.extractLsb' 7 7)) else
  if w.extractLsb' 0 7 == 0x18#7 then .ok (.amosMax g (w.extractLsb' 14 7) (w.extractLsb' 7 7)) else
  if w.extractLsb' 0 7 == 0x20#7 then .ok (.amosMinUns g (w.extractLsb' 14 7) (w.extractLsb' 7 7)) else
  if w.extractLsb' 0 7 == 0x28#7 then .ok (.amosMaxUns g (w.extractLsb' 14 7) (w.extractLsb' 7 7)) else
  if w.extractLsb' 0 7 == 0x30#7 then .ok (.amosAnd g (w.extractLsb' 14 7) (w.extractLsb' 7 7)) else
  if w.extractLsb' 0 7 == 0x38#7 then .ok (.amosOr g (w.extractLsb' 14 7) (w.extractLsb' 7 7)) else
  if w.extractLsb' 0 7 == 0x40#7 then .ok (.amosXor g (w.extractLsb' 14 7) (w.extractLsb' 7 7)) else
  if w.extractLsb' 0 7 == 0x48#7 then .ok (.amosSwp g (w.extractLsb' 14 7) (w.extractLsb' 7 7)) else
  if w.extractLsb' 0 7 == 0x58#7 then need (even (w.extractLsb' 14 7)) .register (.ok (.amosCas g (w.extractLsb' 14 7) (w.extractLsb' 7 7))) else
  if w.extractLsb' 3 4 == 0x0#4 then need (hasScope (w.extractLsb' 0 3)) .function (need (even (w.extractLsb' 7 7)) .register (.ok (.amoAdd g (w.extractLsb' 14 7) (w.extractLsb' 7 7) (w.extractLsb' 0 3)))) else
  if w.extractLsb' 3 4 == 0x1#4 then need (hasScope (w.extractLsb' 0 3)) .function (need (even (w.extractLsb' 7 7)) .register (.ok (.amoSub g (w.extractLsb' 14 7) (w.extractLsb' 7 7) (w.extractLsb' 0 3)))) else
  if w.extractLsb' 3 4 == 0x2#4 then need (hasScope (w.extractLsb' 0 3)) .function (need (even (w.extractLsb' 7 7)) .register (.ok (.amoMin g (w.extractLsb' 14 7) (w.extractLsb' 7 7) (w.extractLsb' 0 3)))) else
  if w.extractLsb' 3 4 == 0x3#4 then need (hasScope (w.extractLsb' 0 3)) .function (need (even (w.extractLsb' 7 7)) .register (.ok (.amoMax g (w.extractLsb' 14 7) (w.extractLsb' 7 7) (w.extractLsb' 0 3)))) else
  if w.extractLsb' 3 4 == 0x4#4 then need (hasScope (w.extractLsb' 0 3)) .function (need (even (w.extractLsb' 7 7)) .register (.ok (.amoMinUns g (w.extractLsb' 14 7) (w.extractLsb' 7 7) (w.extractLsb' 0 3)))) else
  if w.extractLsb' 3 4 == 0x5#4 then need (hasScope (w.extractLsb' 0 3)) .function (need (even (w.extractLsb' 7 7)) .register (.ok (.amoMaxUns g (w.extractLsb' 14 7) (w.extractLsb' 7 7) (w.extractLsb' 0 3)))) else
  if w.extractLsb' 3 4 == 0x6#4 then need (hasScope (w.extractLsb' 0 3)) .function (need (even (w.extractLsb' 7 7)) .register (.ok (.amoAnd g (w.extractLsb' 14 7) (w.extractLsb' 7 7) (w.extractLsb' 0 3)))) else
  if w.extractLsb' 3 4 == 0x7#4 then need (hasScope (w.extractLsb' 0 3)) .function (need (even (w.extractLsb' 7 7)) .register (.ok (.amoOr g (w.extractLsb' 14 7) (w.extractLsb' 7 7) (w.extractLsb' 0 3)))) else
  if w.extractLsb' 3 4 == 0x8#4 then need (hasScope (w.extractLsb' 0 3)) .function (need (even (w.extractLsb' 7 7)) .register (.ok (.amoXor g (w.extractLsb' 14 7) (w.extractLsb' 7 7) (w.extractLsb' 0 3)))) else
  if w.extractLsb' 3 4 == 0x9#4 then need (hasScope (w.extractLsb' 0 3)) .function (need (even (w.extractLsb' 7 7)) .register (.ok (.amoSwp g (w.extractLsb' 14 7) (w.extractLsb' 7 7) (w.extractLsb' 0 3)))) else
  if w.extractLsb' 3 4 == 0xA#4 then need (hasScope (w.extractLsb' 0 3)) .function (need (even (w.extractLsb' 7 7)) .register (.ok (.amoAddF g (w.extractLsb' 14 7) (w.extractLsb' 7 7) (w.extractLsb' 0 3)))) else
  if w.extractLsb' 3 4 == 0xB#4 then need (hasScope (w.extractLsb' 0 3)) .function (need (even (w.extractLsb' 7 7) && even (w.extractLsb' 14 7)) .register (.ok (.acas g (w.extractLsb' 14 7) (w.extractLsb' 7 7) (w.extractLsb' 0 3)))) else
  if w.extractLsb' 3 4 == 0xC#4 then need (hasScope (w.extractLsb' 0 3)) .function (need (even (w.extractLsb' 7 7) && even (w.extractLsb' 14 7)) .register (.ok (.amoAddD g (w.extractLsb' 14 7) (w.extractLsb' 7 7) (w.extractLsb' 0 3)))) else
  if w.extractLsb' 3 4 == 0xD#4 then need (hasScope (w.extractLsb' 0 3)) .function (need (even (w.extractLsb' 7 7) && even (w.extractLsb' 14 7)) .register (.ok (.amoSwpD g (w.extractLsb' 14 7) (w.extractLsb' 7 7) (w.extractLsb' 0 3)))) else
  if w.extractLsb' 3 4 == 0xE#4 then need (hasScope (w.extractLsb' 0 3)) .function (need (even (w.extractLsb' 7 7) && quad (w.extractLsb' 14 7)) .register (.ok (.acasD g (w.extractLsb' 14 7) (w.extractLsb' 7 7) (w.extractLsb' 0 3)))) else
  .error .function

/-- Major opcode 0x29 (R103). -/
def decode29 (g : Guard) (w : Word) : Except Reject Instr :=
  if w.extractLsb' 3 4 == 0x0#4 then need (hasScope (w.extractLsb' 0 3)) .function (need (w.extractLsb' 7 14 == 0x0#14) .reserved (.ok (.fenceAcq g (w.extractLsb' 0 3)))) else
  if w.extractLsb' 3 4 == 0x1#4 then need (hasScope (w.extractLsb' 0 3)) .function (need (w.extractLsb' 7 14 == 0x0#14) .reserved (.ok (.fenceRel g (w.extractLsb' 0 3)))) else
  if w.extractLsb' 3 4 == 0x2#4 then need (hasScope (w.extractLsb' 0 3)) .function (need (w.extractLsb' 7 14 == 0x0#14) .reserved (.ok (.fence g (w.extractLsb' 0 3)))) else
  if w.extractLsb' 0 7 == 0x18#7 then need (w.extractLsb' 14 7 == 0x0#7) .reserved (need (even (w.extractLsb' 7 7)) .register (.ok (.invl1 g (w.extractLsb' 7 7)))) else
  if w.extractLsb' 0 7 == 0x20#7 then need (w.extractLsb' 7 14 == 0x0#14) .reserved (.ok (.invl1All g)) else
  if w.extractLsb' 0 7 == 0x28#7 then need (w.extractLsb' 14 7 == 0x0#7) .reserved (need (even (w.extractLsb' 7 7)) .register (.ok (.tkrel g (w.extractLsb' 7 7)))) else
  .error .function

/-- Major opcode 0x2E (R103). -/
def decode2E (g : Guard) (w : Word) : Except Reject Instr :=
  if w.extractLsb' 0 7 == 0x0#7 then need (w.extractLsb' 7 14 == 0x0#14) .reserved (.ok (.nop g)) else
  if w.extractLsb' 0 7 == 0x1#7 then need (w.extractLsb' 7 14 == 0x0#14) .reserved (.ok (.exit g)) else
  if w.extractLsb' 0 7 == 0x2#7 then need (w.extractLsb' 7 14 == 0x0#14) .reserved (.ok (.ret g)) else
  if w.extractLsb' 0 7 == 0x3#7 then need (w.extractLsb' 14 7 == 0x0#7) .reserved (need (even (w.extractLsb' 7 7)) .register (.ok (.callv g (w.extractLsb' 7 7)))) else
  if w.extractLsb' 0 7 == 0x4#7 then need (w.extractLsb' 14 7 == 0x0#7) .reserved (need (even (w.extractLsb' 7 7)) .register (.ok (.jmpv g (w.extractLsb' 7 7)))) else
  if w.extractLsb' 0 7 == 0x8#7 then need (w.extractLsb' 7 7 == 0x0#7) .reserved (.ok (.trap g (w.extractLsb' 14 7))) else
  if w.extractLsb' 0 7 == 0x9#7 then need (w.extractLsb' 7 7 == 0x0#7) .reserved (.ok (.bkpt g (w.extractLsb' 14 7))) else
  if w.extractLsb' 0 7 == 0xA#7 then need (w.extractLsb' 7 14 == 0x0#14) .reserved (.ok (.yieldp g)) else
  if w.extractLsb' 0 7 == 0x10#7 then need (w.extractLsb' 7 14 == 0x0#14) .reserved (.ok (.rte g)) else
  if w.extractLsb' 0 7 == 0x11#7 then need (w.extractLsb' 7 14 == 0x0#14) .reserved (.ok (.rteRerun g)) else
  if w.extractLsb' 0 7 == 0x12#7 then .ok (.trrec g (w.extractLsb' 14 7) (w.extractLsb' 7 7)) else
  .error .function

/-- Major opcode 0x30 (R103). -/
def decode30 (g : Guard) (w : Word) : Except Reject Instr :=
  if w.extractLsb' 17 4 == 0x0#4 then .ok (.hintWait g (w.extractLsb' 0 17)) else
  if w.extractLsb' 17 4 == 0x1#4 then .ok (.hintExt g (w.extractLsb' 0 17)) else
  if w.extractLsb' 17 4 == 0x2#4 then need (w.extractLsb' 7 10 == 0x0#10 && w.extractLsb' 3 4 == 0x0#4) .reserved (.ok (.hintMod g (w.extractLsb' 2 1) (w.extractLsb' 0 2))) else
  if w.extractLsb' 17 4 == 0x3#4 then need (cacheHint (w.extractLsb' 2 2) && cacheHint (w.extractLsb' 0 2)) .function (need (w.extractLsb' 7 10 == 0x0#10 && w.extractLsb' 4 3 == 0x0#3) .reserved (.ok (.hintCache g (w.extractLsb' 2 2) (w.extractLsb' 0 2)))) else
  if w.extractLsb' 16 5 == 0x8#5 then .ok (.hintFetchI g (w.extractLsb' 0 16)) else
  if w.extractLsb' 16 5 == 0x9#5 then .ok (.hintFetchD g (w.extractLsb' 9 7) (w.extractLsb' 0 9)) else
  .error .function

/-- Major opcode 0x31 (R103). -/
def decode31 (g : Guard) (w : Word) : Except Reject Instr :=
  if w.extractLsb' 5 2 == 0x0#2 then .ok (.xlmIdx g (w.extractLsb' 14 7) (w.extractLsb' 7 7) (w.extractLsb' 0 5)) else
  if w.extractLsb' 5 2 == 0x1#2 then .ok (.xlmXor g (w.extractLsb' 14 7) (w.extractLsb' 7 7) (w.extractLsb' 0 5)) else
  if w.extractLsb' 5 2 == 0x2#2 then .ok (.xlmUp g (w.extractLsb' 14 7) (w.extractLsb' 7 7) (w.extractLsb' 0 5)) else
  if w.extractLsb' 5 2 == 0x3#2 then .ok (.xlmDn g (w.extractLsb' 14 7) (w.extractLsb' 7 7) (w.extractLsb' 0 5)) else
  .error .function

/-- Major opcode 0x32 (R103). -/
def decode32 (g : Guard) (w : Word) : Except Reject Instr :=
  if w.extractLsb' 5 2 == 0x0#2 then need (redOp (w.extractLsb' 0 5)) .function (need (below 64 (w.extractLsb' 7 7)) .register (.ok (.red g (w.extractLsb' 14 7) (w.extractLsb' 7 7) (w.extractLsb' 0 5)))) else
  if w.extractLsb' 5 2 == 0x2#2 then need (redOp (w.extractLsb' 0 5)) .function (need (below 64 (w.extractLsb' 7 7)) .register (.ok (.scan g (w.extractLsb' 14 7) (w.extractLsb' 7 7) (w.extractLsb' 0 5)))) else
  if w.extractLsb' 5 2 == 0x3#2 then need (redOp (w.extractLsb' 0 5)) .function (need (below 64 (w.extractLsb' 7 7)) .register (.ok (.scanExcl g (w.extractLsb' 14 7) (w.extractLsb' 7 7) (w.extractLsb' 0 5)))) else
  .error .function

/-- Major opcode 0x33 (R103). -/
def decode33 (g : Guard) (w : Word) : Except Reject Instr :=
  if w.extractLsb' 3 4 == 0x0#4 then need (w.extractLsb' 0 3 == 0x0#3) .reserved (need (below 8 (w.extractLsb' 14 7) && below 64 (w.extractLsb' 7 7)) .register (.ok (.elect g (w.extractLsb' 14 7) (w.extractLsb' 7 7)))) else
  if w.extractLsb' 3 4 == 0x1#4 then need (w.extractLsb' 0 3 == 0x0#3) .reserved (need (below 8 (w.extractLsb' 14 7) && below 64 (w.extractLsb' 7 7)) .register (.ok (.cvset g (w.extractLsb' 14 7) (w.extractLsb' 7 7)))) else
  if w.extractLsb' 3 4 == 0x2#4 then need (w.extractLsb' 14 7 == 0x0#7 && w.extractLsb' 0 3 == 0x0#3) .reserved (need (below 64 (w.extractLsb' 7 7)) .register (.ok (.phase g (w.extractLsb' 7 7)))) else
  if w.extractLsb' 3 4 == 0x3#4 then need (barScope (w.extractLsb' 0 3)) .function (need (w.extractLsb' 14 7 == 0x0#7) .reserved (need (below 64 (w.extractLsb' 7 7)) .register (.ok (.bar g (w.extractLsb' 7 7) (w.extractLsb' 0 3))))) else
  if w.extractLsb' 3 4 == 0x4#4 then need (barScope (w.extractLsb' 0 3)) .function (need (w.extractLsb' 14 7 == 0x0#7) .reserved (need (below 64 (w.extractLsb' 7 7)) .register (.ok (.barcfg g (w.extractLsb' 7 7) (w.extractLsb' 0 3))))) else
  if w.extractLsb' 3 4 == 0x5#4 then need (below 8 (w.extractLsb' 14 7) && below 64 (w.extractLsb' 7 7)) .register (.ok (.voteAny g (w.extractLsb' 14 7) (w.extractLsb' 7 7) (w.extractLsb' 0 3))) else
  if w.extractLsb' 3 4 == 0x6#4 then need (below 8 (w.extractLsb' 14 7) && below 64 (w.extractLsb' 7 7)) .register (.ok (.voteAll g (w.extractLsb' 14 7) (w.extractLsb' 7 7) (w.extractLsb' 0 3))) else
  if w.extractLsb' 3 4 == 0x7#4 then need (below 64 (w.extractLsb' 14 7) && below 64 (w.extractLsb' 7 7)) .register (.ok (.voteBallot g (w.extractLsb' 14 7) (w.extractLsb' 7 7) (w.extractLsb' 0 3))) else
  .error .function

/-- Major opcode 0x34 (R103). -/
def decode34 (g : Guard) (w : Word) : Except Reject Instr :=
  if w.extractLsb' 3 4 == 0x0#4 then need (even (w.extractLsb' 14 7) && below 64 (w.extractLsb' 7 7)) .register (.ok (.qrsv g (w.extractLsb' 14 7) (w.extractLsb' 7 7) (w.extractLsb' 0 3))) else
  if w.extractLsb' 3 4 == 0x1#4 then need (w.extractLsb' 14 7 == 0x0#7 && w.extractLsb' 0 3 == 0x0#3) .reserved (need (even (w.extractLsb' 7 7)) .register (.ok (.qcmt g (w.extractLsb' 7 7)))) else
  if w.extractLsb' 3 4 == 0x2#4 then need (w.extractLsb' 14 7 == 0x0#7 && w.extractLsb' 0 3 == 0x0#3) .reserved (need (even (w.extractLsb' 7 7)) .register (.ok (.qdrop g (w.extractLsb' 7 7)))) else
  if w.extractLsb' 3 4 == 0x3#4 then need (w.extractLsb' 14 7 == 0x0#7 && w.extractLsb' 0 3 == 0x0#3) .reserved (need (even (w.extractLsb' 7 7)) .register (.ok (.qfree g (w.extractLsb' 7 7)))) else
  if w.extractLsb' 3 4 == 0x4#4 then need (w.extractLsb' 0 3 == 0x0#3) .reserved (need (below 64 (w.extractLsb' 7 7)) .register (.ok (.qstat g (w.extractLsb' 14 7) (w.extractLsb' 7 7)))) else
  if w.extractLsb' 3 4 == 0x5#4 then need (w.extractLsb' 7 7 == 0x0#7 && w.extractLsb' 0 3 == 0x0#3) .reserved (.ok (.batt g (w.extractLsb' 14 7))) else
  if w.extractLsb' 3 4 == 0x6#4 then need (w.extractLsb' 7 7 == 0x0#7) .reserved (.ok (.knnew g (w.extractLsb' 14 7) (w.extractLsb' 0 3))) else
  if w.extractLsb' 3 4 == 0x7#4 then need (w.extractLsb' 0 3 == 0x0#3) .reserved (need (even (w.extractLsb' 14 7)) .register (.ok (.knset g (w.extractLsb' 14 7) (w.extractLsb' 7 7)))) else
  if w.extractLsb' 3 4 == 0x8#4 then need (w.extractLsb' 0 3 == 0x0#3) .reserved (need (even (w.extractLsb' 14 7)) .register (.ok (.knadd g (w.extractLsb' 14 7) (w.extractLsb' 7 7)))) else
  if w.extractLsb' 3 4 == 0x9#4 then need (even (w.extractLsb' 14 7)) .register (.ok (.knget g (w.extractLsb' 14 7) (w.extractLsb' 7 7) (w.extractLsb' 0 3))) else
  if w.extractLsb' 3 4 == 0xA#4 then need (w.extractLsb' 0 3 == 0x0#3) .reserved (need (even (w.extractLsb' 14 7)) .register (.ok (.knwait g (w.extractLsb' 14 7) (w.extractLsb' 7 7)))) else
  if w.extractLsb' 3 4 == 0xB#4 then need (w.extractLsb' 14 7 == 0x0#7) .reserved (.ok (.knpoll g (w.extractLsb' 7 7) (w.extractLsb' 0 3))) else
  if w.extractLsb' 3 4 == 0xC#4 then need (w.extractLsb' 14 7 == 0x0#7 && w.extractLsb' 0 3 == 0x0#3) .reserved (.ok (.knfree g (w.extractLsb' 7 7))) else
  if w.extractLsb' 3 4 == 0xD#4 then need (w.extractLsb' 14 7 == 0x0#7 && w.extractLsb' 0 3 == 0x0#3) .reserved (.ok (.knbrk g (w.extractLsb' 7 7))) else
  .error .function

/-- Major opcode 0x35 (R103). -/
def decode35 (g : Guard) (w : Word) : Except Reject Instr :=
  if w.extractLsb' 0 7 == 0x0#7 then need (w.extractLsb' 7 7 == 0x0#7) .reserved (.ok (.hzrd g (w.extractLsb' 14 7))) else
  if w.extractLsb' 0 7 == 0x1#7 then need (w.extractLsb' 7 7 == 0x0#7) .reserved (.ok (.hzseq g (w.extractLsb' 14 7))) else
  if w.extractLsb' 0 7 == 0x2#7 then need (w.extractLsb' 14 7 == 0x0#7) .reserved (.ok (.hzwait g (w.extractLsb' 7 7))) else
  .error .function

/-- Major opcode 0x36 (R103). -/
def decode36 (g : Guard) (w : Word) : Except Reject Instr :=
  if w.extractLsb' 14 7 == 0x0#7 then .ok (.hzbrClr g (w.extractLsb' 0 14)) else
  if w.extractLsb' 14 7 == 0x1#7 then .ok (.hzbrNclr g (w.extractLsb' 0 14)) else
  .error .function

/-- Major opcode 0x38 (R103). -/
def decode38 (g : Guard) (w : Word) : Except Reject Instr :=
  if w.extractLsb' 5 2 == 0x0#2 then need (w.extractLsb' 0 5 == 0x0#5) .reserved (need (below 16 (w.extractLsb' 14 7) && below 49 (w.extractLsb' 7 7)) .register (.ok (.tdef g (w.extractLsb' 14 7) (w.extractLsb' 7 7)))) else
  if w.extractLsb' 5 2 == 0x1#2 then need (below 16 (w.extractLsb' 14 7) && below 64 (w.extractLsb' 7 7)) .register (.ok (.tld g (w.extractLsb' 14 7) (w.extractLsb' 7 7) (w.extractLsb' 0 5))) else
  if w.extractLsb' 5 2 == 0x2#2 then need (w.extractLsb' 0 5 == 0x0#5) .reserved (need (below 16 (w.extractLsb' 14 7) && below 64 (w.extractLsb' 7 7)) .register (.ok (.tst g (w.extractLsb' 14 7) (w.extractLsb' 7 7)))) else
  if w.extractLsb' 5 2 == 0x3#2 then need (w.extractLsb' 14 7 == 0x0#7 && w.extractLsb' 0 5 == 0x0#5) .reserved (need (below 49 (w.extractLsb' 7 7)) .register (.ok (.tcopy g (w.extractLsb' 7 7)))) else
  .error .function

/-- Major opcode 0x39 (R103). -/
def decode39 (g : Guard) (w : Word) : Except Reject Instr :=
  if w.extractLsb' 4 3 == 0x0#3 then need (w.extractLsb' 0 4 == 0x0#4) .reserved (.ok (.swinit g (w.extractLsb' 14 7) (w.extractLsb' 7 7))) else
  if w.extractLsb' 4 3 == 0x1#3 then need (w.extractLsb' 0 4 == 0x0#4) .reserved (.ok (.swait g (w.extractLsb' 14 7) (w.extractLsb' 7 7))) else
  if w.extractLsb' 4 3 == 0x2#3 then need (w.extractLsb' 0 4 == 0x0#4) .reserved (.ok (.swadd g (w.extractLsb' 14 7) (w.extractLsb' 7 7))) else
  if w.extractLsb' 4 3 == 0x3#3 then need (w.extractLsb' 14 7 == 0x0#7 && w.extractLsb' 0 2 == 0x0#2) .reserved (.ok (.waito g (w.extractLsb' 7 7) (w.extractLsb' 2 2))) else
  .error .function

/-- Major opcode 0x3A (R103). -/
def decode3A (g : Guard) (w : Word) : Except Reject Instr :=
  if w.extractLsb' 6 1 == 0x0#1 then need (w.extractLsb' 7 7 == 0x0#7 && w.extractLsb' 0 3 == 0x0#3) .reserved (need (below 16 (w.extractLsb' 14 7)) .register (.ok (.press g (w.extractLsb' 14 7) (w.extractLsb' 3 3)))) else
  if w.extractLsb' 6 1 == 0x1#1 then need (w.extractLsb' 0 3 == 0x0#3) .reserved (need (below 16 (w.extractLsb' 14 7) && below 64 (w.extractLsb' 7 7)) .register (.ok (.pressw g (w.extractLsb' 14 7) (w.extractLsb' 7 7) (w.extractLsb' 3 3)))) else
  .error .function

/-- Major opcode 0x3C (R103). -/
def decode3C (g : Guard) (w : Word) : Except Reject Instr :=
  if w.extractLsb' 4 3 == 0x0#3 then need (w.extractLsb' 0 3 == 0x0#3) .reserved (need (below 32 (w.extractLsb' 14 7) && below 32 (w.extractLsb' 7 7)) .register (.ok (.skadd g (w.extractLsb' 14 7) (w.extractLsb' 7 7) (w.extractLsb' 3 1)))) else
  if w.extractLsb' 4 3 == 0x1#3 then need (w.extractLsb' 0 3 == 0x0#3) .reserved (need (below 32 (w.extractLsb' 14 7) && below 32 (w.extractLsb' 7 7)) .register (.ok (.sksub g (w.extractLsb' 14 7) (w.extractLsb' 7 7) (w.extractLsb' 3 1)))) else
  if w.extractLsb' 4 3 == 0x2#3 then need (w.extractLsb' 0 3 == 0x0#3) .reserved (need (below 32 (w.extractLsb' 14 7) && below 32 (w.extractLsb' 7 7)) .register (.ok (.skmax g (w.extractLsb' 14 7) (w.extractLsb' 7 7) (w.extractLsb' 3 1)))) else
  if w.extractLsb' 4 3 == 0x3#3 then need (w.extractLsb' 0 3 == 0x0#3) .reserved (need (below 32 (w.extractLsb' 14 7) && below 32 (w.extractLsb' 7 7)) .register (.ok (.skmin g (w.extractLsb' 14 7) (w.extractLsb' 7 7) (w.extractLsb' 3 1)))) else
  if w.extractLsb' 4 3 == 0x4#3 then need (w.extractLsb' 0 3 == 0x0#3) .reserved (need (below 32 (w.extractLsb' 14 7) && below 64 (w.extractLsb' 7 7)) .register (.ok (.skset g (w.extractLsb' 14 7) (w.extractLsb' 7 7) (w.extractLsb' 3 1)))) else
  if w.extractLsb' 4 3 == 0x5#3 then need (w.extractLsb' 0 3 == 0x0#3) .reserved (need (below 32 (w.extractLsb' 14 7) && below 32 (w.extractLsb' 7 7)) .register (.ok (.skmov g (w.extractLsb' 14 7) (w.extractLsb' 7 7) (w.extractLsb' 3 1)))) else
  if w.extractLsb' 4 3 == 0x6#3 then need (w.extractLsb' 0 4 == 0x0#4) .reserved (need (below 32 (w.extractLsb' 7 7)) .register (.ok (.skext g (w.extractLsb' 14 7) (w.extractLsb' 7 7)))) else
  if w.extractLsb' 4 3 == 0x7#3 then need (w.extractLsb' 0 3 == 0x0#3) .reserved (need (below 32 (w.extractLsb' 14 7)) .register (.ok (.skins g (w.extractLsb' 14 7) (w.extractLsb' 7 7) (w.extractLsb' 3 1)))) else
  .error .function

/-- Major opcode 0x3D (R103). -/
def decode3D (g : Guard) (w : Word) : Except Reject Instr :=
  if w.extractLsb' 0 7 == 0x0#7 then need (below 16 (w.extractLsb' 14 7) && below 32 (w.extractLsb' 7 7)) .register (.ok (.skbind g (w.extractLsb' 14 7) (w.extractLsb' 7 7))) else
  if w.extractLsb' 0 7 == 0x1#7 then need (below 16 (w.extractLsb' 14 7) && below 16 (w.extractLsb' 7 7)) .register (.ok (.cmpr g (w.extractLsb' 14 7) (w.extractLsb' 7 7))) else
  if w.extractLsb' 0 7 == 0x2#7 then need (below 16 (w.extractLsb' 14 7) && below 16 (w.extractLsb' 7 7)) .register (.ok (.sbmap g (w.extractLsb' 14 7) (w.extractLsb' 7 7))) else
  if w.extractLsb' 0 7 == 0x3#7 then need (w.extractLsb' 14 7 == 0x0#7) .reserved (need (below 64 (w.extractLsb' 7 7)) .register (.ok (.cbld g (w.extractLsb' 7 7)))) else
  if w.extractLsb' 0 7 == 0x4#7 then need (w.extractLsb' 7 14 == 0x0#14) .reserved (.ok (.cbldDef g)) else
  if w.extractLsb' 0 7 == 0x5#7 then .ok (.cbdec g (w.extractLsb' 14 7) (w.extractLsb' 7 7)) else
  .error .function

/-- Major opcode 0x3E (R103). -/
def decode3E (g : Guard) (w : Word) : Except Reject Instr :=
  if w.extractLsb' 0 7 == 0x0#7 then need (below 62 (w.extractLsb' 7 7)) .function (need (w.extractLsb' 14 7 == 0x0#7) .reserved (.ok (.rsend g (w.extractLsb' 7 7)))) else
  if w.extractLsb' 0 7 == 0x1#7 then need (below 62 (w.extractLsb' 7 7)) .function (need (w.extractLsb' 14 7 == 0x0#7) .reserved (.ok (.rsendAdd g (w.extractLsb' 7 7)))) else
  if w.extractLsb' 0 7 == 0x2#7 then need (below 61 (w.extractLsb' 7 7)) .function (need (below 64 (w.extractLsb' 14 7)) .register (.ok (.tsend g (w.extractLsb' 14 7) (w.extractLsb' 7 7)))) else
  if w.extractLsb' 0 7 == 0x3#7 then need (w.extractLsb' 14 7 == 0x0#7) .reserved (need (below 64 (w.extractLsb' 7 7)) .register (.ok (.tscncl g (w.extractLsb' 7 7)))) else
  if w.extractLsb' 0 7 == 0x4#7 then need (below 61 (w.extractLsb' 7 7)) .function (need (w.extractLsb' 14 7 == 0x0#7) .reserved (.ok (.esend g (w.extractLsb' 7 7)))) else
  if w.extractLsb' 0 7 == 0x5#7 then need (below 62 (w.extractLsb' 7 7)) .function (need (w.extractLsb' 14 7 == 0x0#7) .reserved (.ok (.erecv g (w.extractLsb' 7 7)))) else
  .error .function

/-- The instruction a word is, or the first check of R114 it fails. -/
def decode (w : Word) : Except Reject Instr :=
  let g := guardOf w
  match majorOf w with
  | 0x01#6 => .ok (.iadd g (w.extractLsb' 14 7) (w.extractLsb' 7 7) (w.extractLsb' 0 7))
  | 0x02#6 => .ok (.isub g (w.extractLsb' 14 7) (w.extractLsb' 7 7) (w.extractLsb' 0 7))
  | 0x03#6 => .ok (.imul g (w.extractLsb' 14 7) (w.extractLsb' 7 7) (w.extractLsb' 0 7))
  | 0x04#6 => .ok (.imad g (w.extractLsb' 14 7) (w.extractLsb' 7 7) (w.extractLsb' 0 7))
  | 0x05#6 => .ok (.and g (w.extractLsb' 14 7) (w.extractLsb' 7 7) (w.extractLsb' 0 7))
  | 0x06#6 => .ok (.or g (w.extractLsb' 14 7) (w.extractLsb' 7 7) (w.extractLsb' 0 7))
  | 0x07#6 => .ok (.xor g (w.extractLsb' 14 7) (w.extractLsb' 7 7) (w.extractLsb' 0 7))
  | 0x08#6 => .ok (.shl g (w.extractLsb' 14 7) (w.extractLsb' 7 7) (w.extractLsb' 0 7))
  | 0x09#6 => .ok (.shr g (w.extractLsb' 14 7) (w.extractLsb' 7 7) (w.extractLsb' 0 7))
  | 0x0A#6 => need (icmpClass (w.extractLsb' 17 4) (w.extractLsb' 7 7) (w.extractLsb' 0 7)) .register (.ok (.icmp g (w.extractLsb' 17 4) (w.extractLsb' 14 3) (w.extractLsb' 7 7) (w.extractLsb' 0 7)))
  | 0x0B#6 => .ok (.sel g (w.extractLsb' 14 7) (w.extractLsb' 7 7) (w.extractLsb' 0 7))
  | 0x0C#6 => need (even (w.extractLsb' 14 7) && even (w.extractLsb' 7 7)) .register (.ok (.lea g (w.extractLsb' 14 7) (w.extractLsb' 7 7) (w.extractLsb' 0 7)))
  | 0x0D#6 => .ok (.bfi g (w.extractLsb' 14 7) (w.extractLsb' 7 7) (w.extractLsb' 0 7))
  | 0x0E#6 => .ok (.idp4 g (w.extractLsb' 14 7) (w.extractLsb' 7 7) (w.extractLsb' 0 7))
  | 0x0F#6 => decode0F g w
  | 0x10#6 => decode10 g w
  | 0x11#6 => .ok (.iaddImm g (w.extractLsb' 14 7) (w.extractLsb' 7 7) (w.extractLsb' 0 7))
  | 0x12#6 => decode12 g w
  | 0x13#6 => .ok (.movi g (w.extractLsb' 14 7) (w.extractLsb' 0 14))
  | 0x14#6 => .ok (.movhi g (w.extractLsb' 14 7) (w.extractLsb' 0 14))
  | 0x15#6 => decode15 g w
  | 0x16#6 => decode16 g w
  | 0x17#6 => decode17 g w
  | 0x18#6 => .ok (.fadd g (w.extractLsb' 14 7) (w.extractLsb' 7 7) (w.extractLsb' 0 7))
  | 0x19#6 => .ok (.fsub g (w.extractLsb' 14 7) (w.extractLsb' 7 7) (w.extractLsb' 0 7))
  | 0x1A#6 => .ok (.fmul g (w.extractLsb' 14 7) (w.extractLsb' 7 7) (w.extractLsb' 0 7))
  | 0x1B#6 => .ok (.ffma g (w.extractLsb' 14 7) (w.extractLsb' 7 7) (w.extractLsb' 0 7))
  | 0x1C#6 => decode1C g w
  | 0x1D#6 => decode1D g w
  | 0x1E#6 => decode1E g w
  | 0x1F#6 => need (cvtCodes (w.extractLsb' 4 3) (w.extractLsb' 0 4)) .function (.ok (.cvt g (w.extractLsb' 14 7) (w.extractLsb' 7 7) (w.extractLsb' 4 3) (w.extractLsb' 0 4)))
  | 0x20#6 => .ok (.hfma2Hf g (w.extractLsb' 14 7) (w.extractLsb' 7 7) (w.extractLsb' 0 7))
  | 0x21#6 => .ok (.hfma2Bf g (w.extractLsb' 14 7) (w.extractLsb' 7 7) (w.extractLsb' 0 7))
  | 0x22#6 => need (even (w.extractLsb' 7 7)) .register (.ok (.ldW g (w.extractLsb' 14 7) (w.extractLsb' 7 7) (w.extractLsb' 0 7)))
  | 0x23#6 => need (even (w.extractLsb' 7 7)) .register (.ok (.stW g (w.extractLsb' 14 7) (w.extractLsb' 7 7) (w.extractLsb' 0 7)))
  | 0x24#6 => decode24 g w
  | 0x25#6 => decode25 g w
  | 0x26#6 => decode26 g w
  | 0x27#6 => decode27 g w
  | 0x28#6 => decode28 g w
  | 0x29#6 => decode29 g w
  | 0x2A#6 => .ok (.bra g (w.extractLsb' 0 21))
  | 0x2B#6 => .ok (.call g (w.extractLsb' 0 21))
  | 0x2C#6 => need (w.extractLsb' 17 4 == 0x0#4) .reserved (.ok (.brp g (w.extractLsb' 14 3) (w.extractLsb' 0 14)))
  | 0x2D#6 => .ok (.bdec g (w.extractLsb' 14 7) (w.extractLsb' 0 14))
  | 0x2E#6 => decode2E g w
  | 0x2F#6 => need (w.extractLsb' 0 6 == 0x0#6) .reserved (.ok (.rep g (w.extractLsb' 15 6) (w.extractLsb' 12 3) (w.extractLsb' 9 3) (w.extractLsb' 6 3)))
  | 0x30#6 => decode30 g w
  | 0x31#6 => decode31 g w
  | 0x32#6 => decode32 g w
  | 0x33#6 => decode33 g w
  | 0x34#6 => decode34 g w
  | 0x35#6 => decode35 g w
  | 0x36#6 => decode36 g w
  | 0x38#6 => decode38 g w
  | 0x39#6 => decode39 g w
  | 0x3A#6 => decode3A g w
  | 0x3B#6 => need (w.extractLsb' 0 1 == 0x0#1) .reserved (need (vacc (w.extractLsb' 14 7) && below 16 (w.extractLsb' 7 7)) .register (.ok (.mma g (w.extractLsb' 14 7) (w.extractLsb' 7 7) (w.extractLsb' 4 3) (w.extractLsb' 1 3))))
  | 0x3C#6 => decode3C g w
  | 0x3D#6 => decode3D g w
  | 0x3E#6 => decode3E g w
  | _ => .error .major

/-- A word from its predicate, stall count, major opcode and payload (R99). -/
def mkWord (g : Guard) (major : BitVec 6) (payload : BitVec 21) : Word :=
  g.pred ++ g.stall ++ major ++ payload

/-- The word of an instruction; events have none and give 0. -/
def encode : Instr → Word
  | .iadd g d a b => mkWord g 0x01#6 (d ++ a ++ b)
  | .isub g d a b => mkWord g 0x02#6 (d ++ a ++ b)
  | .imul g d a b => mkWord g 0x03#6 (d ++ a ++ b)
  | .imad g d a b => mkWord g 0x04#6 (d ++ a ++ b)
  | .and g d a b => mkWord g 0x05#6 (d ++ a ++ b)
  | .or g d a b => mkWord g 0x06#6 (d ++ a ++ b)
  | .xor g d a b => mkWord g 0x07#6 (d ++ a ++ b)
  | .shl g d a b => mkWord g 0x08#6 (d ++ a ++ b)
  | .shr g d a b => mkWord g 0x09#6 (d ++ a ++ b)
  | .icmp g c q a b => mkWord g 0x0A#6 (c ++ q ++ a ++ b)
  | .sel g d a b => mkWord g 0x0B#6 (d ++ a ++ b)
  | .lea g d a b => mkWord g 0x0C#6 (d ++ a ++ b)
  | .bfi g d a b => mkWord g 0x0D#6 (d ++ a ++ b)
  | .idp4 g d a b => mkWord g 0x0E#6 (d ++ a ++ b)
  | .imulh g d a => mkWord g 0x0F#6 (d ++ a ++ 0x0#7)
  | .imulhUns g d a => mkWord g 0x0F#6 (d ++ a ++ 0x1#7)
  | .idiv g d a => mkWord g 0x0F#6 (d ++ a ++ 0x2#7)
  | .idivUns g d a => mkWord g 0x0F#6 (d ++ a ++ 0x3#7)
  | .irem g d a => mkWord g 0x0F#6 (d ++ a ++ 0x4#7)
  | .iremUns g d a => mkWord g 0x0F#6 (d ++ a ++ 0x5#7)
  | .imin g d a => mkWord g 0x0F#6 (d ++ a ++ 0x6#7)
  | .iminUns g d a => mkWord g 0x0F#6 (d ++ a ++ 0x7#7)
  | .imax g d a => mkWord g 0x0F#6 (d ++ a ++ 0x8#7)
  | .imaxUns g d a => mkWord g 0x0F#6 (d ++ a ++ 0x9#7)
  | .andn g d a => mkWord g 0x0F#6 (d ++ a ++ 0xA#7)
  | .sar g d a => mkWord g 0x0F#6 (d ++ a ++ 0xB#7)
  | .rotl g d a => mkWord g 0x0F#6 (d ++ a ++ 0xC#7)
  | .bfx g d a => mkWord g 0x0F#6 (d ++ a ++ 0xD#7)
  | .bfxUns g d a => mkWord g 0x0F#6 (d ++ a ++ 0xE#7)
  | .iaddD g d a => mkWord g 0x0F#6 (d ++ a ++ 0x20#7)
  | .isubD g d a => mkWord g 0x0F#6 (d ++ a ++ 0x21#7)
  | .imulD g d a => mkWord g 0x0F#6 (d ++ a ++ 0x22#7)
  | .andD g d a => mkWord g 0x0F#6 (d ++ a ++ 0x23#7)
  | .orD g d a => mkWord g 0x0F#6 (d ++ a ++ 0x24#7)
  | .xorD g d a => mkWord g 0x0F#6 (d ++ a ++ 0x25#7)
  | .andnD g d a => mkWord g 0x0F#6 (d ++ a ++ 0x26#7)
  | .iminD g d a => mkWord g 0x0F#6 (d ++ a ++ 0x27#7)
  | .shlD g d a => mkWord g 0x0F#6 (d ++ a ++ 0x28#7)
  | .shrD g d a => mkWord g 0x0F#6 (d ++ a ++ 0x29#7)
  | .sarD g d a => mkWord g 0x0F#6 (d ++ a ++ 0x2A#7)
  | .rotlD g d a => mkWord g 0x0F#6 (d ++ a ++ 0x2B#7)
  | .iminDUns g d a => mkWord g 0x0F#6 (d ++ a ++ 0x2C#7)
  | .imaxD g d a => mkWord g 0x0F#6 (d ++ a ++ 0x2D#7)
  | .imaxDUns g d a => mkWord g 0x0F#6 (d ++ a ++ 0x2E#7)
  | .mov g d a => mkWord g 0x10#6 (d ++ a ++ 0x0#7)
  | .iabs g d a => mkWord g 0x10#6 (d ++ a ++ 0x1#7)
  | .ineg g d a => mkWord g 0x10#6 (d ++ a ++ 0x2#7)
  | .not g d a => mkWord g 0x10#6 (d ++ a ++ 0x3#7)
  | .popc g d a => mkWord g 0x10#6 (d ++ a ++ 0x4#7)
  | .clz g d a => mkWord g 0x10#6 (d ++ a ++ 0x5#7)
  | .ctz g d a => mkWord g 0x10#6 (d ++ a ++ 0x6#7)
  | .brev g d a => mkWord g 0x10#6 (d ++ a ++ 0x7#7)
  | .movD g d a => mkWord g 0x10#6 (d ++ a ++ 0x20#7)
  | .iabsD g d a => mkWord g 0x10#6 (d ++ a ++ 0x21#7)
  | .inegD g d a => mkWord g 0x10#6 (d ++ a ++ 0x22#7)
  | .notD g d a => mkWord g 0x10#6 (d ++ a ++ 0x23#7)
  | .popcD g d a => mkWord g 0x10#6 (d ++ a ++ 0x24#7)
  | .clzD g d a => mkWord g 0x10#6 (d ++ a ++ 0x25#7)
  | .ctzD g d a => mkWord g 0x10#6 (d ++ a ++ 0x26#7)
  | .brevD g d a => mkWord g 0x10#6 (d ++ a ++ 0x27#7)
  | .iaddImm g d a i => mkWord g 0x11#6 (d ++ a ++ i)
  | .shlImm g d a n => mkWord g 0x12#6 (d ++ a ++ 0x0#2 ++ n)
  | .shrImm g d a n => mkWord g 0x12#6 (d ++ a ++ 0x1#2 ++ n)
  | .sarImm g d a n => mkWord g 0x12#6 (d ++ a ++ 0x2#2 ++ n)
  | .rotlImm g d a n => mkWord g 0x12#6 (d ++ a ++ 0x3#2 ++ n)
  | .movi g d i => mkWord g 0x13#6 (d ++ i)
  | .movhi g d i => mkWord g 0x14#6 (d ++ i)
  | .pand g q a b => mkWord g 0x15#6 (0x0#4 ++ q ++ a ++ b)
  | .por g q a b => mkWord g 0x15#6 (0x1#4 ++ q ++ a ++ b)
  | .pxor g q a b => mkWord g 0x15#6 (0x2#4 ++ q ++ a ++ b)
  | .pnot g q a => mkWord g 0x15#6 (0x3#4 ++ q ++ a ++ 0x0#7)
  | .mfs g d r => mkWord g 0x16#6 (d ++ 0x0#8 ++ r)
  | .mts g a r => mkWord g 0x16#6 (0x0#7 ++ a ++ 0x1#1 ++ r)
  | .mvs g d a => mkWord g 0x17#6 (d ++ a ++ 0x0#7)
  | .mvsD g d a => mkWord g 0x17#6 (d ++ a ++ 0x1#7)
  | .movs g d a => mkWord g 0x17#6 (d ++ a ++ 0x2#7)
  | .movsD g d a => mkWord g 0x17#6 (d ++ a ++ 0x3#7)
  | .fadd g d a b => mkWord g 0x18#6 (d ++ a ++ b)
  | .fsub g d a b => mkWord g 0x19#6 (d ++ a ++ b)
  | .fmul g d a b => mkWord g 0x1A#6 (d ++ a ++ b)
  | .ffma g d a b => mkWord g 0x1B#6 (d ++ a ++ b)
  | .fcmp g c q a b => mkWord g 0x1C#6 (0x0#1 ++ c ++ q ++ a ++ b)
  | .fdiv g d a => mkWord g 0x1D#6 (d ++ a ++ 0x0#7)
  | .fmin g d a => mkWord g 0x1D#6 (d ++ a ++ 0x1#7)
  | .fmax g d a => mkWord g 0x1D#6 (d ++ a ++ 0x2#7)
  | .hadd2Hf g d a => mkWord g 0x1D#6 (d ++ a ++ 0x10#7)
  | .hadd2Bf g d a => mkWord g 0x1D#6 (d ++ a ++ 0x11#7)
  | .hmul2Hf g d a => mkWord g 0x1D#6 (d ++ a ++ 0x12#7)
  | .hmul2Bf g d a => mkWord g 0x1D#6 (d ++ a ++ 0x13#7)
  | .frcp g d a => mkWord g 0x1E#6 (d ++ a ++ 0x0#7)
  | .frsq g d a => mkWord g 0x1E#6 (d ++ a ++ 0x1#7)
  | .fsqrt g d a => mkWord g 0x1E#6 (d ++ a ++ 0x2#7)
  | .fexp2 g d a => mkWord g 0x1E#6 (d ++ a ++ 0x3#7)
  | .flog2 g d a => mkWord g 0x1E#6 (d ++ a ++ 0x4#7)
  | .fclass g d a => mkWord g 0x1E#6 (d ++ a ++ 0x5#7)
  | .cvt g d a x y => mkWord g 0x1F#6 (d ++ a ++ x ++ y)
  | .hfma2Hf g d a b => mkWord g 0x20#6 (d ++ a ++ b)
  | .hfma2Bf g d a b => mkWord g 0x21#6 (d ++ a ++ b)
  | .ldW g d a o => mkWord g 0x22#6 (d ++ a ++ o)
  | .stW g d a o => mkWord g 0x23#6 (d ++ a ++ o)
  | .ld g d a z => mkWord g 0x24#6 (d ++ a ++ z ++ 0x0#4)
  | .ldAcq g d a z k => mkWord g 0x24#6 (d ++ a ++ z ++ 0x1#1 ++ k)
  | .st g d a z => mkWord g 0x25#6 (d ++ a ++ z ++ 0x0#4)
  | .stRel g d a z k => mkWord g 0x25#6 (d ++ a ++ z ++ 0x1#1 ++ k)
  | .lds g d a z => mkWord g 0x26#6 (d ++ a ++ 0x0#1 ++ z ++ 0x0#3)
  | .sts g d a z => mkWord g 0x26#6 (d ++ a ++ 0x1#1 ++ z ++ 0x0#3)
  | .ldo g d a z => mkWord g 0x27#6 (d ++ a ++ z ++ 0x0#4)
  | .ldoAcq g d a z k => mkWord g 0x27#6 (d ++ a ++ z ++ 0x1#1 ++ k)
  | .amoAdd g d a k => mkWord g 0x28#6 (d ++ a ++ 0x0#4 ++ k)
  | .amoSub g d a k => mkWord g 0x28#6 (d ++ a ++ 0x1#4 ++ k)
  | .amoMin g d a k => mkWord g 0x28#6 (d ++ a ++ 0x2#4 ++ k)
  | .amoMax g d a k => mkWord g 0x28#6 (d ++ a ++ 0x3#4 ++ k)
  | .amoMinUns g d a k => mkWord g 0x28#6 (d ++ a ++ 0x4#4 ++ k)
  | .amoMaxUns g d a k => mkWord g 0x28#6 (d ++ a ++ 0x5#4 ++ k)
  | .amoAnd g d a k => mkWord g 0x28#6 (d ++ a ++ 0x6#4 ++ k)
  | .amoOr g d a k => mkWord g 0x28#6 (d ++ a ++ 0x7#4 ++ k)
  | .amoXor g d a k => mkWord g 0x28#6 (d ++ a ++ 0x8#4 ++ k)
  | .amoSwp g d a k => mkWord g 0x28#6 (d ++ a ++ 0x9#4 ++ k)
  | .amoAddF g d a k => mkWord g 0x28#6 (d ++ a ++ 0xA#4 ++ k)
  | .acas g d a k => mkWord g 0x28#6 (d ++ a ++ 0xB#4 ++ k)
  | .amoAddD g d a k => mkWord g 0x28#6 (d ++ a ++ 0xC#4 ++ k)
  | .amoSwpD g d a k => mkWord g 0x28#6 (d ++ a ++ 0xD#4 ++ k)
  | .acasD g d a k => mkWord g 0x28#6 (d ++ a ++ 0xE#4 ++ k)
  | .amosAdd g d a => mkWord g 0x28#6 (d ++ a ++ 0x0#7)
  | .amosSub g d a => mkWord g 0x28#6 (d ++ a ++ 0x8#7)
  | .amosMin g d a => mkWord g 0x28#6 (d ++ a ++ 0x10#7)
  | .amosMax g d a => mkWord g 0x28#6 (d ++ a ++ 0x18#7)
  | .amosMinUns g d a => mkWord g 0x28#6 (d ++ a ++ 0x20#7)
  | .amosMaxUns g d a => mkWord g 0x28#6 (d ++ a ++ 0x28#7)
  | .amosAnd g d a => mkWord g 0x28#6 (d ++ a ++ 0x30#7)
  | .amosOr g d a => mkWord g 0x28#6 (d ++ a ++ 0x38#7)
  | .amosXor g d a => mkWord g 0x28#6 (d ++ a ++ 0x40#7)
  | .amosSwp g d a => mkWord g 0x28#6 (d ++ a ++ 0x48#7)
  | .amosCas g d a => mkWord g 0x28#6 (d ++ a ++ 0x58#7)
  | .fenceAcq g k => mkWord g 0x29#6 (0x0#18 ++ k)
  | .fenceRel g k => mkWord g 0x29#6 (0x1#18 ++ k)
  | .fence g k => mkWord g 0x29#6 (0x2#18 ++ k)
  | .invl1 g a => mkWord g 0x29#6 (0x0#7 ++ a ++ 0x18#7)
  | .invl1All g => mkWord g 0x29#6 (0x20#21)
  | .tkrel g a => mkWord g 0x29#6 (0x0#7 ++ a ++ 0x28#7)
  | .bra g f => mkWord g 0x2A#6 (f)
  | .call g f => mkWord g 0x2B#6 (f)
  | .brp g n i => mkWord g 0x2C#6 (0x0#4 ++ n ++ i)
  | .bdec g d i => mkWord g 0x2D#6 (d ++ i)
  | .nop g => mkWord g 0x2E#6 (0x0#21)
  | .exit g => mkWord g 0x2E#6 (0x1#21)
  | .ret g => mkWord g 0x2E#6 (0x2#21)
  | .callv g a => mkWord g 0x2E#6 (0x0#7 ++ a ++ 0x3#7)
  | .jmpv g a => mkWord g 0x2E#6 (0x0#7 ++ a ++ 0x4#7)
  | .trap g n => mkWord g 0x2E#6 (n ++ 0x8#14)
  | .bkpt g n => mkWord g 0x2E#6 (n ++ 0x9#14)
  | .yieldp g => mkWord g 0x2E#6 (0xA#21)
  | .rte g => mkWord g 0x2E#6 (0x10#21)
  | .rteRerun g => mkWord g 0x2E#6 (0x11#21)
  | .trrec g d a => mkWord g 0x2E#6 (d ++ a ++ 0x12#7)
  | .rep g n x y z => mkWord g 0x2F#6 (n ++ x ++ y ++ z ++ 0x0#6)
  | .hintWait g w => mkWord g 0x30#6 (0x0#4 ++ w)
  | .hintExt g e => mkWord g 0x30#6 (0x1#4 ++ e)
  | .hintMod g x r => mkWord g 0x30#6 (0x8000#18 ++ x ++ r)
  | .hintCache g l c => mkWord g 0x30#6 (0x6000#17 ++ l ++ c)
  | .hintFetchI g o => mkWord g 0x30#6 (0x8#5 ++ o)
  | .hintFetchD g a o => mkWord g 0x30#6 (0x9#5 ++ a ++ o)
  | .xlmIdx g d a m => mkWord g 0x31#6 (d ++ a ++ 0x0#2 ++ m)
  | .xlmXor g d a m => mkWord g 0x31#6 (d ++ a ++ 0x1#2 ++ m)
  | .xlmUp g d a m => mkWord g 0x31#6 (d ++ a ++ 0x2#2 ++ m)
  | .xlmDn g d a m => mkWord g 0x31#6 (d ++ a ++ 0x3#2 ++ m)
  | .red g d a o => mkWord g 0x32#6 (d ++ a ++ 0x0#2 ++ o)
  | .scan g d a o => mkWord g 0x32#6 (d ++ a ++ 0x2#2 ++ o)
  | .scanExcl g d a o => mkWord g 0x32#6 (d ++ a ++ 0x3#2 ++ o)
  | .elect g d a => mkWord g 0x33#6 (d ++ a ++ 0x0#7)
  | .cvset g d a => mkWord g 0x33#6 (d ++ a ++ 0x8#7)
  | .phase g a => mkWord g 0x33#6 (0x0#7 ++ a ++ 0x10#7)
  | .bar g a k => mkWord g 0x33#6 (0x0#7 ++ a ++ 0x3#4 ++ k)
  | .barcfg g a k => mkWord g 0x33#6 (0x0#7 ++ a ++ 0x4#4 ++ k)
  | .voteAny g d a x => mkWord g 0x33#6 (d ++ a ++ 0x5#4 ++ x)
  | .voteAll g d a x => mkWord g 0x33#6 (d ++ a ++ 0x6#4 ++ x)
  | .voteBallot g d a x => mkWord g 0x33#6 (d ++ a ++ 0x7#4 ++ x)
  | .qrsv g d a x => mkWord g 0x34#6 (d ++ a ++ 0x0#4 ++ x)
  | .qcmt g a => mkWord g 0x34#6 (0x0#7 ++ a ++ 0x8#7)
  | .qdrop g a => mkWord g 0x34#6 (0x0#7 ++ a ++ 0x10#7)
  | .qfree g a => mkWord g 0x34#6 (0x0#7 ++ a ++ 0x18#7)
  | .qstat g d a => mkWord g 0x34#6 (d ++ a ++ 0x20#7)
  | .batt g d => mkWord g 0x34#6 (d ++ 0x28#14)
  | .knnew g d x => mkWord g 0x34#6 (d ++ 0x6#11 ++ x)
  | .knset g d a => mkWord g 0x34#6 (d ++ a ++ 0x38#7)
  | .knadd g d a => mkWord g 0x34#6 (d ++ a ++ 0x40#7)
  | .knget g d a x => mkWord g 0x34#6 (d ++ a ++ 0x9#4 ++ x)
  | .knwait g d a => mkWord g 0x34#6 (d ++ a ++ 0x50#7)
  | .knpoll g a x => mkWord g 0x34#6 (0x0#7 ++ a ++ 0xB#4 ++ x)
  | .knfree g a => mkWord g 0x34#6 (0x0#7 ++ a ++ 0x60#7)
  | .knbrk g a => mkWord g 0x34#6 (0x0#7 ++ a ++ 0x68#7)
  | .hzrd g d => mkWord g 0x35#6 (d ++ 0x0#14)
  | .hzseq g d => mkWord g 0x35#6 (d ++ 0x1#14)
  | .hzwait g a => mkWord g 0x35#6 (0x0#7 ++ a ++ 0x2#7)
  | .hzbrClr g i => mkWord g 0x36#6 (0x0#7 ++ i)
  | .hzbrNclr g i => mkWord g 0x36#6 (0x1#7 ++ i)
  | .tdef g d a => mkWord g 0x38#6 (d ++ a ++ 0x0#7)
  | .tld g d a m => mkWord g 0x38#6 (d ++ a ++ 0x1#2 ++ m)
  | .tst g d a => mkWord g 0x38#6 (d ++ a ++ 0x40#7)
  | .tcopy g a => mkWord g 0x38#6 (0x0#7 ++ a ++ 0x60#7)
  | .swinit g d a => mkWord g 0x39#6 (d ++ a ++ 0x0#7)
  | .swait g d a => mkWord g 0x39#6 (d ++ a ++ 0x10#7)
  | .swadd g d a => mkWord g 0x39#6 (d ++ a ++ 0x20#7)
  | .waito g n c => mkWord g 0x39#6 (0x0#7 ++ n ++ 0x3#3 ++ c ++ 0x0#2)
  | .press g d m => mkWord g 0x3A#6 (d ++ 0x0#8 ++ m ++ 0x0#3)
  | .pressw g d a m => mkWord g 0x3A#6 (d ++ a ++ 0x1#1 ++ m ++ 0x0#3)
  | .mma g d a m j => mkWord g 0x3B#6 (d ++ a ++ m ++ j ++ 0x0#1)
  | .skadd g d a r => mkWord g 0x3C#6 (d ++ a ++ 0x0#3 ++ r ++ 0x0#3)
  | .sksub g d a r => mkWord g 0x3C#6 (d ++ a ++ 0x1#3 ++ r ++ 0x0#3)
  | .skmax g d a r => mkWord g 0x3C#6 (d ++ a ++ 0x2#3 ++ r ++ 0x0#3)
  | .skmin g d a r => mkWord g 0x3C#6 (d ++ a ++ 0x3#3 ++ r ++ 0x0#3)
  | .skset g d a r => mkWord g 0x3C#6 (d ++ a ++ 0x4#3 ++ r ++ 0x0#3)
  | .skmov g d a r => mkWord g 0x3C#6 (d ++ a ++ 0x5#3 ++ r ++ 0x0#3)
  | .skext g d a => mkWord g 0x3C#6 (d ++ a ++ 0x60#7)
  | .skins g d a r => mkWord g 0x3C#6 (d ++ a ++ 0x7#3 ++ r ++ 0x0#3)
  | .skbind g d a => mkWord g 0x3D#6 (d ++ a ++ 0x0#7)
  | .cmpr g d a => mkWord g 0x3D#6 (d ++ a ++ 0x1#7)
  | .sbmap g d a => mkWord g 0x3D#6 (d ++ a ++ 0x2#7)
  | .cbld g a => mkWord g 0x3D#6 (0x0#7 ++ a ++ 0x3#7)
  | .cbldDef g => mkWord g 0x3D#6 (0x4#21)
  | .cbdec g d a => mkWord g 0x3D#6 (d ++ a ++ 0x5#7)
  | .rsend g a => mkWord g 0x3E#6 (0x0#7 ++ a ++ 0x0#7)
  | .rsendAdd g a => mkWord g 0x3E#6 (0x0#7 ++ a ++ 0x1#7)
  | .tsend g d a => mkWord g 0x3E#6 (d ++ a ++ 0x2#7)
  | .tscncl g a => mkWord g 0x3E#6 (0x0#7 ++ a ++ 0x3#7)
  | .esend g a => mkWord g 0x3E#6 (0x0#7 ++ a ++ 0x4#7)
  | .erecv g a => mkWord g 0x3E#6 (0x0#7 ++ a ++ 0x5#7)
  | .illegalInstruction w => w
  | .instructionFill _ _ _ => 0#32
  | .divideResult _ _ => 0#32
  | .phaseEnd _ => 0#32
  | .battTimerExpiry _ _ _ _ _ => 0#32
  | .remoteKnotEvent _ => 0#32
  | .waiterWake _ _ _ => 0#32
  | .bindRecord _ _ _ => 0#32
  | .launch _ _ => 0#32
  | .l1Read _ _ _ => 0#32
  | .send _ _ _ => 0#32
  | .perform _ => 0#32
  | .fill _ _ _ => 0#32
  | .release _ _ _ => 0#32
  | .acquire _ _ _ => 0#32
  | .drop _ _ _ => 0#32
  | .evict _ _ => 0#32
  | .settle _ _ _ => 0#32
  | .tableWalk _ _ _ => 0#32
  | .tlbShootdown _ => 0#32
  | .migration _ _ _ => 0#32
  | .readPacket _ _ => 0#32
  | .writePacket _ _ => 0#32
  | .portReply _ _ => 0#32
  | .refreshWindowStart _ _ _ => 0#32
  | .refreshWindowEnd _ _ _ => 0#32
  | .writeWindowOpens _ _ => 0#32
  | .engineStart _ _ => 0#32
  | .chunkCredit _ _ _ => 0#32
  | .pressComplete _ _ => 0#32
  | .cbldComplete _ _ => 0#32
  | .passStart _ _ => 0#32
  | .passWriteback _ _ => 0#32
  | .engineRetire _ _ => 0#32
  | .failure _ _ => 0#32
  | .trapEntry _ => 0#32
  | .preempt _ => 0#32
  | .drainLimitExpiry _ => 0#32
  | .flush _ => 0#32
  | .save _ => 0#32
  | .restore _ _ _ => 0#32
  | .remoteRequest _ => 0#32
  | .acknowledgement _ => 0#32
  | .endToEndTimeout _ => 0#32
  | .stompedPacket _ => 0#32
  | .linkRetrain _ _ => 0#32
  | .linkReturn _ _ => 0#32
  | .linkDownDeclared _ _ => 0#32
  | .planeRetire _ _ => 0#32
  | .fabricArrival _ => 0#32
  | .ethernetPacket _ => 0#32
  | .sprayPacketSend _ _ => 0#32
  | .esendRetryLimit _ _ => 0#32
  | .clockStep _ _ _ => 0#32
  | .coldStart _ _ => 0#32
  | .warmStart _ => 0#32
  | .mapReq _ => 0#32
  | .unmapReq _ => 0#32
  | .protectReq _ => 0#32
  | .exportFrame _ => 0#32
  | .graphLoad _ => 0#32
  | .graphSeed _ => 0#32
  | .graphClose _ => 0#32
  | .windowOpen _ => 0#32
  | .windowClose _ => 0#32
  | .peerSet _ => 0#32
  | .setReq _ => 0#32
  | .logRead _ => 0#32
  | .healthReq _ => 0#32
  | .resetReq _ => 0#32
  | .malformedRequest _ => 0#32
  | .contextCreation _ => 0#32
  | .transportRetransmission _ => 0#32
  | .transportAcknowledgement _ _ _ => 0#32
  | .linkLevelReplay _ _ => 0#32
  | .linkCreditReturn _ _ _ => 0#32

/-- The little-endian bytes of a word (R2). -/
def wordBytes (w : Word) : List Byte :=
  [w.extractLsb' 0 8, w.extractLsb' 8 8, w.extractLsb' 16 8, w.extractLsb' 24 8]

/-- The word four little-endian bytes hold (R2). -/
def bytesWord (b0 b1 b2 b3 : Byte) : Word := b3 ++ b2 ++ b1 ++ b0

/-- Decode the first word of a list of bytes, with the bytes after it. -/
def decodeBytes : List Byte → Except Reject (Instr × List Byte)
  | b0 :: b1 :: b2 :: b3 :: rest => (decode (bytesWord b0 b1 b2 b3)).map (·, rest)
  | _ => .error .major

/-- What the decoder reads from an instruction whose bits are w (every instruction is one 32-bit word). -/
def decodeTableWord (nbits w : Nat) : Option Instr :=
  match decodeBytes (wordBytes (BitVec.ofNat 32 (w % 2 ^ nbits))) with
  | .ok (i, _) => some i
  | .error _ => none

end Sys2Proof
end

