-- ==== Sys2Proof/Machine/Operands.lean ====
section
/-!
DEFINITION. Operand forms: registers, pairs and quadruples (spec/03_strand_machine.md R49 to R51,
spec/05_formats_and_opcode_map.md R101), immediates and the fields of a pending hint word (R102, R120 to R123).
-/
namespace Sys2Proof.Machine

/-- V[n]. -/
def rdV (st : Strand) (n : BitVec 7) : BitVec 32 := st.v.get n.toFin

/-- V2[n]: the pair vn+1 : vn (R49). -/
def rdV2 (st : Strand) (n : BitVec 7) : BitVec 64 := rdV st (n + 1) ++ rdV st n

/-- V4[n]: vn+3 ... vn, vn lowest (R125). -/
def rdV4 (st : Strand) (n : BitVec 7) : BitVec 128 := rdV2 st (n + 2) ++ rdV2 st n

/-- A uniform register of the cord (R153). -/
def rdS (c : Cord) (n : BitVec 6) : BitVec 64 := c.u.get n.toFin

/-- The uniform register a 7-bit field of class S names. -/
def sReg (a : BitVec 7) : BitVec 6 := a.extractLsb' 0 6

/-- A predicate; p7 reads true (R50). -/
def rdP (st : Strand) (n : BitVec 3) : Bool := n == 7#3 || st.preds.getLsbD n.toNat

/-- The predicate register a 7-bit field of class P names. -/
def pReg (a : BitVec 7) : BitVec 3 := a.extractLsb' 0 3

/-- The registers a pair covers. -/
def pair (n : BitVec 7) : List Reg := [.v n, .v (n + 1)]

/-- The registers a quadruple covers. -/
def quadruple (n : BitVec 7) : List Reg := [.v n, .v (n + 1), .v (n + 2), .v (n + 3)]

/-- A value for V[n]. -/
def toV (n : BitVec 7) (x : BitVec 32) : List (Reg × BitVec 64) := [(.v n, x.zeroExtend 64)]

/-- A value for V2[n]. -/
def toV2 (n : BitVec 7) (x : BitVec 64) : List (Reg × BitVec 64) :=
  [(.v n, (x.extractLsb' 0 32).zeroExtend 64), (.v (n + 1), (x.extractLsb' 32 32).zeroExtend 64)]

/-- A value for p[n]; a write to p7 is discarded where registers are written (R50). -/
def toP (n : BitVec 3) (b : Bool) : List (Reg × BitVec 64) := [(.p n, if b then 1 else 0)]

/-- A value for a uniform register. -/
def toS (n : BitVec 6) (x : BitVec 64) : List (Reg × BitVec 64) := [(.s n, x)]

/-- The width in bytes of a size code (R149). -/
def sizeBytes (z : BitVec 3) : Nat :=
  if z == 0#3 || z == 1#3 then 1 else if z == 2#3 || z == 3#3 then 2 else if z == 4#3 then 4 else if z == 5#3 then 8 else 16

/-- The registers a data field of a size covers (R107). -/
def sizeRegs (z : BitVec 3) (d : BitVec 7) : List Reg :=
  if z == 5#3 then pair d else if z == 6#3 then quadruple d else [.v d]

/-- The bytes a store of a size takes from its data register (R149). -/
def storeBytes (st : Strand) (z : BitVec 3) (d : BitVec 7) : List (BitVec 8) :=
  leBytes (sizeBytes z) (if z == 5#3 then (rdV2 st d).toNat else if z == 6#3 then (rdV4 st d).toNat else (rdV st d).toNat)

/-- What a load of a size writes for the bytes it read (R149). -/
def loadWrites (z : BitVec 3) (d : BitVec 7) (bs : List (BitVec 8)) : List (Reg × BitVec 64) :=
  let x := leNat bs
  if z == 1#3 then toV d ((BitVec.ofNat 8 x).signExtend 32)
  else if z == 3#3 then toV d ((BitVec.ofNat 16 x).signExtend 32)
  else if z == 5#3 then toV2 d (BitVec.ofNat 64 x)
  else if z == 6#3 then toV2 d (BitVec.ofNat 64 x) ++ toV2 (d + 2) (BitVec.ofNat 64 (x / 2 ^ 64))
  else toV d (BitVec.ofNat 32 x)

/-- The kind of a pending hint word (R120); 0xF when none is pending. -/
def hintKind (w : BitVec 32) : BitVec 4 := if w == 0#32 then 0xF#4 else w.extractLsb' 17 4

/-- The sat bit of a pending hint mod (R122). -/
def hintSat (w : BitVec 32) : Bool := hintKind w == 2#4 && w.getLsbD 2

/-- The rounding a pending hint mod selects (R30). -/
def hintRnd (w : BitVec 32) : BitVec 2 := if hintKind w == 2#4 then w.extractLsb' 0 2 else 0

/-- The rounding and sat bits together: sat, then the mode. -/
def hintMode (w : BitVec 32) : BitVec 3 := if hintKind w == 2#4 then w.extractLsb' 0 3 else 0

/-- The extension of a pending hint ext. -/
def hintExtension (w : BitVec 32) : Option (BitVec 17) := if hintKind w == 1#4 then some (w.extractLsb' 0 17) else none

/-- A pending hint cache has .l1na, so the load allocates nothing in the L1 (R124, R250). -/
def hintNoL1 (w : BitVec 32) : Bool := hintKind w == 3#4 && w.extractLsb' 0 2 == 1#2

/-- A pending hint cache has .llcna, so the access allocates nothing in the LLC (R124, R251). -/
def hintNoLlc (w : BitVec 32) : Bool := hintKind w == 3#4 && w.extractLsb' 2 2 == 1#2

/-- A pending hint cache has .llckeep, so the LLC replaces the words last (R124, R251, R252). -/
def hintKeep (w : BitVec 32) : Bool := hintKind w == 3#4 && w.extractLsb' 2 2 == 2#2

/-- A pending hint cache has .l1ef, so the load's words are the first the L1 replaces (R124, R250). -/
def hintEarly (w : BitVec 32) : Bool := hintKind w == 3#4 && w.extractLsb' 0 2 == 2#2

/-- The pending hint modifies the word (R121): an extension where R123 names the word, a rounding or saturation where the word rounds or
R122 names it, and a cache choice before a load, store, ldo, atomic, tld, tst or tcopy (R124); that a rounding counts for fmin and fmax of
the red and scan words is inferred (DEDUCED, log 77). -/
def hintFits (w hint : BitVec 32) : Bool :=
  let major := (w.extractLsb' 21 6).toNat
  let fn := (w.extractLsb' 0 7).toNat
  if hintKind hint == 1#4 then [0x11, 0x13, 0x22, 0x23, 0x2A, 0x2B, 0x2C, 0x2D, 0x31, 0x36].contains major
  else if hintKind hint == 2#4 then
    [1, 2, 3, 4, 0xE, 0x11, 0x18, 0x19, 0x1A, 0x1B, 0x1F, 0x20, 0x21].contains major ||
    (major == 0xF && decide (0x20 ≤ fn ∧ fn ≤ 0x22)) || (major == 0x1D && (fn == 0 || decide (0x10 ≤ fn))) ||
    (major == 0x1E && decide (fn ≤ 4)) || (major == 0x32 && [1, 6, 7].contains (fn % 32)) ||
    (major == 0x38 && (fn / 32 == 1 || fn / 32 == 2))
  else if hintKind hint == 3#4 then
    [0x22, 0x23, 0x24, 0x25, 0x27].contains major || (major == 0x28 && fn % 8 != 0) || (major == 0x38 && fn / 32 != 0)
  else false

/-- The hint word a record names for a word: the pending one where it modifies the word, else 0 (R354). -/
def usedHint (w hint : BitVec 32) : BitVec 32 := if hintFits w hint then hint else 0

/-- The immediate of an FI add: 7 bits, or 24 under hint ext (R102, R123). -/
def immFI (hint : BitVec 32) (i : BitVec 7) : Int :=
  match hintExtension hint with
  | some e => (e ++ i : BitVec 24).toInt
  | none => i.toInt

/-- The immediate of movi and the offset of an FL branch: 14 bits, or 31 under hint ext (R102, R123). -/
def immFL (hint : BitVec 32) (i : BitVec 14) : Int :=
  match hintExtension hint with
  | some e => (e ++ i : BitVec 31).toInt
  | none => i.toInt

/-- The offset of an FB branch: 21 bits, or 38 under hint ext (R102, R123). -/
def immFB (hint : BitVec 32) (f : BitVec 21) : Int :=
  match hintExtension hint with
  | some e => (e ++ f : BitVec 38).toInt
  | none => f.toInt

/-- The b step of a repeated FM word, times its repetition index: added to off7 as an exact integer (R117). -/
def repOffset (st : Strand) : Int :=
  match st.rep with
  | some r => (r.idx : Int) * r.sb.toInt
  | none => 0

/-- The byte offset of ld.w and st.w: off7, or 24 bits under hint ext, times 4 (R102, R117, R123). -/
def immFM (st : Strand) (o : BitVec 7) : Int :=
  match hintExtension st.hint with
  | some e => 4 * (e ++ o : BitVec 24).toInt
  | none => 4 * (o.toInt + repOffset st)

/-- pc + 4 off, wrapping at 2^64 (R102, R145). -/
def branchTo (pc : BitVec 64) (off : Int) : BitVec 64 := pc + BitVec.ofInt 64 (4 * off)

/-- An address with bits 1:0 cleared (R145). -/
def wordAlign (x : BitVec 64) : BitVec 64 := x &&& ~~~3#64

end Sys2Proof.Machine
end

