-- ==== Sys2Proof/Machine/Ops.lean ====
section
/-!
DEFINITION. The shared operations over the state: finding and changing its parts, issuing a word of the current strand
(spec/03_strand_machine.md R55 to R65, spec/05_formats_and_opcode_map.md R113 to R121, spec/07_parallel_execution.md R157 to
R159), the operations of a strand and the horizon (spec/20_faults_and_horizon.md R346 to R351), taking a trap and returning
from it (R352 to R358).
-/
namespace Sys2Proof.Machine

/-- The answer of a step. -/
abbrev Out := Host.Outcome State Fault Refusal

/-! ### Parts of the state -/

/-- A compute die; a die of a module that does not exist reads as one at reset. -/
def dieOf (s : State) (dev die : Nat) : Die :=
  match mget s.modules dev with
  | some m => m.dies[die]?.getD Die.reset
  | none => Die.reset

/-- Change a compute die. -/
def modDie (s : State) (dev die : Nat) (f : Die → Die) : State :=
  { s with modules := mmod s.modules dev (fun m => { m with dies := m.dies.setIfInBounds die (f (m.dies[die]?.getD Die.reset)) }) }

/-- The cycle count of a die (R6, R144). -/
def cycOf (s : State) (dev die : Nat) : Nat := (dieOf s dev die).cyc

/-- A core; one not yet touched is as at reset. -/
def coreOf (s : State) (dev die core : Nat) : Core := (mget (dieOf s dev die).cores core).getD Core.reset

/-- Change a core. -/
def modCore (s : State) (dev die core : Nat) (f : Core → Core) : State :=
  modDie s dev die (fun d => { d with cores := mset d.cores core (f ((mget d.cores core).getD Core.reset)) })

/-- Change a cord. -/
def modCord (s : State) (k : Nat) (f : Cord → Cord) : State := { s with cords := mmod s.cords k f }

/-- Change a strand of a cord. -/
def modStrand (s : State) (k l : Nat) (f : Strand → Strand) : State :=
  modCord s k (fun c => { c with strands := mmod c.strands l f })

/-- Change a context. -/
def modCtx (s : State) (x : Nat) (f : Context → Context) : State := { s with contexts := mmod s.contexts x f }

/-- A strand of a cord. -/
def strandOf (s : State) (k l : Nat) : Option Strand := (mget s.cords k).bind (fun c => mget c.strands l)

/-- The core a cord runs on. -/
def coreOfCord (s : State) (c : Cord) : Core := coreOf s c.dev c.die c.core

/-- Change the core a cord runs on. -/
def modCoreOf (s : State) (c : Cord) (f : Core → Core) : State := modCore s c.dev c.die c.core f

/-- The key of a cord in the table: its party name without the lane (R259). -/
def cordKey (dev die serial : Nat) : Nat := (dev * 4 + die) * 2 ^ 28 + serial

/-- A fresh name for an operation or packet. -/
def freshUid (s : State) : Nat × State := (s.uid, { s with uid := s.uid + 1 })

/-- A fresh free choice among n (log 2). -/
def choose (s : State) (n : Nat) : Nat × State := (Config.choice s.choices % (max n 1), { s with choices := s.choices + 1 })

/-! ### The current strand -/

/-- The strand that executes its word now: its selection, its cord, itself and its die's cycle. -/
structure Here where
  sel  : Sel
  cord : Cord
  st   : Strand
  now  : Nat
deriving DecidableEq, Repr

/-- The strand at the head of the selected strands of this cycle. -/
def here (s : State) : Option Here :=
  match s.todo with
  | [] => none
  | sel :: _ =>
    match mget s.cords sel.cord with
    | none => none
    | some c =>
      match mget c.strands sel.lane with
      | none => none
      | some st => some ⟨sel, c, st, cycOf s c.dev c.die⟩

/-- The party of the current strand (R259). -/
def partyOf (c : Cord) (l : Nat) : Party := ⟨c.dev, c.ctx, c.die, c.serial, l⟩

/-- Change the current strand. -/
def modHere (s : State) (h : Here) (f : Strand → Strand) : State := modStrand s h.sel.cord h.sel.lane f

/-- Change the cord of the current strand. -/
def modHereCord (s : State) (h : Here) (f : Cord → Cord) : State := modCord s h.sel.cord f

/-- Change the core of the current strand. -/
def modHereCore (s : State) (h : Here) (f : Core → Core) : State := modCoreOf s h.cord f

/-- The strand at the head has acted or been passed over. -/
def popTodo (s : State) : State := { s with todo := s.todo.tail }

/-- The address of the word the strand executes: its program counter, or the word of a rerun sequence (R358). -/
def pcOf (st : Strand) : BitVec 64 :=
  match st.rerun with
  | r :: _ => r.pc
  | [] => st.pc

/-- A word of the instruction cache (R66). -/
def cachedWord (c : Core) (ctx : Nat) (pc : BitVec 64) : Option (BitVec 32) :=
  let b := pc.toNat / 64 * 64
  match c.icache.find? (fun x => x.ctx == ctx && x.base == b) with
  | some sp => sp.words[pc.toNat % 64 / 4]?
  | none => none

/-- The word as fetched, for records (R354): a repeated word is recorded unstepped. -/
def wordOf (s : State) (h : Here) (i : Instr) : BitVec 32 :=
  match h.st.rerun with
  | r :: _ => r.word
  | [] => if h.st.rep.isSome then (cachedWord (coreOfCord s h.cord) h.cord.ctx h.st.pc).getD (encode i) else encode i

/-- The repetition index of the word that issues (R117). -/
def repIndex (st : Strand) : Nat :=
  match st.rep with
  | some r => r.idx
  | none => 0

/-! ### Operations and the horizon -/

/-- An operation has settled, as a success or a failure reported by now (R348, R369). -/
def opDone (now : Nat) (o : Op) : Bool :=
  match o.state with
  | .settled => o.due ≤ now
  | .failed => o.due ≤ now
  | .performed => o.kind == .flag && o.due ≤ now
  | _ => false

/-- An operation whose failure has been reported. -/
def opFailed (now : Nat) (o : Op) : Bool := o.state == .failed && o.due ≤ now

/-- The unsettled fallible operations, oldest first (R347). -/
def unsettled (now : Nat) (st : Strand) : List Op := st.ops.filter (fun o => o.seq.isSome && !opDone now o)

/-- The strand before the fallible issues that the words of the current cycle made for it, which hz does not include (R369). -/
def beforeCycle (now : Nat) (st : Strand) : Strand :=
  let late := st.ops.filter (fun o => o.seq.isSome && o.born == now && now != 0)
  { st with ops := st.ops.filter (fun o => !late.any (·.uid == o.uid)), next := st.next - BitVec.ofNat 16 late.length }

/-- The horizon register hz (R349). -/
def hzOf (now : Nat) (st : Strand) : BitVec 32 :=
  match unsettled now st with
  | [] => 0x8000#16 ++ st.next
  | o :: _ => (0 : BitVec 16) ++ o.seq.getD 0

/-- hz.CLR. -/
def hzClear (now : Nat) (st : Strand) : Bool := (unsettled now st).isEmpty

/-- Every operation of the strand has settled. -/
def allDone (now : Nat) (st : Strand) : Bool := st.ops.all (opDone now)

/-- An operation with nothing in it. -/
def blankOp : Op where
  uid := 0
  born := 0
  seq := none
  kind := .load
  pc := 0
  word := 0
  repi := 0
  hint := 0
  va := 0
  size := 0
  scope := 0
  dst := 0
  szc := 0
  data := []
  atom := none
  na := false
  state := .unsent
  left := 0
  got := []
  filled := false
  rel := false
  acq := false
  tries := 0
  flags := 0
  cause := 0
  addr := 0
  detail := 0
  due := 0
  grp := 0
  home := []
  line := []
  rep := none

/-- Add an operation at the end of the strand's list, with the next sequence number when it is fallible (R347). Settled
operations that nothing names any more leave the list. -/
def pushOp (s : State) (h : Here) (i : Instr) (fallible : Bool) (o : Op) : State :=
  let o := { o with
    uid := s.uid
    born := h.now
    seq := if fallible then some h.st.next else none
    pc := pcOf h.st
    word := wordOf s h i
    repi := repIndex h.st
    rep := h.st.rep.map (fun r => { r with left := 1 })
    grp := ((h.now * 1024 + h.cord.dev) * 256 + h.cord.die * 64 + h.cord.core) * 2 + h.sel.br + 1
    hint := usedHint (wordOf s h i) h.st.hint }
  modHere { s with uid := s.uid + 1 } h (fun st => { st with
    ops := st.ops.filter (fun x => !(opDone h.now x && !opFailed h.now x)) ++ [o]
    next := if fallible then st.next + 1 else st.next })

/-- Change an operation of a strand. -/
def modOp (s : State) (k l u : Nat) (f : Op → Op) : State :=
  modStrand s k l (fun st => { st with ops := st.ops.map (fun o => if o.uid == u then f o else o) })

/-- An operation of a strand by its name. -/
def opOf (st : Strand) (u : Nat) : Option Op := st.ops.find? (·.uid == u)

/-- The operations older than one. -/
def olderOps (st : Strand) (u : Nat) : List Op := st.ops.takeWhile (·.uid != u)

/-- The program counter of the word a sleeping strand waits in. -/
def sleepPc (x : Context) (k l : Nat) : Option (BitVec 64) :=
  x.knots.findSome? (fun p => (p.2.waiters.find? (fun w => w.cord == k && w.lane == l)).map (·.pc))

/-- The waiter entries of a strand are given up (R435). -/
def leavePool (x : Context) (k l : Nat) : Context :=
  { x with knots := x.knots.map (fun p => (p.1, { p.2 with waiters := p.2.waiters.filter (fun w => !(w.cord == k && w.lane == l)) })) }

/-- The failure of an operation, or an ASYNC fault, has reached a strand that waits in swait, waito or hzwait, or sleeps in a knwait: the wait
is abandoned at once, the word counts as not issued, and a sleeper leaves its pool entry (R435). -/
def abandonWait (s : State) (k l : Nat) : State :=
  match mget s.cords k with
  | none => s
  | some c =>
    match mget c.strands l with
    | none => s
    | some st =>
      if !(st.ops.any (opFailed (cycOf s c.dev c.die)) || st.fault.any (·.async)) then s
      else match st.wait with
        | .knot _ _ =>
          let pc := ((mget s.contexts c.ctx).bind (fun x => sleepPc x k l)).getD st.pc
          modStrand (modCtx s c.ctx (fun x => leavePool x k l)) k l (fun st => { st with wait := .none, pc := pc, issued := st.issued - 1 })
        | .poll _ _ | .horizon _ _ => modStrand s k l (fun st => { st with wait := .none })
        | .none | .bar _ | .phase | .sign | .answer => s

/-! ### Registers in time -/

/-- The scoreboard holds a register (R60): a Variable result will write it or has not become visible. -/
def isHeld (h : Here) (r : Reg) : Bool :=
  match r with
  | .s n => h.cord.uheld.any (·.reg == .s n) || h.cord.upend.any (fun p => p.n == n && p.var)
  | _ => h.st.held.any (·.reg == r) || h.st.pend.any (fun p => p.reg == r && p.var)

/-- A pending write of the register becomes visible only after cycle t (R61). -/
def pendAfter (h : Here) (r : Reg) (t : Nat) : Bool :=
  match r with
  | .s n => h.cord.upend.any (fun p => p.n == n && decide (t < p.at_))
  | _ => h.st.pend.any (fun p => p.reg == r && decide (t < p.at_))

/-- The first cycle not before t at which a result may become visible after every pending write of the register. -/
def afterPend (st : Strand) (c : Cord) (r : Reg) (t : Nat) : Nat :=
  match r with
  | .s n => (c.upend.filter (·.n == n)).foldl (fun a p => max a p.at_) t
  | _ => (st.pend.filter (·.reg == r)).foldl (fun a p => max a p.at_) t

/-- Add a uniform write by R159: one braid writes once, its lowest lane first; of two braids of one cycle the one whose
lowest lane is the higher prevails, and with equal lowest lanes the braid executed second (DESIGN CHOICE, log 52). -/
def addUPend (ps : List UPend) (p : UPend) : List UPend :=
  if ps.any (fun q => q.n == p.n && q.cyc == p.cyc && q.at_ == p.at_ && (q.br == p.br || decide (p.lo < q.lo))) then ps
  else ps.filter (fun q => !(q.n == p.n && q.cyc == p.cyc && q.at_ == p.at_)) ++ [p]

/-- Make register values visible from cycle t on. A write to p7 is discarded (R50). -/
def writeRegs (s : State) (h : Here) (ws : List (Reg × BitVec 64)) (t : Nat) (var : Bool) : State :=
  ws.foldl (fun s w =>
    match w.1 with
    | .s n => modHereCord s h (fun c =>
        { c with upend := addUPend c.upend ⟨n, w.2, t, h.now, h.sel.br, h.sel.lo, var⟩ })
    | .p n => if n == 7#3 then s else modHere s h (fun st => { st with pend := st.pend ++ [⟨w.1, w.2, t, var⟩] })
    | .v _ => modHere s h (fun st => { st with pend := st.pend ++ [⟨w.1, w.2, t, var⟩] })) s

/-- Deliver Variable results of a strand: visible from the next cycle, or from the cycle a pending older write of the
register becomes visible (R57, R60, R61; the event that delivers them comes in a free cycle, log 2). The scoreboard entries of the
operation are released. -/
def deliver (s : State) (k l u : Nat) (ws : List (Reg × BitVec 64)) : State :=
  modCord s k (fun c =>
    let t := cycOf s c.dev c.die + 1
    let st? := mget c.strands l
    let c := { c with
      uheld := c.uheld.filter (·.uid != u)
      upend := ws.foldl (fun (ps : List UPend) (w : Reg × BitVec 64) => match w.1, st? with
        | .s n, some st => addUPend ps ⟨n, w.2, afterPend st c w.1 t, t, 0, 0, true⟩
        | _, _ => ps) c.upend }
    { c with strands := mmod c.strands l (fun st => { st with
        held := st.held.filter (·.uid != u)
        pend := ws.foldl (fun (ps : List Pend) (w : Reg × BitVec 64) => match w.1 with
          | .s _ => ps
          | .p n => if n == 7#3 then ps else ps ++ [⟨w.1, w.2, afterPend st c w.1 t, true⟩]
          | .v _ => ps ++ [⟨w.1, w.2, afterPend st c w.1 t, true⟩]) st.pend }) })

/-- Hold registers for the operation named u until it delivers or fails (R60). -/
def holdRegs (s : State) (h : Here) (u : Nat) (rs : List Reg) : State :=
  rs.foldl (fun s r =>
    match r with
    | .s _ => modHereCord s h (fun c => { c with uheld := c.uheld ++ [⟨r, u⟩] })
    | .p n => if n == 7#3 then s else modHere s h (fun st => { st with held := st.held ++ [⟨r, u⟩] })
    | .v _ => modHere s h (fun st => { st with held := st.held ++ [⟨r, u⟩] })) s

/-- Release the registers an operation held, which keep their values. -/
def releaseHeld (s : State) (k l u : Nat) : State :=
  modCord s k (fun c => { c with
    uheld := c.uheld.filter (·.uid != u)
    strands := mmod c.strands l (fun st => { st with held := st.held.filter (·.uid != u) }) })

/-- Write one visible register value into the strand. -/
def setReg (st : Strand) (r : Reg) (x : BitVec 64) : Strand :=
  match r with
  | .v n => { st with v := st.v.setIfInBounds n.toNat (x.setWidth 32) }
  | .p n => if n == 7#3 then st else
      { st with preds := if x.getLsbD 0 then st.preds ||| (1#7 <<< n.toNat) else st.preds &&& ~~~(1#7 <<< n.toNat) }
  | .s _ => st

/-- The results that have become visible by a cycle take their place in the registers (R58). -/
def commitStrand (now : Nat) (st : Strand) : Strand :=
  let st' := (st.pend.filter (fun p => p.at_ ≤ now)).foldl (fun st p => setReg st p.reg p.val) st
  { st' with pend := st.pend.filter (fun p => !decide (p.at_ ≤ now)) }

/-- The same for the uniform registers of a cord and all its strands. -/
def commitCord (now : Nat) (c : Cord) : Cord :=
  { c with
    u := (c.upend.filter (fun p => p.at_ ≤ now)).foldl (fun u p => u.setIfInBounds p.n.toNat p.val) c.u
    upend := c.upend.filter (fun p => !decide (p.at_ ≤ now))
    strands := c.strands.map (fun p => (p.1, commitStrand now p.2)) }

/-! ### Issuing a word -/

/-- What the issue rules ask of a word: the registers it reads and writes, its latency (0 for Variable), the scale
registers it names, whether it is fallible, whether the condition it waits for is missing, what the strand waits in meanwhile
(R356, R370), whether it is a wait at a signing or a cross-lane instance (R172), whether it is a branch word (R65), and the operations
whose holds on uniform registers do not bar it. -/
structure WSpec where
  reads    : List Reg := []
  writes   : List Reg := []
  lat      : Nat := 1
  kregs    : List Nat := []
  fallible : Bool := false
  hold     : Bool := false
  polls    : Wait := .none
  signs    : Bool := false
  branch   : Bool := false
  mine     : List Nat := []
deriving DecidableEq, Repr

/-- How an issued word leaves the strand: the count of a hint wait, cycles spent on an answer, branch target, hint and
repetition pending afterwards. -/
structure Leave where
  wait   : Nat := 0
  late   : Nat := 0
  target : Option (BitVec 64) := none
  hint   : BitVec 32 := 0
  rep    : Option Rep := none
deriving DecidableEq, Repr

/-- The strand waits in a word it has issued and that looks again each cycle (R303, R330, R370, R435). -/
def polling (st : Strand) : Bool :=
  match st.wait with
  | .poll _ _ | .horizon _ _ => true
  | _ => false

/-- The strand may issue in this cycle: it runs, waits in nothing but a polling word or a tile word, has met no fault or failure, and its
earliest cycle has come (R56, R65, R340, R352, R356, R363). -/
def ableStrand (c : Cord) (st : Strand) (now : Nat) : Bool :=
  (st.mode == .running || st.mode == .handler) &&
  (st.wait == .none || st.wait == .sign || polling st) &&
  st.fault.isNone && !(st.ops.any (opFailed now)) && !st.stopped && st.tiling.isNone && decide (st.ready ≤ now) &&
  c.life == .running && c.preempt != some .save && c.preempt != some .flush

/-- The encoded distances after a word of distance d that writes registers at a fixed latency (R59). -/
def chkAfter (chk : List Chk) (d : Nat) (ws : List Reg) (lat : Nat) : List Chk :=
  (chk.map (fun c => { c with dist := c.dist + d })).filter (fun c => decide (c.dist < c.lat)) ++
  (if d < lat then (ws.filter (fun r => r != Reg.p 7#3)).map (fun r => ⟨r, lat, d⟩) else [])

/-- The strand after it has issued a word: earliest next cycle (R56, R65), encoded distances (R59), hint consumed (R121),
repetition or rerun sequence advanced (R117, R358), program counter. -/
def leaveWord (now : Nat) (g : Guard) (sp : WSpec) (lv : Leave) (skipped : Bool) (st : Strand) : Strand :=
  let n := g.stall.toNat
  let st := { st with
    ready := now + (if sp.branch then 3 else 1) + n + lv.wait + lv.late
    chk := chkAfter st.chk (1 + n + lv.wait) (if skipped then [] else sp.writes) sp.lat
    wait := if polling st || st.wait == Wait.sign then .none else st.wait
    issued := st.issued + 1
    idle := 0 }
  match st.rerun with
  | [_] =>
    match st.resume with
    | some r => { st with rerun := [], resume := none, pc := r.pc, rep := r.rep, hint := r.hint }
    | none => { st with rerun := [], hint := 0, rep := none }
  | _ :: r :: rs => { st with rerun := r :: rs, hint := r.hint, rep := r.rep }
  | [] =>
    match st.rep with
    | some r =>
      if r.left ≤ 1 then { st with rep := lv.rep, hint := lv.hint, pc := lv.target.getD (st.pc + 4) }
      else { st with rep := some { r with left := r.left - 1, idx := r.idx + 1 }, hint := lv.hint }
    | none => { st with rep := lv.rep, hint := lv.hint, pc := lv.target.getD (st.pc + 4) }

/-- A fault of the current strand at the word it would issue (R353). -/
def faultHere (s : State) (h : Here) (i : Instr) (cause : Nat) (addr detail : BitVec 64) : PFault where
  cause := cause
  pc := pcOf h.st
  word := wordOf s h i
  repi := repIndex h.st
  addr := addr
  detail := detail
  async := false
  after := false
  hint := if (hintKind h.st.hint).toNat < 4 then h.st.hint else 0
  redo := !h.st.rerun.isEmpty
  here := false

/-- The strand stops before the word with a precise fault; nothing else changes (R353). -/
def stopHere (s : State) (h : Here) (f : PFault) : State :=
  popTodo (modHere s h (fun st => { st with fault := some f, wait := .none }))

/-- A register is held by a cross-lane instance, or by an mma round that has not issued its operation (R172, R185). -/
def heldBySync (h : Here) (r : Reg) : Bool :=
  let us := (h.cord.insts.flatMap (·.arr)).map (·.uid) ++ ((h.cord.conv.toList.filter (·.signed != 0)).map (·.uid))
  (match r with | .s _ => h.cord.uheld | _ => h.st.held).any (fun x => x.reg == r && us.contains x.uid)

/-- What a strand whose word is held waits in (R172, R356): a polling word that has issued keeps what it read then. -/
def passWait (h : Here) (sp : WSpec) : Wait :=
  if polling h.st then h.st.wait else if sp.polls != .none && sp.hold then sp.polls else if sp.signs || (sp.reads ++ sp.writes).any (heldBySync h) then .sign else .none

/-- The word does not issue in this cycle. -/
def passHere (s : State) (h : Here) (sp : WSpec) : State :=
  popTodo (modHere s h (fun st => { st with wait := passWait h sp }))

/-- A register read is closer than its producer's latency, with the stall check on (R59). -/
def stallFault (h : Here) (rs : List Reg) : Bool :=
  h.st.stat.getLsbD 0 && rs.any (fun r => h.st.chk.any (fun c => c.reg == r && decide (c.dist < c.lat)))

/-- A vector or scale register lies beyond the node's declared count (R157). -/
def boundFault (h : Here) (sp : WSpec) : Bool :=
  (sp.reads ++ sp.writes).any (fun r => match r with
    | .v n => decide (h.cord.hdr.vregs ≤ n.toNat)
    | _ => false) ||
  sp.kregs.any (fun k => decide (h.cord.hdr.kregs ≤ k))

/-- The issue of a word is held by the rules of every word: scoreboard (R60), write order (R61), sixteen unsettled operations
(R347). -/
def issueHeld (h : Here) (sp : WSpec) : Bool :=
  (sp.reads ++ sp.writes).any (isHeld { h with cord.uheld := h.cord.uheld.filter (fun x => !sp.mine.contains x.uid) }) ||
  (sp.lat != 0 && sp.writes.any (fun r => pendAfter h r (h.now + sp.lat))) ||
  (sp.fallible && decide (16 ≤ (unsettled h.now h.st).length))

/-- The registers the guard reads. -/
def guardRegs (g : Guard) : List Reg := if g.pred == 7#3 then [] else [.p g.pred]

/-- The predicate a word is guarded by: a polling word that has issued reads none again. -/
def issueGuard (h : Here) (g : Guard) : Guard := if polling h.st then { g with pred := 7 } else g

/-- What the issue rules ask of the word of the current strand: a polling word that has issued reads no register again. -/
def issueSpec (h : Here) (sp : WSpec) : WSpec := if polling h.st then { sp with reads := [] } else sp

/-- One word of the current strand, whatever it does: a strand not selected, not able or held does not issue; a false
predicate skips it (R63); a precise fault stops the strand (R114, R157, R59, and those the word itself checks); otherwise
it has its effect and leaves. With the stall check on, a predicate read closer than its producer's latency faults before its value is
looked at, a false one too (DESIGN CHOICE between R59 and R63, log 54). A word of an ended cord never issues: it only shows by the stall
check which registers it reads (bankUse, R162). -/
def runWord (i : Instr) (g : Guard) (spec : Here → State → WSpec) (check : Here → State → Option PFault)
    (leave : Here → State → Leave) (effect : Here → State → State) (s : State) : Out :=
  match here s with
  | none => .next s
  | some h =>
    let g := issueGuard h g
    if !ableStrand h.cord h.st h.now then
      .next (if h.cord.life == .ended && stallFault h (spec h s).reads then stopHere s h (faultHere s h i 2 0 0) else popTodo s)
    else if (guardRegs g).any (isHeld h) then .next (passHere s h { reads := guardRegs g })
    else if stallFault h (guardRegs g) then .next (stopHere s h (faultHere s h i 2 0 0))
    else
      let sp := issueSpec h (spec h s)
      if !rdP h.st g.pred then .next (popTodo (modHere s h (leaveWord h.now g sp {} true)))
      else if boundFault h sp then .next (stopHere s h (faultHere s h i 3 0 0))
      else if issueHeld h sp then .next (passHere s h { sp with polls := .none })
      else if sp.hold then
        .next (if sp.polls != .none && stallFault h sp.reads then stopHere s h (faultHere s h i 2 0 0) else passHere s h sp)
      else if stallFault h sp.reads then .next (stopHere s h (faultHere s h i 2 0 0))
      else
        match check h s with
        | some f => .next (stopHere s h f)
        | none => .next (popTodo (modHere (effect h s) h (leaveWord h.now g sp (leave h s) false)))

/-- A word that only computes registers from registers, with a fixed latency. -/
def regWord (i : Instr) (g : Guard) (reads writes : List Reg) (lat : Nat) (f : Here → List (Reg × BitVec 64)) (s : State) : Out :=
  runWord i g (fun _ _ => { reads := reads, writes := writes, lat := lat }) (fun _ _ => none) (fun _ _ => {})
    (fun h s => writeRegs s h (f h) (h.now + lat) false) s

/-- No precise fault of the word's own. -/
def noCheck : Here → State → Option PFault := fun _ _ => none

/-- The next word, nothing pending. -/
def plainLeave : Here → State → Leave := fun _ _ => {}

/-- A Variable word whose result is known at issue: it becomes visible in a free later cycle (R57, log 2). -/
def writeVar (s : State) (h : Here) (ws : List (Reg × BitVec 64)) : State :=
  let d := Config.delay s.choices
  let s := { s with choices := s.choices + 1 }
  writeRegs s h ws (ws.foldl (fun t w => afterPend h.st h.cord w.1 t) (h.now + 1 + d)) true

/-! ### Traps -/

/-- The engine operation of a name. -/
def eopOf (c : Cord) (u : Nat) : Option EOp := c.eops.find? (·.uid == u)

/-- An engine operation of the strand that has not started (R298); a copy that a save quiesced has (R364). -/
def notStarted (c : Cord) (o : Op) : Bool :=
  o.kind == .engine && (match eopOf c o.uid with | some e => e.state == .waiting && e.chunks.isEmpty | none => false)

/-- What R352 makes of an operation younger than the failed one: true when it is discarded. A load that has taken its L1-READ or its FILL has
its reply: it settles. -/
def discards (c : Cord) (now : Nat) (o : Op) : Bool :=
  !opDone now o && !o.filled &&
  (o.state == .unsent || notStarted c o || o.kind == .load || o.kind == .obs || o.kind == .acqLoad || o.kind == .refill ||
   o.kind == .fenceAcq || o.kind == .fenceRel || o.kind == .fence || o.kind == .tkrel)

/-- The failed operation that R352 finds, with the fallible operations younger than it, once every older one has settled. -/
def failedOp (now : Nat) (st : Strand) : Option (Op × List Op) :=
  let rest := st.ops.dropWhile (fun o => opDone now o && !opFailed now o)
  match rest with
  | o :: os => if opFailed now o then some (o, os.filter (·.seq.isSome)) else none
  | [] => none

/-- A listed operation (R354). -/
def listEntry (c : Cord) (now : Nat) (o : Op) : TrapEntry where
  seq := o.seq.getD 0
  state := if discards c now o then 2 else 1
  repi := BitVec.ofNat 8 o.repi
  word := o.word
  pc := o.pc
  hint := o.hint
  spill := if o.kind == .spill then some (o.va, BitVec.ofNat 64 (leNat o.data)) else none
  rep := o.rep

/-- A word of the rerun sequence not re-executed, as a listed operation (R358). -/
def rerunEntry (r : Rerun) : TrapEntry := ⟨0, 2, r.repi, r.word, r.pc, r.hint, r.spill, r.rep⟩

/-- Where a strand resumes: the first word not issued, or the old RESUME of a rerun (R352, R358). -/
def resumeOf (st : Strand) : Resume :=
  match st.resume with
  | some r => r
  | none => ⟨st.pc, st.rep, st.hint⟩

/-- The fallible operations R352 waits for have settled: everything younger than the failed one that it does not discard. -/
def failureSettled (c : Cord) (now : Nat) (os : List Op) : Bool := os.all (fun o => opDone now o || discards c now o)

/-- The trap record of a failure (R352, R354). -/
def failureRecord (c : Cord) (st : Strand) (now : Nat) (o : Op) (os : List Op) : TrapRec :=
  let r := resumeOf st
  { cause := BitVec.ofNat 32 o.cause
    flags := 1
    pc := o.pc
    resume := r.pc
    word := o.word
    seq := o.seq.getD 0
    repi := BitVec.ofNat 8 o.repi
    addr := o.addr
    detail := o.detail
    repleft := BitVec.ofNat 8 (r.rep.elim 0 (·.left))
    rep := r.rep
    hint := r.hint
    fhint := o.hint
    spill := if o.kind == .spill then some (o.va, BitVec.ofNat 64 (leNat o.data)) else none
    frep := o.rep
    list := (os.filter (fun x => opFailed now x || discards c now x)).map (listEntry c now) ++ st.rerun.map rerunEntry }

/-- The trap record of a precise or ASYNC fault (R353, R354, R372). An ASYNC fault met in a rerun sequence lists the words of the
sequence not yet re-executed, and has REDO 1 where its mma was itself re-executed there (R358; DEDUCED, log 68). -/
def faultRecord (st : Strand) (f : PFault) : TrapRec :=
  let r := resumeOf st
  { cause := BitVec.ofNat 32 f.cause
    flags := (if f.async then 2 else 0) ||| (if f.redo then 8 else 0)
    pc := f.pc
    resume := if f.here && !f.redo then f.pc else if f.after && !f.redo then f.pc + 4 else r.pc
    word := f.word
    seq := 0
    repi := BitVec.ofNat 8 f.repi
    addr := f.addr
    detail := f.detail
    repleft := if (f.after || f.here) && !f.redo then 0 else BitVec.ofNat 8 (r.rep.elim 0 (·.left))
    rep := if (f.after || f.here) && !f.redo then none else r.rep
    hint := if f.after && !f.redo then 0 else if f.here && !f.redo then f.hint else r.hint
    fhint := usedHint f.word f.hint
    spill := none
    frep := if f.redo && !f.async then st.rep else none
    list := if f.async || f.here then st.rerun.map rerunEntry else if f.redo then st.rerun.tail.map rerunEntry else [] }

/-- Taking a trap, first part (R352, R356): the record is written, the operations it lists and the settled ones leave the
strand, hz reads CLR with NEXT, and the strand is masked off. -/
def maskOff (r : TrapRec) (st : Strand) : Strand :=
  { st with
    trap := some r
    mode := .masked
    fault := none
    wait := .none
    ops := st.ops.filter (·.seq.isNone)
    held := st.held.filter (fun x => !(st.ops.any (fun o => o.uid == x.uid && o.seq.isSome)))
    rerun := []
    resume := none }

/-- Taking a trap, second part (R357): the strand enters handler mode at the trap vector with HM set; every register, the
return stack, %csp, %fpf and the synchronisation counts are as the trap left them, stall cycles still running run on (R56), and the
encoded distances of R59 run on across the entry and the return (DESIGN CHOICE, log 55). -/
def enterHandler (vector : BitVec 64) (now : Nat) (p2 : Bool) (st : Strand) : Strand :=
  { st with
    mode := .handler
    pc := vector
    stat := st.stat ||| 8
    hint := 0
    rep := none
    ready := max st.ready (now + 1)
    trap := st.trap.map (fun r => if p2 then { r with flags := r.flags ||| 4 } else r) }

/-- The rerun sequence of a record (R358, R434): F when FALLIBLE or REDO is 1 and F is no refill, then the listed
operations; a refill is never re-executed. -/
def rerunSeq (r : TrapRec) : List Rerun :=
  let isRet (w : BitVec 32) : Bool := w.extractLsb' 21 6 == 0x2E#6 && w.extractLsb' 0 7 == 2#7
  let fb : Rerun := ⟨r.word, r.pc, r.repi, r.fhint, r.frep, r.spill⟩
  let f := if (r.flags.getLsbD 0 || r.flags.getLsbD 3) && !isRet r.word then [fb] else []
  f ++ (r.list.filter (fun e => !isRet e.word)).map (fun e => ⟨e.word, e.pc, e.repi, e.hint, e.rep, e.spill⟩)

/-- Returning from a trap (R358, R374): HM cleared, and the strand resumes at RESUME with its repetition and hint, after
the rerun sequence when rerun asks for it. The record stays readable; the stall cycles of the return word run (R56). -/
def leaveHandler (rerun : Bool) (now : Nat) (st : Strand) : Strand :=
  match st.trap with
  | none => { st with mode := .running, stat := st.stat &&& ~~~8#32 }
  | some r =>
    let back := { st with
      mode := .running
      stat := st.stat &&& ~~~8#32
      fault := none
      wait := .none
      ready := max st.ready (now + 1) }
    match (if rerun then rerunSeq r else []) with
    | [] => { back with pc := r.resume, rep := r.rep, hint := r.hint, rerun := [], resume := none }
    | x :: xs => { back with rerun := x :: xs, hint := x.hint, rep := x.rep, resume := some ⟨r.resume, r.rep, r.hint⟩ }

end Sys2Proof.Machine
end

