-- ==== Sys2Proof/Machine/Flags.lean ====
section
/-!
DEFINITION. Raising the flags of %fpf and failing by an enabled one (spec/02_number_formats.md R32 to R34), the divide and
square-root unit (spec/03_strand_machine.md R57), and the rounding a word uses (R30, R35, R122).
-/
namespace Sys2Proof.Machine

/-- The enable bits 12:8 of %fpf. -/
def enables (st : Strand) : Flags := st.fpf.extractLsb' 8 5

/-- Flags are sticky (R33). -/
def raiseFlags (fl : Flags) (st : Strand) : Strand := { st with fpf := st.fpf ||| fl.zeroExtend 32 }

/-- %stat.FTZ (R53). -/
def ftzOf (st : Strand) : Bool := st.stat.getLsbD 1

/-- The rounding of the current word in a format (R30, R35, R122). -/
def rmode (f : Fmt) (h : Here) : RMode := ⟨f, hintRnd h.st.hint, hintSat h.st.hint, ftzOf h.st⟩

/-- The word can raise a flag whose enable bit is 1, so it is fallible (R34). -/
def flagFallible (h : Here) (can : Flags) : Bool := (enables h.st &&& can) != 0#5

/-- A word with results known at issue and a fixed latency that can raise the flags of can (R33, R34): it raises them; when
one of them is enabled the destination keeps its value and the operation fails as its result would have been written. -/
def flagWrite (i : Instr) (lat : Nat) (can : Flags) (r : List (Reg × BitVec 64) × Flags) (h : Here) (s : State) : State :=
  let fails := (r.2 &&& enables h.st) != 0#5
  let s := modHere s h (fun st => { raiseFlags r.2 st with fbusy := max st.fbusy (h.now + lat) })
  let s := if flagFallible h can then
      pushOp s h i true { blankOp with
        kind := .flag
        state := if fails then .failed else .performed
        due := h.now + lat
        flags := r.2
        cause := 13
        detail := r.2.zeroExtend 64 }
    else s
  if fails then s else writeRegs s h r.1 (h.now + lat) false

/-- A floating-point word of fixed latency. -/
def flagWord (i : Instr) (g : Guard) (reads writes : List Reg) (lat : Nat) (can : Flags)
    (f : Here → List (Reg × BitVec 64) × Flags) (s : State) : Out :=
  runWord i g (fun h _ => { reads := reads, writes := writes, lat := lat, fallible := flagFallible h can }) noCheck plainLeave
    (fun h s => flagWrite i lat can (f h) h s) s

/-- A result of the lane's divide and square-root unit: it arrives by DIVIDE_RESULT, oldest first (R57, R129). -/
def divWrite (i : Instr) (d : BitVec 7) (can : Flags) (r : BitVec 32 × Flags) (h : Here) (s : State) : State :=
  let u := s.uid
  let s := modHere s h (fun st => { raiseFlags r.2 st with divs := st.divs ++ [⟨u, d, r.1⟩] })
  let s := holdRegs s h u [.v d]
  if flagFallible h can then
    pushOp s h i true { blankOp with
      kind := .flag
      state := .sent
      flags := r.2 &&& enables h.st
      cause := 13
      detail := r.2.zeroExtend 64 }
  else { s with uid := s.uid + 1 }

/-- A word of the divide and square-root unit. -/
def divWord (i : Instr) (g : Guard) (reads : List Reg) (d : BitVec 7) (can : Flags) (f : Here → BitVec 32 × Flags) (s : State) : Out :=
  runWord i g (fun h _ => { reads := reads, writes := [.v d], lat := 0, fallible := flagFallible h can }) noCheck plainLeave
    (fun h s => divWrite i d can (f h) h s) s

/-- The operation named u is the oldest in the divide and square-root unit of lane l of the core cord k runs on: the unit serves the
strands of every cord of the core on its lane, one word at a time (R57). -/
def divTurn (s : State) (k l u : Nat) : Bool :=
  match mget s.cords k with
  | none => true
  | some c => s.cords.all (fun p => p.2.dev != c.dev || p.2.die != c.die || p.2.core != c.core ||
      (match mget p.2.strands l with
       | some st => st.divs.all (fun x => decide (u ≤ x.uid))
       | none => true))

/-- The divide unit delivers its oldest result; an operation that raised an enabled flag settles as failed (R34, R57, R348). -/
def divideDone (s : State) (k l : Nat) : State :=
  match strandOf s k l with
  | none => s
  | some st =>
    match st.divs with
    | [] => s
    | x :: xs =>
      if !divTurn s k l x.uid then s else
      let s := modStrand s k l (fun st => { st with divs := xs })
      match opOf st x.uid with
      | some o =>
        if o.flags != 0#5 then
          releaseHeld (modOp s k l x.uid (fun o => { o with state := .failed })) k l x.uid
        else deliver (modOp s k l x.uid (fun o => { o with state := .settled })) k l x.uid (toV x.d x.val)
      | none => deliver s k l x.uid (toV x.d x.val)

/-- Results with flags of a 32-bit destination. -/
def flagV (d : BitVec 7) (r : Nat × Flags) : List (Reg × BitVec 64) × Flags := (toV d (BitVec.ofNat 32 r.1), r.2)

/-- The two 16-bit elements of a packed word (R23): the union of the flags (R33). -/
def packed2 (f : Nat → Nat → Nat → Nat × Flags) (x y z : BitVec 32) : Nat × Flags :=
  let lo := f (x.toNat % 2 ^ 16) (y.toNat % 2 ^ 16) (z.toNat % 2 ^ 16)
  let hi := f (x.toNat / 2 ^ 16) (y.toNat / 2 ^ 16) (z.toNat / 2 ^ 16)
  (lo.1 + 2 ^ 16 * hi.1, lo.2 ||| hi.2)

end Sys2Proof.Machine
end

