-- ==== Sys2Proof/Machine/Home.lean ====
section
/-!
DEFINITION. Homes and translation: the DPA space (spec/13_memory_levels.md R239), page tables and rights (R238 to R242),
frames (R243), the L1 (R250), the directory (R251), windows (R252), ports and poison (R254 to R256), token records and the
performing of requests (spec/14_consistency_model.md R261 to R269), and the packets that carry requests to other
modules (spec/23_dies_and_devices.md R388, R391, R392).
-/
namespace Sys2Proof.Machine

/-- The key of a byte of home storage: module and DPA (R238, R239). -/
def byteKey (dev dpa : Nat) : Nat := dev * 2 ^ 40 + dpa

/-- The module of a byte. -/
def keyDev (a : Nat) : Nat := a / 2 ^ 40

/-- The DPA of a byte. -/
def keyDpa (a : Nat) : Nat := a % 2 ^ 40

/-- The DPA lies at or above the weight stores (R239). -/
def isWeight (a : Nat) : Bool := 2 ^ 39 ≤ keyDpa a

/-- The home die of a byte (R239); none where there is no storage. -/
def homeDie (a : Nat) : Option Nat :=
  let x := keyDpa a
  if x < 2 ^ 38 then some (x / 2 ^ 36)
  else if x < 2 ^ 39 then none
  else
    let o := x - 2 ^ 39
    if o / 2 ^ 28 < 4 && o % 2 ^ 28 < 0x0C000000 then some (o / 2 ^ 28) else none

/-- The 256-byte region of a byte (R246). -/
def regionOf (a : Nat) : Nat := a / 256

/-- Read n bytes upward. -/
def readMem (m : List Host.Cell) (a n : Nat) : List (BitVec 8) := (List.range n).map (fun i => readCell m (a + i))

/-- Write bytes upward. -/
def writeMem (m : List Host.Cell) (a : Nat) (bs : List (BitVec 8)) : List Host.Cell :=
  writeCells m ((List.range bs.length).map (a + ·)) bs

/-- A table entry (R240). -/
def tableEntry (m : List Host.Cell) (dev dpa : Nat) : BitVec 64 := BitVec.ofNat 64 (leNat (readMem m (byteKey dev dpa) 8))

/-- Bits of an entry as a number. -/
def bitsOf (e : BitVec 64) (lo n : Nat) : Nat := e.toNat / 2 ^ lo % 2 ^ n

/-- A pointer entry (R240): V = 1, LEAF = 0, every bit outside the table address 0. -/
def isPointer (e : BitVec 64) : Bool := bitsOf e 0 12 == 1 && bitsOf e 40 24 == 0

/-- A leaf of the wanted size with its reserved bits 0 (R240, R241). -/
def isLeaf (e : BitVec 64) (big : Bool) : Bool :=
  e.getLsbD 0 && e.getLsbD 1 && e.getLsbD 5 == big && bitsOf e 6 2 == 0 && bitsOf e 9 13 == 0 && (!big || bitsOf e 22 9 == 0)

/-- The translation a leaf gives for the page of a virtual address. -/
def leafEntry (ctx va : Nat) (e : BitVec 64) (big : Bool) : TlbEntry where
  ctx := ctx
  size := if big then 2 ^ 25 else 2 ^ 16
  base := if big then va / 2 ^ 25 * 2 ^ 25 else va / 2 ^ 16 * 2 ^ 16
  dev := bitsOf e 46 10
  dpa := bitsOf e 22 24 * 2 ^ 16
  gen := BitVec.ofNat 8 (bitsOf e 56 8)
  r := e.getLsbD 2
  w := e.getLsbD 3
  x := e.getLsbD 4

/-- The address of the level-0, level-1 or level-2 entry of a virtual address, and its leaf's address: the walk of R241, up to
the entry that ends it. big tells a level-1 leaf. -/
def walkTo (m : List Host.Cell) (dev root va : Nat) : Option (Nat × BitVec 64 × Bool) :=
  if 2 ^ 48 ≤ va then none else
  let e0 := tableEntry m dev (root + va / 2 ^ 38 * 8)
  if !isPointer e0 then none else
  let a1 := bitsOf e0 12 28 * 4096 + va / 2 ^ 25 % 2 ^ 13 * 8
  let e1 := tableEntry m dev a1
  if isLeaf e1 true then some (a1, e1, true)
  else if !isPointer e1 then none else
  let a2 := bitsOf e1 12 28 * 4096 + va / 2 ^ 16 % 2 ^ 9 * 8
  some (a2, tableEntry m dev a2, false)

/-- The page-table root of a context on a module (R240). -/
def rootOf (s : State) (ctx dev : Nat) : Option Nat :=
  ((mget s.contexts ctx).bind (fun x => x.roots.find? (·.1 == dev))).map (·.2.1)

/-- The table entries a walk reads, in its order (R241). -/
def walkEntries (m : List Host.Cell) (dev root va : Nat) : List Nat :=
  if 2 ^ 48 ≤ va then [] else
  let a0 := root + va / 2 ^ 38 * 8
  let e0 := tableEntry m dev a0
  if !isPointer e0 then [a0] else
  let a1 := bitsOf e0 12 28 * 4096 + va / 2 ^ 25 % 2 ^ 13 * 8
  let e1 := tableEntry m dev a1
  if isLeaf e1 true || !isPointer e1 then [a0, a1] else [a0, a1, bitsOf e1 12 28 * 4096 + va / 2 ^ 16 % 2 ^ 9 * 8]

/-- What a table walk finds (R241). -/
def walk (s : State) (ctx dev va : Nat) : Option TlbEntry :=
  match rootOf s ctx dev with
  | none => none
  | some root =>
    match walkTo s.mem dev root va with
    | none => none
    | some (_, e, big) => if isLeaf e big then some (leafEntry ctx va e big) else none

/-- The TLB entry of a virtual address (R241). -/
def tlbFind (c : Core) (ctx va : Nat) : Option TlbEntry :=
  c.tlb.find? (fun e => e.ctx == ctx && e.base ≤ va && va < e.base + e.size)

/-- Fill a TLB entry; of 256 the one filled first leaves, since R241 says not which (DESIGN CHOICE, log 69). -/
def tlbFill (e : TlbEntry) (c : Core) : Core :=
  let rest := c.tlb.filter (fun x => !(x.ctx == e.ctx && x.base == e.base))
  { c with tlb := rest.drop (rest.length - 255) ++ [e] }

/-- The byte a translation gives. -/
def entryKey (e : TlbEntry) (va : Nat) : Nat := byteKey e.dev (e.dpa + (va - e.base))

/-- The translation of a virtual address as the core sees it: its TLB, else the table. -/
def transOf (s : State) (core : CoreId) (ctx va : Nat) : Option TlbEntry :=
  match tlbFind (coreOf s core.dev core.die core.core) ctx va with
  | some e => some e
  | none => walk s ctx core.dev va

/-- The virtual address of byte i of an access; addresses wrap at 2^64. -/
def vaAt (va : BitVec 64) (i : Nat) : Nat := (va + BitVec.ofNat 64 i).toNat

/-- The core of a cord. -/
def coreIdOf (c : Cord) : CoreId := ⟨c.dev, c.die, c.core⟩

/-- A write window that lets a context write a byte of the weight store (R252). -/
def windowOpenFor (s : State) (ctx a : Nat) : Bool :=
  match mget s.modules (keyDev a) with
  | some m => m.windows.any (fun w => w.open_ && w.lo ≤ keyDpa a && keyDpa a < w.hi && w.ctxs.contains ctx)
  | none => false

/-- The rights an access needs (R242). -/
structure Need where
  r : Bool := false
  w : Bool := false
  x : Bool := false
  atomic : Bool := false
deriving DecidableEq, Repr

/-- What is wrong with one byte of an access after its lease check (R242): 9 translation, 10 permission. -/
def byteFate (s : State) (core : CoreId) (ctx : Nat) (n : Need) (va : Nat) : Option Nat :=
  match transOf s core ctx va with
  | none => some 9
  | some e =>
    let a := entryKey e va
    if (n.r && !e.r) || (n.w && !e.w) || (n.x && !e.x) then some 10
    else if n.w && isWeight a && (n.atomic || !windowOpenFor s ctx a) then some 10
    else none

/-- The first byte of an access that fails, with its fate. -/
def accessFate (s : State) (core : CoreId) (ctx : Nat) (n : Need) (va : BitVec 64) (size : Nat) : Option (Nat × Nat) :=
  (List.range size).findSome? (fun i => (byteFate s core ctx n (vaAt va i)).map (fun f => (f, vaAt va i)))

/-- The home bytes of an access that has a translation for each of them. -/
def accessKeys (s : State) (core : CoreId) (ctx : Nat) (va : BitVec 64) (size : Nat) : List Nat :=
  (List.range size).filterMap (fun i => (transOf s core ctx (vaAt va i)).map (fun e => entryKey e (vaAt va i)))

/-! ### Token records and L1 -/

/-- The token record of a byte; NONE where nothing is recorded (R262). -/
def tokenOf (s : State) (a : Nat) : Token := (mget s.tokens a).getD ⟨none, .none, 0⟩

/-- Set a token record, listing none that is empty. -/
def setToken (s : State) (a : Nat) (t : Token) : State :=
  { s with tokens := if t.mark == .none && t.holder.isNone then mdel s.tokens a else mset s.tokens a t }

/-- The RELEASE step of a party (R266). -/
def releaseStep (s : State) (p : Party) : State :=
  { s with tokens := s.tokens.map (fun x =>
      if x.2.holder == some p && x.2.mark == .unrel then (x.1, { x.2 with mark := .rel }) else x) }

/-- The further effect of tkrel on a region (R266). -/
def giveUp (s : State) (p : Party) (region : Nat) : State :=
  { s with tokens := s.tokens.filter (fun x => !(x.2.holder == some p && regionOf x.1 == region)) }

/-- Recall by a context error or the end of a cord (R275, R257): bytes held by the parties become STALE, or lose their
record when released. -/
def recallStale (s : State) (mine : Party → Bool) : State :=
  { s with tokens := s.tokens.filterMap (fun x =>
      if x.2.holder.any mine then
        (if x.2.mark == .unrel then some (x.1, ⟨none, .stale, 0⟩) else none)
      else some x) }

/-- Drop every word of a core's L1 (R263 ACQUIRE, R250). -/
def dropL1 (s : State) (c : CoreId) : State := modCore s c.dev c.die c.core (fun x => { x with l1 := [] })

/-- Drop the words of a region (R263 DROP). -/
def dropRegion (s : State) (c : CoreId) (region : Nat) : State :=
  modCore s c.dev c.die c.core (fun x => { x with l1 := x.l1.filter (fun w => w.1 / 64 != region) })

/-- The loads that a core's home requests were performed for, and that have made nothing valid yet, make nothing valid any more: what they
read is from before the drop of an acquire (R250, R263, R271; DEDUCED, log 71). -/
def forgetLines (s : State) (c : CoreId) : State :=
  let late := s.packets.filterMap (fun p => if p.src == c && p.answer.any (!·.words.isEmpty) then some p.op else none)
  { s with
    cords := s.cords.map (fun p => (p.1, if coreIdOf p.2 == c then
      { p.2 with strands := p.2.strands.map (fun q => (q.1, { q.2 with ops := q.2.ops.map (fun o =>
          if (!o.line.isEmpty && !o.filled) || late.contains o.uid then { o with na := true, line := [] } else o) })) } else p.2))
    packets := s.packets.map (fun p => if p.src == c then { p with answer := p.answer.map (fun y => { y with words := [] }) } else p) }

/-- The ACQUIRE step of a strand's core at a scope: quad and wider drop the L1 (R269). -/
def acquireStep (s : State) (c : CoreId) (scope : Nat) : State := if 2 ≤ scope then forgetLines (dropL1 s c) c else s

/-- A word with one byte changed. -/
def setByte (w : BitVec 32) (i : Nat) (b : BitVec 8) : BitVec 32 :=
  (w &&& ~~~(0xFF#32 <<< (8 * i))) ||| (b.zeroExtend 32 <<< (8 * i))

/-- Words that take the bytes that lie in them. -/
def wordsTake (ws : List (Nat × BitVec 32)) (bs : List (Nat × BitVec 8)) : List (Nat × BitVec 32) :=
  ws.map (fun w => (w.1, bs.foldl (fun x b => if b.1 / 4 == w.1 then setByte x (b.1 % 4) b.2 else x) w.2))

/-- Valid words of an L1 take written bytes (R265). -/
def updateL1 (l1 : SMap (BitVec 32)) : List (Nat × BitVec 8) → SMap (BitVec 32)
  | [] => l1
  | (a, b) :: r => updateL1 (mmod l1 (a / 4) (fun w => setByte w (a % 4) b)) r

/-- The bytes of an access that a core's L1 holds, when every word is valid (R263 L1-READ). -/
def l1Bytes (c : Core) : List Nat → Option (List (BitVec 8))
  | [] => some []
  | a :: r =>
    match mget c.l1 (a / 4), l1Bytes c r with
    | some w, some bs => some (w.extractLsb' (8 * (a % 4)) 8 :: bs)
    | _, _ => none

/-! ### Links to other modules -/

/-- The port a byte of a partition uses (R254). -/
def portOf (a : Nat) : Nat := keyDpa a / 256 % 16

/-- The plane of a region, after the planes Glesko has retired (R391). -/
def planeOf (s : State) (dev a : Nat) : Nat :=
  match mget s.modules dev with
  | some m => m.planes[portOf a]?.getD (portOf a)
  | none => portOf a

/-- Change a station of a module. -/
def modStation (s : State) (dev st : Nat) (f : Station → Station) : State :=
  { s with modules := mmod s.modules dev (fun m =>
      { m with stations := m.stations.setIfInBounds st (f (m.stations[st]?.getD ⟨.up, 0, [], []⟩)) }) }

/-- A station of a module. -/
def stationOf (s : State) (dev st : Nat) : Station :=
  ((mget s.modules dev).bind (·.stations[st]?)).getD ⟨.down, 0, [], []⟩

/-- The rights of a context on a module to a frame in another's export table (R387, R389): bit 0 read, bit 1 write, bit 2
execute. -/
def exportRights (s : State) (dev ctx a : Nat) : BitVec 3 :=
  match mget s.modules (keyDev a) with
  | some m => ((m.exports.filter (fun e => e.ctx == ctx && e.frame == keyDpa a / 2 ^ 16 && !e.cut.contains dev)).foldl
      (fun r e => r ||| e.rights) 0)
  | none => 0

/-- A remote byte whose export entry does not give the rights an access needs: a fatal miss (R388). -/
def remoteMiss (s : State) (dev ctx a : Nat) (n : Need) : Bool :=
  keyDev a != dev && ((n.r && !(exportRights s dev ctx a).getLsbD 0) || (n.w && !(exportRights s dev ctx a).getLsbD 1) ||
    (n.x && !(exportRights s dev ctx a).getLsbD 2))

/-- A packet that crosses to another module. -/
def remotePkt (p : Packet) : Bool := p.dst != p.src.dev

/-- A packet that leaves the module by an Ethernet endpoint, over no plane (R402). -/
def etherPkt (p : Packet) : Bool :=
  match p.payload with
  | .ether _ _ _ _ _ => true
  | .req _ | .arrival _ _ _ _ _ _ _ _ | .engine _ _ _ _ _ _ | .fetch _ _ _ _ => false

/-- Both stations of a packet's plane are up (R393). -/
def pathUp (s : State) (p : Packet) : Bool :=
  !remotePkt p || ((stationOf s p.src.dev p.plane).link == .up && (stationOf s p.dst p.plane).link == .up)

/-- The receive slots a context has in reserve on each station of a module: none where it does not run (R392, R424). -/
def slotsAt (s : State) (ctx dev : Nat) : Nat := (mget s.contexts ctx).elim 0 (fun x => if x.roots.any (·.1 == dev) then x.stSlots else 0)

/-- A receive slot of the target station is free for the packet's context: its reserve first, then the shared remainder of
1,024; the reserves are those of the contexts that run on the module (R392). -/
def slotFree (s : State) (p : Packet) : Bool :=
  let used := (stationOf s p.dst p.plane).inUse
  let mine := (mget used p.ctx).getD 0
  let reserved := (s.contexts.map (fun x => slotsAt s x.1 p.dst)).sum
  let shared := (used.map (fun u => u.2 - slotsAt s u.1 p.dst)).sum
  !remotePkt p || decide (mine < slotsAt s p.ctx p.dst) || decide (shared + reserved < 1024)

/-- A packet has left its sender: it stands in the sender's replay buffer (R392, R393). -/
def inReplay (s : State) (p : Packet) : Bool := !remotePkt p || p.reached || (stationOf s p.src.dev p.plane).replay.contains p.id

/-- The packets that wait at a station enter its replay buffer, oldest first, while it has room; one packet is one of its 512 flits (R392,
log 66). -/
def fillReplay (s : State) (dev st : Nat) : State :=
  modStation s dev st (fun t =>
    let kept := t.replay.filter (fun n => s.packets.any (·.id == n))
    let wait := (s.packets.filter (fun p => remotePkt p && p.src.dev == dev && p.plane == st && !p.reached && !kept.contains p.id &&
      !etherPkt p)).map (·.id)
    { t with replay := kept ++ wait.take (512 - kept.length) })

/-- The end-to-end timer of a packet counts: it has been sent, and both links are up; one that is resent has been sent whether or not it
finds a slot (R392, R393). -/
def counting (s : State) (p : Packet) : Bool :=
  pathUp s p && inReplay s p && (p.reached || p.stomped || p.resent || slotFree s p)

/-- The end-to-end timers stop and run on as a change of the machine from s to t has it (R393). -/
def retime (s t : State) : State :=
  { t with packets := t.packets.map (fun p =>
      match s.packets.find? (·.id == p.id) with
      | none => p
      | some q =>
        if counting s q && !counting t p then { p with spent := p.spent + (t.wall - p.since), since := t.wall }
        else if !counting s q && counting t p then { p with since := t.wall }
        else p) }

/-- A packet is gone: from the list and from its sender's replay buffer (R392, R393). -/
def dropPacket (s : State) (p : Packet) : State :=
  let s := { s with packets := s.packets.filter (·.id != p.id) }
  if remotePkt p then retime s (fillReplay s p.src.dev p.plane) else s

/-- A packet takes a slot of its target station. -/
def takeSlot (s : State) (p : Packet) : State :=
  if remotePkt p then
    retime s (modStation s p.dst p.plane (fun t => { t with inUse := mset t.inUse p.ctx ((mget t.inUse p.ctx).getD 0 + 1) }))
  else s

/-- The link a byte on another module is reached over: up, out of the up state, or down, by the worse of the two stations of its plane
(R391, R395). -/
def linkTo (s : State) (dev a : Nat) : Link :=
  if keyDev a == dev then .up
  else
    let p := planeOf s dev a
    let x := (stationOf s dev p).link
    let y := (stationOf s (keyDev a) p).link
    if x == .down || y == .down then .down else if x == .retrain || y == .retrain then .retrain else .up

/-- A byte on another module lies on a plane that takes no new request, since it is being retired (R391). -/
def planeRetiring (s : State) (dev a : Nat) : Bool :=
  keyDev a != dev && (mget s.modules dev).any (fun m => m.retiring.getLsbD (planeOf s dev a))

/-! ### Ports and poison -/

/-- Give the first waiting packet the lowest free tag of eight (R254). -/
def portSend (p : Port) : Port :=
  match p.waiting with
  | [] => p
  | q :: ws =>
    match (List.range 8).find? (fun t => !(p.sent.any (·.tag == t))) with
    | some t => { waiting := ws, sent := p.sent ++ [{ q with tag := t }] }
    | none => p

/-- The LLC sends a packet for bytes of one region to their port (R254). -/
def portEnqueue (s : State) (read : Bool) (bytes : List (Nat × BitVec 8)) : State :=
  match bytes with
  | [] => s
  | (a, _) :: _ =>
    match (if isWeight a then none else homeDie a) with
    | none => s
    | some d => modDie s (keyDev a) d (fun x =>
        let p := (mget x.ports (portOf a)).getD ⟨[], []⟩
        { x with ports := mset x.ports (portOf a) (portSend { p with waiting := p.waiting ++ [⟨0, read, bytes, false, false⟩] }) })

/-- SEC-DED on the aligned 8-byte words the base die reads: single-bit errors are corrected and counted, a word with an uncorrectable one is
poisoned (R256, log 8). -/
def checkWords (s : State) (ws : List Nat) : State :=
  ws.foldl (fun s w =>
    let b := Config.bitError s.choices w
    let s := { s with choices := s.choices + 1 }
    if b == 0 then s
    else if b == 1 then modDie s (keyDev (8 * w)) ((homeDie (8 * w)).getD 0) (fun d => { d with corrected := d.corrected + 1 })
    else { s with poison := if s.poison.contains w then s.poison else s.poison ++ [w] }) s

/-- A byte lies in a poisoned word (R256). -/
def poisoned (s : State) (a : Nat) : Bool := s.poison.contains (a / 8)

/-- The words of a list of bytes that the list covers whole. -/
def wholeWords (as : List Nat) : List Nat :=
  (as.map (· / 8)).filter (fun w => (List.range 8).all (fun i => as.contains (8 * w + i)))

/-! ### The LLC -/

/-- A read of the weight store meets its bank group in a refresh window (R253). -/
def refreshing (s : State) (as : List Nat) : Bool :=
  as.any (fun a => isWeight a && (homeDie a).any (fun d =>
    (dieOf s (keyDev a) d).refAct.getLsbD ((keyDpa a - 2 ^ 39) % 2 ^ 28 / 2 ^ 11 % 8)))

/-- The 4-byte words of a list of bytes that lie in a region, as a mask (R246). -/
def wordMask (region : Nat) (as : List Nat) : BitVec 64 :=
  as.foldl (fun w a => if regionOf a == region then w ||| laneBit (a % 256 / 4) else w) 0

/-- The LLC of a byte's home die holds its word (R251). -/
def llcHolds (s : State) (a : Nat) : Bool :=
  (homeDie a).any (fun d => (dieOf s (keyDev a) d).llc.any (fun x => x.region == regionOf a && x.words.getLsbD (a % 256 / 4)))

/-- The home LLC takes a byte on an access with a hint: not with .llcna, and a byte of the weight store only with .llckeep (R251,
R252). -/
def llcTakes (hint : BitVec 32) (a : Nat) : Bool := !hintNoLlc hint && (!isWeight a || hintKeep hint)

/-- The words the LLC of a die holds, of its own regions and as a holder (R15, R251, R383). -/
def llcWords (s : State) (dev die : Nat) : Nat :=
  ((dieOf s dev die).llc.map (fun x => popCount x.words)).sum +
  ((s.directory.filter (fun d => d.dev == dev && d.die == die)).map (fun d => popCount d.words)).sum

/-- The LLC of a die drops a region: the dirty bytes of its own are written back, what it held of another home leaves the directory
(R251). -/
def llcDrop (s : State) (dev die region : Nat) : State :=
  match (dieOf s dev die).llc.find? (·.region == region) with
  | some x => modDie (portEnqueue s false (x.dirty.map (fun a => (a, readCell s.mem a)))) dev die (fun d =>
      { d with llc := d.llc.filter (·.region != region) })
  | none => { s with directory := s.directory.filter (fun d => !(d.region == region && d.dev == dev && d.die == die)) }

/-- The region the LLC of a die replaces next: its oldest without .llckeep, then what it holds of other homes without .llckeep, then with
it, then its oldest (R251, log 56). -/
def llcVictim (s : State) (dev die : Nat) : Option Nat :=
  let d := dieOf s dev die
  let far := s.directory.filter (fun h => h.dev == dev && h.die == die)
  match d.llc.find? (!·.keep), far.find? (!·.keep), far, d.llc with
  | some x, _, _, _ => some x.region
  | none, some h, _, _ => some h.region
  | none, none, h :: _, _ => some h.region
  | none, none, [], x :: _ => some x.region
  | none, none, [], [] => none

/-- Replace regions until the LLC of a die holds no more than its 96 MiB (R15); the fuel bounds the regions. -/
def llcFit : Nat → State → Nat → Nat → State
  | 0, s, _, _ => s
  | n + 1, s, dev, die =>
    if llcWords s dev die ≤ 25165824 then s
    else
      match llcVictim s dev die with
      | some r => llcFit n (llcDrop s dev die r) dev die
      | none => s

/-- The home LLC of a list of bytes holds their words, as the most recently used of their regions; dirty bytes await their write-back
(R251). -/
def llcPut (s : State) (hint : BitVec 32) (as dirty : List Nat) : State :=
  (as.map regionOf).eraseDups.foldl (fun s r =>
    match homeDie (r * 256) with
    | none => s
    | some d =>
      let s := modDie s (keyDev (r * 256)) d (fun x =>
        let old := (x.llc.find? (·.region == r)).getD ⟨r, 0, [], false⟩
        { x with llc := x.llc.filter (·.region != r) ++ [{ old with
          words := old.words ||| wordMask r as
          dirty := old.dirty ++ dirty.filter (fun a => regionOf a == r && !old.dirty.contains a)
          keep := old.keep || hintKeep hint }] })
      llcFit ((dieOf s (keyDev (r * 256)) d).llc.length + s.directory.length) s (keyDev (r * 256)) d) s

/-- A packet to the port of each region of a list of bytes (R254). -/
def portRegions (s : State) (read : Bool) (as : List Nat) : State :=
  (as.map regionOf).eraseDups.foldl (fun s r =>
    portEnqueue s read ((as.filter (fun a => regionOf a == r)).map (fun a => (a, readCell s.mem a)))) s

/-- A home reads bytes: those its LLC does not hold come from memory through the port, under SEC-DED, and the LLC takes them unless the
hint or the weight store forbids it (R251, R252, R254, R256). -/
def homeRead (s : State) (hint : BitVec 32) (as : List Nat) : State :=
  let miss := as.filter (fun a => !llcHolds s a)
  let s := portRegions (checkWords s (miss.map (· / 8)).eraseDups) true miss
  llcPut s hint (as.filter (fun a => llcHolds s a || llcTakes hint a)) []

/-! ### Performing a request -/

/-- The bytes of a request or engine access that its kind reads. -/
def kindReads (k : OpKind) : Bool :=
  k == .load || k == .obs || k == .acqLoad || k == .atomic || k == .refill

/-- A kind that writes. -/
def kindWrites (k : OpKind) : Bool := k == .store || k == .relStore || k == .atomic || k == .spill

/-- The ordinary kinds (R260). -/
def kindOrdinary (k : OpKind) : Bool := k == .load || k == .store || k == .spill || k == .refill

/-- DETAIL of the memory-model exception (R267). -/
def mmDetail (cause : Nat) (p : Option Party) : BitVec 64 :=
  match p with
  | none => BitVec.ofNat 64 (cause * 2 ^ 62)
  | some p => BitVec.ofNat 64 (cause * 2 ^ 62 + p.dev * 2 ^ 52 + p.die * 2 ^ 50 + p.lane * 2 ^ 44 + p.serial * 2 ^ 16 + p.ctx)

/-- The check of R265 on one byte; stores of one word of one braid do not race with each other (R247). -/
def raceAt (t : Token) (k : OpKind) (s : Party) (grp : Nat) : Option (BitVec 64) :=
  if t.mark == .stale && kindReads k then some (mmDetail 3 none)
  else if kindOrdinary k && t.mark == .unrel && t.holder != some s && !(kindWrites k && t.grp == grp && grp != 0) then
    some (mmDetail (if kindWrites k then 1 else 2) t.holder)
  else none

/-- The old and new values of an atomic (R282 to R284). -/
def atomNew (a : AtomSpec) (w : Nat) (old : Nat) : Nat × Flags :=
  let x := a.x.toNat % 2 ^ (8 * w)
  let sx : Int := (BitVec.ofNat 32 x).toInt
  let so : Int := (BitVec.ofNat 32 old).toInt
  if a.op == 0 || a.op == 12 then ((old + x) % 2 ^ (8 * w), 0)
  else if a.op == 1 then ((old + (2 ^ (8 * w) - x)) % 2 ^ (8 * w), 0)
  else if a.op == 2 then (if sx < so then x else old, 0)
  else if a.op == 3 then (if so < sx then x else old, 0)
  else if a.op == 4 then (min x old, 0)
  else if a.op == 5 then (max x old, 0)
  else if a.op == 6 then ((BitVec.ofNat 64 x &&& BitVec.ofNat 64 old).toNat, 0)
  else if a.op == 7 then ((BitVec.ofNat 64 x ||| BitVec.ofNat 64 old).toNat, 0)
  else if a.op == 8 then ((BitVec.ofNat 64 x ^^^ BitVec.ofNat 64 old).toNat, 0)
  else if a.op == 10 then fAdd ⟨fp32, 0, false, a.ftz⟩ old x
  else if a.op == 11 || a.op == 14 then (if old == x then a.y.toNat % 2 ^ (8 * w) else old, 0)
  else (x, 0)

/-- An atomic whose comparison fails writes no byte (R283). -/
def atomWrites (a : AtomSpec) (w : Nat) (old : Nat) (fl : Flags) : Bool :=
  if a.op == 11 || a.op == 14 then old == a.x.toNat % 2 ^ (8 * w) else (fl &&& a.en) == 0#5

/-- Directory: a write removes the words it overlaps at every other holder (R251, R385). -/
def directoryWrite (s : State) (c : CoreId) (as : List Nat) : State :=
  let cut := s.directory.map (fun d =>
    if d.dev == c.dev && d.die == c.die then d else { d with words := d.words &&& ~~~(wordMask d.region as) })
  { s with directory := cut.filter (·.words != 0) }

/-- The LLC of a die that is not the home of a byte holds its word (R251, R383). -/
def holderHas (s : State) (c : CoreId) (a : Nat) : Bool :=
  s.directory.any (fun d => d.region == regionOf a && d.dev == c.dev && d.die == c.die && d.words.getLsbD (a % 256 / 4))

/-- The LLC of a die that is not the home keeps the words it fetched, unless the access has .llcna, and with .llckeep replaces them
last (R251, R383). -/
def directoryRead (s : State) (c : CoreId) (hint : BitVec 32) (as : List Nat) : State :=
  let far := as.filter (fun a => !(keyDev a == c.dev && homeDie a == some c.die))
  if hintNoLlc hint || far.isEmpty then s
  else
    let s := (far.map regionOf).eraseDups.foldl (fun (s : State) r =>
      let old := (s.directory.find? (fun d => d.region == r && d.dev == c.dev && d.die == c.die)).getD ⟨r, c.dev, c.die, 0, false⟩
      { s with directory := s.directory.filter (fun d => !(d.region == r && d.dev == c.dev && d.die == c.die)) ++
          [{ old with words := old.words ||| wordMask r far, keep := old.keep || hintKeep hint }] }) s
    llcFit ((dieOf s c.dev c.die).llc.length + s.directory.length) s c.dev c.die

/-- A core reads bytes that its die's LLC or their home serves: both keep them as the hint has it (R251, R252, R383). -/
def readTouch (s : State) (c : CoreId) (hint : BitVec 32) (as : List Nat) : State :=
  directoryRead (if as.all (holderHas s c) then s else homeRead s hint as) c hint as

/-- A table walk reads its entries at their homes, through the LLCs (R241, R251, R256). One in a poisoned word is taken as it stands
(DESIGN CHOICE, log 23). -/
def walkTouch (s : State) (c : CoreId) (ctx va : Nat) : State :=
  match rootOf s ctx c.dev with
  | none => s
  | some root => (walkEntries s.mem c.dev root va).foldl (fun s a =>
      readTouch s c 0 ((List.range 8).map (fun i => byteKey c.dev a + i))) s

/-- A TLB miss walks the table, and fills the entry found (R241). -/
def walkFor (s : State) (c : CoreId) (ctx va : Nat) : State :=
  match tlbFind (coreOf s c.dev c.die c.core) ctx va with
  | some _ => s
  | none =>
    let t := walkTouch s c ctx va
    match walk s ctx c.dev va with
    | none => t
    | some e => modCore t c.dev c.die c.core (tlbFill e)

/-- A holder on another module keeps a word the write overlaps, and its link to the home is out of the up state and not yet declared
down: the write waits (R385). -/
def holderHangs (s : State) (c : CoreId) (as : List Nat) : Bool :=
  s.directory.any (fun d => !(d.dev == c.dev && d.die == c.die) && (d.words &&& wordMask d.region as) != 0 &&
    linkTo s d.dev (d.region * 256) == .retrain)

/-- A perform joins the arbiter order of each region it touches (R261, R263). -/
def arbitrate (s : State) (kind : OpKind) (p : Option Party) (as : List Nat) : State :=
  { s with order := (as.map regionOf).eraseDups.foldl (fun m r =>
      mset m r ((mget m r).getD [] ++ [⟨kind, p, as.filter (fun a => regionOf a == r)⟩])) s.order }

/-- The write of a request or engine access at its home: bytes, token records, poison (R256, R265), and what the LLC takes or the port
writes (R251, R254). covers are the 8-byte words the whole access writes, late those of them it has not written whole yet, which stay
poisoned until then. Answers whether a word written in part stays poisoned. -/
def homeWrite (s : State) (token : Token) (hint : BitVec 32) (covers late as : List Nat) (bs : List (BitVec 8)) : State × Option Nat :=
  let whole := wholeWords as ++ covers
  let part := as.filter (fun a => !whole.contains (a / 8) && !llcHolds s a)
  let s := if part.any (llcTakes hint) then homeRead s hint part else checkWords s (part.map (· / 8)).eraseDups
  let bad := as.find? (fun a => poisoned s a && !whole.contains (a / 8))
  let s := { s with
    mem := writeCells s.mem as bs
    poison := s.poison.filter (fun w => !(as.any (fun a => a / 8 == w) && whole.contains w && !late.contains w)) }
  let s := as.foldl (fun s a => setToken s a token) s
  let kept := as.filter (fun a => llcHolds s a || llcTakes hint a)
  (portRegions (llcPut s hint kept kept) false (as.filter (fun a => !kept.contains a)), bad)

/-- A failing answer: cause, offset of the first failing byte, DETAIL. -/
def failReply (cause off : Nat) (detail : BitVec 64) : Reply := ⟨cause, off, detail, [], 0, []⟩

/-- An answer that brings bytes. -/
def okReply (bs : List (BitVec 8)) : Reply := ⟨0, 0, 0, bs, 0, []⟩

/-- The operations named by a word and braid that are still pending (R247). -/
def groupLive (s : State) (grp : Nat) : Bool :=
  s.cords.any (fun p => p.2.strands.any (fun q => q.2.ops.any (fun o => o.grp == grp && o.state != .settled && o.state != .failed)))

/-- The byte the loads of one word and braid took at an address (R247). -/
def loadSeen (s : State) (grp a : Nat) : Option (BitVec 8) := (s.loads.find? (fun x => x.1 == grp && x.2.1 == a)).map (·.2.2)

/-- The bytes a load takes: those an earlier strand of its word and braid took, else the ones given; the later strands of the word take
the same (R247). -/
def shareLoad (s : State) (grp : Nat) (as : List Nat) (bs : List (BitVec 8)) : List (BitVec 8) × State :=
  if grp == 0 then (bs, s)
  else
    let xs := (as.zip bs).map (fun p => (grp, p.1, (loadSeen s grp p.1).getD p.2))
    let old := s.loads.filter (fun x => !(x.1 == grp && as.contains x.2.1) && groupLive s x.1)
    (xs.map (·.2.2), { s with loads := old ++ xs })

/-- The 4-byte words of a list of bytes, with their values (R250, R263 FILL). -/
def lineWords (m : List Host.Cell) (as : List Nat) : List (Nat × BitVec 32) :=
  (as.map (· / 4)).eraseDups.map (fun w => (w, BitVec.ofNat 32 (leNat (readMem m (4 * w) 4))))

/-- The other requests of an access not yet performed (R246, R268). -/
def restOf (s : State) (r : Req) : List Req :=
  s.arrivals.filter (fun q => q.uid != r.uid && q.cord == r.cord && q.lane == r.lane && q.op == r.op)

/-- The request and another of its access write bytes of one 8-byte word, by their virtual addresses. -/
def sameWord (r q : Req) (off : Nat) : Bool := q.offs.any (fun i => vaAt q.va i / 8 == vaAt r.va off / 8)

/-- The 8-byte words of a request that another request of its access is still to write a part of (R256). -/
def lateWords (s : State) (r : Req) : List Nat :=
  (r.addrs.zip r.offs).filterMap (fun p => if (restOf s r).any (fun q => sameWord r q p.2) then some (p.1 / 8) else none)

/-- Two lists of bytes share a region. -/
def sameRegion (xs ys : List Nat) : Bool := xs.any (fun x => ys.any (fun y => regionOf x == regionOf y))

/-- The packet that carries a request. -/
def packetOf (s : State) (r : Req) : Option Packet :=
  s.packets.find? (fun p => match p.payload with | .req q => q.uid == r.uid | _ => false)

/-- Requests of an access that fails are withdrawn: they are never performed (R267, R268; DEDUCED, log 97). -/
def withdraw (s : State) (r : Req) (gone : Req → Bool) : State :=
  let qs := (restOf s r).filter gone
  let s := qs.foldl (fun s q =>
    let s := (packetOf s q).elim s (dropPacket s)
    { s with arrivals := s.arrivals.filter (·.uid != q.uid) }) s
  modOp s r.cord r.lane r.op (fun o => { o with left := o.left - qs.length })

/-- The race of a request (R265): the offset of the first byte that meets one, and its DETAIL. -/
def raceOf (s : State) (r : Req) : Option (Nat × BitVec 64) :=
  (r.addrs.zip r.offs).findSome? (fun p => (raceAt (tokenOf s p.1) r.kind r.party r.grp).map (fun d => (p.2, d)))

/-- The requests of the same access to a region of the request, which R246 sends with it. -/
def besideOf (s : State) (r : Req) : List Req := (restOf s r).filter (fun q => sameRegion q.addrs r.addrs)

/-- The race a request is refused for. R265 checks every byte of a request first, and R268 lets the bytes of a split access fall in different
steps: whether the check of one of its byte events covers the bytes still to come in its region is a free choice (log 97). -/
def requestRace (s : State) (r : Req) : Option (Nat × BitVec 64) × State :=
  if (besideOf s r).isEmpty then (raceOf s r, s)
  else
    let (whole, s) := choose s 2
    (if whole == 1 then (r :: besideOf s r).findSome? (raceOf s) else raceOf s r, s)

/-- The words that a core's loads were performed with and have not made valid yet take written bytes, with those of answers on their way
to it, as its L1 does: a FILL brings no byte from before an older write of the core (R263, R265, R271; DEDUCED, log 71). -/
def pendTake (s : State) (c : CoreId) (bs : List (Nat × BitVec 8)) : State :=
  { s with
    cords := s.cords.map (fun p => (p.1, if coreIdOf p.2 == c then
      { p.2 with strands := p.2.strands.map (fun q => (q.1, { q.2 with ops := q.2.ops.map (fun o =>
          { o with line := wordsTake o.line bs }) })) } else p.2))
    packets := s.packets.map (fun p =>
      if p.src == c then { p with answer := p.answer.map (fun y => { y with words := wordsTake y.words bs }) } else p) }

/-- The L1 of a core takes the bytes of a write of one of its strands where their words are valid (R265). -/
def coreTake (s : State) (c : CoreId) (bs : List (Nat × BitVec 8)) : State :=
  modCore (pendTake s c bs) c.dev c.die c.core (fun x => { x with l1 := updateL1 x.l1 bs })

/-- Perform a request that the frame check has passed (R265, R256, R282 to R284). The words an atomic writes that are valid in the
L1 of its core take the new bytes, as R265 says; R250 says that an atomic changes nothing in the L1 (DEDUCED, log 67). -/
def performBytes (s : State) (r : Req) : State × Reply :=
  match requestRace s r with
  | (some (o, d), s) => (arbitrate s r.kind (some r.party) r.addrs, failReply 12 o d)
  | (none, s) =>
    let s := arbitrate s r.kind (some r.party) r.addrs
    let s := if kindReads r.kind && !(r.kind != .atomic && r.addrs.all (holderHas s r.core)) then homeRead s r.hint r.addrs else s
    match (if kindReads r.kind then (r.addrs.zip r.offs).find? (fun p => poisoned s p.1) else none) with
    | some p => (s, failReply 11 p.2 0)
    | none =>
      let old := r.addrs.map (readCell s.mem)
      if r.kind == .atomic then
        match r.atom with
        | none => (s, okReply old)
        | some a =>
          let w := r.addrs.length
          let (n, fl) := atomNew a w (leNat old)
          if (fl &&& a.en) != 0#5 then (s, { failReply 13 0 (fl.zeroExtend 64) with flags := fl })
          else if atomWrites a w (leNat old) fl then
            let bs := leBytes w n
            (coreTake (directoryWrite (homeWrite s ⟨none, .none, 0⟩ r.hint [] [] r.addrs bs).1 r.core r.addrs) r.core (r.addrs.zip bs),
              { okReply old with flags := fl })
          else (s, { okReply old with flags := fl })
      else if kindWrites r.kind then
        let s := if r.kind == .relStore then releaseStep s r.party else s
        let t : Token := if kindOrdinary r.kind then ⟨some r.party, .unrel, r.grp⟩ else ⟨none, .none, 0⟩
        let (s, bad) := homeWrite s t r.hint r.covers (lateWords s r) r.addrs r.data
        let s := coreTake (directoryWrite s r.core r.addrs) r.core (r.addrs.zip r.data)
        match bad with
        | none => (s, okReply [])
        | some a => (s, failReply 11 (((r.addrs.zip r.offs).find? (·.1 == a)).elim 0 (·.2)) 0)
      else
        let (bs, s) := shareLoad s r.grp r.addrs old
        (directoryRead s r.core r.hint r.addrs,
          { okReply bs with words := if kindOrdinary r.kind then wordsTake (lineWords s.mem r.addrs) (r.addrs.zip bs) else [] })

/-- What R243 decides of a request. -/
inductive FrameFate where
  | hold | perform | refuse
deriving DecidableEq, Repr

/-- The frame of a byte. -/
def frameOf (s : State) (a : Nat) : Frame := (mget s.frames (a / 2 ^ 16)).getD ⟨0, .free, false⟩

/-- The decision of R243 for the bytes of a request. -/
def frameFate (s : State) (gen : BitVec 8) (as : List Nat) : FrameFate :=
  if as.any (fun a => (frameOf s a).state == .moving) then .hold
  else if as.all (fun a => (frameOf s a).state == .valid && (frameOf s a).gen == gen) then .perform
  else .refuse

/-- A load leaves the miss-status entries it joined (R248). -/
def mshrLeave (s : State) (c : Cord) (u : Nat) : State :=
  modCoreOf s c (fun co =>
    { co with mshr := (co.mshr.map (fun m => { m with uids := m.uids.filter (· != u) })).filter (fun m => !m.uids.isEmpty) })

/-- The L1 words of a load with those its next piece was performed with: a byte it has read keeps the value read (R263 FILL, R268). -/
def mergeLine (read : List Nat) (line ws : List (Nat × BitVec 32)) : List (Nat × BitVec 32) :=
  line.filter (fun x => !ws.any (·.1 == x.1)) ++ ws.map (fun w =>
    match line.find? (·.1 == w.1) with
    | none => w
    | some x => (wordsTake [w] ((((List.range 4).map (4 * w.1 + ·)).filter read.contains).map
        (fun a => (a, x.2.extractLsb' (8 * (a % 4)) 8)))).headD w)

/-- The operation of a request takes a reply; when the last one has come it is performed, or failed with the first failing
byte (R300 in the same spirit for copies; R354). A failing one withdraws the requests of the access that are not performed yet (log 97). An
amo.add.f raises its flags, failed or not (R34, R284). -/
def applyReply (s : State) (r : Req) (y : Reply) : State :=
  match mget s.cords r.cord with
  | none => s
  | some c =>
    let now := cycOf s c.dev c.die
    let s := modStrand s r.cord r.lane (fun st => if (opOf st r.op).isSome then raiseFlags y.flags st else st)
    let s := if y.cause == 0 then s else withdraw (mshrLeave s c r.op) r (fun _ => true)
    let s := modOp s r.cord r.lane r.op (fun o =>
      let va := BitVec.ofNat 64 (vaAt o.va y.off)
      let left := o.left - 1
      let worse := y.cause != 0 && (o.cause == 0 || decide (va.toNat < o.addr.toNat))
      let o := { o with
        left := left
        got := if y.cause == 0 then o.got ++ r.offs.zip y.bytes else o.got
        line := mergeLine (o.got.filterMap (fun g => o.home[g.1]?)) o.line y.words
        flags := o.flags ||| y.flags
        cause := if worse then y.cause else o.cause
        addr := if worse then (if y.cause == 13 || y.cause == 21 then 0 else va) else o.addr
        detail := if worse then y.detail else o.detail }
      if left == 0 then { o with state := if o.cause == 0 then .performed else .failed, due := now } else o)
    abandonWait s r.cord r.lane

/-- The need of an operation (R242). -/
def needOf (k : OpKind) : Need :=
  { r := kindReads k, w := kindWrites k, atomic := k == .atomic }

/-- A core drops its TLB entries for the pages of some virtual addresses (R243). -/
def tlbForget (s : State) (core : CoreId) (ctx : Nat) (vas : List Nat) : State :=
  modCore s core.dev core.die core.core (fun c =>
    { c with tlb := c.tlb.filter (fun e => !(e.ctx == ctx && vas.any (fun v => e.base ≤ v && v < e.base + e.size))) })

/-- A refused request is sent again under the new translation, in its place of the queue, or fails (R243, R292). -/
def resend (s : State) (r : Req) : State :=
  let v := vaAt r.va (r.offs.headD 0)
  let s := walkTouch (tlbForget s r.core r.party.ctx (r.offs.map (vaAt r.va))) r.core r.party.ctx v
  let gone : State := { s with arrivals := s.arrivals.filter (·.uid != r.uid) }
  let fate := r.offs.findSome? (fun i => (byteFate s r.core r.party.ctx (needOf r.kind) (vaAt r.va i)).map (fun f => (f, i)))
  if 16 ≤ r.tries + 1 then applyReply gone r (failReply 9 (r.offs.headD 0) 0)
  else
    match fate, transOf s r.core r.party.ctx v with
    | some (f, i), _ => applyReply gone r (failReply f i 0)
    | none, none => applyReply gone r (failReply 9 (r.offs.headD 0) 0)
    | none, some e =>
      let s := modCore s r.core.dev r.core.die r.core.core (tlbFill e)
      let as := r.offs.map (fun i => entryKey e (vaAt r.va i))
      let s := modOp s r.cord r.lane r.op (fun o =>
        { o with home := (List.range o.home.length).map (fun i =>
            match r.offs.idxOf? i with
            | some k => as.getD k (o.home.getD i 0)
            | none => o.home.getD i 0) })
      let covers := r.covers.map (fun w => ((r.addrs.zip as).find? (fun p => p.1 / 8 == w)).elim w (fun p => p.2 / 8))
      { s with arrivals := s.arrivals.map (fun q =>
          if q.uid == r.uid then { r with addrs := as, gen := e.gen, tries := r.tries + 1, covers := covers } else q) }

/-- Perform or refuse one request of an arrival queue that may be decided now. -/
def decideOne (s : State) (r : Req) : State :=
  match frameFate s r.gen r.addrs with
  | .hold => s
  | .refuse => resend s r
  | .perform =>
    let (s, y) := performBytes { s with arrivals := s.arrivals.filter (·.uid != r.uid) } r
    match packetOf s r with
    | some p =>
      let s := if y.cause == 0 then s else withdraw s r (fun q => sameRegion q.addrs r.addrs)
      { s with packets := s.packets.map (fun q => if q.id == p.id then { q with answer := some y } else q) }
    | none => applyReply s r y

/-! ### Accesses and the queues of their requests -/

/-- An access of a strand, with its cord, strand and die cycle. -/
structure Acc where
  cord : Cord
  st   : Strand
  op   : Op
  now  : Nat
deriving DecidableEq, Repr

/-- The access of a name. -/
def accOf (s : State) (k l u : Nat) : Option Acc :=
  match mget s.cords k with
  | none => none
  | some c =>
    match mget c.strands l with
    | none => none
    | some st => (opOf st u).map (fun o => ⟨c, st, o, cycOf s c.dev c.die⟩)

/-- The home bytes of an access: those it was sent to, or those its translations give now. -/
def opKeys (s : State) (c : Cord) (o : Op) : List Nat :=
  if o.home.isEmpty then accessKeys s (coreIdOf c) c.ctx o.va o.size else o.home

/-- Two accesses touch a common byte. -/
def touch (s : State) (c : Cord) (p o : Op) : Bool :=
  let vs := (List.range o.size).map (vaAt o.va)
  (List.range p.size).any (fun i => vs.contains (vaAt p.va i)) || (opKeys s c p).any (opKeys s c o).contains

/-- An acquire-kind access (R264). -/
def kindAcquires (k : OpKind) : Bool := k == .acqLoad || k == .atomic || k == .fenceAcq || k == .fence

/-- An access that R264 holds back until its older accesses have settled and the conditions of a release step hold. -/
def kindReleases (k : OpKind) : Bool := k == .relStore || k == .atomic || k == .fenceRel || k == .fence || k == .tkrel

/-- What R264 holds an access back for, over one older operation of its strand. -/
def holdsBack (s : State) (a : Acc) (p : Op) : Bool :=
  let o := a.op
  !opDone a.now p &&
  ((p.size != 0 && o.size != 0 && (kindWrites p.kind || kindWrites o.kind) && touch s a.cord p o) ||
   (kindAcquires p.kind && !p.acq) ||
   kindReleases o.kind || (o.kind == .acqLoad && p.seq.isSome) ||
   ((kindWrites o.kind || o.kind == .tkrel) && (p.kind == .fenceRel || p.kind == .tkrel) && !p.rel))

/-- An older operation of the strand has failed: the access is never sent (R352). -/
def behindFailure (a : Acc) : Bool := (olderOps a.st a.op.uid).any (fun p => p.state == .failed)

/-- The strands of the core of a cord, with their cords: a braid may hold strands of several (R160). -/
def coreStrands (s : State) (c : Cord) : List (Cord × Nat × Strand) :=
  s.cords.flatMap (fun p =>
    if p.2.dev == c.dev && p.2.die == c.die && p.2.core == c.core then p.2.strands.map (fun q => (p.2, q.1, q.2)) else [])

/-- A lower lane's store of the same word and braid that touches a byte of this one is not yet performed (R247, R291). -/
def lowerLane (s : State) (l : Nat) (a : Acc) : Bool :=
  kindWrites a.op.kind && (coreStrands s a.cord).any (fun p => decide (p.2.1 < l) && p.2.2.ops.any (fun q =>
    q.grp == a.op.grp && kindWrites q.kind && q.kind != .atomic && (q.state == .unsent || q.state == .sent) && touch s a.cord q a.op))

/-- The access is held by R264. -/
def heldBack (s : State) (l : Nat) (a : Acc) : Bool :=
  behindFailure a || (olderOps a.st a.op.uid).any (holdsBack s a) || lowerLane s l a

/-- A kind that loads (R292). -/
def kindLoads (k : OpKind) : Bool := k == .load || k == .obs || k == .acqLoad || k == .refill

/-- An older send or engine request of the strand to a region of the bytes has not been performed (R298, R384). -/
def sendBefore (s : State) (k l id : Nat) (as : List Nat) : Bool :=
  s.packets.any (fun p => decide (p.id < id) && p.cord == k && p.lane == l && p.answer.isNone &&
    (match p.payload with
     | .arrival bs _ _ _ _ _ _ _ | .engine _ bs _ _ _ _ => sameRegion bs as
     | .req _ | .ether _ _ _ _ _ | .fetch _ _ _ _ => false))

/-- No older request of the party waits at the home for the region (R263, R384). -/
def queueHead (s : State) (r : Req) : Bool :=
  (s.arrivals.takeWhile (·.uid != r.uid)).all (fun q => !(q.party == r.party && sameRegion q.addrs r.addrs)) &&
  !sendBefore s r.cord r.lane r.uid r.addrs

/-- The region of a request. -/
def reqRegion (r : Req) : Nat := regionOf (r.addrs.headD 0)

/-- The requests of an atomic word of one braid to one region, in ascending lane order (R285). -/
def atomGroup (s : State) (r : Req) : List Req :=
  if r.kind == .atomic then
    (List.range 64).flatMap (fun l => s.arrivals.filter (fun q =>
      q.kind == .atomic && q.grp == r.grp && q.lane == l && reqRegion q == reqRegion r))
  else [r]

/-- An atomic of the same word, braid and region has not been sent (R285). -/
def groupMissing (s : State) (r : Req) : Bool :=
  r.kind == .atomic &&
  (match mget s.cords r.cord with
   | none => false
   | some c => (coreStrands s c).any (fun p => p.2.2.ops.any (fun o =>
      o.kind == .atomic && o.grp == r.grp && o.state == .unsent && !behindFailure ⟨p.1, p.2.2, o, 0⟩ &&
      regionOf ((opKeys s p.1 o).headD 0) == reqRegion r)))

/-- The program counter of the operation a packet serves (R388). -/
def opPc (s : State) (k l op : Nat) : BitVec 64 :=
  match mget s.cords k with
  | none => 0
  | some c =>
    match eopOf c op with
    | some e => e.pc
    | none => ((mget c.strands l).bind (fun st => opOf st op)).elim 0 (·.pc)

/-- A packet for the module of a byte waits at the station of its plane and leaves when its replay buffer has room (R391 to R393). -/
def sendPacket (s : State) (core : CoreId) (ctx k l op chunk a : Nat) (p : Payload) : State :=
  let (u, s) := freshUid s
  let plane := planeOf s core.dev a
  let s := { s with packets := s.packets ++ [⟨u, core, keyDev a, (homeDie a).getD 0, plane, ctx, k, l, op, chunk, p,
    false, none, false, false, 0, s.wall, 0, false, opPc s k l op, ((mget s.cords k).map (·.node)).getD 0⟩] }
  if keyDev a == core.dev then s else fillReplay s core.dev plane

/-- Send the packet of a request, unless its plane is being retired (R388, R391). -/
def sendReq (s : State) (r : Req) : State :=
  if r.addrs.any (planeRetiring s r.core.dev) then s
  else sendPacket s r.core r.party.ctx r.cord r.lane r.op 0 (r.addrs.headD 0) (.req r)

/-- The packets of requests that were refused and retranslated leave again under the new translation (R243, R388). -/
def repack (s : State) : State :=
  let s := { s with packets := s.packets.filter (fun p => match p.payload with
      | .req q => p.answer.isSome || s.arrivals.any (fun r => r.uid == q.uid && r.tries == q.tries)
      | .arrival _ _ _ _ _ _ _ _ | .ether _ _ _ _ _ | .engine _ _ _ _ _ _ | .fetch _ _ _ _ => true) }
  s.arrivals.foldl (fun s r =>
    if r.tries == 0 || keyDev (r.addrs.headD 0) == r.core.dev || (packetOf s r).isSome then s else sendReq s r) s

/-- The holders of bytes of an ordinary write, other than its own party, whose requests R265 drains. -/
def holdersOf (s : State) (r : Req) : List Party :=
  if kindWrites r.kind && kindOrdinary r.kind then
    (r.addrs.filterMap (fun a => (tokenOf s a).holder)).filter (· != r.party)
  else []

/-- The requests R265 drains before r: those of the holders of its bytes to the same region, sent before it; one that is a fatal miss
is never performed (R388). -/
def drained (s : State) (r : Req) : List Req :=
  let hs := holdersOf s r
  s.arrivals.filter (fun q => decide (q.uid < r.uid) && hs.contains q.party && sameRegion q.addrs r.addrs &&
    !q.addrs.any (fun a => remoteMiss s q.core.dev q.party.ctx a (needOf q.kind)))

/-- The drain of R265 is done: no older request of a holder to the region waits or is on its way, of its strand or of its engine
operations. -/
def drainDone (s : State) (r : Req) : Bool :=
  (drained s r).isEmpty && !(holdersOf s r).any (fun p => sendBefore s (cordKey p.dev p.die p.serial) p.lane r.uid r.addrs)

/-- A request may be decided now: it is the oldest of its party for its region, it stands at the home, or its words in the local LLC, no
atomic of its word is missing, its frame is not being moved, and no refresh window and no holder out of reach makes it wait (R243, R253,
R263, R285, R384, R385, R394). -/
def requestReady (s : State) (r : Req) : Bool :=
  queueHead s r && !groupMissing s r && frameFate s r.gen r.addrs != .hold &&
  (match packetOf s r with
   | some p => p.reached
   | none => r.addrs.all (fun a => keyDev a == r.core.dev) || (kindLoads r.kind && r.addrs.all (holderHas s r.core))) &&
  !(kindReads r.kind && refreshing s r.addrs) && !(kindWrites r.kind && holderHangs s r.core r.addrs)

/-- Decide the requests of a group one after another with nothing between; where a home refuses some of them, those are sent again and
none is performed (R243, R285). -/
def decideGroup (s : State) (g : List Req) : State :=
  let old := g.filter (fun q => frameFate s q.gen q.addrs == .refuse)
  repack (if old.isEmpty then g.foldl decideOne s else old.foldl resend s)

/-- PERFORM with its drain (R265), for the atomics of one word together (R285): nothing happens unless each may be decided now, and none is
performed before the drain is done. The fuel bounds drains within drains, which only reach older requests. -/
def performDrain : Nat → State → Req → State
  | 0, s, _ => s
  | n + 1, s, r =>
    if !(atomGroup s r).all (requestReady s) then s
    else
      let s := (drained s r).foldl (fun s q => if s.arrivals.any (·.uid == q.uid) then performDrain n s q else s) s
      if drainDone s r && (atomGroup s r).all (requestReady s) then decideGroup s (atomGroup s r) else s

/-- A home decides a request, with the other atomics of its word (R265, R285). -/
def performGroup (s : State) (r : Req) : State := performDrain s.arrivals.length s r
end Sys2Proof.Machine
end

