-- ==== Sys2Proof/Machine/Carder.lean ====
section
/-!
DEFINITION. Record slots, the Carder and knots (spec/10_stage_nodes.md R200 to R222) and the task words
(spec/11_task_instructions.md R223 to R234), with the events that serve them.
-/
namespace Sys2Proof.Machine

/-! ### Slots and batts -/

/-- The slot at an address in the slabs of a context on a die (R202). -/
def slotAt (x : Context) (dev die a : Nat) : Option Slot := x.slots.find? (fun q => q.addr == a && q.dev == dev && q.die == die)

/-- Change the slot at an address of a module. -/
def setSlot (x : Context) (dev a : Nat) (f : Slot → Slot) : Context :=
  { x with slots := x.slots.map (fun q => if q.addr == a && q.dev == dev then f q else q) }

/-- A slot made free (R203). -/
def freeSlot (q : Slot) : Slot := { q with state := .free, cord := 0, lane := none, depth := 0 }

/-- A graph of a context. -/
def graphOf (x : Context) (g : Nat) : Option Graph := x.graphs.find? (·.id == g)

/-- A node of a graph. -/
def nodeOf (x : Context) (g n : Nat) : Option NodeHdr := (graphOf x g).bind (·.nodes[n]?)

/-- The open batt of a node on a die (R207). -/
def openOf (x : Context) (g n dev die : Nat) : Option OpenBatt :=
  x.opens.find? (fun b => b.graph == g && b.node == n && b.dev == dev && b.die == die)

/-- The other open batts. -/
def otherOpens (x : Context) (b : OpenBatt) : List OpenBatt :=
  x.opens.filter (fun c => !(c.graph == b.graph && c.node == b.node && c.dev == b.dev && c.die == b.die))

/-- An open batt closes under a number: its records become BATTED and it waits for binding (R207, R209). -/
def closeBatt (id now : Nat) (b : OpenBatt) (x : Context) : Context :=
  { x with
    opens := otherOpens x b
    batts := x.batts ++ [⟨id, b.graph, b.node, b.dev, b.die, b.slots, now, false⟩]
    slots := x.slots.map (fun q => if q.dev == b.dev && b.slots.contains q.addr then { q with state := .batted } else q) }

/-- A commit in arbiter order (R203, R207): the record joins the open batt, which becomes READY at the threshold and closes
at its size. -/
def commitSlot (id now : Nat) (q : Slot) (x : Context) : Context :=
  match nodeOf x q.graph q.node with
  | none => x
  | some h =>
    let x := setSlot x q.dev q.addr (fun q => { q with state := .committed })
    let b := (openOf x q.graph q.node q.dev q.die).getD ⟨q.graph, q.node, q.dev, q.die, [], now, none⟩
    let b := { b with slots := b.slots ++ [q.addr] }
    if h.batt ≤ b.slots.length then closeBatt id now b x
    else
      let b := if h.thresh ≤ b.slots.length && b.ready.isNone then { b with ready := some now } else b
      { x with opens := otherOpens x b ++ [b] }

/-- The free slots of a node's slab on a die. -/
def freeSlots (x : Context) (g n dev die : Nat) : List Slot :=
  x.slots.filter (fun q => q.graph == g && q.node == n && q.dev == dev && q.die == die && q.state == .free)

/-- The free slot of the lowest address (R227). -/
def lowestFree (x : Context) (g n dev die : Nat) : Option Slot :=
  (freeSlots x g n dev die).foldl (fun a q => match a with
    | none => some q
    | some b => if q.addr < b.addr then some q else some b) none

/-- The slots a strand holds RESERVED (R204). -/
def reservedBy (x : Context) (k l : Nat) : Nat :=
  (x.slots.filter (fun q => q.state == .reserved && q.cord == k && q.lane == some l)).length

/-- What qrsv answers: the status, or the slot and its depth (R227, R212). -/
def reserve (x : Context) (c : Cord) (k l depth n : Nat) : Nat ⊕ (Slot × Nat) :=
  match graphOf x c.graph with
  | none => .inl 4
  | some gr =>
    match gr.nodes[n]? with
    | none => .inl 4
    | some h =>
      let dn := if n ≤ c.node then depth + 1 else depth
      if gr.closed then .inl 3
      else if h.limit < dn then .inl 2
      else if 4 ≤ reservedBy x k l then .inl 1
      else match lowestFree x c.graph n c.dev c.die with
        | none => .inl 1
        | some q => .inr (q, dn)

/-- The context of a cord; an empty one where it does not exist. -/
def blankCtx : Context where
  num := 0
  roots := []
  tables := []
  room := []
  pathVa := 0
  owned := []
  grant := 0
  stSlots := 16
  waiters := 256
  weight := 1
  vector := none
  debug := false
  graphs := []
  slots := []
  opens := []
  batts := []
  queued := []
  knots := []
  bars := []
  landings := []
  log := []
  notes := []
  unread := 0
  lost := 0
  peers := []

/-- The context of a number. -/
def ctxOf (s : State) (x : Nat) : Context := (mget s.contexts x).getD blankCtx

/-! ### Task words -/

/-- Every older store of the strand is performed (R226). -/
def storesPerformed (h : Here) : Bool :=
  h.st.ops.all (fun o => !kindWrites o.kind || o.state == .performed || opDone h.now o)

/-- Every older load has returned its data (R226). -/
def loadsReturned (h : Here) : Bool := h.st.ops.all (fun o => !kindReads o.kind || opDone h.now o)

/-- A task word: the strand waits for its answer (R224). -/
def taskWord (i : Instr) (g : Guard) (reads writes : List Reg) (hold : Here → State → Bool) (fault : Here → State → Nat)
    (effect : Here → State → State) (s : State) : Out :=
  runWord i g (fun h s => { reads := reads, writes := writes, hold := hold h s })
    (fun h s => if fault h s == 0 then none else some (faultHere s h i (fault h s) 0 0))
    (fun _ s => { late := Config.delay s.choices })
    (fun h s => effect h { s with choices := s.choices + 1 }) s

/-- No wait and no fault. -/
def noHold : Here → State → Bool := fun _ _ => false

/-- No fault of the word's own. -/
def noFault : Here → State → Nat := fun _ _ => 0

/-- The slot a strand names with V2[a]. -/
def namedSlot (a : BitVec 7) (h : Here) (s : State) : Option Slot :=
  slotAt (ctxOf s h.cord.ctx) h.cord.dev h.cord.die (rdV2 h.st a).toNat

/-- The slot is RESERVED by the strand. -/
def mineReserved (h : Here) (q : Slot) : Bool := q.state == .reserved && q.cord == h.sel.cord && q.lane == some h.sel.lane

/-- The queue-misuse fault of qcmt and qdrop (R225). -/
def misuse (a : BitVec 7) (h : Here) (s : State) : Nat :=
  match namedSlot a h s with
  | some q => if mineReserved h q then 0 else 15
  | none => 15

/-- Reserve a slot (R227). -/
def execQrsv (g : Guard) (d a : BitVec 7) (x : BitVec 3) (s : State) : Out :=
  taskWord (.qrsv g d a x) g [.s (sReg a)] (pair d ++ [.p x]) noHold noFault
    (fun h s =>
      match reserve (ctxOf s h.cord.ctx) h.cord h.sel.cord h.sel.lane h.st.depth (rdS h.cord (sReg a)).toNat with
      | .inl st => writeRegs s h (toV2 d (BitVec.ofNat 64 st) ++ toP x false) (h.now + 1) false
      | .inr (q, dn) =>
        let s := modCtx s h.cord.ctx (fun x => setSlot x q.dev q.addr (fun q =>
          { q with state := .reserved, cord := h.sel.cord, lane := some h.sel.lane, depth := dn }))
        writeRegs s h (toV2 d (BitVec.ofNat 64 q.addr) ++ toP x true) (h.now + 1) false) s

/-- A slot leaves RESERVED by qcmt: a release of die scope, then the commit, or the drop of a closed node (R226, R228, R274). A qcmt that
acts as qdrop still makes its release, since R226 gives it to the word (DESIGN CHOICE between R226 and R228, log 73). -/
def commitHere (h : Here) (q : Slot) (s : State) : State :=
  let s := releaseStep s (partyOf h.cord h.sel.lane)
  let closed := (graphOf (ctxOf s h.cord.ctx) q.graph).all (·.closed)
  let (u, s) := freshUid s
  modCtx s h.cord.ctx (fun x => if closed then setSlot x q.dev q.addr freeSlot else commitSlot u h.now q x)

/-- Commit a slot (R228, R205). -/
def execQcmt (g : Guard) (a : BitVec 7) (s : State) : Out :=
  taskWord (.qcmt g a) g (pair a) [] (fun h _ => !hzClear h.now h.st || !storesPerformed h) (misuse a)
    (fun h s => match namedSlot a h s with
      | some q => commitHere h q s
      | none => s) s

/-- Drop a reserved slot (R228). -/
def execQdrop (g : Guard) (a : BitVec 7) (s : State) : Out :=
  taskWord (.qdrop g a) g (pair a) [] (fun h _ => !storesPerformed h) (misuse a)
    (fun h s => match namedSlot a h s with
      | some q => modCtx s h.cord.ctx (fun x => setSlot x q.dev q.addr freeSlot)
      | none => s) s

/-- Free a held slot; another slot is left as it is (R228). -/
def execQfree (g : Guard) (a : BitVec 7) (s : State) : Out :=
  taskWord (.qfree g a) g (pair a) [] (fun h _ => !storesPerformed h || !loadsReturned h)
    (fun h s => if (namedSlot a h s).isNone then 15 else 0)
    (fun h s => match namedSlot a h s with
      | some q =>
        if q.state == .held && q.cord == h.sel.cord then modCtx s h.cord.ctx (fun x => setSlot x q.dev q.addr freeSlot) else s
      | none => s) s

/-- The snapshot of a node (R229). -/
def nodeStatus (x : Context) (c : Cord) (n : Nat) : BitVec 32 :=
  match (graphOf x c.graph) with
  | none => 0x80000000#32
  | some gr =>
    if gr.nodes.length ≤ n then 0x80000000#32
    else
      let b := openOf x c.graph n c.dev c.die
      BitVec.ofNat 32 ((if gr.closed then 2 ^ 30 else 0) +
        (match b with | none => 0 | some b => (if b.ready.isSome then 2 else 1) * 2 ^ 23 + b.slots.length * 2 ^ 16) +
        (freeSlots x c.graph n c.dev c.die).length)

/-- Read a node's state (R229): as it stands at the word's own place among the events of the cycle, which R229 leaves open
(DESIGN CHOICE, log 72). -/
def execQstat (g : Guard) (d a : BitVec 7) (s : State) : Out :=
  taskWord (.qstat g d a) g [.s (sReg a)] [.v d] noHold noFault
    (fun h s => writeRegs s h (toV d (nodeStatus (ctxOf s h.cord.ctx) h.cord (rdS h.cord (sReg a)).toNat)) (h.now + 1) false) s

/-- The launch information a selector names (R230). -/
def battInfo (h : Here) (sel : Nat) : BitVec 32 :=
  if sel == 0 then BitVec.ofNat 32 h.cord.batt.n
  else if sel == 1 then h.cord.batt.list.extractLsb' 0 32
  else if sel == 2 then h.cord.batt.list.extractLsb' 32 32
  else if sel == 3 then BitVec.ofNat 32 h.st.depth
  else if sel == 4 then
    (if h.cord.batt.shared then 0xFFFFFFFF#32 else BitVec.ofNat 32 (popBelow h.cord.lanes h.sel.lane))
  else 0

/-- Read the launch information: Special read class, no event (R230, R224). -/
def execBatt (g : Guard) (d : BitVec 7) (s : State) : Out :=
  regWord (.batt g d) g [.v d] [.v d] 2 (fun h => toV d (battInfo h (rdV h.st d).toNat)) s

/-! ### Knots -/

/-- A knot entry as at reset (R218). -/
def freshKnot : Knot := ⟨0, .free, 1, 0, 0, 0, [], 0⟩

/-- The owner of a counting knot: the graph run (R218). -/
def graphOwner : BitVec 32 := 0xFFFFFFFF#32

/-- The owner number of a cord: its die and its serial number (R218, R259). -/
def ownerOf (k : Nat) : BitVec 32 := BitVec.ofNat 32 (k % 2 ^ 30)

/-- The key of the entry a handle names on a module (R217). -/
def knotKey (dev : Nat) (w : BitVec 32) : Nat := dev * 2 ^ 20 + w.toNat / 4096

/-- The entry of a key. -/
def knotOf (x : Context) (key : Nat) : Knot := (mget x.knots key).getD freshKnot

/-- The die that holds an entry (R217). -/
def knotDie (key : Nat) : Nat := key % 2 ^ 20 / 2 ^ 18

/-- A handle names the entry: it is not free and the generations match (R217, R225). -/
def knotLive (k : Knot) (w : BitVec 32) : Bool := k.state != .free && k.gen == w.extractLsb' 0 12

/-- Wake every sleeping waiter with a value, or with breakage (R219, R220). -/
def wakeAll (v : Option (BitVec 64)) (k : Knot) : Knot :=
  { k with waiters := k.waiters.map (fun w => if w.woken.isNone then { w with woken := some v } else w) }

/-- Break a pending knot (R219). -/
def breakKnot (k : Knot) : Knot := if k.state == .pending then wakeAll none { k with state := .broken } else k

/-- The next generation (R217). -/
def nextGen (x : BitVec 12) : BitVec 12 := if x == 0xFFF#12 then 1 else x + 1

/-- What the arbiter answers to a knot event. -/
structure KnotRes where
  fault : Nat := 0
  val   : Option (BitVec 64) := none
  p     : Option Bool := none
  sleep : Bool := false
  acq   : Bool := false
deriving DecidableEq, Repr

/-- A knot event at its arbiter (R219, R232 to R234). Operations: 0 knset, 1 knadd, 2 knbrk, 3 knfree, 5 knget, 6 knpoll,
7 knwait. -/
def knotAct (op : Nat) (v : BitVec 64) (live : Bool) (k : Knot) : Knot × KnotRes :=
  if op == 0 then
    if !live then (k, { fault := 16 })
    else if k.state == .pending then (wakeAll (some v) { k with value := v, state := .resolved }, {})
    else (k, {})
  else if op == 1 then
    if !live then (k, { fault := 16 })
    else if k.state == .pending then
      let k' := { k with value := k.value + v }
      if k.expect == 0 then (k', {})
      else if k.expect == 1 then (wakeAll (some k'.value) { k' with expect := 0, state := .resolved }, {})
      else ({ k' with expect := k.expect - 1 }, {})
    else (k, {})
  else if op == 2 then
    if !live then (k, { fault := 16 }) else (breakKnot k, {})
  else if op == 3 then
    if !live then (k, { fault := 16 })
    else ({ breakKnot k with state := .free, gen := nextGen k.gen }, {})
  else if op == 5 then
    if live && k.state == .resolved then (k, { val := some k.value, p := some true, acq := true })
    else (k, { p := some false })
  else if op == 6 then (k, { p := some (!(live && k.state == .pending)) })
  else
    if !live then (k, { fault := 16 })
    else if k.state == .resolved then (k, { val := some k.value, acq := true })
    else if k.state == .broken then (k, { fault := 17 })
    else (k, { sleep := true })

/-- The waiters of a context asleep on knots of a die (R220). -/
def waitersOn (x : Context) (dev die : Nat) : Nat :=
  ((x.knots.filter (fun p => p.1 / 2 ^ 20 == dev && knotDie p.1 == die)).map (·.2.waiters.length)).sum

/-- The waiter pool of the die has an entry for a context: 65,536 entries less what is used and what is kept for other
contexts (R220, R424). -/
def poolFree (s : State) (ctx dev die : Nat) : Bool :=
  let need := (s.contexts.map (fun p =>
    let u := waitersOn p.2 dev die
    if p.1 == ctx then u else max u p.2.waiters)).sum
  waitersOn (ctxOf s ctx) dev die < (ctxOf s ctx).waiters || decide (need < 65536)

/-- Put back a knot. -/
def setKnot (s : State) (ctx key : Nat) (k : Knot) : State := modCtx s ctx (fun x => { x with knots := mset x.knots key k })

/-- The answer of the arbiter for a handle on a module. -/
def knotAnswer (s : State) (ctx dev op : Nat) (w : BitVec 32) (v : BitVec 64) : Knot × KnotRes :=
  let k := knotOf (ctxOf s ctx) (knotKey dev w)
  knotAct op v (knotLive k w) k

/-- What an answer writes: the pair and the predicate it names (R233). -/
def knotWrites (d : BitVec 7) (x : BitVec 3) (r : KnotRes) : List (Reg × BitVec 64) :=
  (r.val.elim [] (toV2 d)) ++ (r.p.elim [] (toP x))

/-- A knset resolves the knot, or a knadd contributes to it: the event is a release (R226, R232, R274). -/
def knotReleases (op : Nat) (k : Knot) (w : BitVec 32) : Bool := decide (op ≤ 1) && knotLive k w && k.state == .pending

/-- The RELEASE step of a knot event on a knot of a context (R274). -/
def knotRelease (s : State) (p : Party) (ctx dev op : Nat) (w : BitVec 32) : State :=
  if knotReleases op (knotOf (ctxOf s ctx) (knotKey dev w)) w then releaseStep s p else s

/-- A knot word: on a knot of the issuing die it is answered at once; an event for another die travels there (R206, R217,
R224, R226). A word that would sleep while the pool of the knot's die is full stalls at its issue (R220). -/
def knotWord (i : Instr) (g : Guard) (op : Nat) (d a : BitVec 7) (x : BitVec 3) (reads writes : List Reg)
    (hold : Here → Bool) (s : State) : Out :=
  let handle (h : Here) : BitVec 32 := rdV h.st a
  let val (h : Here) : BitVec 64 := rdV2 h.st d
  let here (h : Here) : Bool := knotDie (knotKey 0 (handle h)) == h.cord.die
  let ans (h : Here) (s : State) := knotAnswer s h.cord.ctx h.cord.dev op (handle h) (val h)
  taskWord i g reads writes
    (fun h s => hold h || ((ans h s).2.sleep && !poolFree s h.cord.ctx h.cord.dev (knotDie (knotKey h.cord.dev (handle h)))))
    (fun h s => if here h then (ans h s).2.fault else 0)
    (fun h s =>
      if here h then
        let s := knotRelease s (partyOf h.cord h.sel.lane) h.cord.ctx h.cord.dev op (handle h)
        let (k, r) := ans h s
        let key := knotKey h.cord.dev (handle h)
        let s := setKnot s h.cord.ctx key
          (if r.sleep then { k with waiters := k.waiters ++ [⟨h.sel.cord, h.sel.lane, d, pcOf h.st, wordOf s h i, h.st.hint, none⟩] } else k)
        let s := if r.sleep then modHere s h (fun st => { st with wait := .knot h.cord.dev (key % 2 ^ 20) }) else s
        let s := if r.acq then acquireStep s (coreIdOf h.cord) 4 else s
        writeRegs s h (knotWrites d x r) (h.now + 1) false
      else
        let (u, s) := freshUid s
        modHere { s with knotEvs := s.knotEvs ++ [⟨u, h.sel.cord, h.sel.lane, op, handle h, val h, d, x, pcOf h.st, wordOf s h i, h.st.hint, h.now, h.sel.br⟩] } h
          (fun st => { st with wait := .answer })) s

/-- The lowest free entry of a die's quarter of the knot table (R231). -/
def lowestKnot (x : Context) (dev die : Nat) : Option Nat :=
  let used := (x.knots.filter (fun p => p.1 / 2 ^ 20 == dev && knotDie p.1 == die && p.2.state != .free)).map
    (fun p => p.1 % 2 ^ 18)
  ((List.range (used.length + 1)).find? (fun j => !used.contains j && decide (j < 2 ^ 18))).map (· + die * 2 ^ 18)

/-- Create a knot on the issuing die (R231). -/
def execKnnew (g : Guard) (d : BitVec 7) (x : BitVec 3) (s : State) : Out :=
  taskWord (.knnew g d x) g [.v d] [.v d, .p x] noHold noFault
    (fun h s =>
      let c := (rdV h.st d).toNat
      match (if 65535 < c then none else lowestKnot (ctxOf s h.cord.ctx) h.cord.dev h.cord.die) with
      | none => writeRegs s h (toV d 0 ++ toP x false) (h.now + 1) false
      | some slot =>
        let key := h.cord.dev * 2 ^ 20 + slot
        let k := knotOf (ctxOf s h.cord.ctx) key
        let s := setKnot s h.cord.ctx key { k with
          value := 0
          state := .pending
          expect := c
          owner := if c == 0 then ownerOf h.sel.cord else graphOwner
          graph := h.cord.graph }
        writeRegs s h (toV d (BitVec.ofNat 32 (slot * 4096 + k.gen.toNat)) ++ toP x true) (h.now + 1) false) s

/-- The wait of knset and knadd (R226). -/
def allSettled (h : Here) : Bool := !hzClear h.now h.st || !storesPerformed h

/-- Give a knot a value (R232). -/
def execKnset (g : Guard) (d a : BitVec 7) (s : State) : Out :=
  knotWord (.knset g d a) g 0 d a 7 (pair d ++ [.v a]) [] allSettled s

/-- Contribute to a knot (R232). -/
def execKnadd (g : Guard) (d a : BitVec 7) (s : State) : Out :=
  knotWord (.knadd g d a) g 1 d a 7 (pair d ++ [.v a]) [] allSettled s

/-- Read a knot without waiting (R233). -/
def execKnget (g : Guard) (d a : BitVec 7) (x : BitVec 3) (s : State) : Out :=
  knotWord (.knget g d a x) g 5 d a x [.v a] (pair d ++ [.p x]) (fun _ => false) s

/-- Wait for a knot (R233, R220). -/
def execKnwait (g : Guard) (d a : BitVec 7) (s : State) : Out :=
  knotWord (.knwait g d a) g 7 d a 7 [.v a] (pair d) (fun _ => false) s

/-- Ask whether a knwait would not sleep (R233). -/
def execKnpoll (g : Guard) (a : BitVec 7) (x : BitVec 3) (s : State) : Out :=
  knotWord (.knpoll g a x) g 6 0 a x [.v a] [.p x] (fun _ => false) s

/-- Free a knot, breaking it first when it is pending (R234). -/
def execKnfree (g : Guard) (a : BitVec 7) (s : State) : Out :=
  knotWord (.knfree g a) g 3 0 a 7 [.v a] [] (fun h => !storesPerformed h || !loadsReturned h) s

/-- Break a pending knot (R234). -/
def execKnbrk (g : Guard) (a : BitVec 7) (s : State) : Out :=
  knotWord (.knbrk g a) g 2 0 a 7 [.v a] [] (fun _ => false) s

/-- A fault of a word the strand has left already: the word counts as not issued, and the hint it consumed is pending again (R225, R353,
R195). -/
def faultLeft (s : State) (k l cause : Nat) (pc : BitVec 64) (word hint : BitVec 32) (detail : BitVec 64) : State :=
  modStrand s k l (fun st => { st with
    wait := .none
    issued := st.issued - 1
    fault := some ⟨cause, pc, word, 0, 0, detail, false, false, hint, false, true⟩ })

/-- The place of an event of another die's core among those that reach an arbiter in one cycle: source die, core, lane, kind (R206). -/
def knotOrder (c : Cord) (e : KnotEv) : Nat := ((c.die * 64 + c.core) * 64 + e.lane) * 16 + e.op

/-- The event is a knwait that would sleep and finds no waiter entry (R220). -/
def poolWaits (s : State) (c : Cord) (e : KnotEv) : Bool :=
  (knotAnswer s c.ctx c.dev e.op e.handle e.val).2.sleep && !poolFree s c.ctx c.dev (knotDie (knotKey c.dev e.handle))

/-- The strand of an event that finds no waiter entry is back at its word, where it stalls (R220; DESIGN CHOICE, log 57). -/
def sendBack (s : State) (e : KnotEv) : State :=
  modStrand { s with knotEvs := s.knotEvs.filter (·.id != e.id) } e.cord e.lane (fun st => { st with
    wait := .none
    pc := e.pc
    hint := e.hint
    issued := st.issued - 1 })

/-- An event of the same braid that a lower lane raised for the same arbiter has not reached it (R224). -/
def knotBehind (s : State) (c : Cord) (e : KnotEv) : Bool :=
  s.knotEvs.any (fun f => decide (f.id < e.id) && f.at_ == e.at_ && f.br == e.br &&
    knotDie (knotKey c.dev f.handle) == knotDie (knotKey c.dev e.handle) &&
    (mget s.cords f.cord).any (fun d => d.dev == c.dev && d.die == c.die && d.core == c.core))

/-- A knot event from another die reaches the arbiter of the die that holds the knot (R206, R224): after the lower lanes of its braid,
and after the events the rule puts before it among those of the cycle. A knwait that finds the waiter pool full, which was not at its issue,
goes back to its issue (log 57). -/
def execRemoteKnotEvent (n : Nat) (s : State) : Out :=
  match s.knotEvs.find? (·.id == n) with
  | none => .next s
  | some e =>
    match mget s.cords e.cord with
    | none => .next { s with knotEvs := s.knotEvs.filter (·.id != n) }
    | some c =>
      let (k, r) := knotAnswer s c.ctx c.dev e.op e.handle e.val
      let key := knotKey c.dev e.handle
      let d := dieOf s c.dev (knotDie key)
      if knotBehind s c e || (d.arbAt == d.cyc && decide (knotOrder c e < d.arbKey)) then .next s
      else if poolWaits s c e then .next (sendBack s e)
      else
        let s := modDie s c.dev (knotDie key) (fun d => { d with arbAt := d.cyc, arbKey := knotOrder c e })
        let s := knotRelease { s with knotEvs := s.knotEvs.filter (·.id != n) } (partyOf c e.lane) c.ctx c.dev e.op e.handle
        let s := setKnot s c.ctx key
          (if r.sleep then { k with waiters := k.waiters ++ [⟨e.cord, e.lane, e.d, e.pc, e.word, e.hint, none⟩] } else k)
        if r.sleep then .next (abandonWait (modStrand s e.cord e.lane (fun st => { st with wait := .knot c.dev (key % 2 ^ 20) })) e.cord e.lane)
        else if r.fault != 0 then .next (faultLeft s e.cord e.lane r.fault e.pc e.word e.hint 0)
        else
          let s := if r.acq then acquireStep s (coreIdOf c) 4 else s
          .next (deliver (modStrand s e.cord e.lane (fun st => { st with wait := .none })) e.cord e.lane e.id (knotWrites e.d e.x r))

/-- The first waiter of a knot is woken, one in a cycle (R220, R233). -/
def execWaiterWake (ctx dev slot : Nat) (s : State) : Out :=
  let key := dev * 2 ^ 20 + slot
  let k := knotOf (ctxOf s ctx) key
  let now := cycOf s dev (knotDie key)
  match k.waiters with
  | [] => .next s
  | w :: ws =>
    match w.woken with
    | none => .next s
    | some v =>
      if k.wokeAt == now && now != 0 then .next s
      else
        let s := setKnot s ctx key { k with waiters := ws, wokeAt := now }
        match mget s.cords w.cord, v with
        | none, _ => .next s
        | some _, none => .next (faultLeft s w.cord w.lane 17 w.pc w.word w.hint 0)
        | some c, some x =>
          let s := acquireStep s (coreIdOf c) 4
          .next (deliver (modStrand s w.cord w.lane (fun st => { st with wait := .none })) w.cord w.lane s.uid (toV2 w.d x))

/-- The timer of an open batt has expired (R207, R208). -/
def timerDue (s : State) (b : OpenBatt) (x : Context) : Bool :=
  match nodeOf x b.graph b.node with
  | none => false
  | some h => b.ready.isNone && h.timer != 0 && decide (b.start + h.timer ≤ cycOf s b.dev b.die)

/-- The timer of an open batt expires and the batt closes as a partial one (R207, R208). -/
def execBattTimerExpiry (ctx graph node dev die : Nat) (s : State) : Out :=
  match openOf (ctxOf s ctx) graph node dev die with
  | none => .next s
  | some b =>
    if timerDue s b (ctxOf s ctx) then
      let (u, s) := freshUid s
      .next (modCtx s ctx (closeBatt u (cycOf s dev die) b))
    else .next s

/-- A strand's slots at its end: the reserved ones, and a per-strand record it holds (R203). -/
def freeOfStrand (x : Context) (k l : Nat) : Context :=
  { x with slots := x.slots.map (fun q =>
      if (q.state == .reserved || q.state == .held) && q.cord == k && q.lane == some l then freeSlot q else q) }

/-- A cord's slots at its end (R203, R257). -/
def freeOfCord (x : Context) (k : Nat) : Context :=
  { x with slots := x.slots.map (fun q => if (q.state == .reserved || q.state == .held) && q.cord == k then freeSlot q else q) }

/-- The pending knots a cord owns break when it ends (R219). -/
def breakOwned (x : Context) (k : Nat) : Context :=
  { x with knots := x.knots.map (fun p => if p.1 / 2 ^ 20 == k / 2 ^ 30 && p.2.owner == ownerOf k && p.2.expect == 0 then (p.1, breakKnot p.2) else p) }

end Sys2Proof.Machine
end

