-- ==== Sys2Proof/Machine/Tiles.lean ====
section
/-!
DEFINITION. What the engine words share: tiles and their layouts (spec/18_engine_instructions.md R320 to R324), scratchpad
offsets (spec/13_memory_levels.md R249), sync words and their credits with the armed sends they fire
(spec/17_async_engines.md R301, R302, spec/24_fabric_instructions.md R412), crown tags (R312), counters (R295).
-/
namespace Sys2Proof.Machine

/-- An empty tile. -/
def blankTile : Tile := ⟨0, 0, false, 0, 0, 0, 0, 0, 0⟩

/-- Bits of an element of a format code; a CB2 index is 16 (R320). -/
def elemBits (f : Nat) : Nat := [32, 16, 16, 8, 8, 4, 8, 4, 8, 4, 8, 4, 16].getD f 8

/-- Row bytes of a format (R320). -/
def rowBytes (f cols : Nat) : Nat := (cols * elemBits f + 7) / 8

/-- The data rows of a tile: rows, index rows of a CB2 tile, or the records of a sparse one (R321). -/
def tileLines (t : Tile) : Nat := if t.sparse then t.cols else if t.fmt == 12#4 then t.rows / 8 else t.rows

/-- The bytes of one data row or record (R320, R321). -/
def lineBytes (t : Tile) : Nat := if t.sparse then (if t.fmt == 10#4 then 256 else 128) else rowBytes t.fmt.toNat t.cols

/-- One past the tile's last byte, from the start of the allocation. -/
def tileEnd (t : Tile) : Nat := t.base + (tileLines t - 1) * t.pitch + lineBytes t

/-- The shape checks of R323, R320 and R321. -/
def shapeOk (t : Tile) : Bool :=
  1 ≤ t.rows && t.rows ≤ 256 && 1 ≤ t.cols && t.cols ≤ 256 && t.fmt.toNat ≤ 12 && t.base % 256 == 0 && t.pitch % 16 == 0 &&
  lineBytes t ≤ t.pitch &&
  (!(t.fmt == 8#4 || t.fmt == 9#4) || (t.cols % 32 == 0 && t.rows ≤ 128)) &&
  (!(10 ≤ t.fmt.toNat) || t.rows % 32 == 0) &&
  (!t.sparse || ((t.fmt == 10#4 || t.fmt == 11#4) && t.rows == 256))

/-- A BI or CB2 tile, whose blocks have scales. -/
def blocked (f : BitVec 4) : Bool := 8 ≤ f.toNat

/-- A blocked tile's columns 128 to 255 take the scales of the next register (R311, R327). -/
def twoScales (t : Tile) : Bool := 10 ≤ t.fmt.toNat && 128 < t.cols

/-- The uniform registers of a descriptor. -/
def sRegs (c : Cord) (a : BitVec 7) (n : Nat) : List (BitVec 64) :=
  (List.range n).map (fun i => rdS c (BitVec.ofNat 6 (a.toNat + i)))

/-- The registers a descriptor covers. -/
def descRegs (a : BitVec 7) (n : Nat) : List Reg := (List.range n).map (fun i => .s (BitVec.ofNat 6 (a.toNat + i)))

/-- Register i of a captured descriptor. -/
def dreg (ds : List (BitVec 64)) (i : Nat) : BitVec 64 := ds.getD i 0

/-- The first byte of a cord's scratchpad allocation (R249). -/
def scrBase (c : Cord) : Nat := c.bind.sbase.toNat * 256

/-- A range lies in the cord's allocation (R249). -/
def scratchOk (c : Cord) (off n : Nat) : Bool := off + n ≤ c.hdr.scratch

/-- A tile register of a cord. -/
def tileOf (c : Cord) (n : Nat) : Tile := c.tiles[n]?.getD blankTile

/-- Set a tile register. -/
def setTile (n : Nat) (t : Tile) (c : Cord) : Cord := { c with tiles := c.tiles.setIfInBounds n t }

/-! ### Scale registers, macros and crown tags -/

/-- The core register of a cord's scale register (R311). -/
def coreK (c : Cord) (j : Nat) : Nat := 4 * c.bind.kbase.toNat + j

/-- A scale register of a cord. -/
def scaleOf (co : Core) (c : Cord) (j : Nat) : Scale := co.scales[coreK c j]?.getD ⟨0, []⟩

/-- Change a scale register of a cord. -/
def modScale (c : Cord) (j : Nat) (f : Scale → Scale) (co : Core) : Core :=
  { co with scales := co.scales.setIfInBounds (coreK c j) (f (co.scales[coreK c j]?.getD ⟨0, []⟩)) }

/-- An empty macro. -/
def blankMac : Mac := ⟨0, 0, 0, false, 0, 0, 0, [], []⟩

/-- The core macro of a cord's macro number (R305). -/
def coreMac (c : Cord) (m : Nat) : Nat := (nthSet c.bind.macros m).getD 8

/-- A macro of a cord. -/
def macOf (co : Core) (c : Cord) (m : Nat) : Mac := co.macros[coreMac c m]?.getD blankMac

/-- Change a macro of a cord. -/
def modMac (c : Cord) (m : Nat) (f : Mac → Mac) (co : Core) : Core :=
  { co with macros := co.macros.setIfInBounds (coreMac c m) (f (co.macros[coreMac c m]?.getD blankMac)) }

/-- The next tag of the cord's counter (R312). -/
def nextTag (c : Cord) : BitVec 12 := if c.tagctr == 0xFFF#12 then 1 else c.tagctr + 1

/-- Issue a tag: every tag of the cord that already holds its value becomes 0 (R312). -/
def issueTag (s : State) (k : Nat) : BitVec 12 × State :=
  match mget s.cords k with
  | none => (0, s)
  | some c =>
    let x := nextTag c
    let clr (y : BitVec 12) : BitVec 12 := if y == x then 0 else y
    let s := modCord s k (fun c => { c with tagctr := x, tiles := c.tiles.map (fun t => { t with btag := clr t.btag }) })
    let s := modCoreOf s c (fun co =>
      let co := (List.range c.hdr.kregs).foldl (fun co j => modScale c j (fun y => { y with crown := clr y.crown }) co) co
      (List.range 8).foldl (fun co m => modMac c m (fun y => { y with btag0 := clr y.btag0, btag1 := clr y.btag1 }) co) co)
    (x, s)

/-- The stamp of a word that writes a scale register: its CROWN, and in the .rb form every tile that names it (R312). -/
def stampScale (s : State) (k j : Nat) (rb : Bool) : State :=
  let (x, s) := issueTag s k
  match mget s.cords k with
  | none => s
  | some c =>
    let s := modCoreOf s c (modScale c j (fun y => { y with crown := x }))
    if rb then modCord s k (fun c => { c with tiles := c.tiles.map (fun t => if t.bk == j then { t with btag := x } else t) }) else s

/-- A tile's binding is fresh: BTAG is the CROWN of its BK, and not 0 (R313). -/
def fresh (co : Core) (c : Cord) (bk : Nat) (tag : BitVec 12) : Bool := tag != 0 && tag == (scaleOf co c bk).crown

/-! ### Counters -/

/-- The class of a kind (R294). -/
def classOf (k : EKind) : EngClass :=
  match k with
  | .tld | .tst | .tcopy => .copy
  | .press | .pressw | .cbld => .press
  | .mma => .matrix
  | .rsend | .rsendAdd | .esend | .erecv => .fabric

/-- A class's outstanding-operation counter: the operations not yet retired, at most 64 (R295, R296; a send that fires beyond them has no
place in it yet, log 58). -/
def counter (c : Cord) (k : EngClass) : Nat := min 64 (c.eops.filter (fun e => e.cls == k)).length

/-- All four counters are 0. -/
def countersZero (c : Cord) : Bool := c.eops.isEmpty

/-- An engine operation that has not ended. -/
def eopLive (e : EOp) : Bool := e.state == .waiting || e.state == .reading || e.state == .started

/-- An engine operation with nothing in it. -/
def blankEOp : EOp where
  uid := 0
  cls := .copy
  kind := .tcopy
  lane := 0
  after := 0
  state := .waiting
  desc := []
  tile := blankTile
  tileNo := 16
  kreg := 64
  mac := 8
  sa := []
  sb := []
  ftz := false
  mod_ := 0
  en := 0
  flags := 0
  chunks := []
  signers := 0
  fzs := 0
  vacc := 0
  rows := 0
  cols := 0
  spray := []
  sprayK := 0
  sent := 0
  bad := []
  cause := 0
  addr := 0
  detail := 0
  word := 0
  pc := 0
  hint := 0
  at_ := 0
  tver := 0
  arow := []
  got := []
  numbered := true

/-- The engine operations older than one. -/
def olderEops (c : Cord) (u : Nat) : List EOp := c.eops.takeWhile (·.uid != u)

/-- An operation reads a tile register (R324). -/
def readsTile (e : EOp) (n : Nat) : Bool := e.tileNo == n && (e.kind == .press || e.kind == .mma || e.kind == .tst)

/-- An older tld of the tile register has not completed (R324). -/
def tldBefore (es : List EOp) (n : Nat) : Bool := es.any (fun e => e.kind == .tld && e.tileNo == n && eopLive e)

/-- An older reader of the tile register has not finished reading (R324). -/
def readerBefore (es : List EOp) (n : Nat) : Bool := es.any (fun e => readsTile e n && eopLive e)

/-- Where an operation stands in issue order: by the name it takes as it issues, an mma as its last signer issues it (R175, R295). -/
def issuedAt (e : EOp) : Nat := if e.kind == .mma then e.after else e.uid

/-- Every tld of the tile registers a cmpr or sbmap reads that is older than it has completed, and every older reader of the one it writes has
finished (R324, R339, R340). -/
def tilingReady (c : Cord) (t : Tiling) : Bool :=
  let old := c.eops.filter (fun e => decide (issuedAt e < t.uid))
  !tldBefore old t.srcNo && !readerBefore old t.dstNo &&
  !c.strands.any (fun p => p.2.tiling.any (fun x => decide (x.uid < t.uid) && x.srcNo == t.dstNo))

/-- An older cmpr or sbmap reads the tile register a tld writes and has not finished (R324). -/
def tilingBefore (c : Cord) (u n : Nat) : Bool := c.strands.any (fun p => p.2.tiling.any (fun x => decide (x.uid < u) && x.srcNo == n))

/-- The scale registers a tld writes, or an mma reads (R327, R335). -/
def scaleUse (e : EOp) : List Nat :=
  if e.kind == .tld then (if blocked e.tile.fmt then e.kreg :: (if twoScales e.tile then [e.kreg + 1] else []) else [])
  else if e.kind == .mma then e.tile.bk :: e.kreg :: (if 128 < e.cols then [e.kreg + 1] else [])
  else []

/-- A word that uses a scale register waits: a tld that writes it has not written its scale bytes, or an mma that reads it
has not started its pass (R337). -/
def scaleBusy (c : Cord) (js : List Nat) : Bool :=
  c.eops.any (fun e => (e.state == .waiting || e.state == .reading) && (scaleUse e).any js.contains)

/-- A scale register that an mma reads waits for the older tld that writes it (R337, R313, log 65). -/
def scaleLoads (c : Cord) (js : List Nat) : Bool :=
  c.eops.any (fun e => e.kind == .tld && (e.state == .waiting || e.state == .reading) && (scaleUse e).any js.contains)

/-- Issue an engine operation by a strand's word: its sequence number and its place in the counter (R295). -/
def issueEngine (i : Instr) (h : Here) (e : EOp) (s : State) : State :=
  let u := s.uid
  let s := pushOp s h i true { blankOp with kind := .engine, state := .sent }
  modHereCord s h (fun c => { c with eops := c.eops ++ [{ e with
    uid := u
    cls := classOf e.kind
    lane := h.sel.lane
    after := u
    en := h.st.fpf.extractLsb' 8 5
    ftz := h.st.stat.getLsbD 1
    mod_ := hintMode h.st.hint
    word := wordOf s h i
    pc := pcOf h.st
    hint := usedHint (wordOf s h i) h.st.hint
    at_ := h.now
    tver := c.tileAt[e.tileNo]?.getD 0 }] })

/-! ### Sync words -/

/-- A 32-bit field of the scratchpad. -/
def word32 (m : SMap (BitVec 8)) (a : Nat) : Nat := leNat (getBytes m a 4)

/-- credit of R302 on the word at a core offset: the new scratchpad, and whether it did not overrun. The deferred reset stands also
when the credit overruns. -/
def credit (m : SMap (BitVec 8)) (a n : Nat) : SMap (BitVec 8) × Bool :=
  let target := word32 m a
  let m := if target != 0 && word32 m (a + 4) == target then putBytes m (a + 4) (leBytes 4 0) else m
  let run := word32 m (a + 4)
  if target == 0 || target < run + n then (putBytes m (a + 12) [byteAt m (a + 12) ||| 1], false)
  else
    let m := putBytes m (a + 4) (leBytes 4 (run + n))
    (if run + n == target then putBytes m (a + 8) (leBytes 4 (word32 m (a + 8) + 1)) else m, true)

/-- The trigger of an armed send holds (R412). -/
def trigHolds (m : SMap (BitVec 8)) (a : Nat) (t : Trig) : Bool :=
  word32 m (a + 8) != t.gen.toNat || t.thresh ≤ word32 m (a + 4)

/-- Set or clear the ARM bit of the word at a core offset (R301). -/
def setArm (m : SMap (BitVec 8)) (a : Nat) (b : Bool) : SMap (BitVec 8) :=
  putBytes m (a + 12) [(byteAt m (a + 12) &&& ~~~2#8) ||| (if b then 2 else 0)]

/-- ARM follows the armed sends on the word (R412, R413). -/
def armBit (c : Cord) (m : SMap (BitVec 8)) (sw : Nat) : SMap (BitVec 8) :=
  setArm m (scrBase c + sw) (c.trig.toList.any (fun t => t.armed && t.sw == sw))

/-- Give the fired sends of a cord their place in the fabric counter and their sequence numbers, in the order they fired, while fewer than 64
operations stand before them and their strand holds fewer than sixteen unsettled operations (R295, R413, R347). A cord between phases gives none, since its strands start the next phase with NEXT 0. -/
def numberFired (s : State) (k : Nat) : State :=
  match mget s.cords k with
  | none => s
  | some c =>
    (c.eops.filter (fun e => !e.numbered)).foldl (fun s e =>
      match strandOf s k e.lane with
      | none => s
      | some st =>
        if c.life != .running || 64 ≤ ((olderEops c e.uid).filter (·.cls == .fabric)).length || 16 ≤ (unsettled (cycOf s c.dev c.die) st).length then s
        else
          let s := modCord s k (fun c => { c with eops := c.eops.map (fun x => if x.uid == e.uid then { x with numbered := true } else x) })
          modStrand s k e.lane (fun st => { st with
            ops := st.ops.filter (·.uid != e.uid) ++ (st.ops.filter (·.uid == e.uid)).map (fun o =>
              { o with seq := some st.next, born := cycOf s c.dev c.die })
            next := st.next + 1 })) s

/-- The operation of a strand that stands for a fired send, before it has its number (R413). -/
def firedOp (e : EOp) : Op :=
  { blankOp with uid := e.uid, kind := .engine, pc := e.pc, word := e.word, hint := e.hint, state := .sent }

/-- A send fires: it leaves its entry, takes its place in the fabric counter and its RELEASE step, and its destination must translate
as it issues (R408, R413, R418). With 64 operations before it, it waits for its place and its number, and does not start (DESIGN CHOICE, log
58). -/
def fireSend (s : State) (k n : Nat) : State :=
  match mget s.cords k with
  | none => s
  | some c =>
    match c.trig[n]? with
    | none => s
    | some t =>
      let (u, s) := freshUid s
      let f := (accessFate s (coreIdOf c) c.ctx { r := t.add, w := true, atomic := t.add } (t.desc.getD 1 0)
        (bitsOf (t.desc.getD 2 0) 0 32)).getD (0, 0)
      let st? := mget c.strands t.lane
      let e : EOp := { blankEOp with
        uid := u
        cause := f.1
        addr := BitVec.ofNat 64 f.2
        cls := .fabric
        kind := if t.add then .rsendAdd else .rsend
        lane := t.lane
        after := t.after
        desc := t.desc
        ftz := st?.any (fun st => st.stat.getLsbD 1)
        en := st?.elim 0 (fun st => st.fpf.extractLsb' 8 5)
        word := t.word
        pc := t.pc
        at_ := cycOf s c.dev c.die
        numbered := false }
      let s := releaseStep s (partyOf c t.lane)
      let s := modCord s k (fun c => { c with
        eops := c.eops ++ [e]
        trig := c.trig.setIfInBounds n { t with armed := false } })
      let s := modStrand s k t.lane (fun st => { st with ops := st.ops ++ [firedOp e] })
      modCoreOf s c (fun co => { co with scratch := armBit { c with trig := c.trig.setIfInBounds n { t with armed := false } } co.scratch t.sw })

/-- The armed sends on a word that a test names fire where their trigger holds, in ascending entry order (R412, R413). -/
def fireOn (s : State) (k sw : Nat) (p : Nat → Bool) : State :=
  match mget s.cords k with
  | none => s
  | some c =>
    let m := (coreOfCord s c).scratch
    let hits := (List.range 16).filter (fun n => p n && (c.trig[n]?).any (fun t =>
      t.armed && t.sw == sw && trigHolds m (scrBase c + sw) t))
    numberFired (hits.foldl (fun s n => fireSend s k n) s) k

/-- A credit to a sync word of a cord, with the sends it fires; false for an overrun (R302, R412). -/
def creditAt (s : State) (k sw n : Nat) : State × Bool :=
  match mget s.cords k with
  | none => (s, true)
  | some c =>
    let (m, ok) := credit (coreOfCord s c).scratch (scrBase c + sw) n
    (fireOn (modCoreOf s c (fun co => { co with scratch := m })) k sw (fun _ => true), ok)

/-- Cancel the armed sends of a cord that a test names, as tscncl does (R414, R413, R400). -/
def cancelSends (s : State) (k : Nat) (p : Nat → Trig → Bool) : State :=
  match mget s.cords k with
  | none => s
  | some c =>
    let hit (i : Nat) (t : Trig) : Bool := t.armed && p i t
    let c' := { c with trig := c.trig.mapIdx (fun i t => if hit i t then { t with armed := false } else t) }
    let s := modCord s k (fun _ => c')
    let ts := c.trig.toList.zipIdx.filter (fun t => hit t.2 t.1)
    modCoreOf s c (fun co => { co with scratch := ts.foldl (fun m t => armBit c' m t.1.sw) co.scratch })

end Sys2Proof.Machine
end

