-- ==== Sys2Proof/Machine/Sync.lean ====
section
/-!
DEFINITION. Synchronisation instances and signing, shared by the words that arrive and by the end of a strand
(spec/07_parallel_execution.md R167 to R176, spec/08_parallel_instructions.md R185 to R196): completion, cross-lane results,
barrier groups, the signing rounds of a convergence register and the product a round issues
(spec/17_async_engines.md R313, spec/18_engine_instructions.md R335).
-/
namespace Sys2Proof.Machine

/-- The strand of a lane has ended, or there is none. -/
def laneEnded (c : Cord) (l : Nat) : Bool := (mget c.strands l).all (·.mode == .ended)

/-- The strand of a lane runs the compatible handler (R360). -/
def laneP2 (c : Cord) (l : Nat) : Bool :=
  (mget c.strands l).any (fun st => st.mode == .handler && st.trap.any (fun r => r.flags.getLsbD 2))

/-- The effective membership of an instance (R168); only the handler strand itself under the compatible handler (R376). -/
def members (c : Cord) (x : Inst) : BitVec 64 := if laneP2 c x.first then laneBit x.first else x.mask &&& c.lanes

/-- The arrival of a lane. -/
def arrivalOf (x : Inst) (l : Nat) : Option Arrival := x.arr.find? (·.lane == l)

/-- Every member has arrived or ended (R171). -/
def instComplete (c : Cord) (x : Inst) : Bool :=
  (List.range 64).all (fun l => !laneIn (members c x) l || (arrivalOf x l).isSome || laneEnded c l)

/-! ### Cross-lane results -/

/-- A node of a reduction (R190): two values with their flags. -/
def redNode (o : Nat) (r : RMode) (x y : Nat × Flags) : Nat × Flags :=
  let a := x.1
  let b := y.1
  let sa : Int := (BitVec.ofNat 32 a).toInt
  let sb : Int := (BitVec.ofNat 32 b).toInt
  let z : Nat × Flags :=
    if o == 0 then ((a + b) % 2 ^ 32, 0)
    else if o == 1 then fAdd r a b
    else if o == 2 then (if sb < sa then b else a, 0)
    else if o == 3 then (min a b, 0)
    else if o == 4 then (if sa < sb then b else a, 0)
    else if o == 5 then (max a b, 0)
    else if o == 6 then fMinMax r false a b
    else if o == 7 then fMinMax r true a b
    else if o == 8 then ((BitVec.ofNat 32 a &&& BitVec.ofNat 32 b).toNat, 0)
    else if o == 9 then ((BitVec.ofNat 32 a ||| BitVec.ofNat 32 b).toNat, 0)
    else ((BitVec.ofNat 32 a ^^^ BitVec.ofNat 32 b).toNat, 0)
  (z.1, x.2 ||| y.2 ||| z.2)

/-- identity(op) of R44, by operation code. -/
def redIdentity (o : Nat) : Nat :=
  [0, 0, 0x7FFFFFFF, 0xFFFFFFFF, 0x80000000, 0, 0x7F800000, 0xFF800000, 0xFFFFFFFF, 0, 0].getD o 0

/-- The reduction over the members below a lane bound; an ended member gives 0 (R186, R190). -/
def reduceBelow (c : Cord) (x : Inst) (o : Nat) (r : RMode) (bound : Nat) : Nat × Flags :=
  let m := members c x
  let vals := (List.range 64).map (fun l =>
    if laneIn m l && decide (l < bound) then
      some (((arrivalOf x l).map (fun a => a.x.toNat)).getD 0, (0 : Flags))
    else none)
  (treeReduce (redNode o r) 6 vals).getD (redIdentity o, 0)

/-- The lowest arrived lane. -/
def lowestArrived (x : Inst) : Nat := x.arr.foldl (fun n a => min n a.lane) 64

/-- The ballot of R189. -/
def ballot (x : Inst) : BitVec 64 := x.arr.foldl (fun b a => if a.pr then b ||| laneBit a.lane else b) 0

/-- The source lane of xlm (R188), 64 where there is none. -/
def xlmSource (mode l sel : Nat) : Nat :=
  if mode == 0 then sel
  else if mode == 1 then (BitVec.ofNat 32 l ^^^ BitVec.ofNat 32 sel).toNat
  else if mode == 2 then (if sel ≤ l then l - sel else 64)
  else l + sel

/-- What a cross-lane instance writes in an arrived member, with the flags it raises there (R188 to R192). -/
def crossResult (c : Cord) (x : Inst) (a : Arrival) : List (Reg × BitVec 64) × Flags :=
  let major := x.word.toNat / 2 ^ 21
  let fn := x.word.toNat % 128
  let m := members c x
  if major == 0x31 then
    let src := xlmSource (fn / 32) a.lane a.y.toNat
    match (if src ≤ 63 && laneIn m src then arrivalOf x src else none) with
    | some b => (toV a.d b.x ++ a.pd.elim [] (fun p => toP p true), 0)
    | none => (toV a.d 0 ++ a.pd.elim [] (fun p => toP p false), 0)
  else if major == 0x32 then
    let lead := (arrivalOf x (lowestArrived x)).getD a
    let r : RMode := ⟨fp32, lead.mod_.extractLsb' 0 2, lead.mod_.getLsbD 2, lead.ftz⟩
    let o := fn % 32
    let v := if fn < 64 then reduceBelow c x o r 64
      else reduceBelow c x o r (if fn / 32 % 2 == 1 then a.lane else a.lane + 1)
    (toV a.d (BitVec.ofNat 32 v.1), v.2)
  else if fn / 8 == 0 then (toP (pReg a.d) (a.lane == lowestArrived x), 0)
  else if fn / 8 == 5 then (toP (pReg a.d) (ballot x != 0), 0)
  else if fn / 8 == 6 then (toP (pReg a.d) (ballot x == m), 0)
  else (toS (sReg a.d) (ballot x), 0)

/-- Deliver a cross-lane result to one arrived member; a member with an enabled flag settles as failed (R191, R34). hz takes the settlement in from the next cycle (R369). -/
def crossDeliver (s : State) (k : Nat) (x : Inst) (c : Cord) (a : Arrival) : State :=
  let (ws, fl) := crossResult c x a
  let now := cycOf s c.dev c.die
  let s := modStrand s k a.lane (raiseFlags fl)
  match (mget c.strands a.lane).bind (fun st => (opOf st a.uid).map (fun o => (st, o))) with
  | some (st, _) =>
    if (fl &&& enables st) != 0#5 then
      releaseHeld (modOp s k a.lane a.uid (fun o =>
        { o with state := .failed, due := now + 1, cause := 13, detail := fl.zeroExtend 64, flags := fl })) k a.lane a.uid
    else deliver (modOp s k a.lane a.uid (fun o => { o with state := .settled, due := now + 1 })) k a.lane a.uid ws
  | none => deliver s k a.lane a.uid ws

/-- Strands held at an instance or a signing look again (R172). -/
def clearSign (c : Cord) : Cord :=
  { c with strands := c.strands.map (fun p => (p.1, if p.2.wait == .sign then { p.2 with wait := .none } else p.2)) }

/-! ### Barrier groups -/

/-- The scope instance that holds a cord's core (R195, R18): quad, die, module, pod. -/
def scopeInst (c : Cord) (kind : Nat) : Nat :=
  if kind == 2 then (c.dev * 4 + c.die) * 16 + c.core / 4 else if kind == 3 then c.dev * 4 + c.die else if kind == 4 then c.dev else 0

/-- COUNT and GROUP of a barcfg value (R194). -/
def cfgCount (v : BitVec 64) : Nat := bitsOf v 16 16
def cfgGroup (v : BitVec 64) : Nat := bitsOf v 0 12

/-- The lanes arrived at an instance. -/
def arrivedLanes (x : Inst) : BitVec 64 := x.arr.foldl (fun m a => m ||| laneBit a.lane) 0

/-- Strands that arrived at a barrier of a scope go on; those that wait at another instance of it do not (R193). -/
def releaseBar (kind : Nat) (lanes : BitVec 64) (c : Cord) : Cord :=
  { c with strands := c.strands.map (fun p => (p.1,
      if p.2.wait == .bar kind && laneIn lanes p.1 then { p.2 with wait := .none } else p.2)) }

/-- A group completes its generation when COUNT arrivals have been made, ended cords counted (R195). -/
def checkGroup (s : State) (ctx : Nat) (g : BarGroup) : State :=
  let others := (ctxOf s ctx).bars.filter (fun b => !(b.scope == g.scope && b.inst == g.inst && b.group == g.group))
  if !g.arr.isEmpty && g.count ≤ g.arr.length + (g.ended.filter (fun k => !g.arr.any (·.1 == k))).length then
    let s := modCtx s ctx (fun x => { x with bars := others ++ [{ g with gen := g.gen + 1, count := 0, arr := [] }] })
    g.arr.foldl (fun s a => modCord s a.1 (releaseBar g.scope a.2)) s
  else modCtx s ctx (fun x => { x with bars := others ++ [g] })

/-- The group of a name; a new one where there is none. -/
def groupOf (x : Context) (scope inst group : Nat) : BarGroup :=
  (x.bars.find? (fun b => b.scope == scope && b.inst == inst && b.group == group)).getD ⟨scope, inst, group, 0, 0, [], []⟩

/-- The arrivals of an instance are undone: counts step back and the words count as not issued, with a fault (R195, R353). -/
def refuseArrivals (s : State) (k : Nat) (x : Inst) (cause : Nat) (detail : Nat → BitVec 64) : State :=
  x.arr.foldl (fun s a =>
    let s := modStrand s k a.lane (fun st => { st with
      sync := st.sync.setIfInBounds x.kind ((st.sync[x.kind]?.getD 0) - 1) })
    faultLeft s k a.lane cause a.pc a.word a.hint (detail a.lane)) s

/-- The completed cord-local instance arrives at its barrier group (R193, R195). -/
def groupArrive (s : State) (k : Nat) (c : Cord) (x : Inst) : State :=
  let v := c.barcfg[x.kind - 1]?.getD 0
  let g := groupOf (ctxOf s c.ctx) x.kind (scopeInst c x.kind) (cfgGroup v)
  if cfgCount v == 0 || (!g.arr.isEmpty && g.count != cfgCount v) then
    refuseArrivals s k x 4 (fun l => BitVec.ofNat 64 (64 + l))
  else checkGroup s c.ctx { g with count := cfgCount v, arr := g.arr ++ [(k, arrivedLanes x)] }

/-! ### Completion -/

/-- An instance that is complete takes its effect (R171): cross-lane results, barrier release, arrival at a group. A phase
instance waits for PHASE_END. -/
def finishInst (s : State) (k : Nat) (x : Inst) : State :=
  match mget s.cords k with
  | none => s
  | some c =>
    if !instComplete c x || x.kind == 6 then s
    else
      let s := modCord s k (fun c => clearSign { c with insts := c.insts.filter (·.uid != x.uid) })
      if x.kind == 0 then x.arr.foldl (fun s a => crossDeliver s k x c a) s
      else if x.kind == 1 then modCord s k (releaseBar 1 (arrivedLanes x))
      else groupArrive s k c x

/-- Look at every instance of a cord. -/
def finishInsts (s : State) (k : Nat) : State :=
  match mget s.cords k with
  | none => s
  | some c => c.insts.foldl (fun s x => finishInst s k x) s

/-! ### Signing -/

/-- The flags an mma can raise (R47, R46). -/
def mmaCan : Flags := NV ||| OF ||| UF ||| NX

/-- The registers of an mma's word, from bits 26:0: first accumulator, tile, macro (R335). -/
def mmaVacc (w : BitVec 27) : Nat := w.toNat / 2 ^ 14 % 128
def mmaTile (w : BitVec 27) : Nat := w.toNat / 2 ^ 7 % 128
def mmaMac (w : BitVec 27) : Nat := w.toNat / 16 % 8

/-- The accumulator registers of an operation (R308). -/
def accRegs (vacc rows cols : Nat) : List Reg :=
  let n := (if 128 < cols then 4 else 2) * rows
  (List.range (min n (128 - vacc))).map (fun i => .v (BitVec.ofNat 7 (vacc + i)))

/-- The checks of R313 at the last signature, in their order: the cause, or 0. -/
def mmaFault (co : Core) (c : Cord) (w : BitVec 27) : Nat :=
  let t := tileOf c (mmaTile w)
  let m := macOf co c (mmaMac w)
  let n := (if 128 < m.cols then 4 else 2) * t.rows
  let pressing := m.state == 1 && c.eops.any (fun e => (e.kind == .press || e.kind == .pressw) && e.mac == mmaMac w && eopLive e)
  if !(t.state == 2 && (t.fmt == 8#4 || t.fmt == 9#4) && t.cols == 256 && 1 ≤ t.rows && t.rows ≤ 16) ||
      !(m.state == 2 || pressing) || 128 < mmaVacc w + n then 19
  else if c.hdr.vregs ≤ mmaVacc w + n - 1 then 3
  else if !(fresh co c t.bk t.btag) || !(fresh co c m.bk m.btag0) || (128 < m.cols && !(fresh co c (m.bk + 1) m.btag1)) then 20
  else 0

/-- Every signer takes an ASYNC fault of its mma, marked where it signed in a rerun sequence (R313, R353, R358; log 68); the accumulators
are released. -/
def signersFault (s : State) (k : Nat) (uid cause : Nat) (sigs : List (Nat × BitVec 64 × BitVec 32 × Bool)) : State :=
  sigs.foldl (fun s g =>
    let s := releaseHeld s k g.1 uid
    abandonWait (modStrand s k g.1 (fun st => { st with
      ops := st.ops.filter (·.uid != uid)
      fault := match st.fault with
        | some f => some f
        | none => some ⟨cause, g.2.1, g.2.2.1, 0, 0, 0, true, false, 0, g.2.2.2, false⟩ })) k g.1) s

/-- The operation of a completed round (R175, R295, R335): it holds every accumulator of every signer, and takes a sequence
number from each signer that enables a flag it can raise. -/
def mmaIssue (s : State) (k : Nat) (c : Cord) (v : Conv) : State :=
  let t := tileOf c (mmaTile v.word)
  let m := macOf (coreOfCord s c) c (mmaMac v.word)
  let e : EOp := { blankEOp with
    uid := v.uid
    cls := .matrix
    kind := .mma
    desc := [m.bfmt.zeroExtend 64, if m.sparse then 1 else 0]
    lane := (v.sigs.getLast?.map (·.1)).getD 0
    after := s.uid
    tile := t
    tileNo := mmaTile v.word
    kreg := m.bk
    mac := mmaMac v.word
    signers := v.signers
    fzs := v.fzs
    at_ := cycOf s c.dev c.die
    tver := c.tileAt[mmaTile v.word]?.getD 0
    vacc := mmaVacc v.word
    rows := t.rows
    cols := m.cols
    bad := v.sigs.map (fun g => (g.1, if g.2.2.2 then 1 else 0, g.2.1, g.2.2.1.zeroExtend 64)) }
  let s := modCord { s with uid := s.uid + 1 } k (fun c => { c with eops := c.eops ++ [e] })
  v.sigs.foldl (fun s g =>
    modStrand s k g.1 (fun st =>
      let st := { st with held := st.held.filter (·.uid != v.uid) ++ (accRegs e.vacc e.rows e.cols).map (⟨·, v.uid⟩) }
      if (enables st &&& mmaCan) != 0#5 then
        { st with
          ops := st.ops ++ [{ blankOp with uid := v.uid, born := e.at_, seq := some st.next, kind := .engine, pc := g.2.1, word := g.2.2.1, state := .sent }]
          next := st.next + 1 }
      else st)) s

/-- Rounds of these signers cannot issue their operations together yet: the matrix counter has no room, or a signer that enables a flag
has no sequence numbers free (R295, R347). -/
def roundsFull (c : Cord) (now : Nat) (rs : List (BitVec 64)) : Bool :=
  !rs.isEmpty && (decide (64 < counter c .matrix + rs.length) || c.strands.any (fun p =>
    let n := (rs.filter (fun m => laneIn m p.1)).length
    n != 0 && (enables p.2 &&& mmaCan) != 0#5 && decide (16 < (unsettled now p.2).length + n)))

/-- A round of these signers cannot issue its operation yet (R295, R347). -/
def roundFull (c : Cord) (now : Nat) (signers : BitVec 64) : Bool := roundsFull c now [signers]

/-- The signers left of the rounds that the end of a strand completes (R175). -/
def endRounds (c : Cord) (l : Nat) : List (BitVec 64) :=
  c.conv.toList.filterMap (fun v =>
    let rest := v.signers &&& ~~~(laneBit l)
    if laneIn v.signers l && rest != 0 && (v.signed &&& ~~~(laneBit l)) == rest then some rest else none)

/-- The end of a strand would complete rounds whose operations cannot all issue yet (R175, R295, R347). -/
def endWaits (c : Cord) (now l : Nat) : Bool := roundsFull c now (endRounds c l)

/-- The final test of R175: when every signer has signed, the operation issues once or its checks fail, and ROUND advances. A register
left without signers by the end of a strand advances its ROUND and issues nothing (DESIGN CHOICE, log 53). -/
def signRound (s : State) (k j : Nat) : State :=
  match mget s.cords k with
  | none => s
  | some c =>
    match c.conv[j]? with
    | none => s
    | some v =>
      if v.signed != v.signers then s
      else if v.signers == 0 then
        modCord s k (fun c => clearSign { c with conv := c.conv.setIfInBounds j { v with round := v.round + 1, sigs := [] } })
      else
        let s := modCord s k (fun c => clearSign { c with
          conv := c.conv.setIfInBounds j { v with signed := 0, round := v.round + 1, sigs := [] } })
        let f := mmaFault (coreOfCord s c) c v.word
        if f != 0 then signersFault s k v.uid f v.sigs else mmaIssue s k c v

end Sys2Proof.Machine
end

