-- ==== Sys2Proof/Machine/Ending.lean ====
section
/-!
DEFINITION. The end of a strand and of a cord (spec/06_strand_instructions.md R147, spec/07_parallel_execution.md R171, R175,
spec/10_stage_nodes.md R203, R219, R222), the fatal end of a cord (spec/13_memory_levels.md R257,
spec/20_faults_and_horizon.md R357), the context error (R366), the event log (R257, R431), and the changes of table leaves
and frames the steward makes (R240, R243, R258).
-/
namespace Sys2Proof.Machine

/-! ### Tables and frames -/

/-- Write a table entry. -/
def setEntry (s : State) (dev dpa : Nat) (e : BitVec 64) : State :=
  { s with mem := writeMem s.mem (byteKey dev dpa) (leBytes 8 e.toNat) }

/-- The leaf entry of a virtual address: its DPA and value. -/
def leafOf (s : State) (ctx dev va : Nat) : Option (Nat × BitVec 64 × Bool) :=
  (rootOf s ctx dev).bind (fun r => walkTo s.mem dev r va)

/-- The frames of a page. -/
def pageFrames (key : Nat) (big : Bool) : List Nat :=
  if big then (List.range 512).map (fun i => key / 2 ^ 16 + i) else [key / 2 ^ 16]

/-- Change frames. -/
def modFrames (s : State) (fs : List Nat) (f : Frame → Frame) : State :=
  { s with frames := fs.foldl (fun m k => mset m k (f ((mget m k).getD ⟨0, .free, false⟩))) s.frames }

/-- The token records of a list of frames become HOLDER none, MARK NONE (R258, R275). -/
def clearTokens (s : State) (fs : List Nat) : State :=
  { s with tokens := s.tokens.filter (fun p => !fs.contains (p.1 / 2 ^ 16)) }

/-- The requests a recall of some frames drains: every sent one to them, those of other modules left out where near says so, since an
exported frame refuses them afterwards (R275, R389). One that is a fatal miss is never performed (R388). -/
def toDrain (s : State) (near : Bool) (fs : List Nat) : List Req :=
  s.arrivals.filter (fun r => r.addrs.any (fun a => fs.contains (a / 2 ^ 16) && (!near || r.core.dev == keyDev a)) &&
    !r.addrs.any (fun a => remoteMiss s r.core.dev r.party.ctx a (needOf r.kind)))

/-- Perform every request to drain that may be decided now (R275). -/
def drain (s : State) (near : Bool) (fs : List Nat) : State :=
  (toDrain s near fs).foldl (fun s r => if s.arrivals.any (·.uid == r.uid) then performGroup s r else s) s

/-- The drain of the module's own requests to some frames. -/
def drainFrames (s : State) (fs : List Nat) : State := drain s true fs

/-- A request of the module to some frames is not drained yet: what recalls them waits (R275). -/
def undrained (s : State) (fs : List Nat) : Bool := !(toDrain s true fs).isEmpty

/-- The values of a list of frames that nobody has released are discarded; only the weight store keeps bytes past an unmap (R275). -/
def discardUnrel (s : State) (fs : List Nat) : State :=
  let as := (s.tokens.filter (fun p => p.2.mark == .unrel && fs.contains (p.1 / 2 ^ 16) && isWeight p.1)).map (·.1)
  { s with mem := as.foldl (fun m a => writeCell m a unlisted) s.mem }

/-- The frames that hold bytes of some parties (R262). -/
def heldFrames (s : State) (mine : Party → Bool) : List Nat :=
  ((s.tokens.filter (fun x => x.2.holder.any mine)).map (fun x => x.1 / 2 ^ 16)).eraseDups

/-- Glesko drops the TLB entries of a context on every core, and frames moved away become FREE (R244, R245). -/
def shootdown (s : State) (ctx : Nat) : State :=
  let gone := (s.moves.filter (fun m => m.ctx == ctx && m.step == 4)).map (·.old)
  let s : State := { s with modules := s.modules.map (fun m => (m.1, { m.2 with
      dies := m.2.dies.map (fun d => { d with
        cores := d.cores.map (fun q => (q.1, { q.2 with tlb := q.2.tlb.filter (fun e => e.ctx != ctx) })) }) })) }
  modFrames { s with moves := s.moves.filter (fun m => !(m.ctx == ctx && m.step == 4)) } gone (fun f => { f with state := .free, seen := false })

/-- The drop of R244 that falls due when a frame has advanced to a multiple of 128. -/
def advanced (s : State) (ctx : Nat) (fs : List Nat) : State :=
  if fs.any (fun k => ((mget s.frames k).getD ⟨0, .free, false⟩).gen.toNat % 128 == 0) then shootdown s ctx else s

/-- Remove one page of a context from its tables: requests drained, generation advanced, tokens recalled, leaf cleared,
frames free and their unreleased values discarded (R258, R275). The frames of another module stay with it (R387). -/
def unmapPage (s : State) (ctx dev va : Nat) : State :=
  match leafOf s ctx dev va with
  | none => s
  | some (a, e, big) =>
    if !isLeaf e big then s
    else
      let t := leafEntry ctx va e big
      let fs := if t.dev == dev then pageFrames (byteKey t.dev t.dpa) big else []
      let s := drainFrames s fs
      let s := modFrames (clearTokens (discardUnrel s fs) fs) fs (fun f => { gen := f.gen + 1, state := .free, seen := false })
      setEntry (advanced s ctx fs) dev a 0

/-! ### The event log -/

/-- Append a record to a context's event log of 4,096 records (R257, R431). -/
def appendLog (s : State) (ctx : Nat) (r : LogRec) : State :=
  modCtx s ctx (fun x =>
    let full := 4096 ≤ x.log.length
    { x with
      log := (if full then x.log.tail else x.log) ++ [r]
      unread := min 4096 (x.unread + 1)
      lost := if full then x.lost + 1 else x.lost })

/-- What the stewards log outside the event log, in the same form: KIND 5 a context error with its cause and PC (R366), KIND 6
a cord saved by bkpt with its save area in VA (R373), KIND 7 a fatal miss with the DPA in VA and the issuing module in CAUSE
(R388). -/
def note (s : State) (ctx : Nat) (r : LogRec) : State := modCtx s ctx (fun x => { x with notes := x.notes ++ [r] })

/-! ### Ends -/

/-- Release the queue memory of a closed graph whose last cord has ended (R222), once the requests to it are drained (R275). -/
def releaseGraph (s : State) (ctx g : Nat) : State :=
  match graphOf (ctxOf s ctx) g with
  | none => s
  | some gr =>
    if !gr.closed || s.cords.any (fun p => p.2.ctx == ctx && p.2.graph == g) then s
    else
      let ps := gr.allocs.flatMap (·.pages)
      let fs := ps.map (fun p => byteKey gr.dev p.2.1 / 2 ^ 16)
      let s := drainFrames s fs
      if undrained s fs then s
      else
        modCtx (ps.foldl (fun s p => unmapPage s ctx gr.dev p.1) s) ctx (fun x => { x with
          graphs := x.graphs.filter (·.id != g)
          slots := x.slots.filter (fun q => q.graph != g || q.state == .reserved)
          batts := x.batts.filter (·.graph != g) })

/-- The slot-table entry of a cord becomes free (R214). -/
def freeEntry (s : State) (c : Cord) : State := modCoreOf s c (fun co => { co with slots := co.slots.setIfInBounds c.entry .free })

/-- The groups a cord was configured in count it as arrived from now on (R195). -/
def endGroups (s : State) (k : Nat) (c : Cord) : State :=
  c.groups.foldl (fun s g =>
    let b := groupOf (ctxOf s c.ctx) g.1 g.2.1 g.2.2.1
    checkGroup s c.ctx { b with ended := if b.ended.contains k then b.ended else b.ended ++ [k] }) s

/-- The end of a cord (R203, R214, R219, R222, R195, R410, R413): slots, knots, landings, armed sends, queued phases and
resources. -/
def endCord (s : State) (k : Nat) : State :=
  match mget s.cords k with
  | none => s
  | some c =>
    let s := modCtx s c.ctx (fun x =>
      let x := breakOwned (freeOfCord x k) k
      { x with
        landings := x.landings.filter (fun l => l.cord != k)
        batts := x.batts.filter (fun b => b.id != c.batt.id)
        queued := x.queued.filter (· != k) })
    let s := if c.life == .running then freeEntry s c else s
    let s := { s with cords := mdel s.cords k }
    releaseGraph (endGroups s k c) c.ctx c.graph

/-- The strands of a cord have all ended. -/
def allEnded (c : Cord) : Bool := c.strands.all (fun p => p.2.mode == .ended)

/-- The end of a strand (R147, R171, R175, R203, R413): what it holds is given up, instances and signing rounds look again, and
the cord ends with its last strand. -/
def endStrand (s : State) (k l : Nat) : State :=
  match mget s.cords k with
  | none => s
  | some c =>
    let s := modStrand s k l (fun st => { st with
      mode := .ended
      wait := .none
      rs := []
      ops := []
      held := []
      rerun := []
      resume := none
      fault := none
      rep := none
      hint := 0 })
    let s := modCtx s c.ctx (fun x => leavePool (freeOfStrand x k l) k l)
    let s := cancelSends s k (fun _ t => t.lane == l)
    let s := modCord s k (fun c => { c with
      conv := c.conv.map (fun v => { v with
        signers := v.signers &&& ~~~(laneBit l)
        signed := v.signed &&& ~~~(laneBit l)
        sigs := v.sigs.filter (fun g => g.1 != l) }) })
    let s := ((List.range 8).filter (fun j => (c.conv[j]?).any (fun v => laneIn v.signers l))).foldl (fun s j => signRound s k j) s
    let s := finishInsts s k
    match mget s.cords k with
    | none => s
    | some c => if allEnded c then endCord s k else s

/-- The operations of a cord leave the miss-status entries they joined (R248). -/
def mshrLeaveAll (s : State) (c : Cord) : State :=
  c.strands.foldl (fun s p => p.2.ops.foldl (fun s o => mshrLeave s c o.uid) s) s

/-- A party of the cord of a recall. -/
def recalled (rc : Recall) (p : Party) : Bool := p.ctx == rc.ctx && p.dev == rc.dev && p.die == rc.die && p.serial == rc.serial

/-- The frames a recall concerns: those that hold bytes of the cord, and those its sent requests name. -/
def recallFrames (s : State) (rc : Recall) : List Nat :=
  (heldFrames s (recalled rc) ++ (s.arrivals.filter (fun r : Req => recalled rc r.party)).flatMap (fun r : Req => r.addrs.map (· / 2 ^ 16))).eraseDups

/-- A recall under way: what may be decided of the sent requests to its frames is performed, and once none is left the bytes of the cord
become STALE, or lose their record when released (R275). -/
def recallNow (rc : Recall) (s : State) : State :=
  let s := drain s false (recallFrames s rc)
  if !(toDrain s false (recallFrames s rc)).isEmpty then s
  else { recallStale s (recalled rc) with recalls := s.recalls.filter (· != rc) }

/-- A recall begins, and goes on while requests are under way. -/
def startRecall (s : State) (rc : Recall) : State := recallNow rc { s with recalls := s.recalls ++ [rc] }

/-- A cord is killed: no strand issues again, its unsettled operations are discarded, the bytes it wrote and did not release
become STALE, and it ends (R257, R366). Every sent request to the frames it wrote or asked for drains first (R275); of what it has on the
way, only those requests still come. -/
def killCord (s : State) (k : Nat) : State :=
  match mget s.cords k with
  | none => s
  | some c =>
    let s := startRecall s ⟨c.ctx, c.dev, c.die, c.serial⟩
    let s := { s with
      packets := s.packets.filter (fun p => p.cord != k || (match p.payload with
        | .req _ => p.answer.isNone
        | .arrival _ _ _ _ _ _ _ _ | .ether _ _ _ _ _ | .engine _ _ _ _ _ _ | .fetch _ _ _ _ => false))
      knotEvs := s.knotEvs.filter (fun e => e.cord != k) }
    let s := mshrLeaveAll s c
    let s := modCtx s c.ctx (fun x => { x with knots := x.knots.map (fun p =>
      (p.1, { p.2 with waiters := p.2.waiters.filter (fun w => w.cord != k) })) })
    endCord s k

/-- A cord ends through a lease violation or a fatal fault, with its event-log record (R257, R357). -/
def fatalEnd (s : State) (k lane kind : Nat) (pc va : BitVec 64) (cause : Nat) : State :=
  match mget s.cords k with
  | none => s
  | some c =>
    let s := appendLog s c.ctx ⟨c.ctx, c.node, lane, kind, pc, va, c.core, c.die, cause⟩
    killCord s k

/-- The context error (R366): its cords are killed, its knots broken, slots and batts discarded, nodes closed, groups removed,
and it owns no codebook; leases, page tables and the trap vector stay. -/
def contextError (s : State) (ctx lane node : Nat) (pc : BitVec 64) (cause : Nat) (core : CoreId) : State :=
  let s := note s ctx ⟨ctx, node, lane, 5, pc, 0, core.core, core.die, cause⟩
  let s := modCtx s ctx (fun x => { x with graphs := x.graphs.map (fun g => { g with closed := true }) })
  let s := (s.cords.filter (fun p => p.2.ctx == ctx)).foldl (fun s p => killCord s p.1) s
  let hs := (s.tokens.filterMap (fun x => x.2.holder)).filter (fun p => p.ctx == ctx)
  let s := ((hs.map (fun p => (⟨ctx, p.dev, p.die, p.serial⟩ : Recall))).eraseDups.filter (fun rc => !s.recalls.contains rc)).foldl startRecall s
  let s := modCtx s ctx (fun x => { x with
    knots := x.knots.map (fun p => (p.1,
      if p.2.state == .free then p.2 else { wakeAll none p.2 with state := .broken }))
    slots := x.slots.map freeSlot
    opens := []
    batts := []
    queued := []
    bars := []
    landings := [] })
  let s := ((ctxOf s ctx).graphs.map (·.id)).foldl (fun s g => releaseGraph s ctx g) s
  { s with
    knotEvs := s.knotEvs.filter (fun e => s.cords.any (fun p => p.1 == e.cord))
    modules := s.modules.map (fun m => (m.1, { m.2 with
      dies := m.2.dies.map (fun d => { d with
        cores := d.cores.map (fun q => (q.1, { q.2 with
          owner := if q.2.owner == some ctx then none else q.2.owner
          slots := q.2.slots.map (fun e => match e with
            | .bound b _ _ => if b.ctx.toNat == ctx then .free else e
            | _ => e) })) }) })) }

/-- A fatal miss at a home byte: it is logged at the target and at the issuing module, and the context takes the context error
(R388, R366). -/
def missError (s : State) (ctx lane node : Nat) (pc : BitVec 64) (a : Nat) (core : CoreId) : State :=
  let r : LogRec := ⟨ctx, node, lane, 7, 0, BitVec.ofNat 64 (keyDpa a), core.core, core.die, core.dev⟩
  contextError (note (note s ctx r) ctx { r with pc := pc }) ctx lane node pc 0 core

end Sys2Proof.Machine
end

