-- ==== Sys2Proof/Machine/Fetch.lean ====
section
/-!
DEFINITION. Fetching words: the instruction cache (spec/03_strand_machine.md R66, R67), the rep prefix
(spec/05_formats_and_opcode_map.md R116 to R119), hints (R120 to R124) and words that are no instruction (R114).
-/
namespace Sys2Proof.Machine

/-- The home of a byte of the core's own module would perform a request under a translation (R243); another module decides when the request
reaches it (R388). -/
def liveEntry (s : State) (core : CoreId) (va : Nat) (e : TlbEntry) : Bool :=
  let f := frameOf s (entryKey e va)
  e.dev != core.dev || (f.state == .valid && f.gen == e.gen)

/-- The translation of a byte that a request would go out under: the TLB's, or the table's where the home would refuse the TLB's (R243). -/
def liveTrans (s : State) (core : CoreId) (ctx va : Nat) : Option TlbEntry :=
  match transOf s core ctx va with
  | none => none
  | some e =>
    if liveEntry s core va e then some e
    else (walk s ctx core.dev va).bind (fun e => if liveEntry s core va e then some e else none)

/-- A core drops the TLB entry of a byte whose home would refuse it, and walks the table for a byte without an entry (R241, R243). -/
def freshTrans (s : State) (core : CoreId) (ctx va : Nat) : State :=
  let s := match tlbFind (coreOf s core.dev core.die core.core) ctx va with
    | some e => if liveEntry s core va e || (frameOf s (entryKey e va)).state == .moving then s else tlbForget s core ctx [va]
    | none => s
  match tlbFind (coreOf s core.dev core.die core.core) ctx va with
  | some _ => s
  | none =>
    let s := walkTouch s core ctx va
    match walk s ctx core.dev va with
    | some e => modCore s core.dev core.die core.core (tlbFill e)
    | none => s

/-- The frame of a byte of the core's own module is being moved, so that a request for it is held (R243). -/
def frameMoving (s : State) (core : CoreId) (ctx va : Nat) : Bool :=
  match transOf s core ctx va with
  | some e => e.dev == core.dev && (frameOf s (entryKey e va)).state == .moving
  | none => false

/-- The core's die serves a byte without a request to another module: it lies in its own, or its LLC holds it under the generation of its
frame (R251, R383). -/
def nearByte (s : State) (core : CoreId) (gen : BitVec 8) (a : Nat) : Bool :=
  keyDev a == core.dev || (holderHas s core a && frameFate s gen [a] == .perform)

/-- Why an instruction span cannot be fetched: no translation, or no X right (R242). -/
def fetchFate (s : State) (core : CoreId) (ctx va : Nat) : Option Nat :=
  match liveTrans s core ctx va with
  | none => some 9
  | some e => if e.x then none else some 10

/-- Fill a span of the instruction cache of 64 KiB with its bytes (R15, R66). Of a full cache the span filled first leaves: no rule names one
(DESIGN CHOICE, log 88). -/
def fillSpan (s : State) (core : CoreId) (ctx base : Nat) (bs : List (BitVec 8)) : State :=
  let sp : Span := ⟨ctx, base, (List.range 16).map (fun i => BitVec.ofNat 32 (leNat ((bs.drop (4 * i)).take 4)))⟩
  modCore s core.dev core.die core.core (fun c =>
    let rest := c.icache.filter (fun x => !(x.ctx == ctx && x.base == base))
    { c with icache := rest.drop (rest.length - 1023) ++ [sp] })

/-- A field of a repeated word (R117); none where it leaves the field's range. -/
def stepField (x : BitVec 7) (step : BitVec 3) (idx : Nat) : Option (BitVec 7) :=
  let v : Int := x.toNat + (idx : Int) * step.toInt
  if 0 ≤ v && v ≤ 127 then some (BitVec.ofInt 7 v) else none

/-- The formats whose word rep may repeat: how many register fields its steps reach (R118). 3 for F3, 2 for F2f, FI and FM,
1 for FL; 0 where rep may not stand before the major. -/
def repFields (major : Nat) : Nat :=
  if (1 ≤ major && major ≤ 9) || (0xB ≤ major && major ≤ 0xE) || (0x18 ≤ major && major ≤ 0x1B) || major == 0x20 || major == 0x21 then 3
  else if major == 0xF || major == 0x10 || (0x1D ≤ major && major ≤ 0x1F) || major == 0x26 || major == 0x11 || major == 0x12 ||
    major == 0x22 || major == 0x23 then 2
  else if major == 0x13 || major == 0x14 then 1
  else 0

/-- The word after a rep may be repeated with the steps given (R118, check 5 of R114). -/
def repPairs (w : BitVec 32) (y z : BitVec 3) : Bool :=
  let major := (majorOf w).toNat
  let n := repFields major
  n != 0 && (n == 3 || major == 0x22 || major == 0x23 || z == 0#3) && (n != 1 || y == 0#3)

/-- The word of a repetition (R117): its register fields stepped; none where a field leaves its range. -/
def stepWord (w : BitVec 32) (r : Rep) : Option (BitVec 32) :=
  let n := repFields (majorOf w).toNat
  match stepField (w.extractLsb' 14 7) r.sd r.idx,
    (if 2 ≤ n then stepField (w.extractLsb' 7 7) r.sa r.idx else some (w.extractLsb' 7 7)),
    (if n == 3 then stepField (w.extractLsb' 0 7) r.sb r.idx else some (w.extractLsb' 0 7)) with
  | some d, some a, some b => some (w.extractLsb' 21 11 ++ d ++ a ++ b)
  | _, _, _ => none

/-- The word a strand would issue, as fetched: of its rerun sequence, or at its program counter in the instruction cache. -/
def rawWord (co : Core) (c : Cord) (st : Strand) : Option (BitVec 32) :=
  match st.rerun with
  | r :: _ => some r.word
  | [] => cachedWord co c.ctx st.pc

/-- The instruction of a fetched word: a repetition is stepped, and a word R114 refuses is no instruction. -/
def instrOf (st : Strand) (w : BitVec 32) : Instr :=
  match (match st.rep with | some r => stepWord w r | none => some w) with
  | none => .illegalInstruction w
  | some w' => match decode w' with
    | .ok i => i
    | .error _ => .illegalInstruction w

/-- The word is a rep that the strand of lane l may issue now: it decodes, its predicate is true and not held (R63, R114). -/
def repNow (c : Cord) (l : Nat) (st : Strand) (now : Nat) (w : BitVec 32) : Bool :=
  let h : Here := ⟨⟨0, l, 0, l⟩, c, st, now⟩
  match instrOf st w with
  | .rep g _ _ _ _ => st.rep.isNone && ableStrand c st now && !(guardRegs g).any (isHeld h) && !stallFault h (guardRegs g) && rdP st g.pred
  | _ => false

/-- The addresses whose words a strand needs next: its word, and for a rep it may issue the word it repeats (R66, R118). -/
def neededAddrs (co : Core) (c : Cord) (l : Nat) (st : Strand) (now : Nat) : List (BitVec 64) :=
  match st.rerun with
  | _ :: _ => []
  | [] =>
    match cachedWord co c.ctx st.pc with
    | none => [st.pc]
    | some w => if (cachedWord co c.ctx (st.pc + 4)).isNone && repNow c l st now w then [st.pc + 4] else []

/-- A strand that fetches. -/
def fetching (c : Cord) (st : Strand) : Bool :=
  (st.mode == .running || st.mode == .handler) && (st.wait == .none || st.wait == .sign || polling st) &&
  st.fault.isNone && c.life == .running

/-- The strands of a core that need a word of a span. -/
def spanNeeds (s : State) (core : CoreId) (ctx base : Nat) : List (Nat × Nat × BitVec 64) :=
  s.cords.flatMap (fun p =>
    if p.2.ctx == ctx && p.2.dev == core.dev && p.2.die == core.die && p.2.core == core.core then
      p.2.strands.filterMap (fun q =>
        if fetching p.2 q.2 then
          ((neededAddrs (coreOfCord s p.2) p.2 q.1 q.2 (cycOf s core.dev core.die)).find? (fun a => a.toNat / 64 * 64 == base)).map
            (fun a => (p.1, q.1, a))
        else none)
    else [])

/-- A hint word of the core has asked for the span (R67). -/
def spanAsked (s : State) (core : CoreId) (ctx base : Nat) : Bool := (coreOf s core.dev core.die core.core).asks.contains (ctx, base)

/-- The home bytes of a span. -/
def spanKeys (s : State) (core : CoreId) (ctx base : Nat) : List Nat :=
  match liveTrans s core ctx base with
  | some e => (List.range 64).map (fun i => entryKey e base + i)
  | none => []

/-- A request for the span is on its way to another module. -/
def spanUnderWay (s : State) (core : CoreId) (ctx base : Nat) (data : Bool) : Bool :=
  s.packets.any (fun p => p.src == core && p.ctx == ctx &&
    (match p.payload with | .fetch b _ _ d => b == base && d == data | .req _ | .arrival _ _ _ _ _ _ _ _ | .ether _ _ _ _ _ | .engine _ _ _ _ _ _ => false))

/-- The cord number of a packet that serves no cord. -/
def noCord : Nat := 2 ^ 64

/-- A core asks another module for a span, once; a plane being retired takes no request (R383, R388, R391). -/
def askSpan (s : State) (core : CoreId) (ctx base : Nat) (data : Bool) : State :=
  match transOf s core ctx base with
  | none => s
  | some e =>
    let as := spanKeys s core ctx base
    if spanUnderWay s core ctx base data || as.any (planeRetiring s core.dev) then s
    else sendPacket s core ctx noCord 0 0 0 (as.headD 0) (.fetch base as e.gen data)

/-- The hint words' requests for an instruction span are served, or dropped. -/
def askDone (s : State) (core : CoreId) (ctx base : Nat) : State :=
  modCore s core.dev core.die core.core (fun co => { co with asks := co.asks.filter (· != (ctx, base)) })

/-- An instruction span cannot be fetched: a precise fault in each strand that needs it (R66, R242). -/
def fetchFails (s : State) (core : CoreId) (ctx base cause : Nat) (detail : BitVec 64) : State :=
  (spanNeeds s core ctx base).foldl (fun s n => modStrand s n.1 n.2.1 (fun st => { st with
    wait := .none
    fault := some ⟨cause, st.pc, 0, repIndex st, if cause == 21 then 0 else n.2.2, detail, false, false, 0, false, false⟩ }))
    (askDone s core ctx base)

/-- The instruction cache of a core fills a span that a strand stands in or a hint word asked for; a span that cannot be read faults
precisely in each strand that needs it, and a hint's request is dropped (R66, R67, R242). A span that the local LLC does not hold comes from
its home, from another module by a request (R383, R388); one of the weight store waits for its refresh window (R253). A rep whose next word
lies in a span that cannot be read faults with the address of the rep as PC and that of the next word as ADDR (DESIGN CHOICE, log 59). -/
def execInstructionFill (c : CoreId) (va : BitVec 64) (ctx : Nat) (s : State) : Out :=
  let base := va.toNat / 64 * 64
  if ((spanNeeds s c ctx base).isEmpty && !spanAsked s c ctx base) || frameMoving s c ctx base || refreshing s (spanKeys s c ctx base) then .next s
  else
    let s := freshTrans s c ctx base
    match fetchFate s c ctx base, liveTrans s c ctx base with
    | some f, _ => .next (fetchFails s c ctx base f 0)
    | none, none => .next s
    | none, some e =>
      let as := spanKeys s c ctx base
      if as.all (nearByte s c e.gen) then
        .next (fillSpan (readTouch (askDone s c ctx base) c 0 as) c ctx base (as.map (readCell s.mem)))
      else .next (askSpan s c ctx base false)

/-- A word that is no instruction faults in an active strand whose predicate is true (R113, R114, R8). -/
def execIllegalInstruction (w : BitVec 32) (s : State) : Out :=
  runWord (.illegalInstruction w) (guardOf w) (fun _ _ => {}) (fun h s => some (faultHere s h (.illegalInstruction w) 1 0 0))
    plainLeave (fun _ s => s) s

/-- The next word issues count times with stepped fields (R116 to R118). -/
def execRep (g : Guard) (n : BitVec 6) (x y z : BitVec 3) (s : State) : Out :=
  let next (h : Here) (s : State) := cachedWord (coreOfCord s h.cord) h.cord.ctx (h.st.pc + 4)
  runWord (.rep g n x y z) g (fun h s => { hold := (next h s).isNone })
    (fun h s => if (next h s).all (fun w => repPairs w y z) then none else some (faultHere s h (.rep g n x y z) 1 0 0))
    (fun _ _ => { rep := some ⟨n.toNat + 1, 0, x, y, z⟩ }) (fun _ s => s) s

/-- Idle cycles before the next word (R56, R120). -/
def execHintWait (g : Guard) (w : BitVec 17) (s : State) : Out :=
  runWord (.hintWait g w) g (fun _ _ => {}) noCheck (fun _ _ => { wait := w.toNat }) (fun _ s => s) s

/-- Seventeen extension bits for the next word (R121, R123). -/
def execHintExt (g : Guard) (e : BitVec 17) (s : State) : Out :=
  runWord (.hintExt g e) g (fun _ _ => {}) noCheck (fun _ _ => { hint := encode (.hintExt g e) }) (fun _ s => s) s

/-- Rounding and saturation for the next word (R121, R122). -/
def execHintMod (g : Guard) (x : BitVec 1) (r : BitVec 2) (s : State) : Out :=
  runWord (.hintMod g x r) g (fun _ _ => {}) noCheck (fun _ _ => { hint := encode (.hintMod g x r) }) (fun _ s => s) s

/-- Cache allocation of the next word (R121, R124). -/
def execHintCache (g : Guard) (l c : BitVec 2) (s : State) : Out :=
  runWord (.hintCache g l c) g (fun _ _ => {}) noCheck (fun _ _ => { hint := encode (.hintCache g l c) }) (fun _ s => s) s

/-- The span a hint fetch.i asks for (R120). -/
def askedSpan (o : BitVec 16) (h : Here) : Nat := ((pcOf h.st &&& ~~~63#64) + BitVec.ofInt 64 (64 * o.toInt)).toNat

/-- Ask for an instruction span; INSTRUCTION_FILL serves the request, and drops it where the span cannot be read (R67, R120). -/
def execHintFetchI (g : Guard) (o : BitVec 16) (s : State) : Out :=
  runWord (.hintFetchI g o) g (fun _ _ => {}) noCheck plainLeave
    (fun h s => modHereCore s h (fun co =>
      let x := (h.cord.ctx, askedSpan o h)
      { co with asks := if co.asks.contains x then co.asks else co.asks ++ [x] })) s

/-- The first byte of the span a hint fetch.d asks for (R120). -/
def askedData (a : BitVec 7) (o : BitVec 9) (h : Here) : Nat :=
  ((rdV2 h.st a &&& ~~~63#64) + BitVec.ofInt 64 (64 * o.toInt)).toNat

/-- The hint words' requests for a data span are served, or dropped. -/
def dataDone (s : State) (core : CoreId) (ctx base : Nat) : State :=
  modCore s core.dev core.die core.core (fun co => { co with dasks := co.dasks.filter (· != (ctx, base)) })

/-- A request for a data span is served: the local LLC takes its words, from memory, from another die or by a request to another module. It
waits as any read does, and is dropped only where the span cannot be read (R67, R124, R243, R251, R253, R383, R391). -/
def serveData (core : CoreId) (ctx base : Nat) (s : State) : Out :=
  if frameMoving s core ctx base || refreshing s (spanKeys s core ctx base) then .next s
  else
    let s := freshTrans s core ctx base
    match liveTrans s core ctx base with
    | none => .next (dataDone s core ctx base)
    | some e =>
      let as := spanKeys s core ctx base
      if !e.r then .next (dataDone s core ctx base)
      else if as.all (nearByte s core e.gen) then .next (readTouch (dataDone s core ctx base) core 0 as)
      else .next (askSpan s core ctx base true)

/-- The implicit lease ranges of a cord (R257): the slots it holds or reserves, its batt list and each strand's spill area. -/
def implicitRanges (s : State) (k : Nat) (c : Cord) : List Lease :=
  let x := ctxOf s c.ctx
  ((x.slots.filter (fun q => (q.state == .held || q.state == .reserved) && q.cord == k)).map (fun q =>
    let n := ((nodeOf x q.graph q.node).map (·.recSize)).getD 0
    ⟨q.addr, q.addr + max 16 ((n + 15) / 16 * 16), false⟩)) ++
  [⟨c.batt.list.toNat, c.batt.list.toNat + 8 * c.batt.n, false⟩] ++
  c.strands.map (fun p => ⟨p.2.spill.toNat - 4088, p.2.spill.toNat + 8, false⟩)

/-- The first of some bytes an access touches that lies outside every lease range, or is written inside a read-only one (R257, R215). -/
def leaseMiss (s : State) (k : Nat) (c : Cord) (vs : List Nat) (write : Bool) : Option (BitVec 64) :=
  if c.hdr.leases.isEmpty then none
  else
    let ls := c.hdr.leases ++ implicitRanges s k c
    (vs.find? (fun v => !ls.any (fun l => l.lo ≤ v && v < l.hi && !(write && l.ro)))).map (BitVec.ofNat 64)

/-- The first byte of an access that breaks the leases. -/
def leaseBad (s : State) (k : Nat) (c : Cord) (va : BitVec 64) (size : Nat) (write : Bool) : Option (BitVec 64) :=
  leaseMiss s k c ((List.range size).map (vaAt va)) write

/-- The bytes of an engine transfer from an address upward: exact, so that those beyond the 64-bit space have no translation (R9, R238). -/
def upFrom (x : BitVec 64) (n : Nat) : List Nat := (List.range n).map (x.toNat + ·)

/-- Ask for a data span (R67, R124, R251). The hint reads no register in the sense of the issue rules, so it never stalls and never
faults: an odd base, or one beyond the declared vector registers, is dropped (DESIGN CHOICE between R67 and R59, R157, log 33). A span with a
byte outside the lease ranges of the cord cannot be read, and is dropped (R242, R257). -/
def execHintFetchD (g : Guard) (a : BitVec 7) (o : BitVec 9) (s : State) : Out :=
  runWord (.hintFetchD g a o) g (fun _ _ => {}) noCheck plainLeave
    (fun h s =>
      let x := (h.cord.ctx, askedData a o h)
      if !even a || decide (h.cord.hdr.vregs ≤ a.toNat + 1) ||
          (leaseMiss s h.sel.cord h.cord ((List.range 64).map (x.2 + ·)) false).isSome then s
      else modHereCore s h (fun co => { co with dasks := if co.dasks.contains x then co.dasks else co.dasks ++ [x] })) s

end Sys2Proof.Machine
end

