-- ==== Sys2Proof/Machine/Control.lean ====
section
/-!
DEFINITION. Control words (spec/06_strand_instructions.md R145 to R148, spec/03_strand_machine.md R65, R68,
spec/20_faults_and_horizon.md R347, R351, R434).
-/
namespace Sys2Proof.Machine

/-! ### Leases -/

/-- The event-log kind of a lease violation (R257). -/
def leaseKind (k : OpKind) : Nat := if k == .atomic then 2 else if kindWrites k then 1 else 0

/-- An access of a word goes on inside the leases of its cord; outside them the cord ends (R257). -/
def leased (h : Here) (k : OpKind) (va : BitVec 64) (size : Nat) (f : State → State) (s : State) : State :=
  match leaseBad s h.sel.cord h.cord va size (kindWrites k) with
  | some b => fatalEnd s h.sel.cord h.sel.lane (leaseKind k) (pcOf h.st) b 0
  | none => f s

/-! ### Control -/

/-- Branch to a target, taken or not (R65, R145). -/
def branchWord (i : Instr) (g : Guard) (reads writes : List Reg) (taken : Here → Bool) (target : Here → BitVec 64)
    (f : Here → List (Reg × BitVec 64)) (s : State) : Out :=
  runWord i g (fun _ _ => { reads := reads, writes := writes, branch := true }) noCheck
    (fun h _ => { target := if taken h then some (target h) else none })
    (fun h s => writeRegs s h (f h) (h.now + 1) false) s

/-- next_pc := pc + 4 off21 (R145). -/
def execBra (g : Guard) (f : BitVec 21) (s : State) : Out :=
  branchWord (.bra g f) g [] [] (fun _ => true) (fun h => branchTo h.st.pc (immFB h.st.hint f)) (fun _ => []) s

/-- Branch when the predicate is false (R145). -/
def execBrp (g : Guard) (n : BitVec 3) (i : BitVec 14) (s : State) : Out :=
  branchWord (.brp g n i) g (if n == 7#3 then [] else [.p n]) [] (fun h => !rdP h.st n)
    (fun h => branchTo h.st.pc (immFL h.st.hint i)) (fun _ => []) s

/-- Count down, and branch while the new count is not 0 (R145). -/
def execBdec (g : Guard) (d : BitVec 7) (i : BitVec 14) (s : State) : Out :=
  branchWord (.bdec g d i) g [.v d] [.v d] (fun h => rdV h.st d - 1 != 0#32)
    (fun h => branchTo h.st.pc (immFL h.st.hint i)) (fun h => toV d (rdV h.st d - 1)) s

/-- A push would spill the oldest entry (R68). -/
def spills (h : Here) : Bool := h.st.rs.length == 4

/-- rs_push (R68): the spill is a fallible 8-byte store at %csp (R148, R347), inside the leases (R257). -/
def rsPush (i : Instr) (h : Here) (s : State) : State :=
  if spills h then
    leased h .spill h.st.csp 8 (fun s =>
      let s := pushOp s h i true { blankOp with
        kind := .spill
        va := h.st.csp
        size := 8
        data := leBytes 8 (h.st.rs.headD 0).toNat }
      modHere s h (fun st => { st with rs := st.rs.tail ++ [h.st.pc + 4], csp := st.csp - 8 })) s
  else modHere s h (fun st => { st with rs := st.rs ++ [h.st.pc + 4] })

/-- A call (R145). -/
def callWord (i : Instr) (g : Guard) (reads : List Reg) (target : Here → BitVec 64) (s : State) : Out :=
  runWord i g (fun h _ => { reads := reads, branch := true, fallible := spills h }) noCheck
    (fun h _ => { target := some (target h) }) (fun h s => rsPush i h s) s

/-- A re-executed spill repeats its store, from the slot and data of the record (R358; log 11). -/
def respill (i : Instr) (g : Guard) (s : State) : Out :=
  runWord i g (fun _ _ => { branch := true, fallible := true }) noCheck plainLeave
    (fun h s => match h.st.rerun with
      | r :: _ => leased h .spill (r.spill.getD (0, 0)).1 8 (fun s => pushOp s h i true { blankOp with
          kind := .spill
          va := (r.spill.getD (0, 0)).1
          size := 8
          data := leBytes 8 (r.spill.getD (0, 0)).2.toNat }) s
      | [] => s) s

/-- The strand re-executes a spill. -/
def respilling (s : State) : Bool :=
  match here s with
  | some h => (match h.st.rerun with | r :: _ => r.spill.isSome | [] => false)
  | none => false

/-- Push the return address and branch (R145). -/
def execCall (g : Guard) (f : BitVec 21) (s : State) : Out :=
  if respilling s then respill (.call g f) g s
  else callWord (.call g f) g [] (fun h => branchTo h.st.pc (immFB h.st.hint f)) s

/-- Push the return address and go to V2[a] (R145). -/
def execCallv (g : Guard) (a : BitVec 7) (s : State) : Out :=
  if respilling s then respill (.callv g a) g s
  else callWord (.callv g a) g (pair a) (fun h => wordAlign (rdV2 h.st a)) s

/-- Go to V2[a] (R145). -/
def execJmpv (g : Guard) (a : BitVec 7) (s : State) : Out :=
  branchWord (.jmpv g a) g (pair a) [] (fun _ => true) (fun h => wordAlign (rdV2 h.st a)) (fun _ => []) s

/-- Pop the return address; an empty stack refills it from memory, and the strand waits (R68, R148, R347, R434). -/
def execRet (g : Guard) (s : State) : Out :=
  runWord (.ret g) g (fun h _ => { branch := true, fallible := h.st.rs.isEmpty }) noCheck
    (fun h _ => { target := match h.st.rs.getLast? with
      | some x => some (wordAlign x)
      | none => some h.st.pc })
    (fun h s =>
      if h.st.rs.isEmpty then
        leased h .refill (h.st.csp + 8) 8 (fun s =>
          modHere (pushOp s h (.ret g) true { blankOp with kind := .refill, va := h.st.csp + 8, size := 8 }) h
            (fun st => { st with wait := .answer })) s
      else modHere s h (fun st => { st with rs := st.rs.dropLast })) s

/-- No effect (R145). -/
def execNop (g : Guard) (s : State) : Out := runWord (.nop g) g (fun _ _ => {}) noCheck plainLeave (fun _ s => s) s

/-- Everything older has written its destinations, every store is performed and every fallible operation has settled (R147,
R351). -/
def drainedStrand (h : Here) : Bool :=
  allDone h.now h.st && h.st.held.isEmpty && h.st.pend.isEmpty && h.st.divs.isEmpty && h.cord.upend.isEmpty &&
  !(h.cord.insts.any (fun x => (arrivalOf x h.sel.lane).isSome)) && !(h.cord.conv.toList.any (fun v => laneIn v.signed h.sel.lane)) &&
  !(h.cord.eops.any (fun e => eopLive e && (if e.kind == .mma then laneIn e.signers h.sel.lane else e.lane == h.sel.lane)))

/-- What an exit that is not drained may wait for at a cross-lane instance or a signing (R172): an arrival or a signature of its own, or
a register of its own that such an instance or round holds. -/
def exitSigns (h : Here) : Bool :=
  h.st.held.any (fun x => heldBySync h x.reg) ||
  h.cord.insts.any (fun x => (arrivalOf x h.sel.lane).isSome) || h.cord.conv.toList.any (fun v => laneIn v.signed h.sel.lane)

/-- End the strand: a release of pod scope, then its end (R147, R274). An end that completes a signing round waits until the round's
operation may issue (R175, R295, R347). -/
def execExit (g : Guard) (s : State) : Out :=
  runWord (.exit g) g
    (fun h _ => { hold := !drainedStrand h || endWaits h.cord h.now h.sel.lane, signs := exitSigns h }) noCheck plainLeave
    (fun h s => endStrand (releaseStep s (partyOf h.cord h.sel.lane)) h.sel.cord h.sel.lane) s

end Sys2Proof.Machine
end

