-- ==== Sys2Proof/Machine/MemoryWords.lean ====
section
/-!
DEFINITION. Loads, stores, scratchpad accesses, atomics, fences, L1 drops and token return at issue
(spec/06_strand_instructions.md R149 to R151, spec/15_memory_instructions.md R276 to R289, spec/13_memory_levels.md R242, R248,
R249, R257). What becomes of an issued access is in Sys2Proof/Machine/Accesses.lean.
-/
namespace Sys2Proof.Machine

/-- The 256-byte regions an access touches, by context and virtual address (R246, R248). -/
def regionsOf (ctx : Nat) (va : BitVec 64) (size : Nat) : List Nat :=
  let a := ctx * 2 ^ 56 + va.toNat / 256
  let b := ctx * 2 ^ 56 + vaAt va (size - 1) / 256
  if a == b then [a] else [a, b]

/-- The access hits in the L1: every byte translates and every word is valid (R250). -/
def hitsL1 (s : State) (c : Cord) (va : BitVec 64) (size : Nat) : Bool :=
  let ks := accessKeys s (coreIdOf c) c.ctx va size
  ks.length == size && (l1Bytes (coreOfCord s c) ks).isSome

/-- A miss-status entry a request for a region may join (R248). -/
def joins (now r : Nat) (m : Mshr) : Bool := m.region == r && decide (now ≤ m.at_ + 64)

/-- The regions of a load that need a new miss-status entry (R248). -/
def newEntries (s : State) (c : Cord) (now : Nat) (va : BitVec 64) (size : Nat) : List Nat :=
  if hitsL1 s c va size then []
  else (regionsOf c.ctx va size).filter (fun r => !(coreOfCord s c).mshr.any (joins now r))

/-- A load that needs a new entry waits while all 64 are in use (R248). -/
def mshrFull (s : State) (h : Here) (va : BitVec 64) (size : Nat) : Bool :=
  64 < (coreOfCord s h.cord).mshr.length + (newEntries s h.cord h.now va size).length

/-- A load joins its miss-status entries (R248). -/
def mshrJoin (s : State) (h : Here) (u : Nat) (va : BitVec 64) (size : Nat) : State :=
  if hitsL1 s h.cord va size then s
  else
    let new := newEntries s h.cord h.now va size
    modHereCore s h (fun co =>
      let old := co.mshr.map (fun m =>
        if (regionsOf h.cord.ctx va size).any (fun r => joins h.now r m) then { m with uids := m.uids ++ [u] } else m)
      { co with mshr := old ++ new.map (fun r => ⟨r, h.now, [u]⟩) })

/-- A word that accesses global memory (R149, R278 to R283): alignment, then the leases, then the access joins the strand's
pending sequence with its registers held (R263). -/
def memWord (i : Instr) (g : Guard) (reads writes : List Reg) (align : Nat) (va : Here → BitVec 64) (op : Here → Op) (s : State) : Out :=
  runWord i g
    (fun h s => { reads := reads, writes := writes, lat := 0, fallible := true,
                  hold := (op h).kind == .load && mshrFull s h (va h) (op h).size })
    (fun h s => if (va h).toNat % align == 0 then none else some (faultHere s h i 7 (va h) 0))
    plainLeave
    (fun h s =>
      leased h (op h).kind (va h) (op h).size (fun s =>
        let u := s.uid
        let s := holdRegs (pushOp s h i true { op h with va := va h }) h u writes
        if (op h).kind == .load then mshrJoin s h u (va h) (op h).size else s) s) s

/-- A load of a size: kind, scope and whether it allocates in the L1 (R149, R280, R281). -/
def loadOp (kind : OpKind) (d : BitVec 7) (z k : BitVec 3) (h : Here) : Op :=
  { blankOp with kind := kind, size := sizeBytes z, scope := k.toNat, dst := d, szc := z, na := hintNoL1 h.st.hint }

/-- A store of a size, its data read at issue (R149, R281). -/
def storeOp (kind : OpKind) (d : BitVec 7) (z k : BitVec 3) (h : Here) : Op :=
  { blankOp with kind := kind, size := sizeBytes z, scope := k.toNat, szc := z, data := storeBytes h.st z d }

/-- V2[a] as an address. -/
def vaOf (a : BitVec 7) (h : Here) : BitVec 64 := rdV2 h.st a

/-- V2[a] + off of the FM forms (R149). -/
def vaOff (a o : BitVec 7) (h : Here) : BitVec 64 := rdV2 h.st a + BitVec.ofInt 64 (immFM h.st o)

/-- ld.w with an offset (R149, R150). -/
def execLdW (g : Guard) (d a o : BitVec 7) (s : State) : Out :=
  memWord (.ldW g d a o) g (pair a) [.v d] 1 (vaOff a o) (loadOp .load d 4 0) s

/-- st.w with an offset (R149, R150). -/
def execStW (g : Guard) (d a o : BitVec 7) (s : State) : Out :=
  memWord (.stW g d a o) g (pair a ++ [.v d]) [] 1 (vaOff a o) (storeOp .store d 4 0) s

/-- A plain load of a size (R149). -/
def execLd (g : Guard) (d a : BitVec 7) (z : BitVec 3) (s : State) : Out :=
  memWord (.ld g d a z) g (pair a) (sizeRegs z d) 1 (vaOf a) (loadOp .load d z 0) s

/-- An acquire load (R281). -/
def execLdAcq (g : Guard) (d a : BitVec 7) (z k : BitVec 3) (s : State) : Out :=
  memWord (.ldAcq g d a z k) g (pair a) (sizeRegs z d) (sizeBytes z) (vaOf a) (loadOp .acqLoad d z k) s

/-- A plain store of a size (R149). -/
def execSt (g : Guard) (d a : BitVec 7) (z : BitVec 3) (s : State) : Out :=
  memWord (.st g d a z) g (pair a ++ sizeRegs z d) [] 1 (vaOf a) (storeOp .store d z 0) s

/-- A release store (R281). -/
def execStRel (g : Guard) (d a : BitVec 7) (z k : BitVec 3) (s : State) : Out :=
  memWord (.stRel g d a z k) g (pair a ++ sizeRegs z d) [] (sizeBytes z) (vaOf a) (storeOp .relStore d z k) s

/-- An observing load (R280). -/
def execLdo (g : Guard) (d a : BitVec 7) (z : BitVec 3) (s : State) : Out :=
  memWord (.ldo g d a z) g (pair a) (sizeRegs z d) 1 (vaOf a) (loadOp .obs d z 0) s

/-- ldo.acq is an acquire load (R280). -/
def execLdoAcq (g : Guard) (d a : BitVec 7) (z k : BitVec 3) (s : State) : Out :=
  memWord (.ldoAcq g d a z k) g (pair a) (sizeRegs z d) (sizeBytes z) (vaOf a) (loadOp .acqLoad d z k) s

/-- An atomic on w bytes (R282 to R284): operand and new value read at issue, with FTZ and the enable bits. -/
def atomicOp (op w : Nat) (d : BitVec 7) (k : BitVec 3) (x y : Here → BitVec 64) (h : Here) : Op :=
  { blankOp with
    kind := .atomic
    size := w
    scope := k.toNat
    dst := d
    szc := if w == 8 then 5 else 4
    atom := some ⟨op, x h, y h, ftzOf h.st, enables h.st⟩ }

/-- A 32-bit amo (R282). -/
def amoWord (i : Instr) (g : Guard) (op : Nat) (d a : BitVec 7) (k : BitVec 3) (s : State) : Out :=
  memWord i g (pair a ++ [.v d]) [.v d] 4 (vaOf a) (atomicOp op 4 d k (fun h => (rdV h.st d).zeroExtend 64) (fun _ => 0)) s

/-- A 64-bit amo (R282). -/
def amoWordD (i : Instr) (g : Guard) (op : Nat) (d a : BitVec 7) (k : BitVec 3) (s : State) : Out :=
  memWord i g (pair a ++ pair d) (pair d) 8 (vaOf a) (atomicOp op 8 d k (fun h => rdV2 h.st d) (fun _ => 0)) s

/-- Atomic add (R282). -/
def execAmoAdd (g : Guard) (d a : BitVec 7) (k : BitVec 3) (s : State) : Out := amoWord (.amoAdd g d a k) g 0 d a k s

/-- Atomic subtract (R282). -/
def execAmoSub (g : Guard) (d a : BitVec 7) (k : BitVec 3) (s : State) : Out := amoWord (.amoSub g d a k) g 1 d a k s

/-- Atomic signed minimum (R282). -/
def execAmoMin (g : Guard) (d a : BitVec 7) (k : BitVec 3) (s : State) : Out := amoWord (.amoMin g d a k) g 2 d a k s

/-- Atomic signed maximum (R282). -/
def execAmoMax (g : Guard) (d a : BitVec 7) (k : BitVec 3) (s : State) : Out := amoWord (.amoMax g d a k) g 3 d a k s

/-- Atomic unsigned minimum (R282). -/
def execAmoMinUns (g : Guard) (d a : BitVec 7) (k : BitVec 3) (s : State) : Out := amoWord (.amoMinUns g d a k) g 4 d a k s

/-- Atomic unsigned maximum (R282). -/
def execAmoMaxUns (g : Guard) (d a : BitVec 7) (k : BitVec 3) (s : State) : Out := amoWord (.amoMaxUns g d a k) g 5 d a k s

/-- Atomic and (R282). -/
def execAmoAnd (g : Guard) (d a : BitVec 7) (k : BitVec 3) (s : State) : Out := amoWord (.amoAnd g d a k) g 6 d a k s

/-- Atomic or (R282). -/
def execAmoOr (g : Guard) (d a : BitVec 7) (k : BitVec 3) (s : State) : Out := amoWord (.amoOr g d a k) g 7 d a k s

/-- Atomic exclusive or (R282). -/
def execAmoXor (g : Guard) (d a : BitVec 7) (k : BitVec 3) (s : State) : Out := amoWord (.amoXor g d a k) g 8 d a k s

/-- Atomic swap (R282). -/
def execAmoSwp (g : Guard) (d a : BitVec 7) (k : BitVec 3) (s : State) : Out := amoWord (.amoSwp g d a k) g 9 d a k s

/-- Atomic FP32 add (R284) (R282). -/
def execAmoAddF (g : Guard) (d a : BitVec 7) (k : BitVec 3) (s : State) : Out := amoWord (.amoAddF g d a k) g 10 d a k s

/-- Compare and swap of 4 bytes: V[d] compared, V[d+1] written (R283). -/
def execAcas (g : Guard) (d a : BitVec 7) (k : BitVec 3) (s : State) : Out :=
  memWord (.acas g d a k) g (pair a ++ pair d) [.v d] 4 (vaOf a)
    (atomicOp 11 4 d k (fun h => (rdV h.st d).zeroExtend 64) (fun h => (rdV h.st (d + 1)).zeroExtend 64)) s

/-- Atomic 64-bit add (R282). -/
def execAmoAddD (g : Guard) (d a : BitVec 7) (k : BitVec 3) (s : State) : Out := amoWordD (.amoAddD g d a k) g 12 d a k s

/-- Atomic 64-bit swap (R282). -/
def execAmoSwpD (g : Guard) (d a : BitVec 7) (k : BitVec 3) (s : State) : Out := amoWordD (.amoSwpD g d a k) g 13 d a k s

/-- Compare and swap of 8 bytes: V2[d] compared, V2[d+2] written (R283). -/
def execAcasD (g : Guard) (d a : BitVec 7) (k : BitVec 3) (s : State) : Out :=
  memWord (.acasD g d a k) g (pair a ++ quadruple d) (pair d) 8 (vaOf a)
    (atomicOp 14 8 d k (fun h => rdV2 h.st d) (fun h => rdV2 h.st (d + 2))) s

/-- A word that accesses the scratchpad at issue (R273, R279, R249). An amos whose offset is both misaligned and beyond .scratch takes the
alignment fault: R278 names no order of the two (DESIGN CHOICE, log 94). -/
def scratchWord (i : Instr) (g : Guard) (reads writes : List Reg) (align size : Nat) (a : BitVec 7)
    (f : Here → State → Nat → State) (s : State) : Out :=
  let off (h : Here) : Nat := (rdV h.st a).toNat
  runWord i g (fun _ _ => { reads := reads, writes := writes, lat := 0 })
    (fun h s =>
      if off h % align != 0 then some (faultHere s h i 7 (BitVec.ofNat 64 (off h)) 0)
      else if scratchOk h.cord (off h) size then none else some (faultHere s h i 8 (BitVec.ofNat 64 (off h)) 0))
    plainLeave
    (fun h s => f h s (scrBase h.cord + off h)) s

/-- Scratchpad load (R279). -/
def execLds (g : Guard) (d a : BitVec 7) (z : BitVec 3) (s : State) : Out :=
  scratchWord (.lds g d a z) g [.v a] (sizeRegs z d) 1 (sizeBytes z) a
    (fun h s o => writeVar s h (loadWrites z d (getBytes (coreOfCord s h.cord).scratch o (sizeBytes z)))) s

/-- Scratchpad store (R279). -/
def execSts (g : Guard) (d a : BitVec 7) (z : BitVec 3) (s : State) : Out :=
  scratchWord (.sts g d a z) g ([.v a] ++ sizeRegs z d) [] 1 (sizeBytes z) a
    (fun h s o => modHereCore s h (fun co => { co with scratch := putBytes co.scratch o (storeBytes h.st z d) })) s

/-- A read-modify-write of a scratchpad word (R285). -/
def amosWord (i : Instr) (g : Guard) (op : Nat) (d a : BitVec 7) (reads : List Reg) (y : Here → BitVec 64) (s : State) : Out :=
  scratchWord i g ([.v a] ++ reads) [.v d] 4 4 a
    (fun h s o =>
      let old := leNat (getBytes (coreOfCord s h.cord).scratch o 4)
      let n := (atomNew ⟨op, (rdV h.st d).zeroExtend 64, y h, false, 0⟩ 4 old).1
      writeVar (modHereCore s h (fun co => { co with scratch := putBytes co.scratch o (leBytes 4 n) })) h
        (toV d (BitVec.ofNat 32 old))) s

/-- Scratchpad add (R285). -/
def execAmosAdd (g : Guard) (d a : BitVec 7) (s : State) : Out := amosWord (.amosAdd g d a) g 0 d a [.v d] (fun _ => 0) s

/-- Scratchpad subtract (R285). -/
def execAmosSub (g : Guard) (d a : BitVec 7) (s : State) : Out := amosWord (.amosSub g d a) g 1 d a [.v d] (fun _ => 0) s

/-- Scratchpad signed minimum (R285). -/
def execAmosMin (g : Guard) (d a : BitVec 7) (s : State) : Out := amosWord (.amosMin g d a) g 2 d a [.v d] (fun _ => 0) s

/-- Scratchpad signed maximum (R285). -/
def execAmosMax (g : Guard) (d a : BitVec 7) (s : State) : Out := amosWord (.amosMax g d a) g 3 d a [.v d] (fun _ => 0) s

/-- Scratchpad unsigned minimum (R285). -/
def execAmosMinUns (g : Guard) (d a : BitVec 7) (s : State) : Out := amosWord (.amosMinUns g d a) g 4 d a [.v d] (fun _ => 0) s

/-- Scratchpad unsigned maximum (R285). -/
def execAmosMaxUns (g : Guard) (d a : BitVec 7) (s : State) : Out := amosWord (.amosMaxUns g d a) g 5 d a [.v d] (fun _ => 0) s

/-- Scratchpad and (R285). -/
def execAmosAnd (g : Guard) (d a : BitVec 7) (s : State) : Out := amosWord (.amosAnd g d a) g 6 d a [.v d] (fun _ => 0) s

/-- Scratchpad or (R285). -/
def execAmosOr (g : Guard) (d a : BitVec 7) (s : State) : Out := amosWord (.amosOr g d a) g 7 d a [.v d] (fun _ => 0) s

/-- Scratchpad exclusive or (R285). -/
def execAmosXor (g : Guard) (d a : BitVec 7) (s : State) : Out := amosWord (.amosXor g d a) g 8 d a [.v d] (fun _ => 0) s

/-- Scratchpad swap (R285). -/
def execAmosSwp (g : Guard) (d a : BitVec 7) (s : State) : Out := amosWord (.amosSwp g d a) g 9 d a [.v d] (fun _ => 0) s

/-- Scratchpad compare and swap (R283). -/
def execAmosCas (g : Guard) (d a : BitVec 7) (s : State) : Out :=
  amosWord (.amosCas g d a) g 11 d a (pair d) (fun h => (rdV h.st (d + 1)).zeroExtend 64) s

/-- A fence or a word that takes steps of its own without bytes (R286 to R288). -/
def stepWordOp (i : Instr) (g : Guard) (reads : List Reg) (fallible : Bool) (op : Here → Op) (s : State) : Out :=
  runWord i g (fun _ _ => { reads := reads, fallible := fallible }) noCheck plainLeave
    (fun h s => pushOp s h i fallible (op h)) s

/-- An acquire fence (R286). -/
def execFenceAcq (g : Guard) (k : BitVec 3) (s : State) : Out :=
  stepWordOp (.fenceAcq g k) g [] true (fun _ => { blankOp with kind := .fenceAcq, scope := k.toNat }) s

/-- A release fence (R286). -/
def execFenceRel (g : Guard) (k : BitVec 3) (s : State) : Out :=
  stepWordOp (.fenceRel g k) g [] true (fun _ => { blankOp with kind := .fenceRel, scope := k.toNat }) s

/-- A fence of both kinds (R286). -/
def execFence (g : Guard) (k : BitVec 3) (s : State) : Out :=
  stepWordOp (.fence g k) g [] true (fun _ => { blankOp with kind := .fence, scope := k.toNat }) s

/-- Drop the words of a region from the L1 (R287). -/
def execInvl1 (g : Guard) (a : BitVec 7) (s : State) : Out :=
  stepWordOp (.invl1 g a) g (pair a) false (fun h => { blankOp with kind := .invl1, va := vaOf a h }) s

/-- Drop every word of the L1 (R287). -/
def execInvl1All (g : Guard) (s : State) : Out :=
  stepWordOp (.invl1All g) g [] false (fun _ => { blankOp with kind := .invl1All }) s

/-- Release, and give up the tokens of a region (R288). -/
def execTkrel (g : Guard) (a : BitVec 7) (s : State) : Out :=
  stepWordOp (.tkrel g a) g (pair a) true (fun h => { blankOp with kind := .tkrel, va := vaOf a h }) s

end Sys2Proof.Machine
end

