-- ==== Sys2Proof/Machine/Accesses.lean ====
section
/-!
DEFINITION. What becomes of an issued access: the transitions of the abstract machine (spec/14_consistency_model.md R263 to
R269, R285), table walks and TLB drops (spec/13_memory_levels.md R241 to R244), migration (R245), the base-die ports (R254 to
R256), refresh and write windows (R252, R253).
-/
namespace Sys2Proof.Machine

/-! ### What holds an access -/

/-- An older load of the strand that reads a common byte has not read yet. -/
def readBefore (s : State) (a : Acc) : Bool :=
  (olderOps a.st a.op.uid).any (fun p => kindLoads p.kind && (p.state == .unsent || p.state == .sent) && touch s a.cord p a.op)

/-- The unsent loads of the other strands of the word and braid of a load that read a common byte (R247). -/
def matesOf (s : State) (l : Nat) (a : Acc) : List Acc :=
  if !kindLoads a.op.kind then []
  else (coreStrands s a.cord).flatMap (fun p => (p.2.2.ops.filter (fun q =>
    q.grp == a.op.grp && !(p.2.1 == l && q.uid == a.op.uid) && kindLoads q.kind && q.state == .unsent && touch s a.cord q a.op)).map
      (fun q => ⟨p.1, p.2.2, q, a.now⟩))

/-- Another strand's load of the same word and braid reads a common byte and is held by R264, or it or this one has an older load of a common
byte that has not read: the word's strands are to receive one value, so this load waits with it (R247, R292; DEDUCED, log 17). -/
def groupHeld (s : State) (l : Nat) (a : Acc) : Bool :=
  let ms := (matesOf s l a).filter (fun b => !behindFailure b)
  ms.any (fun b => (olderOps b.st b.op.uid).any (holdsBack s b)) || (!ms.isEmpty && (a :: ms).any (readBefore s))

/-- The load has been sent to its homes. -/
def loadSent (p : Op) : Bool := kindLoads p.kind && (p.state == .sent || p.state == .performed) && !p.home.isEmpty

/-- The older ordinary loads of the strand that read a common byte and have been neither sent nor read (R292). -/
def unreadBefore (s : State) (a : Acc) : List Op :=
  (olderOps a.st a.op.uid).filter (fun p => (p.kind == .load || p.kind == .refill) && p.state == .unsent && touch s a.cord p a.op)

/-- A younger load of a common byte has been sent: this one takes SEND no more, unless what the younger one was performed with is not taken
(R292, log 74). -/
def sentAhead (s : State) (a : Acc) : Bool :=
  ((a.st.ops.dropWhile (·.uid != a.op.uid)).drop 1).any (fun p =>
    loadSent p && !behindFailure ⟨a.cord, a.st, p, a.now⟩ && touch s a.cord p a.op)

/-- An older load of the strand reads a common byte, and this one is not sent before it (R292): an observing or acquire load that has not been
sent; a load that was itself sent before an older one which has not read; a load that was sent under another translation. -/
def loadTurn (s : State) (a : Acc) : Bool :=
  kindLoads a.op.kind && (sentAhead s a || (olderOps a.st a.op.uid).any (fun p => kindLoads p.kind && touch s a.cord p a.op &&
    ((p.state == .unsent && (p.kind == .obs || p.kind == .acqLoad)) ||
     (loadSent p && !(unreadBefore s ⟨a.cord, a.st, p, a.now⟩).isEmpty) ||
     (p.state == .sent && (List.range p.size).any (fun i => (List.range a.op.size).any (fun j =>
        vaAt p.va i == vaAt a.op.va j &&
        (transOf s (coreIdOf a.cord) a.cord.ctx (vaAt p.va i)).any (fun e => some (entryKey e (vaAt p.va i)) != p.home[i]?)))))))

/-- An atomic waits until every other of its word and braid to its region may be sent, so that the home gets them together (R285). -/
def atomHeld (s : State) (a : Acc) : Bool :=
  a.op.kind == .atomic && (coreStrands s a.cord).any (fun p => p.2.2.ops.any (fun q =>
    q.grp == a.op.grp && q.kind == .atomic && q.uid != a.op.uid && q.state == .unsent && !behindFailure ⟨p.1, p.2.2, q, a.now⟩ &&
    sameRegion ((opKeys s p.1 q).take 1) ((opKeys s a.cord a.op).take 1) && (!q.rel || heldBack s p.2.1 ⟨p.1, p.2.2, q, a.now⟩)))

/-- The access has bytes at homes. -/
def kindSent (k : OpKind) : Bool := kindReads k || kindWrites k

/-- The TLB holds every translation of the access (R241). -/
def tlbReady (s : State) (c : Cord) (o : Op) : Bool :=
  (List.range o.size).all (fun i => (tlbFind (coreOfCord s c) c.ctx (vaAt o.va i)).isSome)

/-- The bytes of an access in order of their offsets. -/
def gotBytes (o : Op) : List (BitVec 8) :=
  (List.range o.size).map (fun i => ((o.got.find? (·.1 == i)).map (·.2)).getD 0)

/-- The operation settles as failed (R242, R348), and a wait of its strand ends (R435). -/
def failOp (s : State) (k l : Nat) (a : Acc) (cause : Nat) (addr detail : BitVec 64) : State :=
  abandonWait (mshrLeave (modOp s k l a.op.uid (fun o =>
    { o with state := .failed, cause := cause, addr := addr, detail := detail, due := a.now })) a.cord a.op.uid) k l

/-! ### The transitions -/

/-- The pieces an access is performed in (R246, R268): one for an aligned access of 1, 2, 4 or 8 bytes and for a release store, which
takes its RELEASE and its write in one step (R266); else one a byte (R268; what a failing one does to the others, log 97). The request of a
whole region is left out (R247, log 86). -/
def opPieces (o : Op) : List (List Nat) :=
  if o.size != 0 && ((o.size ≤ 8 && o.va.toNat % o.size == 0) || o.kind == .relStore) then [List.range o.size]
  else (List.range o.size).map (fun i => [i])

/-- Join the arrival queue of a home with one piece (R263): in a packet when the home is on another module (R388), unless it only reads
words the local LLC holds (R251, R383). -/
def sendPiece (k l : Nat) (a : Acc) (covers : List Nat) (s : State) (offs : List Nat) : State :=
  let (u, s) := freshUid s
  let o := a.op
  let v := vaAt o.va (offs.headD 0)
  match transOf s (coreIdOf a.cord) a.cord.ctx v with
  | none => s
  | some e =>
    let as := offs.map (fun i => entryKey e (vaAt o.va i))
    let r : Req := {
      uid := u
      party := partyOf a.cord l
      cord := k
      lane := l
      op := o.uid
      core := coreIdOf a.cord
      kind := o.kind
      offs := offs
      addrs := as
      va := o.va
      gen := e.gen
      data := offs.map (fun i => o.data.getD i 0)
      atom := o.atom
      tries := 0
      grp := o.grp
      hint := o.hint
      covers := covers }
    let s := { s with arrivals := s.arrivals ++ [r] }
    let s := modOp s k l o.uid (fun o => { o with home := o.home ++ as })
    if e.dev == a.cord.dev || (kindLoads o.kind && as.all (holderHas s r.core)) then s
    else sendPacket s r.core a.cord.ctx k l o.uid 0 (as.headD 0) (.req r)

/-- A load takes bytes of the L1: the ones an earlier strand of its word took where there are such (R247, R263 L1-READ). -/
def takeL1 (k l : Nat) (a : Acc) (bs : List (BitVec 8)) (s : State) : State :=
  let (bs, s) := shareLoad s a.op.grp (opKeys s a.cord a.op) bs
  mshrLeave (modOp s k l a.op.uid (fun o =>
    { o with state := .performed, due := a.now, filled := true, got := (List.range o.size).zip bs })) a.cord a.op.uid

/-- The walks of the TLB misses of an access (R241). -/
def walkAccess (s : State) (c : Cord) (va : BitVec 64) (size : Nat) : State :=
  walkFor (walkFor s (coreIdOf c) c.ctx va.toNat) (coreIdOf c) c.ctx (vaAt va (size - 1))

/-- An unsent access joins the arrival queue of each home it touches, or settles as failed by its translation (R263, R242, R292). -/
def execSend (k l u : Nat) (s : State) : Out :=
  match accOf s k l u with
  | none => .next s
  | some a =>
    let o := a.op
    if !(o.state == .unsent && kindSent o.kind) || heldBack s l a || groupHeld s l a || atomHeld s a || loadTurn s a ||
        (o.kind == .atomic && !o.rel) then .next s
    else
      match accessFate s (coreIdOf a.cord) a.cord.ctx (needOf o.kind) o.va o.size with
      | some (f, b) => .next (failOp (walkAccess s a.cord o.va o.size) k l a f (BitVec.ofNat 64 b) 0)
      | none =>
        if !tlbReady s a.cord o || ((o.kind == .load || o.kind == .refill) && hitsL1 s a.cord o.va o.size) ||
            (opKeys s a.cord o).any (planeRetiring s a.cord.dev) then .next s
        else
          let ws := wholeWords (opKeys s a.cord o)
          let s := modOp s k l u (fun o => { o with state := .sent, left := (opPieces o).length })
          .next ((opPieces o).foldl (sendPiece k l a ws) s)

/-- An older L1 drop of the strand has not been made (R287). -/
def dropBefore (a : Acc) : Bool :=
  (olderOps a.st a.op.uid).any (fun p => (p.kind == .invl1 || p.kind == .invl1All) && !opDone a.now p)

/-- The guard of L1-READ (R263, R264), but for the L1: an ordinary load that nothing holds, its translations in the TLB. -/
def mayL1Read (s : State) (l : Nat) (a : Acc) : Bool :=
  a.op.state == .unsent && (a.op.kind == .load || a.op.kind == .refill) && !heldBack s l a && !groupHeld s l a && !dropBefore a &&
  !(matesOf s l a).any (fun b => dropBefore b && !behindFailure b) &&
  (accessFate s (coreIdOf a.cord) a.cord.ctx (needOf a.op.kind) a.op.va a.op.size).isNone &&
  tlbReady s a.cord a.op

/-- An ordinary load takes its bytes from the L1, every word being valid (R263, R250). -/
def execL1Read (k l u : Nat) (s : State) : Out :=
  match accOf s k l u with
  | none => .next s
  | some a =>
    if !mayL1Read s l a then .next s
    else
      match l1Bytes (coreOfCord s a.cord) (opKeys s a.cord a.op) with
      | none => .next s
      | some bs => .next (takeL1 k l a bs s)

/-- The home decides the request at the head of a party's arrival queue; a request in a packet is decided where the packet arrives (R265,
R388). One for another module that has no packet, and that the local LLC cannot serve, leaves in one. -/
def execPerform (u : Nat) (s : State) : Out :=
  match s.arrivals.find? (·.uid == u) with
  | none => .next s
  | some r =>
    if r.addrs.any (fun a => (homeDie a).isNone) then .fault .noStorage
    else if (packetOf s r).isSome then .next s
    else if r.addrs.any (fun a => keyDev a != r.core.dev) && !(kindLoads r.kind && r.addrs.all (holderHas s r.core)) then .next (sendReq s r)
    else .next (performGroup s r)

/-- The word a full L1 gives up for a new one: one that a load with .l1ef allocated, else any (R15, R124, R250, log 2). -/
def l1Victim (s : State) (co : Core) : Option Nat × State :=
  match co.early.find? (fun w => (mget co.l1 w).isSome) with
  | some w => (some w, s)
  | none =>
    let (i, s) := choose s co.l1.length
    ((co.l1[i]?).map (·.1), s)

/-- The L1 of a core with words made valid; at 128 KiB a word leaves for each new one (R15, R250, R263). early says that the load has
.l1ef. -/
def l1Take (s : State) (c : Cord) (early : Bool) (ws : List (Nat × BitVec 32)) : State :=
  ws.foldl (fun s w =>
    let co := coreOfCord s c
    let (x, s) := if (mget co.l1 w.1).isNone && decide (32768 ≤ co.l1.length) then l1Victim s co else (none, s)
    modCoreOf s c (fun co => { co with
      l1 := mset (x.elim co.l1 (mdel co.l1)) w.1 w.2
      early := co.early.filter (fun y => y != w.1 && some y != x) ++ (if early then [w.1] else []) })) s

/-- The older loads of a common byte that a load was sent before take L1-READ at once, one after another: none where one of them cannot (R263,
R292, log 74). -/
def readPassed (k l : Nat) : List Nat → State → Option State
  | [], s => some s
  | u :: us, s =>
    match accOf s k l u with
    | none => none
    | some a =>
      match (if mayL1Read s l a then l1Bytes (coreOfCord s a.cord) (opKeys s a.cord a.op) else none) with
      | none => none
      | some bs => readPassed k l us (takeL1 k l a bs s)

/-- A load performed at the home makes the words it read valid in its core's L1, unless .l1na applies (R263, R250) or the reply is
dropped behind a failure (R352). One that was sent before older loads of a common byte fills it as they take L1-READ (log 74). -/
def execFill (k l u : Nat) (s : State) : Out :=
  match accOf s k l u with
  | none => .next s
  | some a =>
    let o := a.op
    if o.state == .performed && (o.kind == .load || o.kind == .refill) && !o.filled && !o.na && !behindFailure a then
      .next ((readPassed k l ((unreadBefore s a).map (·.uid))
        (l1Take (modOp s k l u (fun o => { o with filled := true })) a.cord (hintEarly o.hint) o.line)).getD s)
    else .next s

/-- A release-kind access takes its RELEASE step: every older access and fallible operation has settled (R264, R266, R350).
A release store takes it as it is performed. -/
def execRelease (k l u : Nat) (s : State) : Out :=
  match accOf s k l u with
  | none => .next s
  | some a =>
    let o := a.op
    if o.state == .unsent && kindReleases o.kind && o.kind != .relStore && !o.rel && !heldBack s l a then
      let p := partyOf a.cord l
      let s := releaseStep s p
      let s := if o.kind == .tkrel then
          let s := walkFor s (coreIdOf a.cord) a.cord.ctx o.va.toNat
          (transOf s (coreIdOf a.cord) a.cord.ctx o.va.toNat).elim s (fun e => giveUp s p (regionOf (entryKey e o.va.toNat)))
        else s
      .next (modOp s k l u (fun o => { o with rel := true }))
    else .next s

/-- An older load of the strand has not settled, or an older acquire has not completed (R264, R286). -/
def loadBefore (a : Acc) : Bool :=
  (olderOps a.st a.op.uid).any (fun p => !opDone a.now p && (kindReads p.kind || (kindAcquires p.kind && !p.acq)))

/-- The guard of ACQUIRE (R263, R264, R286). -/
def mayAcquire (a : Acc) : Bool :=
  let o := a.op
  !o.acq && !behindFailure a &&
  (((o.kind == .acqLoad || o.kind == .atomic) && o.state == .performed) ||
   (o.kind == .fenceAcq && o.state == .unsent && !loadBefore a) ||
   (o.kind == .fence && o.state == .unsent && o.rel && !loadBefore a))

/-- An acquire-kind access completes, dropping the L1 at quad scope or wider (R263, R269). -/
def execAcquire (k l u : Nat) (s : State) : Out :=
  match accOf s k l u with
  | none => .next s
  | some a =>
    if mayAcquire a then
      .next (modOp (acquireStep s (coreIdOf a.cord) a.op.scope) k l u (fun o => { o with acq := true }))
    else .next s

/-- An L1 drop drops the words of a region, or all (R263, R287); it needs no right, and an address with no translation drops
nothing. -/
def execDrop (k l u : Nat) (s : State) : Out :=
  match accOf s k l u with
  | none => .next s
  | some a =>
    let o := a.op
    if !(o.state == .unsent && (o.kind == .invl1 || o.kind == .invl1All)) || heldBack s l a then .next s
    else
      let s := modOp s k l u (fun o => { o with state := .settled })
      if o.kind == .invl1All then .next (dropL1 s (coreIdOf a.cord))
      else
        let s := walkFor s (coreIdOf a.cord) a.cord.ctx o.va.toNat
        .next ((transOf s (coreIdOf a.cord) a.cord.ctx o.va.toNat).elim s (fun e =>
          dropRegion s (coreIdOf a.cord) (regionOf (entryKey e o.va.toNat))))

/-- A valid L1 word becomes invalid at any time (R263). -/
def execEvict (c : CoreId) (w : Nat) (s : State) : Out :=
  .next (modCore s c.dev c.die c.core (fun x => { x with l1 := mdel x.l1 w }))

/-- The reply of a load has arrived: it is not one that R352 drops, since nothing older has failed or its FILL is taken. -/
def arrivedLoad (a : Acc) : Bool := a.op.filled || !(olderOps a.st a.op.uid).any (opFailed a.now)

/-- The guard of SETTLE (R263, R281, R282, R286, R288, R348); a load behind a failure does not settle when its reply is dropped (R352). -/
def maySettle (a : Acc) : Bool :=
  let o := a.op
  match o.kind with
  | .load | .obs | .refill => o.state == .performed && arrivedLoad a
  | .acqLoad => o.state == .performed && o.acq && arrivedLoad a
  | .store | .relStore | .spill => o.state == .performed
  | .atomic => o.state == .performed && o.acq
  | .fenceAcq => o.state == .unsent && o.acq
  | .fenceRel | .tkrel => o.state == .unsent && o.rel
  | .fence => o.state == .unsent && o.rel && o.acq
  | .invl1 | .invl1All | .engine | .flag => false

/-- What a settling access does to its strand (R149, R148): loads and atomics deliver their destination, and a refill completes its ret.
An amo.add.f has raised its flags with its reply (applyReply). -/
def settleEffect (k l : Nat) (a : Acc) (s : State) : State :=
  let o := a.op
  match o.kind with
  | .load | .obs | .acqLoad | .atomic =>
    deliver s k l o.uid (loadWrites o.szc o.dst (gotBytes o))
  | .refill => modStrand s k l (fun st => { st with
      pc := wordAlign (BitVec.ofNat 64 (leNat (gotBytes o)))
      csp := st.csp + 8
      wait := .none
      ready := max st.ready (a.now + 1) })
  | .store | .relStore | .spill | .fenceAcq | .fenceRel | .fence | .tkrel | .invl1 | .invl1All | .engine | .flag => s

/-- A load that was sent before an older one of a common byte: that one has read nothing, so what this one was performed with is not taken, it
leaves the arbiter order, and the load is unsent again, behind the older one (R292; DEDUCED, log 74). -/
def sendAgain (k l : Nat) (a : Acc) (s : State) : State :=
  let o := a.op
  let s := modOp s k l o.uid (fun o => { o with state := .unsent, left := 0, got := [], line := [], home := [] })
  let mine := (opPieces o).map (fun offs => offs.filterMap (fun i => o.home[i]?))
  { s with
    loads := s.loads.filter (fun x => !(x.1 == o.grp && o.home.contains x.2.1))
    order := mine.foldl (fun m as => mmod m (regionOf (as.headD 0)) (fun ps =>
      (ps.reverse.erase ⟨o.kind, some (partyOf a.cord l), as⟩).reverse)) s.order }

/-- An access settles as a success (R348). -/
def execSettle (k l u : Nat) (s : State) : Out :=
  match accOf s k l u with
  | none => .next s
  | some a =>
    if !maySettle a then .next s
    else if loadSent a.op && !(unreadBefore s a).isEmpty then .next (sendAgain k l a s)
    else .next (mshrLeave (settleEffect k l a (modOp s k l u (fun o => { o with state := .settled }))) a.cord u)

/-! ### Translation -/

/-- A TLB miss walks the table (R241). -/
def execTableWalk (c : CoreId) (ctx : Nat) (va : BitVec 64) (s : State) : Out := .next (walkFor s c ctx va.toNat)

/-- Glesko drops the TLB entries of a context; frames moved away become FREE (R244, R245). -/
def execTlbShootdown (ctx : Nat) (s : State) : Out := .next (shootdown s ctx)

/-! ### Tables and frames no context reaches -/

/-- The DPAs a context's tables may take on a module, from the root: first, and one past the last (log 15). -/
def tableSpan (x : Context) (dev : Nat) : Nat × Nat :=
  match x.roots.find? (·.1 == dev) with
  | some r => (r.2.1, r.2.1 + 2 ^ 16 * ((mget x.room dev).getD 0 + 1))
  | none => (0, 0)

/-- The bytes of the record and save area of one cord (log 13). -/
def areaStride : Nat := 2 ^ 27

/-- The DPAs of a module that are the stewards' own, each range first and one past the last: tables (R258), path pages (R403), record
areas (R178) and queue memory (R202). -/
def stewardSpans (s : State) (dev : Nat) : List (Nat × Nat) :=
  s.contexts.flatMap (fun p =>
    (p.2.roots.filter (·.1 == dev)).flatMap (fun r => [tableSpan p.2 dev, (r.2.2, r.2.2 + 2 ^ 16)]) ++
    (p.2.graphs.filter (·.dev == dev)).flatMap (fun g => g.allocs.flatMap (fun al =>
      (al.areas, al.areas + al.slices * areaStride) :: al.pages.map (fun q => (q.2.1, q.2.1 + 2 ^ 16)))))

/-- The frame is the stewards' own: no request of a context maps it, and it is not migrated. -/
def reservedFrame (s : State) (frame : Nat) : Bool :=
  let a := keyDpa (frame * 2 ^ 16)
  (stewardSpans s (keyDev (frame * 2 ^ 16))).any (fun p => decide (p.1 ≤ a) && decide (a < p.2))

/-- The frame stands in the export table of its module (R387). -/
def exportedFrame (s : State) (frame : Nat) : Bool :=
  (mget s.modules (keyDev (frame * 2 ^ 16))).any (fun m => m.exports.any (fun e => e.frame == keyDpa (frame * 2 ^ 16) / 2 ^ 16))

/-- The valid leaves of a context's tables on a module, each with the DPA of its entry. -/
def leavesOf (s : State) (x : Context) (dev : Nat) : List (Nat × BitVec 64) :=
  let t := tableSpan x dev
  let as := (s.mem.filter (fun c => decide (byteKey dev t.1 ≤ c.1) && decide (c.1 < byteKey dev t.2))).map (fun c => keyDpa c.1 / 8 * 8)
  (as.eraseDups.map (fun a => (a, tableEntry s.mem dev a))).filter (fun p => p.2.getLsbD 0 && p.2.getLsbD 1)

/-- The frames a leaf names (R240, R243). -/
def leafFrames (e : BitVec 64) : List Nat := pageFrames (byteKey (bitsOf e 46 10) (bitsOf e 22 24 * 2 ^ 16)) (e.getLsbD 5)

/-- A leaf of some context pins the frame on its own module (R240, R387). -/
def framePinned (s : State) (dev frame : Nat) : Bool :=
  s.contexts.any (fun p => (leavesOf s p.2 dev).any (fun l => l.2.getLsbD 8 && (leafFrames l.2).contains frame))

/-- A frame is being moved: a request that names it waits (R245). -/
def movingFrames (s : State) (fs : List Nat) : Bool := s.moves.any (fun m => fs.contains m.old || fs.contains m.new_)

/-- The leaf of a page of a context may be migrated to a frame: a 64 KiB GDDR7 page that no leaf pins, not exported (R387), no table and
no queue memory, and a free frame of another partition of the module that is not the stewards' own (R245). -/
def mayMove (s : State) (ctx dev va old frame : Nat) (e : BitVec 64) (big : Bool) : Bool :=
  isLeaf e big && !big && !e.getLsbD 8 && bitsOf e 46 10 == dev && old % 2 ^ 24 < 2 ^ 22 && frame / 2 ^ 24 == dev &&
  frame % 2 ^ 24 < 2 ^ 22 && frame % 2 ^ 24 / 2 ^ 20 != old % 2 ^ 24 / 2 ^ 20 &&
  !reservedFrame s old && !reservedFrame s frame && !exportedFrame s old && !framePinned s dev old &&
  (frameOf s (frame * 2 ^ 16)).state == .free && !movingFrames s [old, frame] &&
  !((ctxOf s ctx).graphs.any (fun g => g.allocs.any (fun al => al.pages.any (fun p => p.1 == va / 2 ^ 16 * 2 ^ 16))))

/-- The contents, token records and poison of a frame are copied (R245, R275). -/
def copyFrame (s : State) (old new : Nat) : State :=
  let o := old * 2 ^ 16
  let n := new * 2 ^ 16
  let inOld (a : Nat) : Bool := a / 2 ^ 16 == old
  let keep := s.mem.filter (fun p => p.1 / 2 ^ 16 != new)
  { s with
    mem := (s.mem.filter (fun p => inOld p.1)).foldl (fun m p => writeCell m (p.1 - o + n) p.2) keep
    tokens := (s.tokens.filter (fun p => inOld p.1)).foldl (fun m p => mset m (p.1 - o + n) p.2)
      (s.tokens.filter (fun p => p.1 / 2 ^ 16 != new))
    poison := s.poison.filter (fun w => w * 8 / 2 ^ 16 != new) ++
      (s.poison.filter (fun w => inOld (w * 8))).map (fun w => w - o / 8 + n / 8) }

/-- The module whose tables map a page that is being moved: the one of its frame. -/
def moveDev (frame : Nat) : Nat := frame / 2 ^ 24

/-- The first step of a move: once every sent request to the frame is drained, the home holds what comes after (R243, R245, R275). -/
def moveHold (m : Migration) (s : State) : State :=
  let s := drainFrames s [m.old]
  if undrained s [m.old] then s
  else
    { modFrames s [m.old] (fun f => { f with state := .moving }) with
      moves := s.moves.map (fun x => if x == m then { x with step := 1 } else x) }

/-- The next step of a migration (R245): the new frame is taken as it begins. -/
def execMigration (ctx : Nat) (va : BitVec 64) (frame : Nat) (s : State) : Out :=
  match s.moves.find? (fun m => m.ctx == ctx && m.va == va && m.step < 4) with
  | none =>
    let dev := moveDev frame
    match leafOf s ctx dev va.toNat with
    | none => .next s
    | some (_, e, big) =>
      let old := byteKey (bitsOf e 46 10) (bitsOf e 22 24 * 2 ^ 16) / 2 ^ 16
      if mayMove s ctx dev va.toNat old frame e big then
        let m : Migration := ⟨ctx, va, old, frame, 0⟩
        .next (moveHold m { s with moves := s.moves ++ [m] })
      else .next s
  | some m =>
    let up (s : State) : State := { s with moves := s.moves.map (fun x => if x == m then { x with step := x.step + 1 } else x) }
    let g := (frameOf s (m.old * 2 ^ 16)).gen
    if m.step == 0 then .next (moveHold m s)
    else if m.step == 1 then
      .next (up (modFrames (copyFrame s m.old m.new_) [m.new_] (fun _ => ⟨g + 1, .valid, true⟩)))
    else if m.step == 2 then
      match leafOf s ctx (moveDev m.new_) va.toNat with
      | none => .next s
      | some (at_, e, _) =>
        let pfn := BitVec.ofNat 64 (m.new_ % 2 ^ 24 * 2 ^ 22)
        let e := (e &&& 0x00FFC000003FFFFF#64) ||| pfn ||| (BitVec.ofNat 64 ((g + 1).toNat) <<< 56)
        .next (up (setEntry s (moveDev m.new_) at_ e))
    else .next (advanced (up (modFrames s [m.old] (fun f => { f with gen := f.gen + 1, state := .moved }))) ctx [m.old])

/-! ### The base die -/

/-- Change a port of a base die. -/
def modPort (s : State) (p : PortId) (f : Port → Port) : State :=
  modDie s p.dev p.die (fun d => { d with ports := mset d.ports p.port (f ((mget d.ports p.port).getD ⟨[], []⟩)) })

/-- A sent packet of a port. -/
def portPacket (s : State) (p : PortId) (tag : Nat) : Option PPkt :=
  ((mget (dieOf s p.dev p.die).ports p.port).getD ⟨[], []⟩).sent.find? (·.tag == tag)

/-- The aligned 8-byte words of a packet. -/
def packetWords (q : PPkt) : List Nat := (q.bytes.map (fun b => b.1 / 8)).eraseDups

/-- The base die serves a READ packet; the values it returns are the home's, and SEC-DED was decided as the access missed the LLC
(R255, R256, log 8). -/
def execReadPacket (p : PortId) (tag : Nat) (s : State) : Out :=
  match portPacket s p tag with
  | none => .next s
  | some q =>
    if !q.read || q.served then .next s
    else
      .next (modPort s p (fun x => { x with sent := x.sent.map (fun y =>
        if y.tag == tag then { y with served := true, poison := (packetWords q).any s.poison.contains } else y) }))

/-- An older WRITE of the port to a word of the packet has not been performed (R255). -/
def olderWrite (s : State) (p : PortId) (q : PPkt) : Bool :=
  ((((mget (dieOf s p.dev p.die).ports p.port).getD ⟨[], []⟩).sent.takeWhile (fun y => y.tag != q.tag)).any (fun y =>
    !y.read && !y.served && (packetWords y).any (packetWords q).contains))

/-- The base die performs a WRITE packet: WRITEs of one word in arrival order, a part word by read-modify-write (R255, R256). -/
def execWritePacket (p : PortId) (tag : Nat) (s : State) : Out :=
  match portPacket s p tag with
  | none => .next s
  | some q =>
    if q.read || q.served || olderWrite s p q then .next s
    else
      let whole := wholeWords (q.bytes.map (·.1))
      let part := (packetWords q).filter (fun w => !whole.contains w)
      .next (modPort s p (fun x => { x with sent := x.sent.map (fun y =>
        if y.tag == tag then { y with served := true, poison := part.any s.poison.contains } else y) }))

/-- A reply frees its tag, and the first waiting packet takes it (R254). -/
def execPortReply (p : PortId) (tag : Nat) (s : State) : Out :=
  match portPacket s p tag with
  | none => .next s
  | some q =>
    if !q.served then .next s
    else .next (modPort s p (fun x => portSend { x with sent := x.sent.filter (fun y => y.tag != tag) }))

/-! ### Windows -/

/-- A bank group is due to enter its refresh window (R253). -/
def refreshDue (d : Die) (g : Nat) : Bool := decide (g < 8) && !d.refAct.getLsbD g && d.cyc % 4096 == 512 * g

/-- A bank group is due to leave its refresh window (R253). -/
def refreshOver (d : Die) (g : Nat) : Bool := decide (g < 8) && d.refAct.getLsbD g && decide (d.refEnd[g]?.getD 0 ≤ d.cyc)

/-- A bank group enters its refresh window, of 128 cycles while the base die reads above 85 degrees, else 64 (R253). -/
def execRefreshWindowStart (dev die g : Nat) (s : State) : Out :=
  if refreshDue (dieOf s dev die) g then
    .next (modDie s dev die (fun d =>
      let long := decide (85 < d.sensors.baseT)
      let bit : BitVec 8 := BitVec.ofNat 8 (2 ^ g)
      { d with
        refAct := d.refAct ||| bit
        refLong := if long then d.refLong ||| bit else d.refLong &&& ~~~bit
        refEnd := d.refEnd.setIfInBounds g (d.cyc + if long then 128 else 64) }))
  else .next s

/-- A refresh window ends (R253). -/
def execRefreshWindowEnd (dev die g : Nat) (s : State) : Out :=
  if refreshOver (dieOf s dev die) g then
    .next (modDie s dev die (fun d => { d with refAct := d.refAct &&& ~~~(BitVec.ofNat 8 (2 ^ g)) }))
  else .next s

/-- A lease range of a context on a module maps to a byte of a DPA range of the module (R252). -/
def leaseHits (s : State) (ctx dev : Nat) (l : Lease) (w : Window) : Bool :=
  (List.range ((l.hi + 65535) / 65536 - l.lo / 65536)).any (fun i =>
    match walk s ctx dev ((l.lo / 65536 + i) * 65536) with
    | none => false
    | some e =>
      let p := e.dpa + ((l.lo / 65536 + i) * 65536 - e.base)
      e.dev == dev && decide (p < w.hi) && decide (w.lo < p + 65536))

/-- A node's leases reach a page of a window (R252). -/
def nodeHits (s : State) (ctx dev : Nat) (ls : List Lease) (w : Window) : Bool := ls.any (fun l => leaseHits s ctx dev l w)

/-- A cord of the window's module, running, queued or saved, leases a page of it (R252, R430). Cords of other modules, which reach the page by
an export, are not bound to it (DESIGN CHOICE, log 93). -/
def windowBusy (s : State) (dev : Nat) (w : Window) : Bool :=
  s.cords.any (fun p => p.2.dev == dev && nodeHits s p.2.ctx dev p.2.hdr.leases w) ||
  ((mget s.modules dev).any (fun m => m.dies.toList.any (fun d => d.cores.any (fun q => q.2.slots.toList.any (fun e =>
    match e with
    | .bound b (some t) _ =>
      let x := ctxOf s b.ctx.toNat
      (x.batts.find? (·.id == t)).any (fun bt => (nodeOf x bt.graph bt.node).any (fun h => nodeHits s b.ctx.toNat dev h.leases w))
    | _ => false)))))

/-- A requested write window opens once no cord leasing its pages is bound (R252, R430). -/
def execWriteWindowOpens (dev win : Nat) (s : State) : Out :=
  match (mget s.modules dev).bind (fun m => m.windows.find? (·.id == win)) with
  | none => .next s
  | some w =>
    if w.open_ || windowBusy s dev w then .next s
    else .next { s with modules := mmod s.modules dev (fun m =>
      { m with windows := m.windows.map (fun v => if v.id == win then { v with open_ := true } else v) }) }

end Sys2Proof.Machine
end

