-- ==== Sys2Proof/Machine/Parallel.lean ====
section
/-!
DEFINITION. The words that join strands: xlm, vote, red, scan, elect, bar, barcfg, cvset and phase
(spec/07_parallel_execution.md R168 to R177, spec/08_parallel_instructions.md R184 to R196).
-/
namespace Sys2Proof.Machine

/-- The count of a kind after the increment (R169). -/
def nextCount (h : Here) (kind : Nat) : BitVec 16 := (h.st.sync[kind]?.getD 0) + 1

/-- The instance a strand's word would join: the one of its kind and count that is not yet complete (R169). A strand that comes to a
count whose instance, under another mask, has completed without it forms a new one and meets no mismatch (DESIGN CHOICE between R169,
R170 and R193, log 60). The words of the compatible handler form instances of their own (R376). -/
def joined (h : Here) (kind : Nat) : Option Inst :=
  if laneP2 h.cord h.sel.lane then none
  else h.cord.insts.find? (fun x => x.kind == kind && x.count == nextCount h kind && !laneP2 h.cord x.first)

/-- DETAIL of a membership or sign mismatch that no other strand gave (R354). -/
def ownDetail (h : Here) : BitVec 64 := BitVec.ofNat 64 (64 + h.sel.lane)

/-- Bits 26:0 of the word (R170). -/
def word27 (s : State) (h : Here) (i : Instr) : BitVec 27 := (wordOf s h i).extractLsb' 0 27

/-- The membership checks of R170: the own lane in the mask, and the mask and word of the first arriver. -/
def arriveFault (i : Instr) (kind : Nat) (mask : Here → BitVec 64) (h : Here) (s : State) : Option PFault :=
  if !laneIn (mask h) h.sel.lane then some (faultHere s h i 4 0 (ownDetail h))
  else
    match joined h kind with
    | none => none
    | some x =>
      if x.mask != mask h || x.word != word27 s h i then some (faultHere s h i 4 0 (BitVec.ofNat 64 x.first)) else none

/-- A strand arrives at its instance: the count advances, and it joins the instance or forms it (R169, R170). -/
def arrive (i : Instr) (kind : Nat) (mask : BitVec 64) (a : Arrival) (h : Here) (s : State) : State :=
  let s := modHere s h (fun st => { st with sync := st.sync.setIfInBounds kind (nextCount h kind) })
  match joined h kind with
  | some x =>
    let x := { x with arr := x.arr ++ [a] }
    finishInst (modHereCord s h (fun c => { c with insts := c.insts.map (fun y => if y.uid == x.uid then x else y) })) h.sel.cord x
  | none =>
    let (u, s) := freshUid s
    let x : Inst := ⟨u, kind, nextCount h kind, mask, word27 s h i, h.sel.lane, h.sel.br, h.now, [a]⟩
    finishInst (modHereCord s h (fun c => { c with insts := c.insts ++ [x] })) h.sel.cord x

/-- What a strand leaves at an instance: nothing but its lane and where the word stands. -/
def bareArrival (i : Instr) (h : Here) (s : State) : Arrival where
  lane := h.sel.lane
  x := 0
  y := 0
  pr := false
  d := 0
  mod_ := hintMode h.st.hint
  ftz := ftzOf h.st
  pd := none
  uid := 0
  pc := pcOf h.st
  word := wordOf s h i
  hint := if (hintKind h.st.hint).toNat < 4 then h.st.hint else 0
  redo := !h.st.rerun.isEmpty

/-- The names of the arrivals at the instance a word joins: what they hold of the uniform registers is the instance's own
destination, which the arriving members share (R189). -/
def arrivedNames (h : Here) (kind : Nat) : List Nat :=
  match joined h kind with
  | some x => x.arr.map (·.uid)
  | none => []

/-- A cross-lane word (R185, R187): the inputs are given at the arrival, and the destinations are held until the instance
completes. can is what a floating reduction may raise. -/
def crossWord (i : Instr) (g : Guard) (reads writes : List Reg) (mask : Here → BitVec 64) (can : Flags)
    (f : Here → Arrival → Arrival) (s : State) : Out :=
  runWord i g (fun h _ => { reads := reads, writes := writes, lat := 0, fallible := flagFallible h can, mine := arrivedNames h 0 })
    (arriveFault i 0 mask) plainLeave
    (fun h s =>
      let u := s.uid
      let s := if flagFallible h can then pushOp s h i true { blankOp with kind := .flag, state := .sent } else { s with uid := s.uid + 1 }
      let s := holdRegs s h u writes
      arrive i 0 (mask h) (f h { bareArrival i h s with uid := u }) h s) s

/-- The predicate destination hint ext gives xlm: e[3] = 1, pd = e[2:0] (R123, R188). -/
def xlmPred (hint : BitVec 32) : Option (BitVec 3) :=
  match hintExtension hint with
  | some e => if e.getLsbD 3 then some (e.extractLsb' 0 3) else none
  | none => none

/-- The registers of a predicate destination that is known only at issue. -/
def xlmRegs (h : Here) (d : BitVec 7) : List Reg :=
  .v d :: (match xlmPred h.st.hint with | some p => [.p p] | none => [])

/-- A cross-lane move (R188): selector and result in V[d], value in V[a]. -/
def xlmWord (i : Instr) (g : Guard) (d a : BitVec 7) (m : BitVec 5) (s : State) : Out :=
  let mask (h : Here) : BitVec 64 := rdS h.cord (m.zeroExtend 6)
  runWord i g (fun h _ => { reads := [.v a, .v d, .s (m.zeroExtend 6)], writes := xlmRegs h d, lat := 0 })
    (arriveFault i 0 mask) plainLeave
    (fun h s =>
      let u := s.uid
      let s := holdRegs { s with uid := s.uid + 1 } h u (xlmRegs h d)
      arrive i 0 (mask h) { bareArrival i h s with
        uid := u
        x := rdV h.st a
        y := rdV h.st d
        d := d
        pd := xlmPred h.st.hint } h s) s

/-- From the member on the selected lane (R188). -/
def execXlmIdx (g : Guard) (d a : BitVec 7) (m : BitVec 5) (s : State) : Out := xlmWord (.xlmIdx g d a m) g d a m s

/-- From the member on the lane exclusive or the selector (R188). -/
def execXlmXor (g : Guard) (d a : BitVec 7) (m : BitVec 5) (s : State) : Out := xlmWord (.xlmXor g d a m) g d a m s

/-- From the member that many lanes below (R188). -/
def execXlmUp (g : Guard) (d a : BitVec 7) (m : BitVec 5) (s : State) : Out := xlmWord (.xlmUp g d a m) g d a m s

/-- From the member that many lanes above (R188). -/
def execXlmDn (g : Guard) (d a : BitVec 7) (m : BitVec 5) (s : State) : Out := xlmWord (.xlmDn g d a m) g d a m s

/-- The flags a reduction can raise: those of fadd, fmin and fmax (R190, R46). -/
def redCan (o : BitVec 5) : Flags :=
  if o == 1#5 then NV ||| OF ||| UF ||| NX else if o == 6#5 || o == 7#5 then NV else 0

/-- The operand a member gives a reduction: flushed under its own FTZ in the floating ops (R190). -/
def redInput (o : BitVec 5) (h : Here) (d : BitVec 7) : BitVec 32 :=
  let x := rdV h.st d
  if redCan o == 0#5 then x else BitVec.ofNat 32 (flushIn fp32 (ftzOf h.st) x.toNat)

/-- A reduction or scan of V[d] over the members (R190, R191). -/
def redWord (i : Instr) (g : Guard) (d a : BitVec 7) (o : BitVec 5) (s : State) : Out :=
  crossWord i g [.v d, .s (sReg a)] [.v d] (fun h => rdS h.cord (sReg a)) (redCan o)
    (fun h r => { r with x := redInput o h d, d := d }) s

/-- Reduction (R190). -/
def execRed (g : Guard) (d a : BitVec 7) (o : BitVec 5) (s : State) : Out := redWord (.red g d a o) g d a o s

/-- Inclusive scan (R190). -/
def execScan (g : Guard) (d a : BitVec 7) (o : BitVec 5) (s : State) : Out := redWord (.scan g d a o) g d a o s

/-- Exclusive scan (R190). -/
def execScanExcl (g : Guard) (d a : BitVec 7) (o : BitVec 5) (s : State) : Out := redWord (.scanExcl g d a o) g d a o s

/-- Elect the lowest arrived member (R192). -/
def execElect (g : Guard) (d a : BitVec 7) (s : State) : Out :=
  crossWord (.elect g d a) g [.s (sReg a)] [.p (pReg d)] (fun h => rdS h.cord (sReg a)) 0 (fun _ r => { r with d := d }) s

/-- A vote on a predicate (R189). -/
def voteWord (i : Instr) (g : Guard) (writes : List Reg) (d a : BitVec 7) (x : BitVec 3) (s : State) : Out :=
  crossWord i g ((if x == 7#3 then [] else [.p x]) ++ [.s (sReg a)]) writes (fun h => rdS h.cord (sReg a)) 0
    (fun h r => { r with pr := rdP h.st x, d := d }) s

/-- Whether any member's predicate is true (R189). -/
def execVoteAny (g : Guard) (d a : BitVec 7) (x : BitVec 3) (s : State) : Out :=
  voteWord (.voteAny g d a x) g [.p (pReg d)] d a x s

/-- Whether every member's predicate is true (R189). -/
def execVoteAll (g : Guard) (d a : BitVec 7) (x : BitVec 3) (s : State) : Out :=
  voteWord (.voteAll g d a x) g [.p (pReg d)] d a x s

/-- The mask of the members whose predicate is true (R189). -/
def execVoteBallot (g : Guard) (d a : BitVec 7) (x : BitVec 3) (s : State) : Out :=
  voteWord (.voteBallot g d a x) g [.s (sReg d)] d a x s

/-! ### Signer sets and barrier settings -/

/-- The write of a strand's word to a setting applies by R159: once for a braid, and of two braids of one cycle the one
whose lowest lane is the higher, with equal lowest lanes the braid executed second (DESIGN CHOICE, log 52). -/
def onceApplies (h : Here) (key : Nat) : Bool :=
  match h.cord.onces.find? (·.key == key) with
  | none => true
  | some o => o.cyc != h.now || (o.br != h.sel.br && decide (o.lo ≤ h.sel.lo))

/-- A setting written once by R159. -/
def onceWrite (h : Here) (key : Nat) (f : Cord → Cord) (s : State) : State :=
  if onceApplies h key then
    modHereCord s h (fun c => { f c with onces := c.onces.filter (·.key != key) ++ [⟨key, h.now, h.sel.br, h.sel.lo⟩] })
  else s

/-- The convergence register cN. -/
def convOf (c : Cord) (n : Nat) : Conv := c.conv[n]?.getD ⟨0, 0, 0, 0, 0, 0, 0, []⟩

/-- The signer set a cvset names (R174). -/
def newSigners (h : Here) (a : BitVec 7) : BitVec 64 := rdS h.cord (sReg a) &&& h.cord.lanes

/-- Set a signer set (R174). -/
def execCvset (g : Guard) (d a : BitVec 7) (s : State) : Out :=
  let n := d.toNat % 8
  runWord (.cvset g d a) g (fun _ _ => { reads := [.s (sReg a)] })
    (fun h s =>
      let v := convOf h.cord n
      if v.signed != 0 && newSigners h a != v.signers then some (faultHere s h (.cvset g d a) 5 0 (ownDetail h)) else none)
    plainLeave
    (fun h s =>
      let v := convOf h.cord n
      if v.signed != 0 then s
      else onceWrite h (8 + n) (fun c => { c with conv := c.conv.setIfInBounds n { v with signers := newSigners h a, round := 0 } }) s) s

/-- The reserved bits of a barcfg value (R194). -/
def barcfgReserved (v : BitVec 64) : Bool := bitsOf v 32 32 != 0 || bitsOf v 12 4 != 0

/-- The cord after a barcfg: its setting for the scope, and the groups it has been configured in (R194, R195). -/
def setBarcfg (kind : Nat) (v : BitVec 64) (c : Cord) : Cord :=
  let e := (kind, scopeInst c kind, cfgGroup v, 0)
  { c with
    barcfg := c.barcfg.setIfInBounds (kind - 1) v
    groups := if cfgCount v == 0 then c.groups.filter (·.1 != kind)
      else if c.groups.contains e then c.groups else c.groups ++ [e] }

/-- Set the cord's barrier group for a scope; scope core has no effect (R194). -/
def execBarcfg (g : Guard) (a : BitVec 7) (k : BitVec 3) (s : State) : Out :=
  runWord (.barcfg g a k) g (fun _ _ => { reads := [.s (sReg a)] })
    (fun h s =>
      if k != 1#3 && barcfgReserved (rdS h.cord (sReg a)) then some (faultHere s h (.barcfg g a k) 4 0 (ownDetail h)) else none)
    plainLeave
    (fun h s => if k == 1#3 then s else onceWrite h k.toNat (setBarcfg k.toNat (rdS h.cord (sReg a))) s) s

/-- A barrier of a scope (R193). -/
def execBar (g : Guard) (a : BitVec 7) (k : BitVec 3) (s : State) : Out :=
  let mask (h : Here) : BitVec 64 := rdS h.cord (sReg a)
  runWord (.bar g a k) g (fun _ _ => { reads := [.s (sReg a)], lat := 0 }) (arriveFault (.bar g a k) k.toNat mask) plainLeave
    (fun h s =>
      let s := modHere s h (fun st => { st with wait := .bar k.toNat })
      arrive (.bar g a k) k.toNat (mask h) (bareArrival (.bar g a k) h s) h s) s

/-- phase in handler mode, or with a mask that is not the cord's lane mask, is a membership mismatch (R176, R196). -/
def phaseFault (i : Instr) (mask : Here → BitVec 64) (h : Here) (s : State) : Option PFault :=
  if h.st.stat.getLsbD 3 then some (faultHere s h i 4 0 (ownDetail h))
  else
    match arriveFault i 6 mask h s with
    | some f => some f
    | none => if mask h != h.cord.lanes then some (faultHere s h i 4 0 (ownDetail h)) else none

/-- Arrive at the phase instance; the cord ends its phase by PHASE_END (R176, R177, R196). -/
def execPhase (g : Guard) (a : BitVec 7) (s : State) : Out :=
  let mask (h : Here) : BitVec 64 := rdS h.cord (sReg a)
  runWord (.phase g a) g (fun _ _ => { reads := [.s (sReg a)], lat := 0 }) (phaseFault (.phase g a) mask) plainLeave
    (fun h s =>
      let s := modHere s h (fun st => { st with wait := .phase })
      arrive (.phase g a) 6 (mask h) (bareArrival (.phase g a) h s) h s) s

end Sys2Proof.Machine
end

