-- ==== Sys2Proof/Machine/Copies.lean ====
section
/-!
DEFINITION. The copy engine: tdef, tcopy, tld and tst (spec/18_engine_instructions.md R318 to R328), what an engine access
to global memory is (spec/17_async_engines.md R298), and the landing of chunks (R300, R302).
-/
namespace Sys2Proof.Machine

/-! ### Engine accesses -/

/-- The translation of a byte of an engine access under its rights: a cause, or the home byte (R298, R242, R243). -/
def engineKey (s : State) (c : Cord) (n : Need) (va : Nat) : Nat ⊕ Nat :=
  match liveTrans s (coreIdOf c) c.ctx va with
  | none => .inl 9
  | some e =>
    let a := entryKey e va
    if (n.r && !e.r) || (n.w && !e.w) || (n.w && isWeight a && (n.atomic || !windowOpenFor s c.ctx a)) then .inl 10 else .inr a

/-- DETAIL of cause 21 (R396): the target module; bit 0 reached, bit 1 link down, bit 2 refused. -/
def deliveryDetail (dev : Nat) (reached down refused : Bool) : BitVec 64 :=
  BitVec.ofNat 64 (dev * 2 ^ 16 + (if reached then 1 else 0) + (if down then 2 else 0) + (if refused then 4 else 0))

/-- What is wrong with a byte of an engine access before it is performed, with its DETAIL (R298); else its home byte. -/
def engineByte (s : State) (c : Cord) (n : Need) (va : Nat) : (Nat × BitVec 64) ⊕ Nat :=
  match engineKey s c n va with
  | .inl f => .inl (f, 0)
  | .inr a => .inr a

/-- The generation of the translation of a byte. -/
def genAt (s : State) (c : Cord) (va : Nat) : BitVec 8 := (liveTrans s (coreIdOf c) c.ctx va).elim 0 (·.gen)

/-- The cord's die serves a byte an engine reads without a request to another module. -/
def engineNear (s : State) (c : Cord) (va a : Nat) : Bool := nearByte s (coreIdOf c) (genAt s c va) a

/-- What an engine operation reads at a byte, as an observing load (R298, R265, R256): a cause with its DETAIL, or the byte; one of another
module is what its request brought (R388). -/
def engineRead (s : State) (c : Cord) (e : EOp) (va : Nat) : (Nat × BitVec 64) ⊕ BitVec 8 :=
  match engineByte s c { r := true } va with
  | .inl f => .inl f
  | .inr a =>
    if engineNear s c va a then
      if (tokenOf s a).mark == .stale then .inl (12, mmDetail 3 none)
      else if poisoned s a then .inl (11, 0)
      else .inr (readCell s.mem a)
    else
      match e.got.find? (·.va == va) with
      | some b => if b.cause == 0 then .inr b.val else .inl (b.cause, b.detail)
      | none => .inl (21, deliveryDetail (keyDev a) false false false)

/-- A byte an engine must wait for before its own die or module performs the access: its frame is being moved, its weight-store group
refreshes, or a holder the write invalidates is out of reach (R243, R253, R385). -/
def engineWaits (s : State) (c : Cord) (va : Nat) (read : Bool) : Bool :=
  frameMoving s (coreIdOf c) c.ctx va ||
  (match engineKey s c { r := read, w := !read } va with
   | .inr a => keyDev a == c.dev && (if read then refreshing s [a] else holderHangs s (coreIdOf c) [a])
   | .inl _ => false)

/-- The core walks again for every page of an engine access that its TLB lacks or whose home would refuse it (R241, R243). -/
def engineTrans (s : State) (c : Cord) (vas : List Nat) : State :=
  ((vas.splitBy (fun x y => x / 2 ^ 16 == y / 2 ^ 16)).map (·.headD 0)).foldl (fun s va => freshTrans s (coreIdOf c) c.ctx va) s

/-- The homes of the bytes an engine reads on its own module, and its die's LLC for those it holds of others, perform the reads, region by
region: the arbiter's order, the LLCs, SEC-DED (R251, R256, R261, R298, R383). -/
def engineTouch (s : State) (c : Cord) (hint : BitVec 32) (vas : List Nat) : State :=
  let s := engineTrans s c vas
  let as := vas.filterMap (fun va => match engineByte s c { r := true } va with
    | .inr a => if engineNear s c va a then some a else none
    | .inl _ => none)
  (as.splitBy (fun x y => regionOf x == regionOf y)).foldl (fun s g =>
    directoryRead (homeRead (arbitrate s .engine none g) hint (g.filter (fun a => !holderHas s (coreIdOf c) a))) (coreIdOf c) hint g) s

/-- Write bytes at their homes as a synchronising write that no L1 takes, region by region (R298, R265); answers the first
byte of a poisoned word that was written in part. -/
def engineWrite (s : State) (core : CoreId) (hint : BitVec 32) (bs : List (Nat × BitVec 8)) : State × Option Nat :=
  (bs.map (fun b => regionOf b.1)).eraseDups.foldl (fun r g =>
    let part := bs.filter (fun b => regionOf b.1 == g)
    let (s, bad) := homeWrite (arbitrate r.1 .engine none (part.map (·.1))) ⟨none, .none, 0⟩ hint [] [] (part.map (·.1)) (part.map (·.2))
    (directoryWrite s core (part.map (·.1)), match r.2 with | some x => some x | none => bad)) (s, none)

/-! ### Requests of an engine to other modules -/

/-- A request of an engine operation. -/
def enginePkt (p : Packet) : Bool :=
  match p.payload with
  | .engine _ _ _ _ _ _ => true
  | .req _ | .arrival _ _ _ _ _ _ _ _ | .ether _ _ _ _ _ | .fetch _ _ _ _ => false

/-- A request of a piece of an engine operation is under way. -/
def pieceBusy (s : State) (k u n : Nat) : Bool := s.packets.any (fun p => p.cord == k && p.op == u && p.chunk == n && enginePkt p)

/-- The bytes among some addresses that an operation still has to fetch from another module: address, home byte, generation (R383,
R388). -/
def missingBytes (s : State) (c : Cord) (e : EOp) (vas : List Nat) : List (Nat × Nat × BitVec 8) :=
  vas.eraseDups.filterMap (fun va => match engineKey s c { r := true } va with
    | .inr a => if engineNear s c va a || e.got.any (·.va == va) then none else some (va, a, genAt s c va)
    | .inl _ => none)

/-- Bytes of one region under one generation. -/
def oneRequest (x y : Nat × Nat × BitVec 8) : Bool := regionOf x.2.1 == regionOf y.2.1 && x.2.2 == y.2.2

/-- Requests for some bytes leave for their modules, one a region (R246, R388); none over a plane that is being retired (R391). -/
def askBytes (s : State) (k : Nat) (c : Cord) (e : EOp) (n : Nat) (ms : List (Nat × Nat × BitVec 8)) : State :=
  if ms.any (fun m => planeRetiring s c.dev m.2.1) then s
  else
    (ms.splitBy oneRequest).foldl (fun s g =>
      let x := g.headD (0, 0, 0)
      sendPacket s (coreIdOf c) c.ctx k e.lane e.uid n x.2.1 (.engine (g.map (·.1)) (g.map (·.2.1)) [] false x.2.2 [])) s

/-- Writes of some bytes leave for their modules, one a region (R246, R388). -/
def giveBytes (s : State) (k : Nat) (c : Cord) (e : EOp) (n : Nat) (ms : List ((Nat × Nat × BitVec 8) × BitVec 8)) : State :=
  (ms.splitBy (fun x y => oneRequest x.1 y.1)).foldl (fun s g =>
    let x := (g.headD ((0, 0, 0), 0)).1
    sendPacket s (coreIdOf c) c.ctx k e.lane e.uid n x.2.1 (.engine (g.map (·.1.1)) (g.map (·.1.2.1)) (g.map (·.2)) true x.2.2 [])) s

/-! ### Where a copy's bytes come from and go -/

/-- A byte's place: a virtual address, an offset of the cord's scratchpad, or a value computed when the operation started. -/
inductive Place where
  | glob (va : Nat)
  | scr (off : Nat)
  | lit (b : BitVec 8)
deriving DecidableEq, Repr

/-- An address of the global space or the scratchpad. -/
def placeOf (space x : Nat) : Place := if space == 1 then .scr x else .glob x

/-- An extent of a shape block; those at or beyond NDIM read as 1 (R322, R325). -/
def extent (ds : List (BitVec 64)) (j : Nat) : Nat :=
  if j < bitsOf (dreg ds 2) 4 3 then bitsOf (dreg ds (3 + j / 2)) (32 * (j % 2)) 32 else 1

/-- The bytes of a box. -/
def boxBytes (ds : List (BitVec 64)) : Nat := (List.range 6).foldl (fun n j => n * extent ds j) 1

/-- The rows of a box: all its dimensions but the innermost. -/
def boxRows (ds : List (BitVec 64)) : Nat := boxBytes ds / extent ds 0

/-- The sum of the steps of row r of a box, signed and exact (R9, R325); first names the register of the first step. -/
def boxStep (ds : List (BitVec 64)) (first r : Nat) : Int :=
  ((List.range 5).foldl (fun (q : Nat × Int) j =>
    (q.1 / extent ds (j + 1), q.2 + (q.1 % extent ds (j + 1) : Nat) * (dreg ds (first + j)).toInt)) (r, 0)).2

/-- An exact sum as an address: one outside the 64-bit space is no address of it, so it has no translation, and its low 64 bits tell it
apart (R9, R238; DESIGN CHOICE for ADDR, log 75). -/
def exactAddr (x : Int) : Nat := if 0 ≤ x ∧ x < 2 ^ 64 then x.toNat else (x % 2 ^ 64).toNat + 2 ^ 64

/-- The address of byte j of row r of a box (R325). -/
def boxAddr (ds : List (BitVec 64)) (base first r j : Nat) : Nat := exactAddr ((dreg ds base).toNat + boxStep ds first r + j)

/-- The memory format and pitch of a load descriptor (R326). -/
def memFmt (ds : List (BitVec 64)) : Nat := bitsOf (dreg ds 2) 20 4
def memPitch (ds : List (BitVec 64)) : Nat := bitsOf (dreg ds 2) 0 20

/-- The address of byte j of row r of the data in memory (R326). -/
def memAddr (ds : List (BitVec 64)) (r j : Nat) : Nat := (dreg ds 0).toNat + r * memPitch ds + j

/-- The data rows of a tile in a memory format, and their bytes (R320, R326). -/
def memLine (t : Tile) (f : Nat) : Nat := rowBytes f t.cols

/-- The bytes of the scale plane of a tile (R326). -/
def planeBytes (t : Tile) : Nat := if blocked t.fmt then t.rows * t.cols / 32 else 0

/-- Where byte j of the scale plane lies among the two scale registers (R311, R326): register 0 or 1, and byte. -/
def planePlace (t : Tile) (j : Nat) : Nat × Nat :=
  if t.fmt.toNat ≤ 9 then (0, 8 * (j / (t.cols / 32)) + j % (t.cols / 32))
  else
    let n := j / (t.rows / 32)
    (n / 128, 8 * (n % 128) + j % (t.rows / 32))

/-- The data bytes a copy writes. -/
def dataBytes (e : EOp) : Nat :=
  match e.kind with
  | .tcopy => boxBytes e.desc
  | .tld => tileLines e.tile * lineBytes e.tile
  | .tst => tileLines e.tile * memLine e.tile (memFmt e.desc)
  | .press | .pressw | .cbld | .mma | .rsend | .rsendAdd | .esend | .erecv => 0

/-- All the bytes a copy writes and credits: for a tst the data rows, then the scale plane (R328). -/
def copyBytes (e : EOp) : Nat :=
  dataBytes e + (if e.kind == .tst then planeBytes e.tile else 0)

/-- The source and destination of byte i of a copy, in destination order (R300, R325, R327, R328). -/
def copyByte (e : EOp) (i : Nat) : Place × Place :=
  match e.kind with
  | .tcopy =>
    let r := i / extent e.desc 0
    let j := i % extent e.desc 0
    let c := dreg e.desc 2
    (placeOf (bitsOf c 0 2) (boxAddr e.desc 0 6 r j), placeOf (bitsOf c 2 2) (boxAddr e.desc 1 11 r j))
  | .tld =>
    let n := lineBytes e.tile
    let r := i / n
    let dst := Place.scr (e.tile.base + r * e.tile.pitch + i % n)
    (match e.sa[i]? with | some b => .lit b | none => .glob (memAddr e.desc r (i % n)), dst)
  | .tst =>
    let n := memLine e.tile (memFmt e.desc)
    let d := dataBytes e
    if i < d then
      let r := i / n
      (match e.sa[i]? with | some b => .lit b | none => .scr (e.tile.base + r * e.tile.pitch + i % n), .glob (memAddr e.desc r (i % n)))
    else (.lit (e.sb.getD (i - d) 0), .glob ((dreg e.desc 1).toNat + (i - d)))
  | .press | .pressw | .cbld | .mma | .rsend | .rsendAdd | .esend | .erecv => (.lit 0, .lit 0)

/-- The chunks of a copy (R300). -/
def chunkCount (n : Nat) : Nat := (n + 511) / 512

/-- The bytes of chunk k. -/
def chunkBytes (e : EOp) (k : Nat) : List Nat := (List.range (min 512 (copyBytes e - 512 * k))).map (512 * k + ·)

/-- The sync word a copy names, when it names one (R322, R326). -/
def copySync (e : EOp) : Option Nat :=
  let c := dreg e.desc 2
  if e.kind == .tcopy then (if c.getLsbD 7 then some (bitsOf c 8 19) else none)
  else if c.getLsbD 24 then some (bitsOf c 25 19) else none

/-! ### Chunks -/

/-- Change an engine operation of a cord. -/
def modEop (s : State) (k u : Nat) (f : EOp → EOp) : State :=
  modCord s k (fun c => { c with eops := c.eops.map (fun e => if e.uid == u then f e else e) })

/-- An engine operation completes, and settles in its strand as a success or with its cause; DETAIL of cause 13 is every flag it raised
(R296, R348, R33, R34, R354). -/
def finishEop (s : State) (k u : Nat) : State :=
  match mget s.cords k with
  | none => s
  | some c =>
    match eopOf c u with
    | none => s
    | some e =>
      let now := cycOf s c.dev c.die
      let bad := e.bad.headD (0, 0, 0, 0)
      let (cause, addr, detail) := if e.cause == 13 then (13, e.addr, e.flags.zeroExtend 64) else if e.cause != 0 then (e.cause, e.addr, e.detail) else bad.2
      let s := modEop s k u (fun e => { e with state := if cause == 0 then .complete else .failed })
      let s := modStrand s k e.lane (raiseFlags e.flags)
      abandonWait (modOp s k e.lane u (fun o =>
        if cause == 0 then { o with state := .settled }
        else { o with state := .failed, cause := cause, addr := addr, detail := detail, due := now })) k e.lane

/-- Record the fate of a chunk or arrival: the failure kept is that of the lowest number (R300); the operation completes with its
last one. -/
def landPiece (s : State) (k u n cause : Nat) (addr detail : BitVec 64) : State :=
  let s := modEop s k u (fun e =>
    let e := { e with chunks := e.chunks.set n (if cause == 0 then 1 else 2) }
    if cause != 0 && (e.cause == 0 || decide (n < e.sent)) then { e with cause := cause, addr := addr, detail := detail, sent := n } else e)
  match (mget s.cords k).bind (fun c => eopOf c u) with
  | some e => if e.chunks.all (fun x => x == 1 || x == 2) then finishEop s k u else s
  | none => s

/-- Read one source byte of an operation. -/
def readPlace (s : State) (c : Cord) (e : EOp) (p : Place) : (Nat × BitVec 64) ⊕ BitVec 8 :=
  match p with
  | .glob va => engineRead s c e va
  | .scr o => .inr (byteAt (coreOfCord s c).scratch (scrBase c + o))
  | .lit b => .inr b

/-- What is wrong with a destination byte. -/
def writeFate (s : State) (c : Cord) (p : Place) : Option (Nat × BitVec 64) :=
  match p with
  | .glob va => (match engineByte s c { w := true } va with | .inl f => some f | .inr _ => none)
  | .scr _ => none
  | .lit _ => none

/-- The address of a place, for ADDR (R354). -/
def placeAddr (p : Place) : BitVec 64 :=
  match p with
  | .glob va => BitVec.ofNat 64 va
  | .scr o => BitVec.ofNat 64 o
  | .lit _ => 0

/-- ADDR of a failing byte, which cause 21 has only for an arrival (R354). -/
def failAddr (cause : Nat) (p : Place) : BitVec 64 := if cause == 21 then 0 else placeAddr p

/-- The first failing byte of a chunk, in destination order: cause, address, detail. -/
def chunkFate (s : State) (c : Cord) (e : EOp) (is : List Nat) : Option (Nat × BitVec 64 × BitVec 64) :=
  is.findSome? (fun i =>
    match e.bad.find? (·.1 == i) with
    | some b => some b.2
    | none =>
      let (src, dst) := copyByte e i
      match readPlace s c e src with
      | .inl f => some (f.1, failAddr f.1 src, f.2)
      | .inr _ => (writeFate s c dst).map (fun f => (f.1, failAddr f.1 dst, f.2)))

/-- A chunk must wait. -/
def chunkWaits (s : State) (c : Cord) (e : EOp) (is : List Nat) : Bool :=
  is.any (fun i =>
    let (src, dst) := copyByte e i
    (match src with | .glob va => engineWaits s c va true | .scr _ | .lit _ => false) ||
    (match dst with | .glob va => engineWaits s c va false | .scr _ | .lit _ => false))

/-- The virtual addresses among some places. -/
def globals (ps : List Place) : List Nat := ps.filterMap (fun p => match p with | .glob va => some va | .scr _ | .lit _ => none)

/-- The virtual addresses a chunk reads, and those it writes. -/
def chunkSources (e : EOp) (is : List Nat) : List Nat := globals (is.map (fun i => (copyByte e i).1))
def chunkTargets (e : EOp) (is : List Nat) : List Nat := globals (is.map (fun i => (copyByte e i).2))

/-- The home bytes a chunk writes, with their addresses, generations and new values. -/
def chunkWrites (s : State) (c : Cord) (e : EOp) (is : List Nat) : List ((Nat × Nat × BitVec 8) × BitVec 8) :=
  is.filterMap (fun i => match copyByte e i with
    | (src, .glob va) => (match engineKey s c { w := true } va, readPlace s c e src with
      | .inr a, .inr b => some ((va, a, genAt s c va), b)
      | _, _ => none)
    | (_, .scr _) | (_, .lit _) => none)

/-- The chunk's bytes are read, then written on the cord's own module, all in one step; those of other modules leave in requests (R298, R388).
R299 leaves the times unstated within the operation's run (DESIGN CHOICE, log 95). -/
def moveChunk (s : State) (k : Nat) (c : Cord) (e : EOp) (n : Nat) (is : List Nat) : State × Option Nat :=
  let ps := is.map (fun i => ((copyByte e i).2, match readPlace s c e (copyByte e i).1 with | .inr b => b | .inl _ => 0))
  let ws := chunkWrites s c e is
  let s := modCoreOf s c (fun co => { co with scratch := ps.foldl (fun m p =>
    match p.1 with | .scr o => mset m (scrBase c + o) p.2 | .glob _ | .lit _ => m) co.scratch })
  let (s, bad) := engineWrite s (coreIdOf c) e.hint ((ws.filter (fun w => keyDev w.1.2.1 == c.dev)).map (fun w => (w.1.2.1, w.2)))
  (if bad.isNone then giveBytes s k c e n (ws.filter (fun w => keyDev w.1.2.1 != c.dev)) else s, bad)

/-- What an operation fetched from some addresses has been used. -/
def dropGot (s : State) (k u : Nat) (vas : List Nat) : State :=
  modEop s k u (fun e => { e with got := e.got.filter (fun b => !vas.contains b.va) })

/-- A chunk whose bytes are written credits its sync word, or fails at its first byte that could not be written (R300, R302). -/
def creditChunk (s : State) (k u n : Nat) (e : EOp) (is : List Nat) : State :=
  match is.findSome? (fun i => (e.bad.find? (·.1 == i)).map (·.2)) with
  | some f => landPiece s k u n f.1 f.2.1 f.2.2
  | none =>
    match copySync e with
    | none => landPiece s k u n 0 0 0
    | some sw =>
      let (s, ok) := creditAt s k sw is.length
      if ok then landPiece s k u n 0 0 0 else landPiece s k u n 14 (BitVec.ofNat 64 sw) 0

/-- The address of the byte of a chunk whose home byte is given. -/
def chunkAddr (s : State) (c : Cord) (e : EOp) (is : List Nat) (a : Nat) : BitVec 64 :=
  ((is.find? (fun i => match (copyByte e i).2 with
    | .glob va => (match engineKey s c { w := true } va with | .inr b => b == a | .inl _ => false)
    | .scr _ | .lit _ => false)).map (fun i => placeAddr (copyByte e i).2)).getD 0

/-- A chunk waits for a plane that is being retired before it writes over it (R391). -/
def chunkPlanes (s : State) (c : Cord) (e : EOp) (is : List Nat) : Bool :=
  (chunkTargets e is).any (fun va => match engineKey s c { w := true } va with
    | .inr a => planeRetiring s c.dev a
    | .inl _ => false)

/-- A chunk of a copy moves (R300): its bytes of other modules are fetched first; then it is read and written, and, once its last write is
acknowledged (fate 3 until then), it lands and credits its sync word, or it fails and writes nothing (R300, R302, R388). -/
def execChunkCredit (k u n : Nat) (s : State) : Out :=
  match mget s.cords k with
  | none => .next s
  | some c =>
    match eopOf c u with
    | none => .next s
    | some e =>
      let is := chunkBytes e n
      let fate := e.chunks[n]?
      if !(e.cls == .copy && e.state == .started && (fate == some 0 || fate == some 3) && c.life == .running) || pieceBusy s k u n then .next s
      else if fate == some 3 then .next (creditChunk s k u n e is)
      else if chunkWaits s c e is || chunkPlanes s c e is then .next s
      else
        let s := engineTrans (engineTrans s c (chunkSources e is)) c (chunkTargets e is)
        let ms := missingBytes s c e (chunkSources e is)
        if !ms.isEmpty then .next (askBytes s k c e n ms)
        else
          let s := engineTouch s c e.hint (chunkSources e is)
          match chunkFate s c e is with
          | some f => .next (landPiece (dropGot s k u (chunkSources e is)) k u n f.1 f.2.1 f.2.2)
          | none =>
            let (s, bad) := moveChunk s k c e n is
            let s := dropGot s k u (chunkSources e is)
            match bad with
            | some a => .next (landPiece s k u n 11 (chunkAddr s c e is a) 0)
            | none =>
              if pieceBusy s k u n then .next (modEop s k u (fun e => { e with chunks := e.chunks.set n 3 }))
              else .next (creditChunk s k u n e is)

/-! ### Starting a copy -/

/-- Element j of a row of packed codes (R23). -/
def elemAt (w : Nat) (bs : List (BitVec 8)) (j : Nat) : Nat :=
  if w == 4 then (bs.getD (j / 2) 0).toNat / 16 ^ (j % 2) % 16
  else leNat ((List.range (w / 8)).map (fun i => bs.getD (j * (w / 8) + i) 0))

/-- Pack codes into bytes (R23). -/
def packElems (w : Nat) (xs : List Nat) : List (BitVec 8) :=
  if w == 4 then (List.range ((xs.length + 1) / 2)).map (fun i => BitVec.ofNat 8 (xs.getD (2 * i) 0 % 16 + 16 * (xs.getD (2 * i + 1) 0 % 16)))
  else xs.flatMap (fun x => leBytes (w / 8) x)

/-- The floating format of a code below 6 (R320). -/
def fmtOfCode (f : Nat) : Fmt := [fp32, fp16, bf16, e4m3, e5m2, e2m1].getD f fp32

/-- The reads of a whole row of the data in memory. -/
def memRow (s : State) (c : Cord) (e : EOp) (r : Nat) : List ((Nat × BitVec 64) ⊕ BitVec 8) :=
  (List.range (memLine e.tile (memFmt e.desc))).map (fun j => engineRead s c e (memAddr e.desc r j))

/-- The bytes of a row that could be read, 0 elsewhere. -/
def rowOf (xs : List ((Nat × BitVec 64) ⊕ BitVec 8)) : List (BitVec 8) := xs.map (fun x => match x with | .inr b => b | .inl _ => 0)

/-- The first unreadable byte of element j of a row: cause, address, detail. -/
def elemBad (e : EOp) (r w : Nat) (xs : List ((Nat × BitVec 64) ⊕ BitVec 8)) (j : Nat) : Option (Nat × BitVec 64 × BitVec 64) :=
  (List.range (max 1 (w / 8))).findSome? (fun i =>
    let b := if w == 4 then j / 2 else j * (w / 8) + i
    match xs[b]? with
    | some (.inl f) => some (f.1, failAddr f.1 (.glob (memAddr e.desc r b)), f.2)
    | _ => none)

/-- The blocks of a tile: the (row, column) of their 32 elements, in order, and their place in the scale registers (R311). -/
def tileBlocks (t : Tile) : List (List (Nat × Nat) × Nat × Nat) :=
  if t.fmt.toNat ≤ 9 then
    (List.range t.rows).flatMap (fun m => (List.range (t.cols / 32)).map (fun j =>
      ((List.range 32).map (fun i => (m, 32 * j + i)), 0, 8 * m + j)))
  else
    (List.range t.cols).flatMap (fun n => (List.range (t.rows / 32)).map (fun j =>
      ((List.range 32).map (fun i => (32 * j + i, n)), n / 128, 8 * (n % 128) + j)))

/-- The offset among a tile's data bytes of element (m, n). -/
def elemOffset (t : Tile) (m n : Nat) : Nat := m * lineBytes t + n * elemBits t.fmt.toNat / 8

/-- A converted block (R41): its elements with their places, its scale with its place, its flags, and, when a source byte
could not be read, the failure of every byte it would write. -/
structure Block where
  elems : List ((Nat × Nat) × Int)
  scale : Option (Nat × Nat × Nat)
  flags : Flags
  bad   : List (Nat × Nat × BitVec 64 × BitVec 64)

/-- Convert one block of a tld (R327, R41). -/
def convertBlock (e : EOp) (rows : List (List ((Nat × BitVec 64) ⊕ BitVec 8))) (b : List (Nat × Nat) × Nat × Nat) : Block :=
  let f := memFmt e.desc
  let w := elemBits f
  match b.1.findSome? (fun p => elemBad e p.1 w (rows.getD p.1 []) p.2) with
  | some x => ⟨[], none, 0, b.1.map (fun p => (elemOffset e.tile p.1 p.2, x))⟩
  | none =>
    let codes := b.1.map (fun p => elemAt w (rowOf (rows.getD p.1 [])) p.2)
    let r := toBlock (fmtOfCode f) (elemBits e.tile.fmt.toNat) (e.mod_.extractLsb' 0 2) e.ftz codes
    ⟨b.1.zip r.2.1, some (b.2.1, b.2.2, r.1), r.2.2, []⟩

/-- The operation of a converting tld after it has read its source (R327). -/
def convertLoad (s : State) (c : Cord) (e : EOp) : EOp × List (Nat × Nat × Nat) :=
  let rows := (List.range e.tile.rows).map (memRow s c e)
  let bs := (tileBlocks e.tile).map (convertBlock e rows)
  let w := elemBits e.tile.fmt.toNat
  let els := bs.flatMap (·.elems)
  let data := (List.range e.tile.rows).flatMap (fun m => packElems w ((List.range e.tile.cols).map (fun n =>
    match els.find? (·.1 == (m, n)) with
    | some x => (x.2 % (2 ^ w : Int)).toNat
    | none => 0)))
  ({ e with
      sa := data
      flags := bs.foldl (fun fl b => fl ||| b.flags) 0
      bad := bs.flatMap (·.bad) }, bs.filterMap (·.scale))

/-- The scale bytes of an equal-code tld, with the failures of those that cannot be read: they follow the data (R327). -/
def loadScales (s : State) (c : Cord) (e : EOp) : List (Nat × Nat × Nat) × List (Nat × Nat × BitVec 64 × BitVec 64) :=
  let rs := (List.range (planeBytes e.tile)).map (fun j =>
    let va := (dreg e.desc 1).toNat + j
    (j, va, engineRead s c e va))
  (rs.filterMap (fun r => match r.2.2 with
    | .inr b => some ((planePlace e.tile r.1).1, (planePlace e.tile r.1).2, b.toNat)
    | .inl _ => none),
   rs.filterMap (fun r => match r.2.2 with
    | .inl f => some (dataBytes e + r.1, f.1, failAddr f.1 (.glob r.2.1), f.2)
    | .inr _ => none))

/-- Write scale bytes of a tld into its registers. -/
def putScales (c : Cord) (e : EOp) (xs : List (Nat × Nat × Nat)) (co : Core) : Core :=
  xs.foldl (fun co x => modScale c (e.kreg + x.1) (fun y => { y with bytes := mset y.bytes x.2.1 (BitVec.ofNat 8 x.2.2) }) co) co

/-- The byte addresses in memory an operation reads before its chunks land. -/
def startReads (e : EOp) : List Nat :=
  if e.kind != .tld then []
  else if memFmt e.desc == e.tile.fmt.toNat then upFrom (dreg e.desc 1) (planeBytes e.tile)
  else (List.range e.tile.rows).flatMap (fun r => (List.range (memLine e.tile (memFmt e.desc))).map (memAddr e.desc r))

/-- The data a converting tst writes, row by row, with its flags (R328, R38 to R40). -/
def convertStore (s : State) (c : Cord) (e : EOp) : EOp :=
  let m := memFmt e.desc
  let co := coreOfCord s c
  let rs := (List.range e.tile.rows).map (fun r =>
    let row := getBytes co.scratch (scrBase c + e.tile.base + r * e.tile.pitch) (4 * e.tile.cols)
    (List.range e.tile.cols).map (fun n =>
      let v := fval fp32 (flushIn fp32 e.ftz (elemAt 32 row n))
      if m ≤ 5 then narrow (fmtOfCode m) (e.mod_.extractLsb' 0 2) e.ftz v
      else
        let q := toInt (e.mod_.extractLsb' 0 2) (if m == 6 then -128 else -8) (if m == 6 then 127 else 7) v
        ((q.1 % (2 ^ elemBits m : Int)).toNat, q.2)))
  { e with
    sa := rs.flatMap (fun r => packElems (elemBits m) (r.map (·.1)))
    flags := rs.foldl (fun fl r => r.foldl (fun fl x => fl ||| x.2) fl) 0 }

/-- A copy starts (R298, R327, R328): a conversion is made, scale bytes are written; an enabled flag fails it with nothing
written. -/
def startCopy (s : State) (k : Nat) (c : Cord) (e : EOp) : State :=
  let s := engineTouch s c e.hint (startReads e)
  let fates := if e.chunks.isEmpty then List.replicate (chunkCount (copyBytes e)) 0 else e.chunks
  let start (e : EOp) (s : State) : State := modEop s k e.uid (fun _ => { e with state := .started, chunks := fates, got := [] })
  let flagged (e : EOp) (s : State) : State :=
    finishEop (modEop s k e.uid (fun _ => { e with cause := 13, addr := 0, detail := e.flags.zeroExtend 64, bad := [] })) k e.uid
  if e.kind == .tld then
    if memFmt e.desc == e.tile.fmt.toNat then
      let (xs, bad) := loadScales s c e
      modCoreOf (start { e with bad := bad } s) c (putScales c e xs)
    else
      let (e, xs) := convertLoad s c e
      if (e.flags &&& e.en) != 0#5 then flagged e s else modCoreOf (start e s) c (putScales c e xs)
  else if e.kind == .tst && memFmt e.desc != e.tile.fmt.toNat then
    let e := convertStore s c e
    if (e.flags &&& e.en) != 0#5 then flagged e s else start e s
  else start e s

/-! ### The words -/

/-- The sync-word check of a descriptor: alignment, then bound (R325, R249, R278). -/
def syncCheck (i : Instr) (h : Here) (s : State) (sw : Option Nat) : Option PFault :=
  match sw with
  | none => none
  | some o =>
    if o % 16 != 0 then some (faultHere s h i 7 (BitVec.ofNat 64 o) 0)
    else if scratchOk h.cord o 16 then none else some (faultHere s h i 8 (BitVec.ofNat 64 o) 0)

/-- Issue waits while the class counter stands at 64 (R295). -/
def counterFull (h : Here) (k : EngClass) : Bool := decide (64 ≤ counter h.cord k)

/-- The tile a shape block describes (R323). -/
def shapeTile (ds : List (BitVec 64)) : Tile where
  state := 1
  fmt := BitVec.ofNat 4 (bitsOf (dreg ds 2) 27 4)
  sparse := (dreg ds 2).getLsbD 31
  rows := bitsOf (dreg ds 3) 32 32
  cols := bitsOf (dreg ds 3) 0 32
  base := bitsOf (dreg ds 1) 0 19
  pitch := bitsOf (dreg ds 11) 0 19
  bk := 0
  btag := 0

/-- A word writes a tile register as a tdef or tld, which a join of R307 looks for: u names the word. -/
def newTile (n u : Nat) (t : Tile) (c : Cord) : Cord := { setTile n t c with tileAt := c.tileAt.setIfInBounds n u }

/-- Define a tile (R323). -/
def execTdef (g : Guard) (d a : BitVec 7) (s : State) : Out :=
  let tile (h : Here) : Tile := shapeTile (sRegs h.cord a 16)
  runWord (.tdef g d a) g (fun _ _ => { reads := descRegs a 16 })
    (fun h s =>
      if !shapeOk (tile h) then some (faultHere s h (.tdef g d a) 19 0 0)
      else if scratchOk h.cord (tileEnd (tile h)) 0 then none
      else some (faultHere s h (.tdef g d a) 8 (BitVec.ofNat 64 (tile h).base) 0))
    plainLeave
    (fun h s => modHereCord { s with uid := s.uid + 1 } h (newTile d.toNat s.uid (tile h))) s

/-- The matrix-shape checks of a tcopy block (R325); reserved bits are refused (log 20). -/
def boxOk (ds : List (BitVec 64)) : Bool :=
  let c := dreg ds 2
  let n := bitsOf c 4 3
  1 ≤ n && n ≤ 6 && (List.range 6).all (fun j => decide (n ≤ j) || extent ds j != 0) && boxBytes ds ≤ 2 ^ 31 &&
  bitsOf c 0 2 ≤ 1 && bitsOf c 2 2 ≤ 1 && bitsOf c 32 32 == 0

/-- The first row of a box, on a scratchpad side, that leaves the allocation (R249). -/
def boxBeyond (c : Cord) (ds : List (BitVec 64)) (space base first : Nat) : Option (BitVec 64) :=
  if space != 1 then none
  else (((List.range (boxRows ds)).map (fun r => boxAddr ds base first r 0)).find? (fun a => !scratchOk c a (extent ds 0))).map (BitVec.ofNat 64)

/-- The first byte of a box, on a global side, that breaks the leases (R257). -/
def boxLease (s : State) (k : Nat) (c : Cord) (ds : List (BitVec 64)) (space base first : Nat) (write : Bool) : Option (BitVec 64) :=
  if space != 0 || c.hdr.leases.isEmpty then none
  else (List.range (boxRows ds)).findSome? (fun r => leaseMiss s k c ((List.range (extent ds 0)).map (boxAddr ds base first r)) write)

/-- A lease violation of an engine transfer ends the cord; otherwise the operation issues (R257, R295). -/
def leasedIssue (h : Here) (bad : Option (BitVec 64)) (f : State → State) (s : State) : State :=
  match bad with
  | some b => fatalEnd s h.sel.cord h.sel.lane 3 (pcOf h.st) b 0
  | none => f s

/-- A copy of a box (R325). -/
def execTcopy (g : Guard) (a : BitVec 7) (s : State) : Out :=
  let i : Instr := .tcopy g a
  let ds (h : Here) : List (BitVec 64) := sRegs h.cord a 16
  let ssp (h : Here) : Nat := bitsOf (dreg (ds h) 2) 0 2
  let dsp (h : Here) : Nat := bitsOf (dreg (ds h) 2) 2 2
  runWord i g (fun h _ => { reads := descRegs a 16, fallible := true, hold := counterFull h .copy })
    (fun h s =>
      let c := dreg (ds h) 2
      if !boxOk (ds h) then some (faultHere s h i 19 0 0)
      else
        match syncCheck i h s (if c.getLsbD 7 then some (bitsOf c 8 19) else none) with
        | some f => some f
        | none =>
          match boxBeyond h.cord (ds h) (ssp h) 0 6, boxBeyond h.cord (ds h) (dsp h) 1 11 with
          | some o, _ => some (faultHere s h i 8 o 0)
          | none, some o => some (faultHere s h i 8 o 0)
          | none, none => none)
    plainLeave
    (fun h s =>
      let bad := match boxLease s h.sel.cord h.cord (ds h) (ssp h) 0 6 false with
        | some b => some b
        | none => boxLease s h.sel.cord h.cord (ds h) (dsp h) 1 11 true
      leasedIssue h bad (issueEngine i h { blankEOp with kind := .tcopy, desc := ds h }) s) s

/-- The reserved bits and pitch of a load descriptor (R326, log 20). -/
def loadDescOk (ds : List (BitVec 64)) : Bool := bitsOf (dreg ds 2) 44 20 == 0 && memPitch ds % 4 == 0

/-- The sync word of a load descriptor. -/
def loadSync (ds : List (BitVec 64)) : Option Nat :=
  if (dreg ds 2).getLsbD 24 then some (bitsOf (dreg ds 2) 25 19) else none

/-- The first byte of a tile's rows or scale plane in memory that breaks the leases (R257). -/
def tileLease (s : State) (k : Nat) (c : Cord) (ds : List (BitVec 64)) (lines line plane : Nat) (write : Bool) : Option (BitVec 64) :=
  if c.hdr.leases.isEmpty then none
  else
    match (List.range lines).findSome? (fun r => leaseMiss s k c ((List.range line).map (memAddr ds r)) write) with
    | some b => some b
    | none => leaseMiss s k c (upFrom (dreg ds 1) plane) write

/-- The (MFMT, FMT) pairs of tld (R327). -/
def loadPair (m f : Nat) : Bool := (m == f && m ≤ 12) || (m ≤ 5 && 8 ≤ f && f ≤ 11)

/-- Load a tile (R327): kM and the tile are stamped with one tag (R312). -/
def execTld (g : Guard) (d a : BitVec 7) (m : BitVec 5) (s : State) : Out :=
  let i : Instr := .tld g d a m
  let ds (h : Here) : List (BitVec 64) := sRegs h.cord a 3
  let tile (h : Here) : Tile := tileOf h.cord d.toNat
  let ok (h : Here) : Bool := (tile h).state != 0 && !(tile h).sparse && loadPair (memFmt (ds h)) (tile h).fmt.toNat && loadDescOk (ds h)
  runWord i g
    (fun h _ => {
      reads := if a.toNat ≤ 61 then descRegs a 3 else []
      kregs := [m.toNat]
      fallible := true
      hold := counterFull h .copy || scaleBusy h.cord (m.toNat :: (if twoScales (tile h) then [m.toNat + 1] else [])) })
    (fun h s =>
      if decide (61 < a.toNat) || !ok h then some (faultHere s h i 19 0 0)
      else if twoScales (tile h) && decide (h.cord.hdr.kregs ≤ m.toNat + 1) then some (faultHere s h i 3 0 0)
      else syncCheck i h s (loadSync (ds h)))
    plainLeave
    (fun h s =>
      let t := tile h
      let plane := if memFmt (ds h) == t.fmt.toNat then planeBytes t else 0
      let bad := tileLease s h.sel.cord h.cord (ds h) (tileLines t) (memLine t (memFmt (ds h))) plane false
      leasedIssue h bad (fun s =>
        let (x, s) := issueTag s h.sel.cord
        let s := modHereCore s h (fun co =>
          let co := modScale h.cord m.toNat (fun y => { y with crown := x }) co
          if twoScales t then modScale h.cord (m.toNat + 1) (fun y => { y with crown := x }) co else co)
        let t := { t with state := 2, bk := m.toNat, btag := x }
        let s := modHereCord s h (newTile d.toNat s.uid t)
        issueEngine i h { blankEOp with kind := .tld, desc := ds h, tile := t, tileNo := d.toNat, kreg := m.toNat } s) s) s

/-- The (FMT, MFMT) pairs of tst (R328). -/
def storePair (f m : Nat) : Bool := (m == f && m ≤ 12) || (f == 0 && 1 ≤ m && m ≤ 7)

/-- The scale plane of a tile, read from its registers (R328). -/
def readPlane (co : Core) (c : Cord) (t : Tile) : List (BitVec 8) :=
  (List.range (planeBytes t)).map (fun j => byteAt (scaleOf co c (t.bk + (planePlace t j).1)).bytes (planePlace t j).2)

/-- Store a tile (R328). -/
def execTst (g : Guard) (d a : BitVec 7) (s : State) : Out :=
  let i : Instr := .tst g d a
  let ds (h : Here) : List (BitVec 64) := sRegs h.cord a 3
  let tile (h : Here) : Tile := tileOf h.cord d.toNat
  let used (h : Here) : List Nat :=
    if blocked (tile h).fmt then (tile h).bk :: (if twoScales (tile h) then [(tile h).bk + 1] else []) else []
  runWord i g
    (fun h _ => {
      reads := if a.toNat ≤ 61 then descRegs a 3 else []
      fallible := true
      hold := counterFull h .copy || scaleBusy h.cord (used h) })
    (fun h s =>
      let t := tile h
      if decide (61 < a.toNat) || t.state == 0 || t.sparse || !storePair t.fmt.toNat (memFmt (ds h)) || !loadDescOk (ds h) then
        some (faultHere s h i 19 0 0)
      else if twoScales t && decide (h.cord.hdr.kregs ≤ t.bk + 1) then some (faultHere s h i 3 0 0)
      else if blocked t.fmt && t.btag != (scaleOf (coreOfCord s h.cord) h.cord t.bk).crown then some (faultHere s h i 20 0 0)
      else syncCheck i h s (loadSync (ds h)))
    plainLeave
    (fun h s =>
      let t := tile h
      let bad := tileLease s h.sel.cord h.cord (ds h) (tileLines t) (memLine t (memFmt (ds h))) (planeBytes t) true
      leasedIssue h bad (issueEngine i h { blankEOp with
        kind := .tst
        desc := ds h
        tile := t
        tileNo := d.toNat
        sb := readPlane (coreOfCord s h.cord) h.cord t }) s) s

end Sys2Proof.Machine
end

