-- ==== Sys2Proof/Machine/SyncWords.lean ====
section
/-!
DEFINITION. The sync-word words and waito (spec/18_engine_instructions.md R329, R330, spec/17_async_engines.md R297, R301 to R303).
-/
namespace Sys2Proof.Machine

/-- The offset a sync-word word names: a swait that polls keeps the one it read at its issue. -/
def swOff (a : BitVec 7) (h : Here) : Nat := match h.st.wait with | .poll x _ => x.toNat | _ => (rdV h.st a).toNat

/-- The generation a swait waits for, read at its issue. -/
def swGen (d : BitVec 7) (h : Here) : BitVec 32 := match h.st.wait with | .poll _ y => y | _ => rdV h.st d

/-- The offset may name a sync word (R329). -/
def swOk (a : BitVec 7) (h : Here) : Bool := swOff a h % 16 == 0 && scratchOk h.cord (swOff a h) 16

/-- A sync-word word: alignment and bound are checked at issue, before what the word waits for (R329). -/
def swWord (i : Instr) (g : Guard) (d a : BitVec 7) (writes : List Reg) (hold : Here → State → Bool) (polls : Here → Wait)
    (f : Here → State → Nat → State) (s : State) : Out :=
  runWord i g
    (fun h s => { reads := [.v d, .v a], writes := writes, lat := if writes.isEmpty then 1 else 0, hold := swOk a h && hold h s, polls := polls h })
    (fun h s => syncCheck i h s (some (swOff a h))) plainLeave (fun h s => f h s (scrBase h.cord + swOff a h)) s

/-- The scratchpad of the core of the current strand. -/
def scratchOf (s : State) (h : Here) : SMap (BitVec 8) := (coreOfCord s h.cord).scratch

/-- Set TARGET, RUN := 0, OVR := 0; V[d] := the generation the next completion makes (R329). -/
def execSwinit (g : Guard) (d a : BitVec 7) (s : State) : Out :=
  swWord (.swinit g d a) g d a [.v d] (fun _ _ => false) (fun _ => .none)
    (fun h s o =>
      let m := scratchOf s h
      let m' := putBytes m o (leBytes 4 (rdV h.st d).toNat ++ leBytes 4 0)
      let m' := putBytes m' (o + 12) [byteAt m' (o + 12) &&& ~~~1#8]
      let s := modHereCore s h (fun co => { co with scratch := m' })
      writeVar s h (toV d (BitVec.ofNat 32 (word32 m (o + 8) + 1)))) s

/-- Hold the strand until GEN is not older than V[d], then acquire at die scope and read GEN (R303, R329). -/
def execSwait (g : Guard) (d a : BitVec 7) (s : State) : Out :=
  let gen (h : Here) (s : State) : BitVec 32 := BitVec.ofNat 32 (word32 (scratchOf s h) (scrBase h.cord + swOff a h + 8))
  swWord (.swait g d a) g d a [.v d] (fun h s => older (gen h s) (swGen d h)) (fun h => .poll (rdV h.st a) (rdV h.st d))
    (fun h s _ => writeVar (acquireStep s (coreIdOf h.cord) 3) h (toV d (gen h s))) s

/-- Every older access of the strand has settled (R298, R329). -/
def accessesDone (h : Here) : Bool := h.st.ops.all (fun o => opDone h.now o || o.kind == .engine || o.kind == .flag)

/-- Release at die scope, then credit; an overrun sets OVR and faults precisely (R302, R329). -/
def execSwadd (g : Guard) (d a : BitVec 7) (s : State) : Out :=
  swWord (.swadd g d a) g d a [] (fun h _ => !accessesDone h) (fun _ => .none)
    (fun h s _ =>
      let s := releaseStep s (partyOf h.cord h.sel.lane)
      let (s, ok) := creditAt s h.sel.cord (swOff a h) (rdV h.st d).toNat
      if ok then s
      else
        let w := wordOf s h (.swadd g d a)
        modHere s h (fun st => { st with
          fault := some ⟨14, pcOf h.st, w, 0, BitVec.ofNat 64 (swOff a h), 0, false, false, h.st.hint, false, true⟩ })) s

/-- The class of a waito code (R111). -/
def waitClass (c : BitVec 2) : EngClass :=
  if c == 0#2 then .copy else if c == 1#2 then .press else if c == 2#2 then .matrix else .fabric

/-- Hold the strand until at most n operations of a class are outstanding, an n of 64 or above not at all, then acquire: at die scope, pod for
fabric (R297, R330, R397). -/
def execWaito (g : Guard) (n : BitVec 7) (c : BitVec 2) (s : State) : Out :=
  runWord (.waito g n c) g (fun h _ => { hold := decide (n.toNat < 64) && decide (n.toNat < counter h.cord (waitClass c)), polls := .poll 0 0 }) noCheck plainLeave
    (fun h s => acquireStep s (coreIdOf h.cord) (if waitClass c == .fabric then 5 else 3)) s

end Sys2Proof.Machine
end

