-- ==== Sys2Proof/Machine/Matrix.lean ====
section
/-!
DEFINITION. Presses, the codebook, mma, its pass, the scale-register words and the sparse forms
(spec/18_engine_instructions.md R331 to R340, spec/17_async_engines.md R305 to R313, spec/02_number_formats.md R25 to R29).
-/
namespace Sys2Proof.Machine

/-! ### The codebook -/

/-- The squared-norm cost of a magnitude code: 0, 1, 3, 6 (R29). -/
def codeCost (c : Nat) : Nat := [0, 1, 3, 6].getD c 0

/-- The entry words of n weights with a cost of S, in ascending order (R29). -/
def vectorsOf : Nat → Nat → List Nat
  | 0, S => if S == 0 then [0] else []
  | n + 1, S => (List.range 4).flatMap (fun c =>
      if codeCost c ≤ S then (vectorsOf n (S - codeCost c)).map (· + c * 4 ^ n) else [])

/-- The default codebook table: the first 512 entry words by squared norm, then by value (R29). -/
def defaultTable : List Nat := ((List.range 7).flatMap (vectorsOf 8)).take 512

/-- Entry n of the table a context decodes with (R333). -/
def codeEntry (co : Core) (ctx n : Nat) : Nat :=
  if co.owner == some ctx then ((mget co.codebook n).getD 0).toNat else defaultTable.getD n 0

/-- Bit j of the signs of an index: weight 7's is the exclusive or of the others (R27). -/
def indexSign (x j : Nat) : Bool :=
  if j < 7 then x.testBit j else (List.range 7).foldl (fun b i => b != x.testBit i) false

/-- Weight j of an index whose entry word is w, as a BI4 code (R28). -/
def weightCode (x w j : Nat) : Nat :=
  let m := 2 * (w / 4 ^ j % 4) + 1
  if indexSign x j then 16 - m else m

/-- The eight BI4 elements of an index, packed (R28, R23). -/
def decodeIndex (tab : Nat → Nat) (x : Nat) : Nat :=
  (List.range 8).foldl (fun n j => n + weightCode x (tab (x / 128)) j * 16 ^ j) 0

/-- Decode an index at issue (R334). -/
def execCbdec (g : Guard) (d a : BitVec 7) (s : State) : Out :=
  runWord (.cbdec g d a) g (fun _ _ => { reads := [.v a], writes := [.v d], lat := 4 }) noCheck plainLeave
    (fun h s => writeRegs s h
      (toV d (BitVec.ofNat 32 (decodeIndex (codeEntry (coreOfCord s h.cord) h.cord.ctx) ((rdV h.st a).toNat % 2 ^ 16)))) (h.now + 4) false) s

/-- Load the loadable codebook, as a press-class operation; an address that is not aligned to 16 bytes has no response of its own, so the
word is illegal (R333, R8). -/
def execCbld (g : Guard) (a : BitVec 7) (s : State) : Out :=
  let i : Instr := .cbld g a
  runWord i g (fun h _ => { reads := [.s (sReg a)], fallible := true, hold := counterFull h .press })
    (fun h s => if (rdS h.cord (sReg a)).toNat % 16 == 0 then none else some (faultHere s h i 1 0 0))
    plainLeave
    (fun h s => leasedIssue h (leaseMiss s h.sel.cord h.cord (upFrom (rdS h.cord (sReg a)) 1024) false)
      (issueEngine i h { blankEOp with kind := .cbld, desc := [rdS h.cord (sReg a)] }) s) s

/-- Give up the loadable codebook, once every press and cbld of the cord has completed (R333). -/
def execCbldDef (g : Guard) (s : State) : Out :=
  runWord (.cbldDef g) g (fun h _ => { hold := h.cord.eops.any (fun e => e.cls == .press && eopLive e) }) noCheck plainLeave
    (fun h s => modHereCore s h (fun co => { co with owner := none })) s

/-- What a press-class operation reads at a byte: a cause with its DETAIL, or the byte; one of another module is what its request brought
(R332, R333, R388). A pressw takes weight-store bytes only, and checks no race. A STALE byte fails a cbld as R298 says of every engine read,
though R341 lists no cause 12 for it (DEDUCED, log 96). -/
def pressRead (s : State) (c : Cord) (e : EOp) (va : Nat) : (Nat × BitVec 64) ⊕ BitVec 8 :=
  if e.kind != .pressw then engineRead s c e va
  else
    match engineByte s c { r := true } va with
    | .inl f => .inl f
    | .inr a =>
      if !isWeight a then .inl (10, 0)
      else if keyDev a != c.dev then
        match e.got.find? (·.va == va) with
        | some b => if b.cause == 0 then .inr b.val else .inl (b.cause, b.detail)
        | none => .inl (21, deliveryDetail (keyDev a) false false false)
      else if poisoned s a then .inl (11, 0)
      else .inr (readCell s.mem a)

/-- The first failing byte of a press-class read: cause, ADDR, DETAIL (R332, R333). -/
def pressFate (s : State) (c : Cord) (e : EOp) (vas : List Nat) : Option (Nat × BitVec 64 × BitVec 64) :=
  vas.findSome? (fun va => match pressRead s c e va with
    | .inl f => some (f.1, failAddr f.1 (.glob va), f.2)
    | .inr _ => none)

/-- The bytes a press-class operation still has to fetch from another module (R388). -/
def pressMissing (s : State) (c : Cord) (e : EOp) (vas : List Nat) : List (Nat × Nat × BitVec 8) :=
  if e.kind != .pressw then missingBytes s c e vas
  else vas.eraseDups.filterMap (fun va => match engineKey s c { r := true } va with
    | .inr a => if isWeight a && keyDev a != c.dev && !e.got.any (·.va == va) then some (va, a, genAt s c va) else none
    | .inl _ => none)

/-- The byte at a virtual address that may be read. -/
def pressByte (s : State) (c : Cord) (e : EOp) (va : Nat) : BitVec 8 :=
  match pressRead s c e va with | .inr b => b | .inl _ => 0

/-- The bytes a cbld reads. -/
def cbldAddrs (e : EOp) : List Nat := upFrom (dreg e.desc 0) 1024

/-- A press-class operation settles as failed. -/
def failEop (s : State) (k u cause : Nat) (addr detail : BitVec 64) : State :=
  finishEop (modEop s k u (fun e => { e with cause := cause, addr := addr, detail := detail })) k u

/-- A cbld completes, with the bytes it fetched from other modules first: table and OWNER are written, or a failed read leaves them (R333,
R388). -/
def execCbldComplete (k u : Nat) (s : State) : Out :=
  match mget s.cords k with
  | none => .next s
  | some c =>
    match eopOf c u with
    | none => .next s
    | some e =>
      let vas := cbldAddrs e
      if !(e.kind == .cbld && e.state == .started) || pieceBusy s k u 0 || vas.any (fun va => engineWaits s c va true) then .next s
      else
        let s := engineTrans s c vas
        let ms := pressMissing s c e vas
        if !ms.isEmpty then .next (askBytes s k c e 0 ms)
        else
          let s := engineTouch s c e.hint vas
          match pressFate s c e vas with
          | some f => .next (failEop s k u f.1 f.2.1 f.2.2)
          | none =>
            let bs := vas.map (pressByte s c e)
            let s := modCoreOf s c (fun co => { co with
              owner := some c.ctx
              codebook := (List.range 512).map (fun n => (n, BitVec.ofNat 16 (elemAt 16 bs n))) })
            .next (finishEop s k u)

/-! ### Presses -/

/-- The checks of a press, in the order of R331: the cause, or 0. tile states below low are refused. -/
def pressFault (h : Here) (s : State) (m low : Nat) (t : Tile) : Nat :=
  let co := coreOfCord s h.cord
  if h.cord.hdr.macros ≤ m then 18
  else if t.state.toNat < low || !(10 ≤ t.fmt.toNat && t.fmt.toNat ≤ 12) || t.rows != 256 ||
      !(t.cols == 128 || (t.cols == 256 && 11 ≤ t.fmt.toNat)) || t.btag == 0 then 19
  else if t.btag != (scaleOf co h.cord t.bk).crown then 20
  else if t.cols == 256 && decide (h.cord.hdr.kregs ≤ t.bk + 1) then 3
  else 0

/-- The macro as a press leaves it at issue (R331, R305, R312). -/
def pressMac (co : Core) (c : Cord) (t : Tile) (y : Mac) : Mac :=
  { y with
    state := 1
    bfmt := if t.fmt == 10#4 then 0 else 1
    cols := t.cols
    sparse := t.sparse
    bk := t.bk
    btag0 := t.btag
    btag1 := if t.cols == 256 then (scaleOf co c (t.bk + 1)).crown else 0 }

/-- Issue a press on a macro. -/
def issuePress (i : Instr) (m : Nat) (e : EOp) (h : Here) (s : State) : State :=
  let co := coreOfCord s h.cord
  issueEngine i h { e with mac := m } (modHereCore s h (modMac h.cord m (pressMac co h.cord e.tile)))

/-- Press a tile into a macro (R331). -/
def execPress (g : Guard) (d : BitVec 7) (m : BitVec 3) (s : State) : Out :=
  let i : Instr := .press g d m
  runWord i g (fun h _ => { fallible := true, hold := counterFull h .press })
    (fun h s =>
      let f := pressFault h s m.toNat 2 (tileOf h.cord d.toNat)
      if f == 0 then none else some (faultHere s h i f 0 0))
    plainLeave
    (fun h s => issuePress i m.toNat { blankEOp with kind := .press, tile := tileOf h.cord d.toNat, tileNo := d.toNat } h s) s

/-- The address of row r of a pressw (R332). -/
def presswAddr (e : EOp) (r j : Nat) : Nat := (dreg e.desc 0).toNat + r * e.tile.pitch + j

/-- Press from the weight store (R332). -/
def execPressw (g : Guard) (d a : BitVec 7) (m : BitVec 3) (s : State) : Out :=
  let i : Instr := .pressw g d a m
  runWord i g (fun h _ => { reads := [.s (sReg a)], fallible := true, hold := counterFull h .press })
    (fun h s =>
      let f := pressFault h s m.toNat 1 (tileOf h.cord d.toNat)
      if f == 0 then none else some (faultHere s h i f 0 0))
    plainLeave
    (fun h s =>
      let t := tileOf h.cord d.toNat
      let e : EOp := { blankEOp with kind := .pressw, tile := t, tileNo := d.toNat, desc := [rdS h.cord (sReg a)] }
      let bad := if h.cord.hdr.leases.isEmpty then none
        else (List.range (tileLines t)).findSome? (fun r =>
          leaseMiss s h.sel.cord h.cord ((List.range (lineBytes t)).map (presswAddr e r)) false)
      leasedIssue h bad (issuePress i m.toNat e h) s) s

/-- Kept element e of vector v of a column's record, with its row in the vector (R321). -/
def keptElem (w : Nat) (rec : List (BitVec 8)) (v e : Nat) : Nat × Nat :=
  let pos := (rec.getD (32 * w / 2 + v) 0).toNat / 4 ^ e % 4
  (elemAt w rec (4 * v + e), (if e < 2 then 0 else 4) + pos)

/-- Vector v of a record is live (R321). -/
def vectorLive (w : Nat) (rec : List (BitVec 8)) (v : Nat) : Bool := (rec.getD (32 * w / 2 + 32 + v / 8) 0).getLsbD (v % 8)

/-- The B element (k, n) of a dense or CB2 tile whose data lines are given, as a code (R321, R331). -/
def pressElem (t : Tile) (tab : Nat → Nat) (lines : List (List (BitVec 8))) (k n : Nat) : Nat :=
  if t.fmt == 12#4 then weightCode (elemAt 16 (lines.getD (k / 8) []) n) (tab (elemAt 16 (lines.getD (k / 8) []) n / 128)) (k % 8)
  else elemAt (if t.fmt == 10#4 then 8 else 4) (lines.getD k []) n

/-- Cell row k of column n of a sparse macro: kept element k mod 128, 0 in a dead vector; both halves hold one image (R310). -/
def keptCell (t : Tile) (lines : List (List (BitVec 8))) (k n : Nat) : Nat :=
  let w := if t.fmt == 10#4 then 8 else 4
  let rec_ := lines.getD n []
  if vectorLive w rec_ (k % 128 / 4) then (keptElem w rec_ (k % 128 / 4) (k % 4)).1 else 0

/-- The cells of a press: cell (k, n) at byte 128 k + n; of 256 columns, column n + 128 lies in bits 7:4 (R305). -/
def pressCells (t : Tile) (tab : Nat → Nat) (lines : List (List (BitVec 8))) : SMap (BitVec 8) :=
  let cell (k n : Nat) : Nat := if t.sparse then keptCell t lines k n else pressElem t tab lines k n
  (List.range 32768).map (fun i =>
    let k := i / 128
    let n := i % 128
    (i, BitVec.ofNat 8 (cell k n + (if 128 < t.cols then 16 * cell k (n + 128) else 0))))

/-- The positions of the kept elements of a sparse press (R321, R310). -/
def pressPos (t : Tile) (lines : List (List (BitVec 8))) : SMap (BitVec 8) :=
  if t.sparse then
    (List.range (32 * t.cols)).map (fun i => (i, (lines.getD (i / 32) []).getD (32 * (if t.fmt == 10#4 then 8 else 4) / 2 + i % 32) 0))
  else []

/-- The table a press took when it started: the loadable table's bytes where its context owned it, else the default (R331). -/
def pressTable (e : EOp) (n : Nat) : Nat := if e.sa.isEmpty then defaultTable.getD n 0 else elemAt 16 e.sa n

/-- A younger press on the macro is outstanding, which keeps it pressing. -/
def youngerPress (c : Cord) (e : EOp) : Bool :=
  ((c.eops.dropWhile (·.uid != e.uid)).tail).any (fun x => (x.kind == .press || x.kind == .pressw) && x.mac == e.mac && eopLive x)

/-- The products that waited for a failed press issue no pass (R313). -/
def spoilProducts (s : State) (k : Nat) (c : Cord) (e : EOp) : State :=
  let after := ((c.eops.dropWhile (·.uid != e.uid)).tail).takeWhile (fun x => !((x.kind == .press || x.kind == .pressw) && x.mac == e.mac))
  let us := (after.filter (fun x => x.kind == .mma && x.mac == e.mac)).map (·.uid)
  modCord s k (fun c => { c with eops := c.eops.map (fun x => if us.contains x.uid then { x with cause := 19 } else x) })

/-- A pressw reads its rows directly at the base die of its module, under SEC-DED (R298, R332, R256). -/
def pressTouch (s : State) (c : Cord) (vas : List Nat) : State :=
  let s := engineTrans s c vas
  let as := vas.filterMap (fun va => match engineByte s c { r := true } va with
    | .inr a => if isWeight a && keyDev a == c.dev then some a else none
    | .inl _ => none)
  checkWords (arbitrate s .engine none as) (as.map (· / 8)).eraseDups

/-- A press completes: its macro is loaded, or, after a failed read, empty (R331, R332); a pressw first fetches what it reads of other modules
(R388). -/
def execPressComplete (k u : Nat) (s : State) : Out :=
  match mget s.cords k with
  | none => .next s
  | some c =>
    match eopOf c u with
    | none => .next s
    | some e =>
      let vas := (List.range (tileLines e.tile)).flatMap (fun r => (List.range (lineBytes e.tile)).map (presswAddr e r))
      let wide := e.kind == .pressw
      let s := if wide then engineTrans s c vas else s
      let ms := if wide then pressMissing s c e vas else []
      if !((e.kind == .press || wide) && e.state == .started) || pieceBusy s k u 0 || (wide && vas.any (fun va => engineWaits s c va true)) then .next s
      else if !ms.isEmpty then .next (askBytes s k c e 0 ms)
      else
        let keep := youngerPress c e
        let s := if wide then pressTouch s c vas else s
        match (if wide then pressFate s c e vas else none) with
        | some f =>
          let s := modCoreOf s c (modMac c e.mac (fun y => { y with cells := [], pos := [], state := if keep then y.state else 0 }))
          .next (failEop (spoilProducts s k c e) k u f.1 f.2.1 f.2.2)
        | none =>
          let co := coreOfCord s c
          let lines := (List.range (tileLines e.tile)).map (fun r =>
            if wide then (List.range (lineBytes e.tile)).map (fun j => pressByte s c e (presswAddr e r j))
            else getBytes co.scratch (scrBase c + e.tile.base + r * e.tile.pitch) (lineBytes e.tile))
          let cells := pressCells e.tile (pressTable e) lines
          let s := modCoreOf s c (modMac c e.mac (fun y => { y with cells := cells, pos := pressPos e.tile lines, state := if keep then y.state else 2 }))
          .next (finishEop s k u)

/-! ### Products -/

/-- The last signature of a round waits for room in the matrix counter and for a sequence number of each signer that enables a
flag (R295, R347). -/
def roundWaits (h : Here) (v : Conv) : Bool := (v.signed ||| laneBit h.sel.lane) == v.signers && roundFull h.cord h.now v.signers

/-- The accumulators the word names, by the tile and macro as they stand, at least those of one row (R308; log 21). -/
def wordAccs (h : Here) (s : State) (d a : BitVec 7) (m : BitVec 3) : List Reg :=
  accRegs d.toNat (max 1 (tileOf h.cord a.toNat).rows) (macOf (coreOfCord s h.cord) h.cord m.toNat).cols

/-- The scale registers the word names, by the tile and macro as they stand (R313, R337). -/
def wordScales (h : Here) (s : State) (a : BitVec 7) (m : BitVec 3) : List Nat :=
  let y := macOf (coreOfCord s h.cord) h.cord m.toNat
  (tileOf h.cord a.toNat).bk :: y.bk :: (if 128 < y.cols then [y.bk + 1] else [])

/-- A strand signs (R175): its accumulators are held from its signature (R309), and its FTZ is taken (R46). -/
def signHere (i : Instr) (j : Nat) (accs : List Reg) (h : Here) (s : State) : State :=
  let v := convOf h.cord j
  let fresh_ := v.signed == 0
  let u := if fresh_ then s.uid else v.uid
  let s := if fresh_ then { s with uid := s.uid + 1 } else s
  let bit := laneBit h.sel.lane
  let v : Conv := { v with
    signed := v.signed ||| bit
    word := if fresh_ then word27 s h i else v.word
    first := if fresh_ then h.sel.lane else v.first
    uid := u
    fzs := (if fresh_ then 0 else v.fzs) ||| (if ftzOf h.st then bit else 0)
    sigs := (if fresh_ then [] else v.sigs) ++ [(h.sel.lane, pcOf h.st, wordOf s h i, !h.st.rerun.isEmpty)] }
  let s := modHereCord s h (fun c => { c with conv := c.conv.setIfInBounds j v })
  signRound (holdRegs s h u accs) h.sel.cord j

/-- Sign a product (R175, R335). -/
def execMma (g : Guard) (d a : BitVec 7) (m j : BitVec 3) (s : State) : Out :=
  let i : Instr := .mma g d a m j
  let v (h : Here) : Conv := convOf h.cord j.toNat
  runWord i g
    (fun h s =>
      let accs := wordAccs h s d a m
      let again := laneIn (v h).signed h.sel.lane
      { writes := [.v d]
        lat := 0
        hold := accs.any (isHeld h) || again || roundWaits h (v h) || scaleLoads h.cord (wordScales h s a m)
        signs := again || accs.any (heldBySync h) })
    (fun h s =>
      if h.cord.hdr.macros ≤ m.toNat then some (faultHere s h i 18 0 0)
      else if !laneIn (v h).signers h.sel.lane then some (faultHere s h i 5 0 (ownDetail h))
      else if (v h).signed != 0 && (v h).word != word27 s h i then some (faultHere s h i 5 0 (BitVec.ofNat 64 (v h).first))
      else none)
    plainLeave
    (fun h s => signHere i j.toNat (wordAccs h s d a m) h s) s

/-- The planes of an A tile (R306). -/
def planes (t : Tile) : Nat := if t.fmt == 8#4 then 8 else 4

/-- The cycles of a pass (R306). -/
def passCycles (e : EOp) : Nat :=
  let n := e.rows * planes e.tile
  if dreg e.desc 1 == 1 then (n + 1) / 2 else n

/-- A started pass has broadcast its last row. -/
def passOver (now : Nat) (e : EOp) : Bool := decide (e.sent + passCycles e ≤ now)

/-- The cords of the core a cord runs on. -/
def coreCords (s : State) (c : Cord) : List (Nat × Cord) :=
  s.cords.filter (fun p => p.2.dev == c.dev && p.2.die == c.die && p.2.core == c.core)

/-- The products of a core whose pass has started and is not written back: cord, operation. -/
def startedPasses (s : State) (c : Cord) : List (Nat × EOp) :=
  (coreCords s c).flatMap (fun p => (p.2.eops.filter (fun e => e.kind == .mma && e.state == .started)).map (fun e => (p.1, e)))

/-- The pass in the row buffer of a core (R307). -/
def runningPasses (s : State) (c : Cord) (now : Nat) : List (Nat × EOp) := (startedPasses s c).filter (fun p => !passOver now p.2)

/-- A product joins a pass (R307): the same cord and tile register with no tld or tdef between, issued before the pass has broadcast its
first row. -/
def joinsPass (k : Nat) (e : EOp) (p : Nat × EOp) : Bool :=
  p.1 == k && p.2.tileNo == e.tileNo && p.2.tver == e.tver && decide (e.at_ < p.2.sent + planes e.tile)

/-- The product of a pass that another joins, its macro being in no pass (R307). -/
def passJoined (s : State) (k : Nat) (c : Cord) (e : EOp) : Option EOp :=
  let ps := startedPasses s c
  (ps.find? (fun p => joinsPass k e p && !ps.any (fun q => q.1 == k && q.2.mac == e.mac))).map (·.2)

/-- The strand's accesses older than an engine operation have settled, and, for an operation R352 would discard, none of its older
operations has failed (R298, R352): an mma is fallible for each signer that has an operation of it. A copy that a save quiesced started once
already (R364). -/
def strandReady (c : Cord) (now : Nat) (e : EOp) : Bool :=
  !e.chunks.isEmpty ||
  ((match mget c.strands e.lane with
    | none => true
    | some st => st.ops.all (fun o => decide (e.after ≤ o.uid) ||
       ((o.state != .failed || e.kind == .mma) && (opDone now o || o.kind == .engine || o.kind == .flag)))) &&
   (e.kind != .mma || c.strands.all (fun p => !((opOf p.2 e.uid).isSome && (olderOps p.2 e.uid).any (·.state == .failed)))))

/-- The waits of a product before its pass (R307, R324): older presses on its macro, older loads of its tile, its turn. -/
def productReady (c : Cord) (e : EOp) : Bool :=
  let old := olderEops c e.uid
  !old.any (fun x => eopLive x && (x.kind == .press || x.kind == .pressw) && x.mac == e.mac) && !tldBefore old e.tileNo

/-- An older product of the core waits for a pass of its own (R307). -/
def olderProduct (s : State) (c : Cord) (e : EOp) : Bool :=
  (coreCords s c).any (fun p => p.2.life == .running && p.2.eops.any (fun x =>
    x.kind == .mma && x.state == .waiting && decide (x.after < e.after)))

/-- The A bytes a pass stages in the row buffer, row after row (R306). -/
def stageRows (e : EOp) (c : Cord) (scratch : SMap (BitVec 8)) : List (BitVec 8) :=
  (List.range e.rows).flatMap (fun m => getBytes scratch (scrBase c + e.tile.base + m * e.tile.pitch) (lineBytes e.tile))

/-- The pass of a product starts: it stages its A tile, or joins the rows of the pass it is part of, and reads the scale bytes of its tile
and its macro (R298, R306, R307, R313). -/
def execPassStart (k u : Nat) (s : State) : Out :=
  match mget s.cords k with
  | none => .next s
  | some c =>
    match eopOf c u with
    | none => .next s
    | some e =>
      let now := cycOf s c.dev c.die
      if !(e.kind == .mma && e.state == .waiting && c.life == .running && strandReady c now e && productReady c e) then .next s
      else if e.cause != 0 then
        let sigs := e.bad.map (fun g => (g.1, g.2.2.1, g.2.2.2.setWidth 32, g.2.1 == 1))
        .next (signersFault (modEop s k u (fun e => { e with state := .failed })) k u e.cause sigs)
      else
        let lead := passJoined s k c e
        if lead.isNone && (!(runningPasses s c now).isEmpty || olderProduct s c e) then .next s
        else
          let co := coreOfCord s c
          let rows := (lead.map (·.arow)).getD (stageRows e c co.scratch)
          let s := modCoreOf (releaseStep s (partyOf c e.lane)) c (fun co => if lead.isSome then co else { co with rowBuf := rows })
          .next (modEop s k u (fun e => { e with
            state := .started
            sent := (lead.map (·.sent)).getD now
            arow := rows
            sa := getBytes (scaleOf co c e.tile.bk).bytes 0 (8 * e.rows)
            sb := getBytes (scaleOf co c e.kreg).bytes 0 1024 ++ getBytes (scaleOf co c (e.kreg + 1)).bytes 0 1024 }))

/-- A code of w bits as a signed integer (R25, R26). -/
def signedCode (w x : Nat) : Int := if x < 2 ^ (w - 1) then x else (x : Int) - 2 ^ w

/-- The B elements of column n of a macro (R305, R310): the omitted elements of a sparse one are 0. -/
def macColumn (e : EOp) (y : Mac) (n : Nat) : List Int :=
  let cell (k : Nat) : Int :=
    let b := (byteAt y.cells (128 * k + n % 128)).toNat
    if dreg e.desc 0 == 0 then signedCode 8 b
    else signedCode 4 (if n < 128 then b % 16 else b / 16)
  (List.range 256).map (fun k =>
    if dreg e.desc 1 == 1 then
      let row (i : Nat) : Nat := (if i < 2 then 0 else 4) + (byteAt y.pos (32 * n + k / 8)).toNat / 4 ^ i % 4
      (((List.range 4).find? (fun i => row i == k % 8)).map (fun i => cell (4 * (k / 8) + i))).getD 0
    else cell k)

/-- The A elements of row m of a product's pass (R306, R321). -/
def tileRow (e : EOp) (m : Nat) : List Int :=
  let w := elemBits e.tile.fmt.toNat
  let row := (e.arow.drop (m * lineBytes e.tile)).take (lineBytes e.tile)
  (List.range 256).map (fun i => signedCode w (elemAt w row i))

/-- The register of element (m, n) (R308). -/
def accReg (e : EOp) (m n : Nat) : BitVec 7 :=
  BitVec.ofNat 7 (e.vacc + (if n < 128 then 0 else 2 * e.rows) + 2 * m + n / 64 % 2)

/-- What a pass writes in the accumulators of one lane, with the flags (R309, R335, R46, R47). -/
def passLane (e : EOp) (c : Cord) (co : Core) (st : Strand) (l : Nat) : List (Reg × BitVec 64) × Flags :=
  let cols := ((List.range 4).map (fun q => l + 64 * q)).filter (fun n => decide (n < e.cols))
  let y := macOf co c e.mac
  let rs := (List.range e.rows).flatMap (fun m => cols.map (fun n =>
    let r := accReg e m n
    let ea := (List.range 8).map (fun j => (e.sa.getD (8 * m + j) 0).toNat)
    let eb := (List.range 8).map (fun j => (e.sb.getD (1024 * (n / 128) + 8 * (n % 128) + j) 0).toNat)
    let x := mmaElement (laneIn e.fzs l) (rdV st r).toNat (tileRow e m) (macColumn e y n) ea eb
    (r, x)))
  (rs.map (fun x => (.v x.1, BitVec.ofNat 64 x.2.1)), rs.foldl (fun fl x => fl ||| x.2.2) 0)

/-- A signer's accumulators are written; one for which an enabled flag was raised keeps them and fails (R309, R34, R335). -/
def passDeliver (s : State) (k : Nat) (c : Cord) (e : EOp) (l : Nat) : State :=
  match mget c.strands l with
  | none => s
  | some st =>
    let (ws, fl) := passLane e c (coreOfCord s c) st l
    let s := modStrand s k l (raiseFlags fl)
    let fails := (opOf st e.uid).isSome && (fl &&& enables st) != 0#5
    let s := modOp s k l e.uid (fun o =>
      if fails then { o with state := .failed, cause := 13, detail := fl.zeroExtend 64, flags := fl, due := cycOf s c.dev c.die }
      else { o with state := .settled })
    if fails then abandonWait (releaseHeld s k l e.uid) k l else deliver s k l e.uid ws

/-- A fixed-latency or Variable write of an accumulator of a signer is still to become visible. -/
def accPending (c : Cord) (e : EOp) : Bool :=
  c.strands.any (fun p => laneIn e.signers p.1 &&
    p.2.pend.any (fun q => (accRegs e.vacc e.rows e.cols).contains q.reg))

/-- A product that is ready joins the pass of an operation and has not started with it. -/
def joinerWaits (s : State) (k : Nat) (c : Cord) (now : Nat) (e : EOp) : Bool :=
  c.eops.any (fun x => x.kind == .mma && x.state == .waiting && x.cause == 0 && strandReady c now x && productReady c x &&
    (passJoined s k c x).any (·.sent == e.sent))

/-- A pass writes its accumulators back (R309). -/
def execPassWriteback (k u : Nat) (s : State) : Out :=
  match mget s.cords k with
  | none => .next s
  | some c =>
    match eopOf c u with
    | none => .next s
    | some e =>
      if !(e.kind == .mma && e.state == .started && passOver (cycOf s c.dev c.die) e) || accPending c e ||
          joinerWaits s k c (cycOf s c.dev c.die) e then .next s
      else
        let s := (List.range 64).foldl (fun s l => if laneIn e.signers l then passDeliver s k c e l else s) s
        .next (modEop s k u (fun e => { e with state := .complete }))

/-! ### Scale registers -/

/-- A word that writes every byte of a scale register (R336): its bytes, then its stamp. -/
def skAll (f : Nat → Nat → Nat) (d a : Nat) (rb : BitVec 1) (h : Here) (s : State) : State :=
  let src := (scaleOf (coreOfCord s h.cord) h.cord a).bytes
  let s := modHereCore s h (modScale h.cord d (fun y =>
    { y with bytes := (List.range 1024).map (fun i => (i, BitVec.ofNat 8 (f (byteAt y.bytes i).toNat (byteAt src i).toNat))) }))
  stampScale s h.sel.cord d (rb == 1#1)

/-- A scale-arithmetic word (R336, R337). -/
def skWord (i : Instr) (g : Guard) (d a : BitVec 7) (r : BitVec 1) (f : Nat → Nat → Nat) (s : State) : Out :=
  runWord i g (fun h _ => { kregs := [d.toNat, a.toNat], hold := scaleBusy h.cord [d.toNat, a.toNat] }) noCheck plainLeave
    (skAll f d.toNat a.toNat r) s

/-- Either operand is the NaN scale. -/
def skNan (f : Nat → Nat → Nat) (x y : Nat) : Nat := if x == 255 || y == 255 then 255 else f x y

/-- Product of scales (R336). -/
def execSkadd (g : Guard) (d a : BitVec 7) (r : BitVec 1) (s : State) : Out :=
  skWord (.skadd g d a r) g d a r (skNan (fun x y => (sat ((x : Int) + y - 127) 0 254).toNat)) s

/-- Quotient of scales (R336). -/
def execSksub (g : Guard) (d a : BitVec 7) (r : BitVec 1) (s : State) : Out :=
  skWord (.sksub g d a r) g d a r (skNan (fun x y => (sat ((x : Int) - y + 127) 0 254).toNat)) s

/-- Greater scale (R336). -/
def execSkmax (g : Guard) (d a : BitVec 7) (r : BitVec 1) (s : State) : Out := skWord (.skmax g d a r) g d a r (skNan max) s

/-- Lesser scale (R336). -/
def execSkmin (g : Guard) (d a : BitVec 7) (r : BitVec 1) (s : State) : Out := skWord (.skmin g d a r) g d a r (skNan min) s

/-- Copy scales (R336). -/
def execSkmov (g : Guard) (d a : BitVec 7) (r : BitVec 1) (s : State) : Out := skWord (.skmov g d a r) g d a r (fun _ y => y) s

/-- Set every scale (R336). -/
def execSkset (g : Guard) (d a : BitVec 7) (r : BitVec 1) (s : State) : Out :=
  runWord (.skset g d a r) g
    (fun h _ => { reads := [.s (sReg a)], kregs := [d.toNat], hold := scaleBusy h.cord [d.toNat] }) noCheck plainLeave
    (fun h s => skAll (fun _ _ => (rdS h.cord (sReg a)).toNat % 256) d.toNat d.toNat r h s) s

/-- Read one scale byte; 0 beyond the register (R336). -/
def execSkext (g : Guard) (d a : BitVec 7) (s : State) : Out :=
  runWord (.skext g d a) g
    (fun h _ => { reads := [.v d], writes := [.v d], lat := 4, kregs := [a.toNat], hold := scaleBusy h.cord [a.toNat] }) noCheck plainLeave
    (fun h s =>
      let n := (rdV h.st d).toNat
      let b := if 1023 < n then 0 else (byteAt (scaleOf (coreOfCord s h.cord) h.cord a.toNat).bytes n).toNat
      writeRegs s h (toV d (BitVec.ofNat 32 b)) (h.now + 4) false) s

/-- Write one scale byte (R336). -/
def execSkins (g : Guard) (d a : BitVec 7) (r : BitVec 1) (s : State) : Out :=
  runWord (.skins g d a r) g
    (fun h _ => { reads := [.v a], kregs := [d.toNat], hold := scaleBusy h.cord [d.toNat] }) noCheck plainLeave
    (fun h s =>
      let x := rdV h.st a
      let s := modHereCore s h (modScale h.cord d.toNat (fun y =>
        { y with bytes := mset y.bytes (x.extractLsb' 16 10).toNat (x.extractLsb' 0 8) }))
      stampScale s h.sel.cord d.toNat (r == 1#1)) s

/-- Bind a tile to a scale register's current tag (R338). -/
def execSkbind (g : Guard) (d a : BitVec 7) (s : State) : Out :=
  runWord (.skbind g d a) g (fun h _ => { kregs := [a.toNat], hold := scaleBusy h.cord [a.toNat] })
    (fun h s => if (tileOf h.cord d.toNat).state == 0 then some (faultHere s h (.skbind g d a) 19 0 0) else none) plainLeave
    (fun h s =>
      let t := tileOf h.cord d.toNat
      let x := (scaleOf (coreOfCord s h.cord) h.cord a.toNat).crown
      modHereCord s h (setTile d.toNat { t with bk := a.toNat, btag := x, state := 2 })) s

/-! ### Sparse forms -/

/-- The scratchpad ranges of a tile's lines. -/
def tileRanges (t : Tile) : List (Nat × Nat) :=
  (List.range (tileLines t)).map (fun r => (t.base + r * t.pitch, t.base + r * t.pitch + lineBytes t))

/-- The scratchpad bytes of two tiles overlap (R339). -/
def tilesOverlap (t u : Tile) : Bool :=
  (tileRanges t).any (fun p => (tileRanges u).any (fun q => decide (p.1 < q.2) && decide (q.1 < p.2)))

/-- The two of four values kept: those of greatest magnitude, ties to the lower row, in ascending position (R339). -/
def keepTwo (vs : List Int) : List (Nat × Int) :=
  let mag (i : Nat) : Nat := (vs.getD i 0).natAbs
  let beats (i j : Nat) : Bool := decide (mag j < mag i) || (mag i == mag j && decide (i < j))
  ((List.range 4).filter (fun i => decide (((List.range 4).filter (fun j => j != i && beats j i)).length < 2))).map (fun i => (i, vs.getD i 0))

/-- The record of one column (R321, R339). -/
def compactColumn (w : Nat) (col : List Int) : List (BitVec 8) :=
  let kept := (List.range 32).map (fun v =>
    keepTwo ((List.range 4).map (fun i => col.getD (8 * v + i) 0)) ++ keepTwo ((List.range 4).map (fun i => col.getD (8 * v + 4 + i) 0)))
  let data := packElems w (kept.flatMap (fun q => q.map (fun x => (x.2 % (2 ^ w : Int)).toNat)))
  let pos := kept.map (fun q => BitVec.ofNat 8 ((List.range 4).foldl (fun n e => n + (q.getD e (0, 0)).1 * 4 ^ e) 0))
  let used := data ++ pos ++ [0xFF, 0xFF, 0xFF, 0xFF]
  used ++ List.replicate ((if w == 8 then 256 else 128) - used.length) 0

/-- The records a cmpr writes (R339). -/
def compactTile (m : SMap (BitVec 8)) (b : Nat) (t : Tile) : List (List (BitVec 8)) :=
  let w := if t.fmt == 10#4 then 8 else 4
  (List.range t.cols).map (fun n => compactColumn w ((List.range 256).map (fun k =>
    signedCode w (elemAt w (getBytes m (b + t.base + k * t.pitch) (lineBytes t)) n))))

/-- The record sbmap writes for one column: dead vectors lose their bitmap bit (R340). -/
def prunedRecord (w : Nat) (rec : List (BitVec 8)) : List (BitVec 8) :=
  (List.range rec.length).map (fun i =>
    let b := rec.getD i 0
    if 32 * w / 2 + 32 ≤ i && i < 32 * w / 2 + 36 then
      (List.range 8).foldl (fun x j =>
        let v := 8 * (i - (32 * w / 2 + 32)) + j
        if (List.range 4).all (fun e => (keptElem w rec v e).1 == 0) then x &&& ~~~(BitVec.ofNat 8 (2 ^ j)) else x) b
    else b)

/-- Write records into a tile. -/
def putRecords (t : Tile) (b : Nat) (rs : List (List (BitVec 8))) (m : SMap (BitVec 8)) : SMap (BitVec 8) :=
  (List.range rs.length).foldl (fun m n => putBytes m (b + t.base + n * t.pitch) (rs.getD n [])) m

/-- A word from tile tS to tile tD: it captures both and holds the next issue until its last byte is written (R324, R339, R340). -/
def tileWord (i : Instr) (g : Guard) (d a : BitVec 7) (prune : Bool) (ok : Here → Bool) (s : State) : Out :=
  runWord i g (fun _ _ => {}) (fun h s => if ok h then none else some (faultHere s h i 19 0 0)) plainLeave
    (fun h s =>
      let x : Tiling := ⟨s.uid, prune, tileOf h.cord a.toNat, a.toNat, tileOf h.cord d.toNat, d.toNat⟩
      modHere { s with uid := s.uid + 1 } h (fun st => { st with tiling := some x })) s

/-- The records a cmpr or an sbmap writes. -/
def tilingRecords (x : Tiling) (m : SMap (BitVec 8)) (b : Nat) : List (List (BitVec 8)) :=
  if x.prune then
    (List.range x.src.cols).map (fun n =>
      prunedRecord (if x.src.fmt == 10#4 then 8 else 4) (getBytes m (b + x.src.base + n * x.src.pitch) (lineBytes x.src)))
  else compactTile m b x.src

/-- A cmpr or sbmap completes: in a free cycle, once the tile interlock lets it, it reads its tile and writes the other's records, and that tile
takes STATE, BK and BTAG (R324, R339, R340; log 40). -/
def execTileWrite (k l : Nat) (s : State) : Out :=
  match mget s.cords k with
  | none => .next s
  | some c =>
    match (mget c.strands l).bind (·.tiling) with
    | none => .next s
    | some x =>
      if !(c.life == .running && tilingReady c x) then .next s
      else
        let s := modCoreOf s c (fun co =>
          { co with scratch := putRecords x.dst (scrBase c) (tilingRecords x co.scratch (scrBase c)) co.scratch })
        let s := modCord s k (setTile x.dstNo { tileOf c x.dstNo with state := 2, bk := x.src.bk, btag := x.src.btag })
        .next (modStrand s k l (fun st => { st with tiling := none, ready := max st.ready (cycOf s c.dev c.die + 1) }))

/-- Compact a dense tile into the two-level form (R339). -/
def execCmpr (g : Guard) (d a : BitVec 7) (s : State) : Out :=
  tileWord (.cmpr g d a) g d a false
    (fun h =>
      let ts := tileOf h.cord a.toNat
      let td := tileOf h.cord d.toNat
      ts.state == 2 && !ts.sparse && (ts.fmt == 10#4 || ts.fmt == 11#4) && ts.rows == 256 && td.state != 0 && td.sparse &&
      td.fmt == ts.fmt && td.rows == ts.rows && td.cols == ts.cols && !tilesOverlap td ts) s

/-- Clear the bitmap bits of vectors of zeros (R340). -/
def execSbmap (g : Guard) (d a : BitVec 7) (s : State) : Out :=
  tileWord (.sbmap g d a) g d a true
    (fun h =>
      let ts := tileOf h.cord a.toNat
      let td := tileOf h.cord d.toNat
      ts.state == 2 && ts.sparse &&
      (d == a || (td.state != 0 && td.sparse && td.fmt == ts.fmt && td.rows == ts.rows && td.cols == ts.cols && !tilesOverlap td ts))) s

end Sys2Proof.Machine
end

