-- ==== Sys2Proof/Machine/Fabric.lean ====
section
/-!
DEFINITION. The fabric: its words (spec/24_fabric_instructions.md R404 to R416), the arrivals of sends and the landings
(R408 to R411), requests from other modules and their links (spec/23_dies_and_devices.md R388 to R398), and the Ethernet
endpoint (R401 to R403, R415).
-/
namespace Sys2Proof.Machine

/-! ### Descriptors -/

/-- LEN, TAG, TV, SSP and ETYPE of a send descriptor (R407). -/
def sendLen (ds : List (BitVec 64)) : Nat := bitsOf (dreg ds 2) 0 32
def sendTag (ds : List (BitVec 64)) : Nat := bitsOf (dreg ds 2) 32 16
def sendTv (ds : List (BitVec 64)) : Bool := (dreg ds 2).getLsbD 48
def sendSsp (ds : List (BitVec 64)) : Bool := (dreg ds 2).getLsbD 49
def sendType (ds : List (BitVec 64)) : Nat := bitsOf (dreg ds 2) 50 2

/-- Bytes of an element of rsend.add (R409). -/
def addSize (t : Nat) : Nat := if t == 1 then 8 else 4

/-- The checks of a send descriptor in the order field values, alignment, bound (R406 to R409): cause and ADDR. -/
def sendFault (c : Cord) (add : Bool) (ds : List (BitVec 64)) : Option (Nat × BitVec 64) :=
  let n := sendLen ds
  if bitsOf (dreg ds 2) 52 12 != 0 || n == 0 || 2 ^ 24 < n || (add && (sendType ds == 3 || n % addSize (sendType ds) != 0)) then
    some (19, 0)
  else if add && (dreg ds 1).toNat % addSize (sendType ds) != 0 then some (7, dreg ds 1)
  else if sendSsp ds && !scratchOk c (dreg ds 0).toNat n then some (8, dreg ds 0)
  else none

/-- The first byte of a transfer that breaks the leases: its global source, then its destination (R416, R257). -/
def sendLease (s : State) (k : Nat) (c : Cord) (ds : List (BitVec 64)) (dst : Bool) : Option (BitVec 64) :=
  if c.hdr.leases.isEmpty then none
  else
    match (if sendSsp ds then none else leaseMiss s k c (upFrom (dreg ds 0) (sendLen ds)) false) with
    | some b => some b
    | none => if dst then leaseMiss s k c (upFrom (dreg ds 1) (sendLen ds)) true else none

/-- The rights a send needs at its destination (R242, R282). -/
def sendNeed (add : Bool) : Need := { r := add, w := true, atomic := add }

/-- A send word (R407 to R409). A destination that does not translate at issue fails it when it starts. -/
def sendWord (i : Instr) (g : Guard) (a : BitVec 7) (add : Bool) (s : State) : Out :=
  let ds (h : Here) : List (BitVec 64) := sRegs h.cord a 3
  runWord i g (fun h _ => { reads := descRegs a 3, fallible := true, hold := counterFull h .fabric })
    (fun h s => (sendFault h.cord add (ds h)).map (fun f => faultHere s h i f.1 f.2 0))
    plainLeave
    (fun h s =>
      let f := (accessFate s (coreIdOf h.cord) h.cord.ctx (sendNeed add) (dreg (ds h) 1) (sendLen (ds h))).getD (0, 0)
      leasedIssue h (sendLease s h.sel.cord h.cord (ds h) true) (issueEngine i h { blankEOp with
        kind := if add then .rsendAdd else .rsend
        desc := ds h
        cause := f.1
        addr := BitVec.ofNat 64 f.2 }) s) s

/-- Send bytes to memory anywhere in the pod (R408). -/
def execRsend (g : Guard) (a : BitVec 7) (s : State) : Out := sendWord (.rsend g a) g a false s

/-- Send elements that are added into memory (R409). -/
def execRsendAdd (g : Guard) (a : BitVec 7) (s : State) : Out := sendWord (.rsendAdd g a) g a true s

/-- The trigger fields of sB+3 (R412). -/
def trigThresh (ds : List (BitVec 64)) : Nat := bitsOf (dreg ds 3) 32 32
def trigAdd (ds : List (BitVec 64)) : Bool := (dreg ds 3).getLsbD 19
def trigOff (ds : List (BitVec 64)) : Nat := bitsOf (dreg ds 3) 0 19

/-- The lowest free trigger entry of a cord. -/
def freeTrig (c : Cord) : Option Nat := (List.range 16).find? (fun n => (c.trig[n]?).any (fun t => !t.armed))

/-- The arming count after one more arming (R412). -/
def nextArming (x : BitVec 12) : BitVec 12 := if x == 0xFFF#12 then 1 else x + 1

/-- An empty trigger entry. -/
def blankTrig : Trig := ⟨false, 0, 0, 0, 0, 0, 0, [], false, 0, 0⟩

/-- Arm entry n of a cord: the ARM bit is set, and the send fires in this step when its trigger holds (R412, R413). -/
def armEntry (i : Instr) (n : Nat) (ds : List (BitVec 64)) (h : Here) (s : State) : State :=
  let c := h.cord
  let k := h.sel.cord
  let m := (coreOfCord s c).scratch
  let a := scrBase c + trigOff ds
  let old := c.trig[n]?.getD blankTrig
  let (u, s) := freshUid s
  let t : Trig := {
    armed := true
    count := nextArming old.count
    lane := h.sel.lane
    after := u
    sw := trigOff ds
    thresh := trigThresh ds
    gen := BitVec.ofNat 32 (word32 m (a + 8))
    desc := ds.take 3
    add := trigAdd ds
    pc := pcOf h.st
    word := wordOf s h i }
  let s := modCord s k (fun c => { c with trig := c.trig.setIfInBounds n t })
  let s := modCoreOf s c (fun co => { co with scratch := setArm co.scratch a true })
  fireOn s k (trigOff ds) (· == n)

/-- Arm a send on a sync word (R412). -/
def execTsend (g : Guard) (d a : BitVec 7) (s : State) : Out :=
  let i : Instr := .tsend g d a
  let ds (h : Here) : List (BitVec 64) := sRegs h.cord a 4
  runWord i g (fun _ _ => { reads := descRegs a 4, writes := [.s (sReg d)] })
    (fun h s =>
      let m := (coreOfCord s h.cord).scratch
      let target := word32 m (scrBase h.cord + trigOff (ds h))
      let f : Option (Nat × BitVec 64) :=
        if bitsOf (dreg (ds h) 3) 20 12 != 0 then some (19, 0)
        else
          match sendFault h.cord (trigAdd (ds h)) (ds h) with
          | some f => some f
          | none =>
            if trigOff (ds h) % 16 != 0 then some (7, BitVec.ofNat 64 (trigOff (ds h)))
            else if !scratchOk h.cord (trigOff (ds h)) 16 then some (8, BitVec.ofNat 64 (trigOff (ds h)))
            else if target != 0 && decide (target < trigThresh (ds h)) then some (19, 0)
            else none
      f.map (fun f => faultHere s h i f.1 f.2 0))
    plainLeave
    (fun h s =>
      leasedIssue h (sendLease s h.sel.cord h.cord (ds h) true) (fun s =>
        match freeTrig h.cord with
        | none => writeRegs s h (toS (sReg d) 0) (h.now + 1) false
        | some n =>
          let count := nextArming (h.cord.trig[n]?.getD blankTrig).count
          writeRegs (armEntry i n (ds h) h s) h (toS (sReg d) (BitVec.ofNat 64 (n + 16 * count.toNat))) (h.now + 1) false) s) s

/-- Cancel the armed send a handle names (R414). -/
def execTscncl (g : Guard) (a : BitVec 7) (s : State) : Out :=
  runWord (.tscncl g a) g (fun _ _ => { reads := [.s (sReg a)] }) noCheck plainLeave
    (fun h s =>
      let x := (rdS h.cord (sReg a)).toNat
      cancelSends s h.sel.cord (fun n t => n + 16 * t.count.toNat == x)) s

/-- The spray fields of an esend descriptor (R415). -/
def esendPeer (ds : List (BitVec 64)) : Nat := bitsOf (dreg ds 3) 0 16
def esendOff (ds : List (BitVec 64)) : Nat := bitsOf (dreg ds 3) 16 19
def esendSet (ds : List (BitVec 64)) : Nat := bitsOf (dreg ds 2) 49 6 + 1

/-- Send to an Ethernet endpoint of the peer table (R415). -/
def execEsend (g : Guard) (a : BitVec 7) (s : State) : Out :=
  let i : Instr := .esend g a
  let ds (h : Here) : List (BitVec 64) := sRegs h.cord a 4
  runWord i g (fun h _ => { reads := descRegs a 4, fallible := true, hold := counterFull h .fabric })
    (fun h s =>
      let d := ds h
      let n := sendLen d
      let f : Option (Nat × BitVec 64) :=
        if bitsOf (dreg d 2) 55 9 != 0 || bitsOf (dreg d 3) 35 29 != 0 || n == 0 || decide (2 ^ 24 < n) ||
            (mget (ctxOf s h.cord.ctx).peers (esendPeer d)).isNone then some (19, 0)
        else if esendOff d % 2 != 0 then some (7, BitVec.ofNat 64 (esendOff d))
        else if !scratchOk h.cord (esendOff d) (2 * esendSet d) then some (8, BitVec.ofNat 64 (esendOff d))
        else if (dreg d 2).getLsbD 48 && !scratchOk h.cord (dreg d 0).toNat n then some (8, dreg d 0)
        else none
      f.map (fun f => faultHere s h i f.1 f.2 0))
    plainLeave
    (fun h s =>
      let d := ds h
      let m := (coreOfCord s h.cord).scratch
      let e : EOp := { blankEOp with
        kind := .esend
        desc := d
        spray := (List.range (esendSet d)).map (fun i => BitVec.ofNat 16 (leNat (getBytes m (scrBase h.cord + esendOff d + 2 * i) 2))) }
      let bad := if (dreg d 2).getLsbD 48 || h.cord.hdr.leases.isEmpty then none
        else leaseMiss s h.sel.cord h.cord (upFrom (dreg d 0) (sendLen d)) false
      leasedIssue h bad (issueEngine i h e) s) s

/-- Register a landing (R410). -/
def execErecv (g : Guard) (a : BitVec 7) (s : State) : Out :=
  let i : Instr := .erecv g a
  let ds (h : Here) : List (BitVec 64) := sRegs h.cord a 3
  runWord i g (fun h _ => { reads := descRegs a 3, fallible := true, hold := counterFull h .fabric })
    (fun h s =>
      let off := bitsOf (dreg (ds h) 2) 0 19
      if bitsOf (dreg (ds h) 1) 49 15 != 0 || bitsOf (dreg (ds h) 2) 19 45 != 0 then some (faultHere s h i 19 0 0)
      else syncCheck i h s (some off))
    plainLeave
    (fun h s => issueEngine i h { blankEOp with kind := .erecv, desc := ds h } s) s

/-! ### Starting a send -/

/-- The source byte of a transfer. -/
def sendSource (ssp : Bool) (ds : List (BitVec 64)) (i : Nat) : Place :=
  if ssp then .scr ((dreg ds 0).toNat + i) else .glob ((dreg ds 0).toNat + i)

/-- The source is a scratchpad offset: bit 49 of a send's sB+2, bit 48 of an esend's (R407, R415). -/
def sourceSsp (e : EOp) : Bool := if e.kind == .esend then (dreg e.desc 2).getLsbD 48 else sendSsp e.desc

/-- The global bytes a send reads when it starts. -/
def sendReads (e : EOp) : List Nat :=
  if (e.kind == .rsend || e.kind == .rsendAdd || e.kind == .esend) && !sourceSsp e then
    upFrom (dreg e.desc 0) (sendLen e.desc)
  else []

/-- The source bytes of a send, or the first that cannot be read: cause, address, DETAIL (R408, R298). -/
def readSource (s : State) (c : Cord) (e : EOp) : (Nat × BitVec 64 × BitVec 64) ⊕ List (BitVec 8) :=
  let rs := (List.range (sendLen e.desc)).map (fun i =>
    let p := sendSource (sourceSsp e) e.desc i
    (p, readPlace s c e p))
  match rs.findSome? (fun r => match r.2 with | .inl f => some (f.1, failAddr f.1 r.1, f.2) | .inr _ => none) with
  | some f => .inl f
  | none => .inr (rs.map (fun r => match r.2 with | .inr b => b | .inl _ => 0))

/-- The bytes a send names as its destination. -/
def sendTargets (e : EOp) : List Nat :=
  if e.kind == .rsend || e.kind == .rsendAdd then upFrom (dreg e.desc 1) (sendLen e.desc) else []

/-- A send does not start while a plane its arrivals would take is being retired (R391). -/
def sendHeld (s : State) (c : Cord) (e : EOp) : Bool :=
  (sendTargets e).any (fun va => match engineKey s c (sendNeed (e.kind == .rsendAdd)) va with
    | .inr a => planeRetiring s c.dev a
    | .inl _ => false)

/-- The home bytes of a destination range, or the first byte with no translation or right: cause, address. -/
def destKeys (s : State) (c : Cord) (n : Need) (va : BitVec 64) (len : Nat) : (Nat × BitVec 64) ⊕ List Nat :=
  let ks := (upFrom va len).map (fun v => (v, engineKey s c n v))
  match ks.findSome? (fun x => match x.2 with | .inl f => some (f, BitVec.ofNat 64 x.1) | .inr _ => none) with
  | some f => .inl f
  | none => .inr (ks.map (fun x => match x.2 with | .inr a => a | .inl _ => 0))

/-- The arrivals of a destination range: first byte and length of each part cut at 256-byte regions (R408). -/
def cutRegions (va : BitVec 64) (len : Nat) : List (Nat × Nat) :=
  let off := va.toNat % 256
  (List.range ((off + len + 255) / 256)).map (fun j =>
    let lo := 256 * j - off
    (lo, min len (256 * (j + 1) - off) - lo))

/-- One arrival of a send leaves (R408, R409). -/
def sendArrival (k u : Nat) (c : Cord) (e : EOp) (keys : List Nat) (data : List (BitVec 8)) (s : State) (x : (Nat × Nat) × Nat) : State :=
  let va := dreg e.desc 1 + BitVec.ofNat 64 x.1.1
  let as := (keys.drop x.1.1).take x.1.2
  sendPacket s (coreIdOf c) c.ctx k e.lane u x.2 (as.headD 0) (.arrival as ((data.drop x.1.1).take x.1.2) va (genAt s c va.toNat)
    (if sendTv e.desc then some (sendTag e.desc) else none)
    (if e.kind == .rsendAdd then some (sendType e.desc) else none) e.ftz e.en)

/-- A send starts: its destination translates, its source is read, its arrivals leave (R408). -/
def startSend (s : State) (k : Nat) (c : Cord) (e : EOp) : State :=
  if e.cause != 0 then finishEop s k e.uid
  else
    let s := engineTrans (engineTouch s c e.hint (sendReads e)) c (sendTargets e)
    match destKeys s c (sendNeed (e.kind == .rsendAdd)) (dreg e.desc 1) (sendLen e.desc), readSource s c e with
    | .inl f, _ => failEop s k e.uid f.1 f.2 0
    | .inr _, .inl f => failEop s k e.uid f.1 f.2.1 f.2.2
    | .inr keys, .inr data =>
      let ps := cutRegions (dreg e.desc 1) (sendLen e.desc)
      let s := modEop s k e.uid (fun e => { e with state := .started, chunks := List.replicate ps.length 0, got := [] })
      ps.zipIdx.foldl (sendArrival k e.uid c e keys data) s

/-- The address of the path record of an entropy value, of a context and the endpoint of a die: the four pages of a module lie one after
another (R403, log 11). -/
def pathKey (s : State) (ctx dev die : Nat) (entropy : BitVec 16) : Option Nat :=
  ((ctxOf s ctx).roots.find? (·.1 == dev)).map (fun r => byteKey dev (r.2.2 + 4096 * die + 16 * (entropy.toNat % 256)))

/-- A 32-bit field of a path record: 0 ENT and PEER, 1 CWND, 2 SRTT, 3 RETX (R403). -/
def pathField (s : State) (a i : Nat) : Nat := leNat (readMem s.mem (a + 4 * i) 4)

/-- Write a 32-bit field of a path record. -/
def setPath (s : State) (a i v : Nat) : State := { s with mem := writeMem s.mem (a + 4 * i) (leBytes 4 v) }

/-- The endpoint opens the paths of an esend that it has not used before: each takes the first window, which the manual leaves open; until
then its record reads as at reset, and CWND 0 pauses it (R403, log 11). -/
def openPaths (s : State) (c : Cord) (e : EOp) : State :=
  e.spray.foldl (fun s x =>
    match pathKey s c.ctx c.dev c.die x with
    | some a =>
      if (List.range 4).all (fun i => pathField s a i == 0) then
        setPath { s with choices := s.choices + 1 } a 1 (Config.firstWindow s.choices % 2 ^ 32)
      else s
    | none => s) s

/-- An esend starts: its payload is read, and its packets wait for room (R402, R415). -/
def startEsend (s : State) (k : Nat) (c : Cord) (e : EOp) : State :=
  let s := openPaths (engineTouch s c e.hint (sendReads e)) c e
  match readSource s c e with
  | .inl f => failEop s k e.uid f.1 f.2.1 f.2.2
  | .inr data => modEop s k e.uid (fun e => { e with
      state := .started
      sa := data
      got := []
      chunks := List.replicate ((data.length + 4095) / 4096) 3 })

/-- The landing of a tag on a module (R410). -/
def landingOf (x : Context) (dev tag : Nat) : Option Landing := x.landings.find? (fun l => l.dev == dev && l.tag == tag)

/-- An erecv starts and completes: the entry is written, replaced or removed, or another cord holds the tag (R410). -/
def startErecv (s : State) (k : Nat) (c : Cord) (e : EOp) : State :=
  let tag := bitsOf (dreg e.desc 1) 32 16
  let len := bitsOf (dreg e.desc 1) 0 32
  let old := landingOf (ctxOf s c.ctx) c.dev tag
  let rest (x : Context) : List Landing := x.landings.filter (fun l => !(l.dev == c.dev && l.tag == tag))
  let l : Landing := {
    dev := c.dev
    tag := tag
    buf := dreg e.desc 0
    len := len
    port := (dreg e.desc 1).getLsbD 48
    cord := k
    sw := bitsOf (dreg e.desc 2) 0 19
    held := [] }
  if len == 0 then
    finishEop (if old.any (·.cord == k) then modCtx s c.ctx (fun x => { x with landings := rest x }) else s) k e.uid
  else if old.any (·.cord != k) then failEop s k e.uid 21 (dreg e.desc 0) (deliveryDetail c.dev false false true)
  else finishEop (modCtx s c.ctx (fun x => { x with landings := rest x ++ [l] })) k e.uid

/-! ### Links -/

/-- A packet may be decided now: it is not answered, and it stands at its target station, or comes there: it has left its sender, is not
stomped, its path is up and a slot is free (R392 to R394). -/
def deliverable (s : State) (p : Packet) : Bool :=
  p.answer.isNone && (p.reached || (!p.stomped && inReplay s p && pathUp s p && slotFree s p))

/-- The packet of an identifier. -/
def packetAt (s : State) (n : Nat) : Option Packet := s.packets.find? (·.id == n)

/-- Change a packet. -/
def modPacket (s : State) (n : Nat) (f : Packet → Packet) : State :=
  { s with packets := s.packets.map (fun p => if p.id == n then f p else p) }

/-- A packet reaches its target station and takes a receive slot there, whatever it waits for afterwards (R392, R396). -/
def reachStation (s : State) (p : Packet) : State :=
  if p.reached then s else takeSlot (modPacket s p.id (fun p => { p with reached := true, been := true })) p

/-- The target's answer to a packet. -/
def answerPacket (s : State) (p : Packet) (y : Reply) : State := modPacket s p.id (fun p => { p with answer := some y })

/-- A fatal miss of a packet at a byte (R388). -/
def fatalMiss (s : State) (p : Packet) (pc : BitVec 64) (a : Nat) : State :=
  missError s p.ctx p.lane p.node pc a p.src

/-- The first byte of a request whose export entry lacks a right it needs: a fatal miss (R388). -/
def missAt (s : State) (p : Packet) (n : Need) (as : List Nat) : Option Nat := as.find? (fun a => remoteMiss s p.src.dev p.ctx a n)

/-- A request of a strand reaches its target: exports, generation, then the abstract machine (R388, R392, R394). -/
def serveReq (s : State) (p : Packet) (r : Req) : State :=
  match missAt s p (needOf r.kind) r.addrs with
  | none => performGroup s r
  | some a =>
    if !queueHead s r || groupMissing s r then s
    else fatalMiss s p p.pc a

/-- No older request or arrival of the strand to a region of the bytes is outstanding (R384, R394). -/
def arrivalTurn (s : State) (p : Packet) (as : List Nat) : Bool :=
  !sendBefore s p.cord p.lane p.id as &&
  !s.arrivals.any (fun r => r.cord == p.cord && r.lane == p.lane && decide (r.uid < p.id) && sameRegion r.addrs as)

/-- The bytes of a chunk, or of a start, that an engine request writes, fail: their offsets, with cause, ADDR and DETAIL (R300). -/
def badBytes (e : EOp) (n : Nat) (vas : List Nat) (cause : Nat) (detail : BitVec 64) : List (Nat × Nat × BitVec 64 × BitVec 64) :=
  (chunkBytes e n).filterMap (fun i => match (copyByte e i).2 with
    | .glob va => if vas.contains va then some (i, cause, failAddr cause (.glob va), detail) else none
    | .scr _ | .lit _ => none)

/-- What an engine request brought, or how it failed, is noted with its operation. -/
def noteEngine (s : State) (p : Packet) (write : Bool) (vas : List Nat) (got : List EByte) (cause : Nat) (detail : BitVec 64) : State :=
  modEop s p.cord p.op (fun e =>
    if write then { e with bad := e.bad ++ (if cause == 0 then [] else badBytes e p.chunk vas cause detail) }
    else { e with got := e.got ++ got })

/-- A byte an engine request could not bring. -/
def lostByte (cause : Nat) (detail : BitVec 64) (va : Nat) : EByte := ⟨va, cause, detail, 0⟩

/-- The kind of access of an engine request (R298, R388). -/
def engineNeed (write : Bool) : Need := { r := !write, w := write }

/-- An engine request refused for an old generation is retranslated at its sender and sent again; after sixteen refusals, or where it no
longer translates, its bytes fail (R243, R388). A read that no longer translates is found so when its operation goes on. -/
def redirectEngine (s : State) (c : Cord) (p : Packet) (vas : List Nat) (data : List (BitVec 8)) (write : Bool) : State :=
  let s := engineTrans (tlbForget s p.src p.ctx vas) c vas
  let lost (cause : Nat) (vs : List Nat) : State :=
    noteEngine (dropPacket s p) p write vs (vs.map (lostByte cause 0)) cause 0
  if 16 ≤ p.tries + 1 then lost 9 vas
  else
    let ks := vas.map (fun va => (va, engineKey s c (engineNeed write) va))
    match ks.findSome? (fun x => match x.2 with | .inl f => some (x.1, f) | .inr _ => none) with
    | some (va, f) => if write then lost f [va] else dropPacket s p
    | none =>
      let bs := ks.map (fun x => match x.2 with | .inr a => a | .inl _ => 0)
      let s := dropPacket s p
      let n := s.uid
      let s := sendPacket s p.src p.ctx p.cord p.lane p.op p.chunk (bs.headD 0) (.engine vas bs data write (genAt s c (vas.headD 0)) [])
      modPacket s n (fun q => { q with tries := p.tries + 1 })

/-- A home reads the bytes of an engine request, as an observing load; a pressw reads them directly at the base die, with no race check (R298,
R256, R265, R332). -/
def readFor (s : State) (p : Packet) (direct : Bool) (hint : BitVec 32) (vas as : List Nat) : State × List EByte :=
  let s := arbitrate s .engine none as
  let s := if direct then checkWords s (as.map (· / 8)).eraseDups else directoryRead (homeRead s hint as) p.src hint as
  (s, (vas.zip as).map (fun x =>
    if !direct && (tokenOf s x.2).mark == .stale then lostByte 12 (mmDetail 3 none) x.1
    else if poisoned s x.2 then lostByte 11 0 x.1
    else ⟨x.1, 0, 0, readCell s.mem x.2⟩))

/-- A request of an engine operation reaches its target: exports, generation, then its reads or writes (R298, R388). -/
def serveEngine (s : State) (c : Cord) (p : Packet) (vas as : List Nat) (data : List (BitVec 8)) (write : Bool) (gen : BitVec 8) : State :=
  let e := eopOf c p.op
  let hint := e.elim 0 (·.hint)
  if !arrivalTurn s p as || (!write && refreshing s as) || (write && holderHangs s p.src as) then s
  else
    match missAt s p (engineNeed write) as, frameFate s gen as with
    | some a, _ => fatalMiss s p p.pc a
    | none, .hold => s
    | none, .refuse => redirectEngine s c p vas data write
    | none, .perform =>
      if write then
        let (s, bad) := engineWrite s p.src hint (as.zip data)
        answerPacket s p (match bad with | none => okReply [] | some a => failReply 11 ((as.idxOf? a).getD 0) 0)
      else
        let (s, got) := readFor s p (e.any (·.kind == .pressw)) hint vas as
        answerPacket (modPacket s p.id (fun p => { p with payload := .engine vas as data write gen got })) p (okReply [])

/-- A request for a span of instructions or data reaches its target (R66, R67, R383, R388). A right X that the export entry lacks is a fatal
miss where a strand needs the span; a hint's request is dropped. -/
def serveFetch (s : State) (p : Packet) (base : Nat) (as : List Nat) (gen : BitVec 8) (data : Bool) : State :=
  let forget (s : State) : State := if data then dataDone s p.src p.ctx base else askDone s p.src p.ctx base
  match missAt s p (if data then { r := true } else { x := true }) as, frameFate s gen as with
  | some a, _ =>
    match (if data then none else (spanNeeds s p.src p.ctx base).head?) with
    | none => forget (dropPacket s p)
    | some (k, l, pc) => fatalMiss s { p with cord := k, lane := l } pc a
  | none, .hold => s
  | none, .refuse =>
    let t := freshTrans (tlbForget (dropPacket s p) p.src p.ctx [base]) p.src p.ctx base
    if 16 ≤ p.tries + 1 then (if data then forget t else fetchFails t p.src p.ctx base 9 0)
    else
      let n := t.uid
      modPacket (askSpan t p.src p.ctx base data) n (fun q => { q with tries := p.tries + 1 })
  | none, .perform =>
    if refreshing s as then s
    else answerPacket (readTouch s p.src 0 as) p (okReply (as.map (readCell s.mem)))

/-- A request from another module comes to its target station, and is decided there when nothing makes it wait (R388, R392, R394). -/
def execRemoteRequest (n : Nat) (s : State) : Out :=
  match packetAt s n with
  | none => .next s
  | some p =>
    if !deliverable s p then .next s
    else
      match p.payload with
      | .arrival _ _ _ _ _ _ _ _ => .next s
      | .ether _ _ _ _ _ => .next s
      | .req q => .next ((s.arrivals.find? (·.uid == q.uid)).elim s (serveReq (reachStation s p) p))
      | .engine vas as data write gen _ =>
        .next ((mget s.cords p.cord).elim (dropPacket s p) (fun c => serveEngine (reachStation s p) c p vas as data write gen))
      | .fetch base as gen data => .next (serveFetch (reachStation s p) p base as gen data)

/-! ### Arrivals -/

/-- A byte is the translation of an address of a landing's buffer, in the target module's table of the context (R411). -/
def inLanding (s : State) (ctx dev : Nat) (l : Landing) (a : Nat) : Bool :=
  let lo := l.buf.toNat
  let hi := lo + l.len
  (List.range ((hi + 65535) / 65536 - lo / 65536)).any (fun i =>
    let v := (lo / 65536 + i) * 65536 + a % 65536
    decide (lo ≤ v) && decide (v < hi) && ((walk s ctx dev v).any (fun e => entryKey e v == a)))

/-- The landing check (R411). -/
def landingTakes (s : State) (ctx dev tag : Nat) (ether : Bool) (as : List Nat) : Bool :=
  match landingOf (ctxOf s ctx) dev tag with
  | none => false
  | some l => (!ether || l.port) && as.all (inLanding s ctx dev l)

/-- Credit a landing's sync word, or hold the credit while its cord is saved (R408, R410); false for an overrun. -/
def creditLanding (s : State) (ctx dev tag n : Nat) : State × Bool :=
  match landingOf (ctxOf s ctx) dev tag with
  | none => (s, true)
  | some l =>
    if (mget s.cords l.cord).any (fun c => c.life == .saved) then
      (modCtx s ctx (fun x => { x with landings := x.landings.map (fun m =>
        if m.dev == dev && m.tag == tag then { m with held := m.held ++ [n] } else m) }), true)
    else creditAt s l.cord l.sw n

/-- Add element i of an arrival into its home (R409, R282, R284): a STALE or poisoned element, or one whose sum raises an
enabled flag, is not written. -/
def addElement (core : CoreId) (hint : BitVec 32) (as : List Nat) (data : List (BitVec 8)) (t : Nat) (ftz : Bool) (en : BitVec 5)
    (r : State × Reply) (i : Nat) : State × Reply :=
  let w := addSize t
  let ks := (as.drop (w * i)).take w
  let s := r.1
  let keep (cause : Nat) (detail : BitVec 64) (fl : Flags) : Reply :=
    { r.2 with flags := r.2.flags ||| fl
               cause := if r.2.cause == 0 then cause else r.2.cause
               off := if r.2.cause == 0 then w * i else r.2.off
               detail := if r.2.cause == 0 then detail else r.2.detail }
  let s := homeRead (arbitrate s .engine none ks) hint ks
  if ks.any (fun a => (tokenOf s a).mark == .stale) then (s, keep 12 (mmDetail 3 none) 0)
  else if ks.any (poisoned s) then (s, keep 11 0 0)
  else
    let old := leNat (ks.map (readCell s.mem))
    let x := leNat ((data.drop (w * i)).take w)
    let y : Nat × Flags := if t == 2 then fAdd ⟨fp32, 0, false, ftz⟩ old x else ((old + x) % 2 ^ (8 * w), 0)
    if (y.2 &&& en) != 0#5 then (s, keep 13 (y.2.zeroExtend 64) y.2)
    else (directoryWrite (homeWrite s ⟨none, .none, 0⟩ hint [] [] ks (leBytes w y.1)).1 core ks, { r.2 with flags := r.2.flags ||| y.2 })

/-- The bytes of an arrival are performed at their home (R398, R408, R409). -/
def performArrival (s : State) (core : CoreId) (hint : BitVec 32) (as : List Nat) (data : List (BitVec 8)) (etype : Option Nat) (ftz : Bool)
    (en : BitVec 5) : State × Reply :=
  match etype with
  | none =>
    let (s, bad) := engineWrite s core hint (as.zip data)
    (s, match bad with | none => okReply [] | some a => failReply 11 ((as.idxOf? a).getD 0) 0)
  | some t => (List.range (as.length / addSize t)).foldl (addElement core hint as data t ftz en) (s, okReply [])

/-- An arrival that passed its check credits its full count; an overrun fails its operation (R408, R409, R411). -/
def creditArrival (s : State) (ctx dev : Nat) (tag : Option Nat) (n : Nat) (y : Reply) : State × Reply :=
  match tag with
  | none => (s, y)
  | some t =>
    let sw := ((landingOf (ctxOf s ctx) dev t).map (·.sw)).getD 0
    let (s, ok) := creditLanding s ctx dev t n
    (s, if ok || y.cause != 0 then y else { y with cause := 14, off := sw })

/-- The fate of a piece of an engine operation, with the flags it raised. -/
def settlePiece (s : State) (p : Packet) (y : Reply) (addr : BitVec 64) : State :=
  landPiece (modEop s p.cord p.op (fun e => { e with flags := e.flags ||| y.flags })) p.cord p.op p.chunk y.cause addr y.detail

/-- An arrival refused for an old generation is retranslated at its sender, and fails after sixteen refusals (R243, R388). -/
def redirect (s : State) (c : Cord) (p : Packet) (va : BitVec 64) (len : Nat) (add : Bool) (re : List Nat → BitVec 8 → Payload) : State :=
  let fail (cause : Nat) (a : BitVec 64) : State := settlePiece (dropPacket s p) p (failReply cause 0 0) a
  if 16 ≤ p.tries + 1 then fail 9 va
  else
    let vas := upFrom va len
    let s := engineTrans (tlbForget s p.src p.ctx vas) c vas
    match destKeys s c (sendNeed add) va len with
    | .inl f => fail f.1 f.2
    | .inr as =>
      let s := dropPacket s p
      let n := s.uid
      let s := sendPacket s p.src p.ctx p.cord p.lane p.op p.chunk (as.headD 0) (re as (genAt s c va.toNat))
      modPacket s n (fun q => { q with tries := p.tries + 1 })

/-- An arrival of a send reaches its target: exports, generation, landing, bytes, credit (R408 to R411, R388). -/
def execFabricArrival (n : Nat) (s : State) : Out :=
  match packetAt s n with
  | none => .next s
  | some p =>
    match p.payload, mget s.cords p.cord with
    | .arrival as data va gen tag etype ftz en, some c =>
      if !deliverable s p then .next s
      else
        let s := reachStation s p
        if !arrivalTurn s p as || holderHangs s p.src as then .next s
        else
          match missAt s p (sendNeed etype.isSome) as, frameFate s gen as with
          | some a, _ => .next (fatalMiss s p p.pc a)
          | none, .hold => .next s
          | none, .refuse => .next (redirect s c p va as.length etype.isSome (fun bs g => .arrival bs data va g tag etype ftz en))
          | none, .perform =>
            if tag.any (fun t => !landingTakes s p.ctx p.dst t false as) then
              .next (answerPacket s p (failReply 21 0 (deliveryDetail p.dst false false true)))
            else
              let (s, y) := performArrival s p.src ((eopOf c p.op).elim 0 (·.hint)) as data etype ftz en
              let (s, y) := creditArrival s p.ctx p.dst tag as.length y
              .next (answerPacket s p y)
    | _, _ => .next s

/-- ADDR of a failed arrival (R354). -/
def arrivalAddr (va : BitVec 64) (y : Reply) : BitVec 64 :=
  if y.cause == 13 then 0 else if y.cause == 14 then BitVec.ofNat 64 y.off
  else if y.cause == 21 then va else va + BitVec.ofNat 64 y.off

/-- The target's answer returns, and the operation settles, goes on or fills its cache (R66, R393, R395, R397). -/
def execAcknowledgement (n : Nat) (s : State) : Out :=
  match packetAt s n with
  | none => .next s
  | some p =>
    match p.answer with
    | none => .next s
    | some y =>
      if !pathUp s p then .next s
      else
        let t := dropPacket s p
        match p.payload with
        | .req r => .next (applyReply t r y)
        | .arrival _ _ va _ _ _ _ _ => .next (settlePiece t p y (arrivalAddr va y))
        | .engine vas _ _ write _ got => .next (noteEngine t p write [vas.getD y.off 0] got y.cause y.detail)
        | .fetch base _ _ data =>
          .next (if data then dataDone t p.src p.ctx base else fillSpan (askDone t p.src p.ctx base) p.src p.ctx base y.bytes)
        | .ether _ _ _ _ _ => .next s

/-! ### Loss -/

/-- The operation of a packet settles as failed with cause 21 (R393, R395, R396). A lost request for an instruction span faults precisely in
the strands that need it, and a hint's is dropped (DEDUCED, log 70). One that the failure of its access has withdrawn is gone (log 97). -/
def failPacket (s : State) (down : Bool) (p : Packet) : State :=
  if (packetAt s p.id).isNone then s else
  let s := dropPacket s p
  let detail := deliveryDetail p.dst p.been down false
  match p.payload with
  | .req r => applyReply { s with arrivals := s.arrivals.filter (·.uid != r.uid) } r (failReply 21 (r.offs.headD 0) detail)
  | .arrival _ _ va _ _ _ _ _ => settlePiece s p (failReply 21 0 detail) va
  | .engine vas _ _ write _ _ => noteEngine s p write vas (vas.map (lostByte 21 detail)) 21 detail
  | .fetch base _ _ data => if data then dataDone s p.src p.ctx base else fetchFails s p.src p.ctx base 21 detail
  | .ether _ _ _ _ _ => settlePiece s p (failReply 21 0 detail) 0

/-- The bytes a packet acts on for its party. -/
def packetBytes (p : Packet) : List Nat :=
  match p.payload with
  | .req r => r.addrs
  | .arrival as _ _ _ _ _ _ _ => as
  | .engine _ as _ _ _ _ => as
  | .fetch _ _ _ _ => []
  | .ether _ _ _ _ _ => []

/-- The packets that wait behind a missing one of their party and region (R394). -/
def waitingBehind (s : State) (p : Packet) : List Packet :=
  s.packets.filter (fun q => decide (p.id < q.id) && q.cord == p.cord && q.lane == p.lane && q.answer.isNone &&
    sameRegion (packetBytes q) (packetBytes p))

/-- The end-to-end timer of a packet has reached the timeout of its sender; it counts while the packet is sent and both links are up (R393,
R424). -/
def timedOut (s : State) (p : Packet) : Bool :=
  counting s p && decide (((mget s.modules p.src.dev).map (·.e2eLimit)).getD 0 ≤ p.spent + (s.wall - p.since))

/-- A packet stays unacknowledged for the end-to-end timeout: it is resent once; then its operation fails, and with it the
operations of the packets that waited behind it (R393, R394). -/
def execEndToEndTimeout (n : Nat) (s : State) : Out :=
  match packetAt s n with
  | none => .next s
  | some p =>
    if !remotePkt p || etherPkt p || !timedOut s p then .next s
    else if !p.resent then .next (modPacket s n (fun p => { p with resent := true, stomped := false, since := s.wall, spent := 0 }))
    else
      let ws := if p.reached then [] else waitingBehind s p
      .next ((p :: ws).foldl (fun s q => failPacket s false q) s)

/-- A switch stomps a packet: the target places nothing of it and acknowledges nothing (R394). -/
def execStompedPacket (n : Nat) (s : State) : Out :=
  .next (modPacket s n (fun p => if remotePkt p && !p.reached then { p with stomped := true } else p))

/-- A station leaves the up state and retrains (R393, R395). -/
def execLinkRetrain (dev st : Nat) (s : State) : Out :=
  .next (retime s (modStation s dev st (fun t => if t.link == .up then { t with link := .retrain, leftAt := s.wall } else t)))

/-- A station of a module that has started returns to the up state (R385, R395, R421). -/
def execLinkReturn (dev st : Nat) (s : State) : Out :=
  .next (if (mget s.modules dev).any (·.started) then retime s (modStation s dev st (fun t => { t with link := .up })) else s)

/-- The spans a holder reached over a plane of a module hold from homes elsewhere (R385). -/
def holderOn (s : State) (dev st : Nat) (d : Holder) : Bool :=
  let home := keyDev (d.region * 256)
  home != d.dev && (home == dev || d.dev == dev) && planeOf s d.dev (d.region * 256) == st

/-- A link that has been out of the up state for the limit is declared down: unacknowledged operations on it fail, and holders
beyond it leave the directory (R385, R395). -/
def execLinkDownDeclared (dev st : Nat) (s : State) : Out :=
  let t := stationOf s dev st
  let limit := ((mget s.modules dev).map (·.linkLimit)).getD 0
  if t.link == .up || s.wall < t.leftAt + limit then .next s
  else
    let ps := s.packets.filter (fun p => remotePkt p && p.plane == st && (p.src.dev == dev || p.dst == dev) && !etherPkt p)
    let s := modStation s dev st (fun t => { t with link := .down })
    let s := { s with directory := s.directory.filter (fun d => !holderOn s dev st d) }
    .next (ps.foldl (fun s p => failPacket s true p) s)

/-- The next live plane after one, in ascending order modulo 16 (R391). -/
def nextPlane (m : Module) (p : Nat) : Nat :=
  (((List.range 15).map (fun i => (p + 1 + i) % 16)).find? (fun q => m.planes[q]? == some q)).getD p

/-- A request of a module is outstanding on a plane. -/
def planeBusy (s : State) (dev plane : Nat) : Bool :=
  s.packets.any (fun p => remotePkt p && p.plane == plane && p.src.dev == dev && !etherPkt p)

/-- Glesko retires a plane: it first stops new requests to it; once the outstanding ones have settled, its regions go to the next live plane
(R391). -/
def execPlaneRetire (dev plane : Nat) (s : State) : Out :=
  match mget s.modules dev with
  | none => .next s
  | some m =>
    if !m.retiring.getLsbD plane then
      .next { s with modules := mmod s.modules dev (fun m => { m with retiring := m.retiring ||| BitVec.ofNat 16 (2 ^ plane) }) }
    else if planeBusy s dev plane then .next s
    else .next { s with modules := mmod s.modules dev (fun m => { m with
      planes := m.planes.map (fun q => if q == plane then nextPlane m plane else q)
      retiring := m.retiring &&& ~~~(BitVec.ofNat 16 (2 ^ plane)) }) }

/-- A station replays the flits its partner reports damaged or missing; those of packets that have reached their target leave
the buffer (R390, R392). -/
def execLinkLevelReplay (dev st : Nat) (s : State) : Out :=
  let gone := modStation s dev st (fun t => { t with replay := t.replay.filter (fun n => (packetAt s n).any (fun p => !p.reached)) })
  .next (retime s (fillReplay gone dev st))

/-- The packets of a context that occupy receive slots of a station: they have reached it and wait to be decided (R392). -/
def slotsHeld (s : State) (dev st ctx : Nat) : Nat :=
  (s.packets.filter (fun p => remotePkt p && p.dst == dev && p.plane == st && p.ctx == ctx && p.reached && p.answer.isNone && !etherPkt p)).length

/-- A receive slot that no packet occupies any longer is freed, and its credit returns to the sender (R392). -/
def execLinkCreditReturn (dev st ctx : Nat) (s : State) : Out :=
  if (mget (stationOf s dev st).inUse ctx).getD 0 ≤ slotsHeld s dev st ctx then .next s
  else .next (retime s (modStation s dev st (fun t => { t with inUse := mmod t.inUse ctx (· - 1) })))

/-! ### The Ethernet endpoint -/

/-- The Ethernet link of a die is up (R401). -/
def etherUp (s : State) (dev die : Nat) : Bool := (mget s.modules dev).any (fun m => m.ether[die]? == some .up)

/-- An Ethernet packet of a context that leaves the endpoint of a die on the path of an entropy value. -/
def onPath (ctx : Nat) (src : CoreId) (entropy : BitVec 16) (p : Packet) : Bool :=
  match p.payload with
  | .ether _ _ _ e _ => p.ctx == ctx && p.src.dev == src.dev && p.src.die == src.die && e.toNat % 256 == entropy.toNat % 256
  | .req _ | .arrival _ _ _ _ _ _ _ _ | .engine _ _ _ _ _ _ | .fetch _ _ _ _ => false

/-- The bytes in flight on a path. -/
def inFlight (s : State) (ctx : Nat) (src : CoreId) (entropy : BitVec 16) : Nat :=
  ((s.packets.filter (onPath ctx src entropy)).map (fun p => match p.payload with
    | .ether d _ _ _ _ => d.length
    | .req _ | .arrival _ _ _ _ _ _ _ _ | .engine _ _ _ _ _ _ | .fetch _ _ _ _ => 0)).sum

/-- The path an esend's next packet of n bytes takes (R402): the least step j from k with room. -/
def sprayStep (s : State) (c : Cord) (e : EOp) (n : Nat) : Option Nat :=
  (List.range e.spray.length).find? (fun j =>
    let x := e.spray.getD ((e.sprayK + j) % e.spray.length) 0
    (pathKey s c.ctx c.dev c.die x).any (fun a => decide (inFlight s c.ctx (coreIdOf c) x + n ≤ pathField s a 1)))

/-- An esend sends its next packet on the first path with room (R402, R415). -/
def execSprayPacketSend (k u : Nat) (s : State) : Out :=
  match mget s.cords k with
  | none => .next s
  | some c =>
    match eopOf c u with
    | none => .next s
    | some e =>
      match (if e.kind == .esend && e.state == .started && etherUp s c.dev c.die then e.chunks.idxOf? 3 else none) with
      | none => .next s
      | some i =>
        let data := (e.sa.drop (4096 * i)).take 4096
        match sprayStep s c e data.length, mget (ctxOf s c.ctx).peers (esendPeer e.desc) with
        | some j, some peer =>
          let at_ := (e.sprayK + j) % e.spray.length
          let x := e.spray.getD at_ 0
          let s := match pathKey s c.ctx c.dev c.die x with
            | none => s
            | some a => setPath s a 0 (x.toNat + 2 ^ 16 * esendPeer e.desc)
          let (n, s) := freshUid s
          let p : Packet := {
            id := n
            src := coreIdOf c
            dst := peer.dev
            dstDie := peer.die
            plane := 0
            ctx := c.ctx
            cord := k
            lane := e.lane
            op := u
            chunk := i
            payload := .ether data ((dreg e.desc 1).toNat + 4096 * i) (bitsOf (dreg e.desc 2) 32 16) x (esendPeer e.desc)
            reached := false
            answer := none
            resent := false
            stomped := false
            tries := 0
            since := s.wall
            spent := 0
            been := false
            pc := e.pc
            node := c.node }
          let s := { s with packets := s.packets ++ [p] }
          .next (modEop s k u (fun e => { e with
            chunks := e.chunks.set i 0
            sprayK := (at_ + 1) % e.spray.length }))
        | _, _ => .next s

/-- The home bytes of an Ethernet payload, translated on the target (R411), each with whether it may be written there (R242, R252). -/
def etherKeys (s : State) (ctx dev : Nat) (l : Landing) (roff n : Nat) : Option (List (Nat × Bool)) :=
  let ks := (List.range n).map (fun i =>
    let v := l.buf.toNat + roff + i
    (walk s ctx dev v).map (fun e => (entryKey e v, e.w && (!isWeight (entryKey e v) || windowOpenFor s ctx (entryKey e v)))))
  if ks.all Option.isSome then some (ks.map (·.getD (0, false))) else none

/-- The first byte of an Ethernet payload whose home refuses the translation that the target's table gives it: the endpoint keeps no
translation, so each of its sixteen walks finds the same one (R243; DEDUCED, log 99). -/
def etherOld (s : State) (ctx dev : Nat) (l : Landing) (roff n : Nat) : Option Nat :=
  (List.range n).find? (fun i =>
    let v := l.buf.toNat + roff + i
    (walk s ctx dev v).any (fun e =>
      let f := frameOf s (entryKey e v)
      f.state != .valid || f.gen != e.gen))

/-- A failing byte of an Ethernet payload is named by its virtual address in the landing (R354). -/
def etherReply (l : Landing) (roff : Nat) (y : Reply) : Reply :=
  if 9 ≤ y.cause && y.cause ≤ 12 then { y with off := l.buf.toNat + roff + y.off } else y

/-- An Ethernet packet is checked, placed once and credited (R243, R402, R411, R415). -/
def execEthernetPacket (n : Nat) (s : State) : Out :=
  match packetAt s n with
  | none => .next s
  | some p =>
    match p.payload with
    | .req _ | .arrival _ _ _ _ _ _ _ _ | .engine _ _ _ _ _ _ | .fetch _ _ _ _ => .next s
    | .ether data roff tag _ _ =>
      if p.reached || !etherUp s p.src.dev p.src.die || !etherUp s p.dst p.dstDie then .next s
      else
        let put (s : State) (y : Reply) : State := modPacket s n (fun p => { p with reached := true, answer := some y })
        let refused := put s (failReply 21 0 (deliveryDetail p.dst false false true))
        match landingOf (ctxOf s p.ctx) p.dst tag with
        | none => .next refused
        | some l =>
          match etherKeys s p.ctx p.dst l roff data.length with
          | none => .next refused
          | some ks =>
            let as := ks.map (·.1)
            if as.any (fun a => (frameOf s a).state == .moving) || holderHangs s ⟨p.dst, p.dstDie, 0⟩ as then .next s
            else if !landingTakes s p.ctx p.dst tag true as then .next refused
            else
              match ks.findIdx? (!·.2), etherOld s p.ctx p.dst l roff data.length with
              | some i, _ => .next (put s (etherReply l roff (failReply 10 i 0)))
              | none, some i => .next (put s (etherReply l roff (failReply 9 i 0)))
              | none, none =>
                let (s, y) := performArrival s ⟨p.dst, p.dstDie, 0⟩ 0 as data none false 0
                let (s, y) := creditArrival s p.ctx p.dst (some tag) data.length (etherReply l roff y)
                .next (put s y)

/-- The transport sends a lost packet again and counts it (R402, R403). -/
def execTransportRetransmission (n : Nat) (s : State) : Out :=
  match packetAt s n with
  | none => .next s
  | some p =>
    match p.payload with
    | .req _ | .arrival _ _ _ _ _ _ _ _ | .engine _ _ _ _ _ _ | .fetch _ _ _ _ => .next s
    | .ether _ _ _ x _ =>
      match pathKey s p.ctx p.src.dev p.src.die x with
      | some a => .next (modPacket (setPath s a 3 ((pathField s a 3 + 1) % 2 ^ 32)) n (fun p => { p with resent := true }))
      | none => .next s

/-- The receiving endpoint acknowledges a packet: the path's window and round-trip time are updated, and the packet counts
toward the completion of its esend (R397, R402, R403). -/
def execTransportAcknowledgement (n cwnd srtt : Nat) (s : State) : Out :=
  match packetAt s n with
  | none => .next s
  | some p =>
    match p.payload, p.answer with
    | .ether _ _ _ x _, some y =>
      let s := match pathKey s p.ctx p.src.dev p.src.die x with
        | some a => setPath (setPath s a 1 (cwnd % 2 ^ 32)) a 2 (srtt % 2 ^ 32)
        | none => s
      .next (settlePiece (dropPacket s p) p y (if y.cause == 14 || (9 ≤ y.cause && y.cause ≤ 12) then BitVec.ofNat 64 y.off else 0))
    | _, _ => .next s

/-- Packets of an esend stay unacknowledged past the retry limit: it settles as failed with cause 21 (R402). -/
def execEsendRetryLimit (k u : Nat) (s : State) : Out :=
  match mget s.cords k with
  | none => .next s
  | some c =>
    match eopOf c u with
    | none => .next s
    | some e =>
      let mine := s.packets.filter (fun p => p.cord == k && p.op == u)
      if !(e.kind == .esend && e.state == .started) || mine.isEmpty then .next s
      else
        let s := mine.foldl dropPacket s
        .next (failEop s k u 21 0 (deliveryDetail ((mine.map (·.dst)).headD 0) (mine.any (·.reached)) false false))

end Sys2Proof.Machine
end

