-- ==== Sys2Proof/Machine/FloatOps.lean ====
section
/-!
DEFINITION. FP32 and packed 16-bit arithmetic, comparison, classification and conversion
(spec/06_strand_instructions.md R134, R137 to R142). Which flags a word can raise, and so when it is fallible (R34), is read
from its results (log 12).
-/
namespace Sys2Proof.Machine

/-- An FP32 word of two sources: V[d] := r(a, b). -/
def fpWord3 (i : Instr) (g : Guard) (d a b : BitVec 7) (can : Flags) (r : RMode → Nat → Nat → Nat × Flags) (s : State) : Out :=
  flagWord i g [.v a, .v b] [.v d] 4 can (fun h => flagV d (r (rmode fp32 h) (rdV h.st a).toNat (rdV h.st b).toNat)) s

/-- A two-address FP32 word of the Float class. -/
def fpWord2 (i : Instr) (g : Guard) (d a : BitVec 7) (can : Flags) (r : RMode → Nat → Nat → Nat × Flags) (s : State) : Out :=
  flagWord i g [.v d, .v a] [.v d] 4 can (fun h => flagV d (r (rmode fp32 h) (rdV h.st d).toNat (rdV h.st a).toNat)) s

/-- A function word of latency 8 (R138). -/
def fpFunction (i : Instr) (g : Guard) (d a : BitVec 7) (can : Flags) (r : RMode → Nat → Nat × Flags) (s : State) : Out :=
  flagWord i g [.v a] [.v d] 8 can (fun h => flagV d (r (rmode fp32 h) (rdV h.st a).toNat)) s

/-- A packed word; subnormals are kept (R140). -/
def packedWord (i : Instr) (g : Guard) (d a b : BitVec 7) (readsB : Bool) (can : Flags) (f : Fmt)
    (r : RMode → Nat → Nat → Nat → Nat × Flags) (s : State) : Out :=
  flagWord i g ([.v d, .v a] ++ (if readsB then [.v b] else [])) [.v d] 4 can
    (fun h => flagV d (packed2 (r { rmode f h with ftz := false }) (rdV h.st d) (rdV h.st a) (rdV h.st b))) s

/-- The floating format of a cvt code 0 to 5 (R105). -/
def cvtFmt (c : Nat) : Fmt := [fp32, fp16, bf16, e4m3, e5m2, e2m1].getD c fp32

/-- The range of an integer destination code 6 to 9 (R105). -/
def cvtRange (c : Nat) : Int × Int :=
  if c == 6 then (-(2 ^ 31), 2 ^ 31 - 1) else if c == 7 then (0, 2 ^ 32 - 1) else if c == 8 then (-128, 127) else (-8, 7)

/-- A conversion from source code x to destination code y (R37 to R40, R141, R142): what V[d] becomes, and the flags. -/
def convert (x y : Nat) (mode : Rnd) (ftz : Bool) (v : BitVec 32) : BitVec 32 × Flags :=
  let rng := cvtRange y
  if 6 ≤ x then
    let k : Int := if x == 6 then v.toInt else v.toNat
    if 6 ≤ y then
      let z := sat k rng.1 rng.2
      (BitVec.ofInt 32 z, if z != k then NV else 0)
    else
      let q := fromInt (cvtFmt y) mode ftz k
      (BitVec.ofNat 32 q.1, q.2)
  else
    let f := cvtFmt x
    let c := fval f (flushIn f ftz (v.toNat % 2 ^ f.width))
    if 6 ≤ y then
      let q := toInt mode rng.1 rng.2 c
      (BitVec.ofInt 32 q.1, q.2)
    else
      let t := cvtFmt y
      let q := if isWiden f t then widen t ftz c else narrow t mode ftz c
      (BitVec.ofNat 32 q.1, q.2)

/-- The flags a conversion can raise (log 12). -/
def convertCan (x y : Nat) : Flags :=
  if 6 ≤ x then
    (if 6 ≤ y then NV else if y == 0 || y == 2 then NX else NX ||| OF)
  else if 6 ≤ y then (if x == 5 && y != 7 then NX else NV ||| NX)
  else if x == 5 then 0
  else if x == 3 then (if y == 5 then NV ||| OF ||| UF ||| NX else if y == 4 then NX else 0)
  else if x == 4 && y ≤ 2 then NV
  else if x == 1 && y == 0 then NV
  else if x == 2 && y == 0 then NV ||| UF ||| NX
  else if x == 1 && y == 2 then NV ||| OF ||| NX
  else NV ||| OF ||| UF ||| NX

/-- a + b (R137). -/
def execFadd (g : Guard) (d a b : BitVec 7) (s : State) : Out :=
  fpWord3 (.fadd g d a b) g d a b (NV ||| OF ||| UF ||| NX) fAdd s

/-- a - b (R137). -/
def execFsub (g : Guard) (d a b : BitVec 7) (s : State) : Out :=
  fpWord3 (.fsub g d a b) g d a b (NV ||| OF ||| UF ||| NX) fSub s

/-- a b (R137). -/
def execFmul (g : Guard) (d a b : BitVec 7) (s : State) : Out :=
  fpWord3 (.fmul g d a b) g d a b (NV ||| OF ||| UF ||| NX) fMul s

/-- a b + d with one rounding (R42, R137). -/
def execFfma (g : Guard) (d a b : BitVec 7) (s : State) : Out :=
  flagWord (.ffma g d a b) g [.v d, .v a, .v b] [.v d] 4 (NV ||| OF ||| UF ||| NX)
    (fun h => flagV d (fFma (rmode fp32 h) (rdV h.st a).toNat (rdV h.st b).toNat (rdV h.st d).toNat)) s

/-- p[q] := cond(a, b) (R134). -/
def execFcmp (g : Guard) (c q : BitVec 3) (a b : BitVec 7) (s : State) : Out :=
  flagWord (.fcmp g c q a b) g [.v a, .v b] [.p q] 4 NV
    (fun h => let r := fCmp (ftzOf h.st) c (rdV h.st a).toNat (rdV h.st b).toNat; (toP q r.1, r.2)) s

/-- d divided by a, through the divide unit (R57, R137). -/
def execFdiv (g : Guard) (d a : BitVec 7) (s : State) : Out :=
  divWord (.fdiv g d a) g [.v d, .v a] d (NV ||| DZ ||| OF ||| UF ||| NX)
    (fun h => let r := fDiv (rmode fp32 h) (rdV h.st d).toNat (rdV h.st a).toNat; (BitVec.ofNat 32 r.1, r.2)) s

/-- The lesser (R44, R137). -/
def execFmin (g : Guard) (d a : BitVec 7) (s : State) : Out :=
  fpWord2 (.fmin g d a) g d a NV (fun r x y => fMinMax r false x y) s

/-- The greater (R44, R137). -/
def execFmax (g : Guard) (d a : BitVec 7) (s : State) : Out :=
  fpWord2 (.fmax g d a) g d a NV (fun r x y => fMinMax r true x y) s

/-- Packed d + a (R140). -/
def execHadd2Hf (g : Guard) (d a : BitVec 7) (s : State) : Out :=
  packedWord (.hadd2Hf g d a) g d a a false (NV ||| OF ||| NX) fp16 (fun r x y _ => fAdd r x y) s

/-- Packed d + a (R140). -/
def execHadd2Bf (g : Guard) (d a : BitVec 7) (s : State) : Out :=
  packedWord (.hadd2Bf g d a) g d a a false (NV ||| OF ||| NX) bf16 (fun r x y _ => fAdd r x y) s

/-- Packed d a (R140). -/
def execHmul2Hf (g : Guard) (d a : BitVec 7) (s : State) : Out :=
  packedWord (.hmul2Hf g d a) g d a a false (NV ||| OF ||| UF ||| NX) fp16 (fun r x y _ => fMul r x y) s

/-- Packed d a (R140). -/
def execHmul2Bf (g : Guard) (d a : BitVec 7) (s : State) : Out :=
  packedWord (.hmul2Bf g d a) g d a a false (NV ||| OF ||| UF ||| NX) bf16 (fun r x y _ => fMul r x y) s

/-- Reciprocal (R138). -/
def execFrcp (g : Guard) (d a : BitVec 7) (s : State) : Out :=
  fpFunction (.frcp g d a) g d a (NV ||| DZ ||| OF ||| UF ||| NX) fRcp s

/-- Reciprocal square root (R138). -/
def execFrsq (g : Guard) (d a : BitVec 7) (s : State) : Out :=
  fpFunction (.frsq g d a) g d a (NV ||| DZ ||| NX) fRsq s

/-- Square root, through the divide unit (R57, R138). -/
def execFsqrt (g : Guard) (d a : BitVec 7) (s : State) : Out :=
  divWord (.fsqrt g d a) g [.v a] d (NV ||| NX)
    (fun h => let r := fSqrt (rmode fp32 h) (rdV h.st a).toNat; (BitVec.ofNat 32 r.1, r.2)) s

/-- 2^x (R138). -/
def execFexp2 (g : Guard) (d a : BitVec 7) (s : State) : Out :=
  fpFunction (.fexp2 g d a) g d a (NV ||| OF ||| UF ||| NX) fExp2 s

/-- log2 (R138). -/
def execFlog2 (g : Guard) (d a : BitVec 7) (s : State) : Out :=
  fpFunction (.flog2 g d a) g d a (NV ||| DZ ||| NX) fLog2 s

/-- The class mask (R139). -/
def execFclass (g : Guard) (d a : BitVec 7) (s : State) : Out :=
  regWord (.fclass g d a) g [.v a] [.v d] 4 (fun h => toV d (BitVec.ofNat 32 (2 ^ fClassBit (rdV h.st a).toNat))) s

/-- Conversion (R141, R142). -/
def execCvt (g : Guard) (d a : BitVec 7) (x : BitVec 3) (y : BitVec 4) (s : State) : Out :=
  flagWord (.cvt g d a x y) g [.v a] [.v d] 4 (convertCan x.toNat y.toNat)
    (fun h => let r := convert x.toNat y.toNat (hintRnd h.st.hint) (ftzOf h.st) (rdV h.st a); (toV d r.1, r.2)) s

/-- Packed a b + d (R140). -/
def execHfma2Hf (g : Guard) (d a b : BitVec 7) (s : State) : Out :=
  packedWord (.hfma2Hf g d a b) g d a b true (NV ||| OF ||| UF ||| NX) fp16 (fun r x y z => fFma r y z x) s

/-- Packed a b + d (R140). -/
def execHfma2Bf (g : Guard) (d a b : BitVec 7) (s : State) : Out :=
  packedWord (.hfma2Bf g d a b) g d a b true (NV ||| OF ||| UF ||| NX) bf16 (fun r x y z => fFma r y z x) s

end Sys2Proof.Machine
end

