-- ==== Sys2Proof/Machine/Moves.lean ====
section
/-!
DEFINITION. Uniform moves and special registers (spec/06_strand_instructions.md R143, R144, spec/03_strand_machine.md R53,
R54, R62, spec/07_parallel_execution.md R155, spec/13_memory_levels.md R253, spec/23_dies_and_devices.md R382).
-/
namespace Sys2Proof.Machine

/-- V[d] := sA[31:0] (R143). -/
def execMvs (g : Guard) (d a : BitVec 7) (s : State) : Out :=
  regWord (.mvs g d a) g [.s (sReg a)] [.v d] 1 (fun h => toV d ((rdS h.cord (sReg a)).extractLsb' 0 32)) s

/-- V2[d] := sA (R143). -/
def execMvsD (g : Guard) (d a : BitVec 7) (s : State) : Out :=
  regWord (.mvsD g d a) g [.s (sReg a)] (pair d) 1 (fun h => toV2 d (rdS h.cord (sReg a))) s

/-- sd := zero extension of V[a] (R143). -/
def execMovs (g : Guard) (d a : BitVec 7) (s : State) : Out :=
  regWord (.movs g d a) g [.v a] [.s (sReg d)] 1 (fun h => toS (sReg d) ((rdV h.st a).zeroExtend 64)) s

/-- sd := V2[a] (R143). -/
def execMovsD (g : Guard) (d a : BitVec 7) (s : State) : Out :=
  regWord (.movsD g d a) g (pair a) [.s (sReg d)] 1 (fun h => toS (sReg d) (rdV2 h.st a)) s

/-- The elements of a send descriptor are FP32 (R407, R409). -/
def addsFp (ds : List (BitVec 64)) : Bool := (ds.getD 2 0).extractLsb' 50 2 == 2#2

/-- An engine operation that may raise flags in a strand's %fpf or read its FTZ, not yet complete (R62, R320). -/
def engineBusy (c : Cord) (l : Nat) : Bool :=
  c.eops.any (fun e => (e.state == .waiting || e.state == .reading || e.state == .started) &&
    (if e.kind == .mma then laneIn e.signers l else e.lane == l && (e.kind == .tld || e.kind == .tst || (e.kind == .rsendAdd && addsFp e.desc)))) ||
  c.trig.toList.any (fun t => t.armed && t.lane == l && t.add && addsFp t.desc) ||
  c.conv.toList.any (fun x => laneIn x.signed l)

/-- An instance of a floating-point reduction or scan, which raises flags and reads FTZ (R190). -/
def floatInst (x : Inst) : Bool :=
  let o := x.word.toNat % 32
  x.kind == 0 && x.word.toNat / 2 ^ 21 == 0x32 && (o == 1 || o == 6 || o == 7)

/-- Every older instruction of the strand that can raise a flag or that reads %stat.FTZ has completed (R62); the other cross-lane words hold
back nothing (R185). -/
def flagsQuiet (h : Here) : Bool :=
  decide (h.st.fbusy ≤ h.now) && h.st.divs.isEmpty &&
  h.st.ops.all (fun o => opDone h.now o || !(o.kind == .flag || (o.kind == .atomic && o.atom.any (fun a => a.op == 10)))) &&
  !engineBusy h.cord h.sel.lane &&
  !h.cord.insts.any (fun x => floatInst x && x.arr.any (fun a => a.lane == h.sel.lane))

/-- A byte of %wsr: the refresh window of a bank group (R253). -/
def wsrByte (d : Die) (g : Nat) : BitVec 8 :=
  if d.refAct.getLsbD g then
    BitVec.ofNat 8 (128 + (if d.refLong.getLsbD g then 64 else 0) + min 63 ((d.refEnd[g]?.getD 0 - d.cyc - 1) / 64))
  else
    BitVec.ofNat 8 ((if 85 < d.sensors.baseT then 64 else 0) + min 63 ((512 * g + 4096 - d.cyc % 4096) % 4096 / 64))

/-- %wsr: byte g for bank group g (R253). -/
def wsrOf (d : Die) : BitVec 64 := BitVec.ofNat 64 (leNat ((List.range 8).map (wsrByte d)))

/-- What mfs reads of a 32-bit special register (R112, R144, R155, R382). -/
def special32 (h : Here) (r : BitVec 6) : BitVec 32 :=
  if r == 0#6 then BitVec.ofNat 32 h.sel.lane
  else if r == 1#6 then BitVec.ofNat 32 (popBelow h.cord.lanes h.sel.lane)
  else if r == 2#6 then BitVec.ofNat 32 h.cord.entry
  else if r == 3#6 then BitVec.ofNat 32 h.cord.core
  else if r == 4#6 then BitVec.ofNat 32 (h.cord.core / 4)
  else if r == 5#6 then BitVec.ofNat 32 h.cord.die
  else if r == 6#6 then BitVec.ofNat 32 h.cord.pod
  else if r == 7#6 then BitVec.ofNat 32 h.cord.dev
  else if r == 8#6 then h.st.stat
  else if r == 9#6 then h.st.fpf
  else BitVec.ofNat 32 h.cord.ctx

/-- What mfs reads of a 64-bit special register (R112, R54, R253, R144). -/
def special64 (h : Here) (s : State) (r : BitVec 6) : BitVec 64 :=
  if r == 10#6 then h.st.csp
  else if r == 11#6 then wsrOf (dieOf s h.cord.dev h.cord.die)
  else BitVec.ofNat 64 h.now

/-- The registers a special register's data field covers (R112). -/
def specialRegs (r : BitVec 6) (x : BitVec 7) : List Reg := if spWide r then pair x else [.v x]

/-- Read a special register: Special read class, an mfs of %fpf waiting for the flags (R57, R62, R144). -/
def execMfs (g : Guard) (d : BitVec 7) (r : BitVec 6) (s : State) : Out :=
  runWord (.mfs g d r) g
    (fun h _ => { writes := specialRegs r d, lat := 2, hold := r == 9#6 && !flagsQuiet h })
    noCheck plainLeave
    (fun h s => writeRegs s h (if spWide r then toV2 d (special64 h s r) else toV d (special32 h r)) (h.now + 2) false) s

/-- The strand after mts (R144): only the writable bits change. -/
def writeSpecial (r : BitVec 6) (x : BitVec 64) (st : Strand) : Strand :=
  let w : BitVec 32 := x.setWidth 32
  if r == 8#6 then { st with stat := (st.stat &&& ~~~7#32) ||| (w &&& 7#32) }
  else if r == 9#6 then { st with fpf := (st.fpf &&& ~~~0x1F1F#32) ||| (w &&& 0x1F1F#32) }
  else if r == 10#6 then { st with csp := x &&& ~~~7#64 }
  else st

/-- Write a special register, visible to the next instruction; %stat and %fpf wait by R62 (R144). -/
def execMts (g : Guard) (a : BitVec 7) (r : BitVec 6) (s : State) : Out :=
  runWord (.mts g a r) g
    (fun h _ => { reads := specialRegs r a, hold := (r == 8#6 || r == 9#6) && !flagsQuiet h })
    noCheck plainLeave
    (fun h s => modHere s h (writeSpecial r (if spWide r then rdV2 h.st a else (rdV h.st a).zeroExtend 64))) s

end Sys2Proof.Machine
end

