-- ==== Sys2Proof/Machine/Starts.lean ====
section
/-!
DEFINITION. The start and the retirement of an engine operation (spec/17_async_engines.md R296, R298,
spec/18_engine_instructions.md R324, R331 to R333).
-/
namespace Sys2Proof.Machine

/-- The tile interlock and the order of the press class (R324, R331). The pass of an mma starts by itself (R307). -/
def startTurn (c : Cord) (e : EOp) : Bool :=
  let old := olderEops c e.uid
  let pressing := old.any (fun x => x.cls == .press && eopLive x)
  let product := old.any (fun x => x.kind == .mma && x.mac == e.mac && eopLive x)
  match e.kind with
  | .tld => !readerBefore old e.tileNo && !tilingBefore c e.uid e.tileNo
  | .tst => !tldBefore old e.tileNo
  | .press => !pressing && !product && !tldBefore old e.tileNo
  | .pressw => !pressing && !product
  | .cbld => !pressing
  | .tcopy | .rsend | .rsendAdd | .esend | .erecv => true
  | .mma => false

/-- The global bytes an operation reads as it starts. -/
def startTouches (e : EOp) : List Nat := startReads e ++ sendReads e

/-- The operation starts and does what it does at once: a copy converts, a CB2 press takes its table, a send leaves. -/
def startKind (s : State) (k : Nat) (c : Cord) (e : EOp) : State :=
  let table : List (BitVec 8) :=
    let co := coreOfCord s c
    if e.tile.fmt == 12#4 && co.owner == some c.ctx then
      (List.range 512).flatMap (fun n => leBytes 2 (((mget co.codebook n).getD 0).toNat))
    else []
  match e.kind with
  | .tld | .tst | .tcopy => startCopy s k c e
  | .press | .pressw => modEop s k e.uid (fun e => { e with state := .started, sa := table })
  | .rsend | .rsendAdd => startSend s k c e
  | .esend => startEsend s k c e
  | .erecv => startErecv s k c e
  | .cbld | .mma => modEop s k e.uid (fun e => { e with state := .started })

/-- An engine operation starts, with the RELEASE step of its strand, once the strand's older accesses have settled (R298, R406); it first
fetches what it reads of other modules (R388). A fired send took its RELEASE step at the firing, and starts once it has its number
(R413). -/
def execEngineStart (k u : Nat) (s : State) : Out :=
  match mget s.cords k with
  | none => .next s
  | some c =>
    match eopOf c u with
    | none => .next s
    | some e =>
      let first := e.state == .waiting && e.numbered && strandReady c (cycOf s c.dev c.die) e && startTurn c e
      let vas := startTouches e
      if !(c.life == .running && (first || e.state == .reading)) || pieceBusy s k u 0 || sendHeld s c e ||
          vas.any (fun va => engineWaits s c va true) then .next s
      else
        let s := if first && e.after == e.uid && e.chunks.isEmpty then releaseStep s (partyOf c e.lane) else s
        let s := engineTrans s c vas
        let ms := missingBytes s c e vas
        if ms.isEmpty then .next (startKind s k c e)
        else .next (askBytes (modEop s k u (fun e => { e with state := .reading })) k c e 0 ms)

/-- The oldest operation of a class retires once it has completed or failed (R296). -/
def execEngineRetire (k : Nat) (cls : EngClass) (s : State) : Out :=
  match (mget s.cords k).bind (fun c => c.eops.find? (·.cls == cls)) with
  | none => .next s
  | some e =>
    if eopLive e then .next s
    else .next (modCord s k (fun c => { c with eops := c.eops.filter (·.uid != e.uid) }))

end Sys2Proof.Machine
end

