-- ==== Sys2Proof/Machine/Records.lean ====
section
/-!
DEFINITION. The byte layouts the core and the steward write: trap records (spec/20_faults_and_horizon.md R354), phase records
(spec/07_parallel_execution.md R178) and save areas (R365, spec/23_dies_and_devices.md R400).
-/
namespace Sys2Proof.Machine

/-! ### Trap records -/

/-- The low and the high word of 64 bits. -/
def loWord (x : BitVec 64) : BitVec 32 := x.extractLsb' 0 32
def hiWord (x : BitVec 64) : BitVec 32 := x.extractLsb' 32 32

/-- A word of sequence number, byte and byte (R354). -/
def packSeq (seq : BitVec 16) (x y : BitVec 8) : BitVec 32 := y ++ x ++ seq

/-- The words of a listed operation. -/
def entryWords (e : TrapEntry) : List (BitVec 32) := [packSeq e.seq e.state e.repi, e.word, loWord e.pc, hiWord e.pc, e.hint, 0]

/-- The words of a trap record (R354). -/
def recordWords (r : TrapRec) : List (BitVec 32) :=
  [r.cause, r.flags, loWord r.pc, hiWord r.pc, loWord r.resume, hiWord r.resume, r.word,
   packSeq r.seq r.repi (BitVec.ofNat 8 r.list.length), loWord r.addr, hiWord r.addr, loWord r.detail, hiWord r.detail,
   r.repleft.zeroExtend 32, r.hint, r.fhint, 0] ++ r.list.flatMap entryWords

/-- Words as bytes. -/
def wordBytes (ws : List (BitVec 32)) : List (BitVec 8) := ws.flatMap (fun w => leBytes 4 w.toNat)

/-! ### Phase records -/

/-- Pad bytes to a multiple of n. -/
def padTo (n : Nat) (bs : List (BitVec 8)) : List (BitVec 8) := bs ++ List.replicate ((n - bs.length % n) % n) 0

/-- The carried vector and uniform registers, ascending (R178). -/
def carriedV (h : NodeHdr) : List Nat := (List.range 128).filter (h.carryV.getLsbD ·)
def carriedS (h : NodeHdr) : List Nat := (List.range 64).filter (h.carryS.getLsbD ·)

/-- The lanes of a mask, ascending. -/
def lanesOf (m : BitVec 64) : List Nat := (List.range 64).filter (laneIn m)

/-- The return stack in four 8-byte entries. -/
def stackBytes (rs : List (BitVec 64)) : List (BitVec 8) := (List.range 4).flatMap (fun i => leBytes 8 (rs.getD i 0).toNat)

/-- PC, CSP, RS, RSN, PRED, FPF and STAT of a strand, as both records lay them out (R178, R365). -/
def strandHead (pc : BitVec 64) (st : Strand) : List (BitVec 8) :=
  leBytes 8 pc.toNat ++ leBytes 8 st.csp.toNat ++ stackBytes st.rs ++ leBytes 4 st.rs.length ++ leBytes 4 st.preds.toNat ++
  leBytes 4 st.fpf.toNat ++ leBytes 4 st.stat.toNat

/-- The block of a lane in a phase record (R178). -/
def phaseBlock (h : NodeHdr) (st : Strand) : List (BitVec 8) :=
  padTo 16 (strandHead (if st.mode == .ended then 0 else st.pc) st ++
    (carriedV h).flatMap (fun n => leBytes 4 (st.v[n]?.getD 0).toNat))

/-- The bytes of a block: 0x40 and 4 for each carried vector register, padded (R178). -/
def blockSize (h : NodeHdr) : Nat := (0x40 + 4 * (carriedV h).length + 15) / 16 * 16

/-- The phase record of a cord (R178). -/
def phaseRecord (c : Cord) : List (BitVec 8) :=
  let h := c.hdr
  let blocks := (lanesOf c.lanes).flatMap (fun l => match mget c.strands l with
    | some st => phaseBlock h st
    | none => List.replicate (blockSize h) 0)
  let uni := (carriedS h).flatMap (fun n => leBytes 8 (c.u[n]?.getD 0).toNat)
  let size := 0x40 + uni.length + blocks.length
  leBytes 4 c.node ++ leBytes 4 c.phase ++ leBytes 8 c.lanes.toNat ++ leBytes 8 h.carryS.toNat ++ leBytes 16 h.carryV.toNat ++
  leBytes 4 (if h.kept then 1 else 0) ++ leBytes 4 size ++ leBytes 1 (if h.kept then c.core else 0) ++ leBytes 1 0 ++
  leBytes 2 (if h.kept then c.bind.sbase.toNat else 0) ++ leBytes 12 0 ++ uni ++ blocks

/-- The address of a cord's phase record and of its save area (log 13): DPAs of its record area. -/
def recordAddr (c : Cord) : Nat := c.area
def saveAddr (c : Cord) : Nat := c.area + 2 ^ 26

/-- A little-endian number at a DPA of a module. -/
def numAt (s : State) (dev dpa n : Nat) : Nat := leNat (readMem s.mem (byteKey dev dpa) n)

/-- A strand with every register as R52 gives at a start. -/
def startStrand (pc csp : BitVec 64) (depth : Nat) (record : BitVec 64) : Strand where
  v := Vector.replicate 128 0
  preds := 0
  pc := pc
  rs := []
  csp := csp
  fpf := 0
  stat := 0
  ready := 0
  pend := []
  held := []
  chk := []
  divs := []
  hint := 0
  rep := none
  ops := []
  next := 0
  sync := Vector.replicate 7 0
  wait := .none
  mode := .running
  fault := none
  trap := none
  rerun := []
  resume := none
  fbusy := 0
  issued := 0
  idle := 0
  stopped := false
  depth := depth
  record := record
  spill := csp
  tiling := none

/-- The strand of block i of a phase record (R179): carried registers and the state of its block, the rest as R52 gives, its last trap
record still readable (R374). The stall of its last word still holds (R56), and the encoded distances of R59 start anew (DESIGN CHOICE,
log 78). Bits 1:0 of a program counter and 2:0 of %csp are always 0 (R49, R54). -/
def phaseStrand (s : State) (c : Cord) (i : Nat) (old : Strand) : Strand :=
  let a := recordAddr c + 0x40 + 8 * (carriedS c.hdr).length + i * blockSize c.hdr
  let num (o n : Nat) : Nat := numAt s c.dev (a + o) n
  let st := startStrand (wordAlign (BitVec.ofNat 64 (num 0 8))) old.spill old.depth old.record
  let vs := carriedV c.hdr
  { st with
    v := Vector.ofFn (fun n : Fin 128 => match vs.idxOf? n.val with
      | some j => BitVec.ofNat 32 (num (0x40 + 4 * j) 4)
      | none => 0)
    preds := BitVec.ofNat 7 (num 0x34 4)
    rs := (List.range (num 0x30 4)).map (fun j => BitVec.ofNat 64 (num (0x10 + 8 * j) 8))
    ready := if c.life == .queued then old.ready else 0
    csp := BitVec.ofNat 64 (num 8 8) &&& ~~~7#64
    trap := old.trap
    fpf := BitVec.ofNat 32 (num 0x38 4)
    stat := BitVec.ofNat 32 (num 0x3C 4)
    mode := if num 0 8 == 0 then .ended else .running }

/-- The uniform registers at the start of a later phase (R154, R179). -/
def phaseUniforms (s : State) (c : Cord) : Vector (BitVec 64) 64 :=
  let ss := carriedS c.hdr
  Vector.ofFn (fun n : Fin 64 => match ss.idxOf? n.val with
    | some j => BitVec.ofNat 64 (numAt s c.dev (recordAddr c + 0x40 + 8 * j) 8)
    | none => if n.val == 0 then c.lanes else 0)

/-! ### Save areas -/

/-- A tile entry (R365). -/
def tileBytes (t : Tile) : List (BitVec 8) :=
  leBytes 16 (t.state.toNat + t.fmt.toNat * 2 ^ 2 + (if t.sparse then 2 ^ 6 else 0) + t.rows * 2 ^ 7 + t.cols * 2 ^ 16 +
    t.base * 2 ^ 25 + t.pitch * 2 ^ 44 + t.bk * 2 ^ 63 + t.btag.toNat * 2 ^ 68)

/-- A convergence register (R365). -/
def convBytes (v : Conv) : List (BitVec 8) :=
  leBytes 8 v.signers.toNat ++ leBytes 8 v.signed.toNat ++ leBytes 4 v.word.toNat ++ leBytes 4 v.round.toNat ++ leBytes 8 0

/-- A scale entry (R365). -/
def scaleBytes (x : Scale) : List (BitVec 8) := leBytes 2 x.crown.toNat ++ leBytes 14 0 ++ getBytes x.bytes 0 1024

/-- A macro entry: sixteen bytes of binding, then the cells (R365, R305). -/
def macBytes (m : Mac) : List (BitVec 8) :=
  leBytes 1 m.state.toNat ++ leBytes 1 m.bfmt.toNat ++ leBytes 1 (m.cols % 256) ++ leBytes 1 (if m.sparse then 1 else 0) ++
  leBytes 1 m.bk ++ leBytes 2 m.btag0.toNat ++ leBytes 2 m.btag1.toNat ++ leBytes 7 0 ++ getBytes m.cells 0 32768

/-- The handle a strand sleeps on (R365). -/
def sleepHandle (s : State) (c : Cord) (st : Strand) : Nat :=
  match st.wait with
  | .knot dev slot => slot * 4096 + (knotOf (ctxOf s c.ctx) (dev * 2 ^ 20 + slot)).gen.toNat
  | _ => 0

/-- MODE of a strand block (R365). -/
def modeBits (st : Strand) : Nat :=
  (if st.mode == .ended then 1 else 0) + (if st.mode == .masked then 2 else 0) + (if st.mode == .handler then 4 else 0) +
  (match st.wait with | .knot _ _ => 8 | _ => 0) + (if st.mode == .frozen then 16 else 0)

/-- ARRIVED of a strand block (R365): at an instance of its cord, or at the barrier group its cord's instance has brought it to (R195). -/
def arrivedBits (c : Cord) (l : Nat) (st : Strand) : Nat :=
  (List.range 7).foldl (fun n k =>
    if st.wait == .bar k || c.insts.any (fun x => x.kind == k && (arrivalOf x l).isSome) then n + 2 ^ k else n) 0

/-- A strand block (R365); trap is the offset of its trap record. -/
def saveBlock (s : State) (c : Cord) (l trap : Nat) (st : Strand) : List (BitVec 8) :=
  strandHead (if st.mode == .ended then 0 else pcOf st) st ++
  leBytes 4 (hzOf (cycOf s c.dev c.die) st).toNat ++ leBytes 2 st.next.toNat ++ leBytes 1 (st.rep.elim 0 (·.left)) ++
  leBytes 1 (repIndex st) ++ leBytes 4 st.hint.toNat ++ leBytes 4 (modeBits st) ++
  st.sync.toList.flatMap (fun x => leBytes 2 x.toNat) ++ leBytes 2 (arrivedBits c l st) ++ leBytes 4 (sleepHandle s c st) ++
  leBytes 4 trap ++ leBytes 24 0 ++ (List.range c.hdr.vregs).flatMap (fun n => leBytes 4 (st.v[n]?.getD 0).toNat)

/-- The quiesced copies of a cord (R364). -/
def quiesced (c : Cord) : List EOp := c.eops.filter (fun e => e.cls == .copy && eopLive e)

/-- The chunk bitmap of a copy: bit c is 1 when chunk c is credited (R365); of one that has not started no bit is. -/
def bitmapBytes (e : EOp) : List (BitVec 8) :=
  (List.range ((chunkCount (copyBytes e) + 7) / 8)).map (fun i =>
    BitVec.ofNat 8 ((List.range 8).foldl (fun n j => if e.chunks[8 * i + j]? == some 1 then n + 2 ^ j else n) 0))

/-- The cache fields of a hint cache, as MODE records them (R124, R365). -/
def cacheHint (w : BitVec 32) : Nat := if hintKind w == 3#4 then w.toNat % 16 else 0

/-- A copy entry (R365). -/
def copyEntry (c : Cord) (bitmap : Nat) (e : EOp) : List (BitVec 8) :=
  let seq := ((mget c.strands e.lane).bind (fun st => opOf st e.uid)).bind (·.seq)
  leBytes 1 (if e.kind == .tld then 1 else if e.kind == .tst then 2 else 0) ++ leBytes 1 e.lane ++
  leBytes 2 (seq.getD 0).toNat ++ leBytes 4 e.word.toNat ++ leBytes 4 bitmap ++ leBytes 4 (chunkCount (copyBytes e)) ++
  leBytes 1 (if e.ftz then 1 else 0) ++ leBytes 1 e.mod_.toNat ++ leBytes 1 (cacheHint e.hint) ++ leBytes 13 0 ++
  (List.range 16).flatMap (fun i => leBytes 8 (dreg e.desc i).toNat) ++ tileBytes e.tile ++ leBytes 16 0

/-- An armed send's entry (R400). -/
def trigBytes (n : Nat) (t : Trig) : List (BitVec 8) :=
  leBytes 4 (n + 16 * t.count.toNat) ++ leBytes 4 t.sw ++ leBytes 4 t.thresh ++ leBytes 4 t.gen.toNat ++ leBytes 16 0 ++
  (List.range 8).flatMap (fun i => leBytes 8 (dreg t.desc i).toNat)

/-- The armed sends of a cord with their entry numbers. -/
def armedSends (c : Cord) : List (Trig × Nat) := c.trig.toList.zipIdx.filter (·.1.armed)

/-- Running offsets of parts of the given lengths from a base. -/
def offsets (base : Nat) : List Nat → List Nat
  | [] => []
  | n :: ns => base :: offsets (base + n) ns

/-- The engine part of a cord's resources on its core (R363). -/
def imageOf (s : State) (c : Cord) : Image where
  scratch := ((coreOfCord s c).scratch.filter (fun b => scrBase c ≤ b.1 && b.1 < scrBase c + c.hdr.scratch)).map
    (fun b => (b.1 - scrBase c, b.2))
  scales := (List.range c.hdr.kregs).map (scaleOf (coreOfCord s c) c)
  macros := (List.range c.hdr.macros).map (macOf (coreOfCord s c) c)

/-- The save area of a cord (R365, R400). -/
def saveArea (s : State) (c : Cord) (im : Image) : List (BitVec 8) :=
  let live := (lanesOf c.lanes).map (fun l => (l, (mget c.strands l).getD (startStrand 0 0 0 0)))
  let scales := im.scales.flatMap scaleBytes
  let blk := 0x80 + 4 * c.hdr.vregs
  let trpoff := 0x480 + scales.length + blk * live.length
  let traps := live.filterMap (fun p => p.2.trap.map (fun r => (p.1, wordBytes (recordWords r))))
  let tOffs := (traps.map (·.1)).zip (offsets trpoff (traps.map (·.2.length)))
  let trapBytes := traps.flatMap (·.2)
  let cpyoff := trpoff + trapBytes.length
  let cs := quiesced c
  let maps := cs.map bitmapBytes
  let mOffs := offsets (cpyoff + 0xC0 * cs.length) (maps.map List.length)
  let copies := (cs.zip mOffs).flatMap (fun p => copyEntry c p.2 p.1)
  let scroff := cpyoff + copies.length + (maps.flatMap id).length
  let macoff := scroff + c.hdr.scratch
  let macs := im.macros.flatMap macBytes
  let sends := armedSends c
  let trigs := sends.flatMap (fun p => trigBytes p.2 p.1)
  let issued := c.strands.foldl (fun n p => max n p.2.issued) 0
  leBytes 4 c.node ++ leBytes 4 c.phase ++ leBytes 8 c.lanes.toNat ++ leBytes 2 c.tagctr.toNat ++ leBytes 1 c.hdr.kregs ++
  leBytes 1 c.hdr.macros ++ leBytes 2 c.hdr.vregs ++ leBytes 2 sends.length ++ leBytes 4 issued ++
  [EngClass.copy, .press, .matrix, .fabric].flatMap (fun k => leBytes 1 (counter c k)) ++ leBytes 4 cs.length ++
  leBytes 4 c.hdr.scratch ++ leBytes 4 ((if c.hdr.kept then 1 else 0) + 2 + (if c.p2 then 4 else 0)) ++
  leBytes 4 (macoff + macs.length + trigs.length) ++ leBytes 4 scroff ++ leBytes 4 macoff ++ leBytes 4 cpyoff ++ leBytes 4 trpoff ++
  c.u.toList.flatMap (fun x => leBytes 8 x.toNat) ++ c.tiles.toList.flatMap tileBytes ++ c.conv.toList.flatMap convBytes ++
  c.barcfg.toList.flatMap (fun x => leBytes 8 x.toNat) ++ leBytes 24 0 ++ scales ++
  live.flatMap (fun p => saveBlock s c p.1 (((tOffs.find? (·.1 == p.1)).map (·.2)).getD 0) p.2) ++
  trapBytes ++ copies ++ maps.flatMap id ++ getBytes im.scratch 0 c.hdr.scratch ++ macs ++ trigs

end Sys2Proof.Machine
end

