-- ==== Sys2Proof/Machine/Horizon.lean ====
section
/-!
DEFINITION. The horizon and trap words (spec/21_trap_and_horizon_instructions.md R367 to R378), the recording of a failure or
a precise fault (spec/20_faults_and_horizon.md R352 to R354, R435, R434) and the entry of handler mode (R356, R357, R360).
-/
namespace Sys2Proof.Machine

/-! ### Reading the horizon -/

/-- V[d] := hz (R369). -/
def execHzrd (g : Guard) (d : BitVec 7) (s : State) : Out :=
  regWord (.hzrd g d) g [] [.v d] 2 (fun h => toV d (hzOf h.now (beforeCycle h.now h.st))) s

/-- V[d] := NEXT - 1 (R369). -/
def execHzseq (g : Guard) (d : BitVec 7) (s : State) : Out :=
  regWord (.hzseq g d) g [] [.v d] 2 (fun h => toV d (((beforeCycle h.now h.st).next - 1).zeroExtend 32)) s

/-- The n and the NEXT of an hzwait, taken at its issue (R370). -/
def hzTaken (h : Here) (a : BitVec 7) : BitVec 16 × BitVec 16 :=
  match h.st.wait with
  | .horizon n next => (n, next)
  | _ => ((rdV h.st a).setWidth 16, (beforeCycle h.now h.st).next)

/-- hzwait completes (R370). -/
def horizonPast (now : Nat) (st : Strand) (n next : BitVec 16) : Bool :=
  let st := beforeCycle now st
  let delta := (next - n).toNat
  hzClear now st || (decide (1 ≤ delta) && decide (delta < 2 ^ 15) && !older ((hzOf now st).setWidth 16) (n + 1))

/-- Wait until the operations up to a sequence number have settled (R370). -/
def execHzwait (g : Guard) (a : BitVec 7) (s : State) : Out :=
  runWord (.hzwait g a) g
    (fun h _ => {
      reads := [.v a]
      hold := !horizonPast h.now h.st (hzTaken h a).1 (hzTaken h a).2
      polls := .horizon (hzTaken h a).1 (hzTaken h a).2 }) noCheck plainLeave (fun _ s => s) s

/-- Branch when hz.CLR is 1 (R371). -/
def execHzbrClr (g : Guard) (i : BitVec 14) (s : State) : Out :=
  branchWord (.hzbrClr g i) g [] [] (fun h => hzClear h.now (beforeCycle h.now h.st)) (fun h => branchTo h.st.pc (immFL h.st.hint i)) (fun _ => []) s

/-- Branch when hz.CLR is 0 (R371). -/
def execHzbrNclr (g : Guard) (i : BitVec 14) (s : State) : Out :=
  branchWord (.hzbrNclr g i) g [] [] (fun h => !hzClear h.now (beforeCycle h.now h.st)) (fun h => branchTo h.st.pc (immFL h.st.hint i)) (fun _ => []) s

/-! ### Raising traps -/

/-- A word that raises a precise fault on the strand; RESUME names the word after it (R372). -/
def raiseWord (i : Instr) (g : Guard) (cause : Nat) (n : BitVec 7) (s : State) : Out :=
  runWord i g (fun _ _ => {}) (fun h s => some { faultHere s h i cause 0 (n.zeroExtend 64) with after := true }) plainLeave
    (fun _ s => s) s

/-- trap n (R372). -/
def execTrap (g : Guard) (d : BitVec 7) (s : State) : Out := raiseWord (.trap g d) g 22 d s

/-- bkpt n (R372, R373). -/
def execBkpt (g : Guard) (d : BitVec 7) (s : State) : Out := raiseWord (.bkpt g d) g 23 d s

/-- A yield point (R378): wait for settlement and the counters, and stop when the cord drains; nothing in handler mode, or
when a save or flush has been chosen. -/
def execYieldp (g : Guard) (s : State) : Out :=
  runWord (.yieldp g) g
    (fun h _ => { hold := h.st.mode != .handler && (!hzClear h.now h.st || !countersZero h.cord) }) noCheck plainLeave
    (fun h s =>
      if h.st.mode != .handler && h.cord.preempt == some .drain then modHere s h (fun st => { st with stopped := true }) else s) s

/-! ### Returning -/

/-- The strands a return applies to (R374, R360): the one that runs it, or under the compatible handler every faulted strand, the
frozen ones going on at their own next words. -/
def returnStrands (rerun : Bool) (l now : Nat) (c : Cord) : Cord :=
  if laneP2 c l then
    { c with
      p2 := false
      strands := c.strands.map (fun p => (p.1,
        if p.2.mode == .handler || p.2.mode == .masked then leaveHandler rerun now p.2
        else if p.2.mode == .frozen then { p.2 with mode := .running, ready := max p.2.ready (now + 1) }
        else p.2)) }
  else { c with strands := mmod c.strands l (leaveHandler rerun now) }

/-- A return word (R374): once it has issued, the strand leaves the handler. -/
def returnWord (i : Instr) (g : Guard) (rerun : Bool) (s : State) : Out :=
  match here s, runWord i g (fun h _ => { hold := h.st.stat.getLsbD 3 && !hzClear h.now h.st })
    (fun h s => if h.st.stat.getLsbD 3 then none else some (faultHere s h i 1 0 0)) plainLeave (fun _ s => s) s with
  | some h, .next t =>
    if rdP h.st g.pred && (strandOf t h.sel.cord h.sel.lane).any (fun st => st.issued == h.st.issued + 1) then
      .next (modCord t h.sel.cord (returnStrands rerun h.sel.lane h.now))
    else .next t
  | _, o => o

/-- Return to RESUME (R374, R358). -/
def execRte (g : Guard) (s : State) : Out := returnWord (.rte g) g false s

/-- Run the rerun sequence and return to RESUME (R374, R358). -/
def execRteRerun (g : Guard) (s : State) : Out := returnWord (.rteRerun g) g true s

/-! ### Trap records -/

/-- The fields of a trrec selector (R375). -/
def selClass (x : BitVec 32) : Nat := x.toNat / 2 ^ 30
def selWr (x : BitVec 32) : Bool := x.getLsbD 29
def selRsvd (x : BitVec 32) : Bool := x.toNat / 2 ^ 22 % 2 ^ 7 != 0 || x.toNat % 2 ^ 8 != 0
def selLane (x : BitVec 32) : Nat := x.toNat / 2 ^ 16 % 64
def selItem (x : BitVec 32) : Nat := x.toNat / 2 ^ 8 % 256

/-- A write selector (R375). -/
def selWrites (x : BitVec 32) : Bool := selWr x || selClass x == 3

/-- The executing strand is in handler mode with the record's P2 flag set (R376). -/
def inP2 (h : Here) : Bool := laneP2 h.cord h.sel.lane

/-- The strand a selector of class 1 to 3 may reach (R376): a faulted strand of the cord, or for registers a frozen one too. -/
def selTarget (h : Here) (x : BitVec 32) : Option Nat :=
  match mget h.cord.strands (selLane x) with
  | none => none
  | some st =>
    let faulted := st.mode == .masked || st.mode == .handler
    if inP2 h && (faulted || (selClass x != 1 && st.mode == .frozen)) then some (selLane x) else none

/-- The strand whose record a selector of class 0 or 1 names. -/
def recordLane (h : Here) (x : BitVec 32) : Option Nat := if selClass x == 0 then some h.sel.lane else selTarget h x

/-- A register of a strand by its trrec item (R375, R376). -/
def itemOf (vregs : Nat) (st : Strand) (n : Nat) : BitVec 32 :=
  if n < 0x80 then (if n < vregs then st.v[n]?.getD 0 else 0)
  else if n ≤ 0x86 then (if st.preds.getLsbD (n - 0x80) then 1 else 0)
  else if n == 0x87 then st.fpf
  else if n == 0x88 then st.stat
  else 0

/-- A trrec item names a register of the strand (R375, R376). -/
def hasItem (vregs n : Nat) : Bool := (decide (0x80 ≤ n) || decide (n < vregs)) && decide (n ≤ 0x88)

/-- The write of a register by its trrec item (R375, R376). -/
def setItem (n : Nat) (x : BitVec 32) (st : Strand) : Strand :=
  if n < 0x80 then { st with v := st.v.setIfInBounds n x }
  else if n ≤ 0x86 then setReg st (.p (BitVec.ofNat 3 (n - 0x80))) (x.zeroExtend 64)
  else if n == 0x87 then writeSpecial 9 (x.zeroExtend 64) st
  else writeSpecial 8 (x.zeroExtend 64) st

/-- What a read selector reads (R375, R376). -/
def trrecRead (h : Here) (x : BitVec 32) : BitVec 32 :=
  if selRsvd x then 0
  else if selClass x ≤ 1 then
    match ((recordLane h x).bind (mget h.cord.strands)).bind (·.trap) with
    | some r => (recordWords r).getD (selItem x) 0
    | none => 0
  else
    match (selTarget h x).bind (mget h.cord.strands) with
    | some st => itemOf h.cord.hdr.vregs st (selItem x)
    | none => 0

/-- RESUME with one half replaced (R377). -/
def patchResume (hi : Bool) (x : BitVec 32) (r : TrapRec) : TrapRec :=
  let y := if hi then x ++ loWord r.resume else hiWord r.resume ++ x
  { r with resume := wordAlign y, repleft := 0, rep := none, hint := 0 }

/-- What a write selector writes (R375 to R377). -/
def trrecWrite (h : Here) (x y : BitVec 32) (s : State) : State :=
  if selRsvd x then s
  else if selClass x ≤ 1 then
    match recordLane h x with
    | some l =>
      if h.st.mode == .handler && (selItem x == 4 || selItem x == 5) then
        modStrand s h.sel.cord l (fun st => { st with trap := st.trap.map (patchResume (selItem x == 5) y) })
      else s
    | none => s
  else if selClass x == 3 && hasItem h.cord.hdr.vregs (selItem x) then
    match selTarget h x with
    | some l => modStrand s h.sel.cord l (setItem (selItem x) y)
    | none => s
  else s

/-- Read or patch a trap record or a strand's register (R375 to R377). -/
def execTrrec (g : Guard) (d a : BitVec 7) (s : State) : Out :=
  runWord (.trrec g d a) g
    (fun h _ => { reads := [.v a] ++ (if selWrites (rdV h.st a) then [.v d] else []), writes := [.v d], lat := 0 }) noCheck plainLeave
    (fun h s =>
      let x := rdV h.st a
      if selWrites x then trrecWrite h x (rdV h.st d) s else writeVar s h (toV d (trrecRead h x))) s

/-! ### Recording -/

/-- The arrival of a strand at the phase instance of its cord is withdrawn, and the phase counts as not issued (R351, R435). -/
def withdrawPhase (l : Nat) (c : Cord) : Cord :=
  match c.insts.find? (fun x => x.kind == 6 && (arrivalOf x l).isSome) with
  | none => c
  | some x =>
    let a := arrivalOf x l
    let x' := { x with arr := x.arr.filter (·.lane != l) }
    { c with
      insts := (c.insts.map (fun y => if y.uid == x.uid then x' else y)).filter (fun y => !y.arr.isEmpty)
      strands := mmod c.strands l (fun st => { st with
        wait := .none
        pc := (a.map (·.pc)).getD st.pc
        issued := st.issued - 1
        sync := st.sync.setIfInBounds 6 ((st.sync[6]?.getD 0) - 1) }) }

/-- The waits that the record of a failure or fault abandons beside those of abandonWait: a phase (R351). A word that was taken back is the one
to resume at (R435). -/
def abandonWaits (s : State) (k l : Nat) : State :=
  modStrand (modCord s k (withdrawPhase l)) k l (fun st =>
    match st.fault with
    | some f => if f.here then { st with pc := f.pc, hint := f.hint, rep := none } else st
    | none => st)

/-- A failure or an ASYNC fault has reached the strand while it stands arrived at a cross-lane or bar instance: its arrival stands, and it
stays blocked until the instance completes (R435). The stuck-cord fault is raised in the wait itself (R172). -/
def arrivedFailing (c : Cord) (l : Nat) (st : Strand) : Bool :=
  (st.ops.any (·.state == .failed) || st.fault.any (·.async)) && st.fault.all (·.cause != 6) &&
  (c.insts.any (fun x => x.kind != 6 && (arrivalOf x l).isSome) || (match st.wait with | .bar _ => true | _ => false))

/-- The strand is waited for: an answer on its way, or the instance it has arrived at (R435). -/
def recordWaits (s : State) (k l : Nat) (c : Cord) (st : Strand) : Bool :=
  s.knotEvs.any (fun e => e.cord == k && e.lane == l) || arrivedFailing c l st

/-- The engine operations R352 discards leave the cord. Another signer of a discarded mma keeps its accumulators, which are released, and
its operation settles (DESIGN CHOICE, log 29). -/
def dropDiscarded (now : Nat) (os : List Op) (c : Cord) : Cord :=
  let gone := (os.filter (fun o => !opDone now o && notStarted c o)).map (·.uid)
  { c with
    eops := c.eops.filter (fun e => !gone.contains e.uid)
    strands := c.strands.map (fun p => (p.1, { p.2 with
      held := p.2.held.filter (fun x => !gone.contains x.uid)
      ops := p.2.ops.map (fun o => if gone.contains o.uid then { o with state := .settled } else o) })) }

/-- A failed or discarded refill undoes its ret, which counts as not issued (R434). -/
def undoRet (c : Cord) (now : Nat) (o : Op) (os : List Op) (st : Strand) : Strand :=
  if (o :: os.filter (discards c now)).any (·.kind == .refill) then { st with issued := st.issued - 1 } else st

/-- The record of a failure is written and the strand is masked off (R352). -/
def recordFailure (s : State) (k l : Nat) : State :=
  match mget s.cords k with
  | none => s
  | some c =>
    let now := cycOf s c.dev c.die
    match (mget c.strands l).bind (fun st => (failedOp now st).map (fun f => (st, f))) with
    | none => s
    | some (st, o, os) =>
      let r := failureRecord c st now o os
      let s := (os.filter (discards c now)).foldl (fun s o => mshrLeave s c o.uid) s
      let s := modCord s k (dropDiscarded now os)
      modStrand s k l (fun st => undoRet c now o os (maskOff r st))

/-- The record of a precise or ASYNC fault is written and the strand is masked off (R353); bkpt under the debug control marks the
cord (R373). -/
def recordFault (s : State) (k l : Nat) (f : PFault) : State :=
  let s := modStrand s k l (fun st => maskOff (faultRecord st f) st)
  match mget s.cords k with
  | some c => if f.cause == 23 && (ctxOf s c.ctx).debug then modCord s k (fun c => { c with debug := true }) else s
  | none => s

/-- The fault of a strand that is not masked off is resolved once its older operations have settled, the oldest failure first; in
handler mode it is a context error (R352, R353, R359, R435). -/
def execFailure (k l : Nat) (s : State) : Out :=
  match mget s.cords k with
  | none => .next s
  | some c =>
    match mget c.strands l with
    | none => .next s
    | some st =>
      let now := cycOf s c.dev c.die
      if c.life != .running || !(st.mode == .running || st.mode == .handler || st.mode == .frozen) || recordWaits s k l c st then .next s
      else
        match failedOp now st, st.fault with
        | some (o, os), _ =>
          if !failureSettled c now os then .next s
          else if st.mode == .handler then .next (contextError s c.ctx l c.node o.pc o.cause (coreIdOf c))
          else if st.mode == .frozen then .next s
          else .next (recordFailure (abandonWaits s k l) k l)
        | none, some f =>
          if !hzClear now st then .next s
          else if st.mode == .handler then .next (contextError s c.ctx l c.node f.pc f.cause (coreIdOf c))
          else if st.mode == .frozen then .next s
          else .next (recordFault (abandonWaits s k l) k l f)
        | none, none => .next s

/-! ### Handler mode -/

/-- A strand is blocked (R356): at an instance, in swait or waito, or asleep on a knot. -/
def isBlocked (st : Strand) : Bool :=
  match st.wait with
  | .bar _ | .phase | .poll _ _ | .sign | .knot _ _ => true
  | .none | .answer | .horizon _ _ => false

/-- A running strand of a cord is blocked, or counts as blocked by a failure it cannot record yet (R356, R435). -/
def blockedIn (c : Cord) (l : Nat) (st : Strand) : Bool := st.mode == .running && (isBlocked st || arrivedFailing c l st)

/-- The masked-off strands of a cord, by lane. -/
def maskedLanes (c : Cord) : List (Nat × Strand) := c.strands.filter (fun p => p.2.mode == .masked)

/-- The cord takes its traps (R356). -/
def takesTrap (c : Cord) : Bool :=
  c.life == .running && !(maskedLanes c).isEmpty && c.preempt != some .save && c.preempt != some .flush &&
  c.strands.all (fun p => p.2.mode == .ended || p.2.mode == .masked || blockedIn c p.1 p.2)

/-- The compatible handler: the masked strand of the lowest lane runs, and every other live strand that is not faulted is frozen
(R360). -/
def enterP2 (vector : BitVec 64) (now lead : Nat) (c : Cord) : Cord :=
  { c with
    p2 := true
    strands := c.strands.map (fun p => (p.1,
      if p.1 == lead then enterHandler vector now true p.2
      else if p.2.mode == .masked then { p.2 with trap := p.2.trap.map (fun r => { r with flags := r.flags ||| 4 }) }
      else if p.2.mode == .ended then p.2
      else { p.2 with mode := .frozen })) }

/-- Every masked-off strand enters its own handler (R356, R357). -/
def enterAll (vector : BitVec 64) (now : Nat) (c : Cord) : Cord :=
  { c with strands := c.strands.map (fun p => (p.1, if p.2.mode == .masked then enterHandler vector now false p.2 else p.2)) }

/-- The masked-off strands of a cord enter handler mode together; without a trap vector the cord ends; mixed settings of the
compatible handler are a context error; a cord stopped by bkpt under the debug control is saved (R356, R357, R360, R373). -/
def execTrapEntry (k : Nat) (s : State) : Out :=
  match mget s.cords k with
  | none => .next s
  | some c =>
    if !takesTrap c then .next s
    else if c.debug then .next (modCord s k (fun c => { c with preempt := some .save }))
    else
      let ms := maskedLanes c
      let now := cycOf s c.dev c.die
      let lead := ms.headD (0, startStrand 0 0 0 0)
      let pc := (lead.2.trap.map (·.pc)).getD 0
      let cause := (lead.2.trap.map (·.cause.toNat)).getD 0
      let p2 (p : Nat × Strand) : Bool := p.2.stat.getLsbD 2
      match (ctxOf s c.ctx).vector with
      | none => .next (fatalEnd s k lead.1 4 pc 0 cause)
      | some v =>
        if ms.all p2 then .next (modCord s k (enterP2 v now lead.1))
        else if ms.any p2 then .next (contextError s c.ctx lead.1 c.node pc cause (coreIdOf c))
        else .next (modCord s k (enterAll v now))

end Sys2Proof.Machine
end

