-- ==== Sys2Proof/Machine/Integer.lean ====
section
/-!
DEFINITION. Integer, logic, address, comparison, select, immediate and predicate words
(spec/06_strand_instructions.md R125 to R136).
-/
namespace Sys2Proof.Machine

/-- A word with three vector fields; r gives V[d] from the strand. -/
def intWord3 (i : Instr) (g : Guard) (d a b : BitVec 7) (readsD : Bool) (lat : Nat) (r : Here → BitVec 32) (s : State) : Out :=
  regWord i g ([.v a, .v b] ++ (if readsD then [.v d] else [])) [.v d] lat (fun h => toV d (r h)) s

/-- A two-address word: d := op(d, a). -/
def intWord2 (i : Instr) (g : Guard) (d a : BitVec 7) (lat : Nat) (r : BitVec 32 → BitVec 32 → BitVec 32) (s : State) : Out :=
  regWord i g [.v d, .v a] [.v d] lat (fun h => toV d (r (rdV h.st d) (rdV h.st a))) s

/-- The same on pairs; the hint's sat bit is given to op. -/
def intPair (i : Instr) (g : Guard) (d a : BitVec 7) (lat : Nat) (r : Bool → BitVec 64 → BitVec 64 → BitVec 64) (s : State) : Out :=
  regWord i g (pair d ++ pair a) (pair d) lat (fun h => toV2 d (r (hintSat h.st.hint) (rdV2 h.st d) (rdV2 h.st a))) s

/-- A shift of a pair by a count in a register. -/
def shiftPair (i : Instr) (g : Guard) (d a : BitVec 7) (r : BitVec 64 → Nat → BitVec 64) (s : State) : Out :=
  regWord i g (pair d ++ [.v a]) (pair d) 1 (fun h => toV2 d (r (rdV2 h.st d) (rdV h.st a).toNat)) s

/-- A unary word: d := op(a). -/
def unaryWord (i : Instr) (g : Guard) (d a : BitVec 7) (r : BitVec 32 → BitVec 32) (s : State) : Out :=
  regWord i g [.v a] [.v d] 1 (fun h => toV d (r (rdV h.st a))) s

/-- A unary word on pairs. -/
def unaryPair (i : Instr) (g : Guard) (d a : BitVec 7) (r : BitVec 64 → BitVec 64) (s : State) : Out :=
  regWord i g (pair a) (pair d) 1 (fun h => toV2 d (r (rdV2 h.st a))) s

/-- A count of a pair's bits, written to one register. -/
def countPair (i : Instr) (g : Guard) (d a : BitVec 7) (r : BitVec 64 → Nat) (s : State) : Out :=
  regWord i g (pair a) [.v d] 1 (fun h => toV d (BitVec.ofNat 32 (r (rdV2 h.st a)))) s

/-- A shift left; a count of the width or more gives 0 (R127). -/
def shiftL {w : Nat} (x : BitVec w) (n : Nat) : BitVec w := if w ≤ n then 0 else x <<< n

/-- A logical shift right; a count of the width or more gives 0 (R127). -/
def shiftR {w : Nat} (x : BitVec w) (n : Nat) : BitVec w := if w ≤ n then 0 else x >>> n

/-- An arithmetic shift right, the count capped at the width less 1 (R128). -/
def shiftA {w : Nat} (x : BitVec w) (n : Nat) : BitVec w := BitVec.ofInt w (x.toInt / 2 ^ (min n (w - 1)))

/-- A rotation to the left by the count mod the width (R128). -/
def rotate {w : Nat} (x : BitVec w) (n : Nat) : BitVec w := x.rotateLeft (n % w)

/-- Leading zeros; the width for 0 (R131). -/
def leadZeros {w : Nat} (x : BitVec w) : Nat := if x.toNat == 0 then w else w - 1 - Nat.log2 x.toNat

/-- Trailing zeros; the width for 0 (R131). -/
def trailZeros {w : Nat} (x : BitVec w) : Nat := ((List.range w).find? (x.getLsbD ·)).getD w

/-- The bits in the opposite order (R131). -/
def bitReverse {w : Nat} (x : BitVec w) : BitVec w := x.reverse

/-- The position and length of a bit-field control word (R130). -/
def fieldOf (c : BitVec 32) : Nat × Nat :=
  let pos := (c.extractLsb' 0 5).toNat
  (pos, min (c.extractLsb' 8 6).toNat (32 - pos))

/-- Extraction of a bit field (R130). -/
def bitExtract (sx : Bool) (x c : BitVec 32) : BitVec 32 :=
  let (pos, len) := fieldOf c
  let f := x.toNat / 2 ^ pos % 2 ^ len
  if sx && len != 0 && 2 ^ (len - 1) ≤ f then BitVec.ofInt 32 ((f : Int) - 2 ^ len) else BitVec.ofNat 32 f

/-- Insertion of a bit field (R130). -/
def bitInsert (x y c : BitVec 32) : BitVec 32 :=
  let (pos, len) := fieldOf c
  let mask : BitVec 32 := BitVec.ofNat 32 ((2 ^ len - 1) * 2 ^ pos)
  (x &&& ~~~mask) ||| ((y <<< pos) &&& mask)

/-- The sum of the four signed byte products (R127). -/
def dotBytes (x y : BitVec 32) : Int :=
  ((List.range 4).map (fun k => (x.extractLsb' (8 * k) 8).toInt * (y.extractLsb' (8 * k) 8).toInt)).sum

/-- Signed division truncated toward zero; by 0 it gives -1 (R129). -/
def quotS (x y : BitVec 32) : BitVec 32 := if y == 0#32 then 0xFFFFFFFF#32 else BitVec.ofInt 32 (x.toInt.tdiv y.toInt)

/-- Unsigned division; by 0 it gives all ones (R129). -/
def quotU (x y : BitVec 32) : BitVec 32 := if y == 0#32 then 0xFFFFFFFF#32 else BitVec.ofNat 32 (x.toNat / y.toNat)

/-- Signed remainder with the sign of the dividend; by 0 it gives the dividend (R129). -/
def remS (x y : BitVec 32) : BitVec 32 := if y == 0#32 then x else BitVec.ofInt 32 (x.toInt.tmod y.toInt)

/-- Unsigned remainder; by 0 it gives the dividend (R129). -/
def remU (x y : BitVec 32) : BitVec 32 := if y == 0#32 then x else BitVec.ofNat 32 (x.toNat % y.toNat)

/-- |x|, with the most negative value fixed (R131). -/
def absRes {w : Nat} (x : BitVec w) : BitVec w := BitVec.ofInt w (x.toInt.natAbs : Int)

/-- The conditions of icmp (R106): 0 to 5 signed eq, ne, lt, le, gt, ge; 6 to 9 unsigned lt, le, gt, ge; 10 to 15 on pairs. -/
def icmpCond (st : Strand) (c : BitVec 4) (a b : BitVec 7) : Bool :=
  let x := rdV st a
  let y := rdV st b
  let p := rdV2 st a
  let q := rdV2 st b
  if c == 0#4 then x == y
  else if c == 1#4 then x != y
  else if c == 2#4 then decide (x.toInt < y.toInt)
  else if c == 3#4 then decide (x.toInt ≤ y.toInt)
  else if c == 4#4 then decide (y.toInt < x.toInt)
  else if c == 5#4 then decide (y.toInt ≤ x.toInt)
  else if c == 6#4 then decide (x.toNat < y.toNat)
  else if c == 7#4 then decide (x.toNat ≤ y.toNat)
  else if c == 8#4 then decide (y.toNat < x.toNat)
  else if c == 9#4 then decide (y.toNat ≤ x.toNat)
  else if c == 10#4 then p == q
  else if c == 11#4 then p != q
  else if c == 12#4 then decide (p.toInt < q.toInt)
  else if c == 13#4 then decide (q.toInt ≤ p.toInt)
  else if c == 14#4 then decide (p.toNat < q.toNat)
  else decide (q.toNat ≤ p.toNat)

/-- V[d] := int_res(a + b) (R127). -/
def execIadd (g : Guard) (d a b : BitVec 7) (s : State) : Out :=
  intWord3 (.iadd g d a b) g d a b false 1 (fun h => intRes 32 (hintSat h.st.hint) ((rdV h.st a).toInt + (rdV h.st b).toInt)) s

/-- V[d] := int_res(a - b) (R127). -/
def execIsub (g : Guard) (d a b : BitVec 7) (s : State) : Out :=
  intWord3 (.isub g d a b) g d a b false 1 (fun h => intRes 32 (hintSat h.st.hint) ((rdV h.st a).toInt - (rdV h.st b).toInt)) s

/-- V[d] := int_res(a b), latency 4 (R127). -/
def execImul (g : Guard) (d a b : BitVec 7) (s : State) : Out :=
  intWord3 (.imul g d a b) g d a b false 4 (fun h => intRes 32 (hintSat h.st.hint) ((rdV h.st a).toInt * (rdV h.st b).toInt)) s

/-- V[d] := int_res(d + a b), latency 4 (R127). -/
def execImad (g : Guard) (d a b : BitVec 7) (s : State) : Out :=
  intWord3 (.imad g d a b) g d a b true 4 (fun h => intRes 32 (hintSat h.st.hint) ((rdV h.st d).toInt + (rdV h.st a).toInt * (rdV h.st b).toInt)) s

/-- Bitwise and (R127). -/
def execAnd (g : Guard) (d a b : BitVec 7) (s : State) : Out :=
  intWord3 (.and g d a b) g d a b false 1 (fun h => (rdV h.st a) &&& (rdV h.st b)) s

/-- Bitwise or (R127). -/
def execOr (g : Guard) (d a b : BitVec 7) (s : State) : Out :=
  intWord3 (.or g d a b) g d a b false 1 (fun h => (rdV h.st a) ||| (rdV h.st b)) s

/-- Bitwise exclusive or (R127). -/
def execXor (g : Guard) (d a b : BitVec 7) (s : State) : Out :=
  intWord3 (.xor g d a b) g d a b false 1 (fun h => (rdV h.st a) ^^^ (rdV h.st b)) s

/-- Shift left by V[b] (R127). -/
def execShl (g : Guard) (d a b : BitVec 7) (s : State) : Out :=
  intWord3 (.shl g d a b) g d a b false 1 (fun h => shiftL (rdV h.st a) (rdV h.st b).toNat) s

/-- Shift right by V[b] (R127). -/
def execShr (g : Guard) (d a b : BitVec 7) (s : State) : Out :=
  intWord3 (.shr g d a b) g d a b false 1 (fun h => shiftR (rdV h.st a) (rdV h.st b).toNat) s

/-- V[d] := V[a] when V[d] is not 0, else V[b] (R136). -/
def execSel (g : Guard) (d a b : BitVec 7) (s : State) : Out :=
  intWord3 (.sel g d a b) g d a b true 1 (fun h => if (rdV h.st d) != 0#32 then (rdV h.st a) else (rdV h.st b)) s

/-- Bit-field insert (R130). -/
def execBfi (g : Guard) (d a b : BitVec 7) (s : State) : Out :=
  intWord3 (.bfi g d a b) g d a b true 1 (fun h => bitInsert (rdV h.st d) (rdV h.st a) (rdV h.st b)) s

/-- The sum of four signed byte products added to d, latency 4 (R127). -/
def execIdp4 (g : Guard) (d a b : BitVec 7) (s : State) : Out :=
  intWord3 (.idp4 g d a b) g d a b true 4 (fun h => intRes 32 (hintSat h.st.hint) ((rdV h.st d).toInt + dotBytes (rdV h.st a) (rdV h.st b))) s

/-- p[q] := cond(a, b) (R134). -/
def execIcmp (g : Guard) (c : BitVec 4) (q : BitVec 3) (a b : BitVec 7) (s : State) : Out :=
  regWord (.icmp g c q a b) g (if c.toNat < 10 then [.v a, .v b] else pair a ++ pair b) [.p q] 1
    (fun h => toP q (icmpCond h.st c a b)) s

/-- V2[d] := V2[a] + sign extension of V[b], wrapping (R133). -/
def execLea (g : Guard) (d a b : BitVec 7) (s : State) : Out :=
  regWord (.lea g d a b) g (pair a ++ [.v b]) (pair d) 1
    (fun h => toV2 d (rdV2 h.st a + (rdV h.st b).signExtend 64)) s

/-- Bits 63:32 of the signed product, latency 4 (R128). -/
def execImulh (g : Guard) (d a : BitVec 7) (s : State) : Out :=
  intWord2 (.imulh g d a) g d a 4 (fun x y => (BitVec.ofInt 64 (x.toInt * y.toInt)).extractLsb' 32 32) s

/-- Bits 63:32 of the unsigned product, latency 4 (R128). -/
def execImulhUns (g : Guard) (d a : BitVec 7) (s : State) : Out :=
  intWord2 (.imulhUns g d a) g d a 4 (fun x y => (BitVec.ofNat 64 (x.toNat * y.toNat)).extractLsb' 32 32) s

/-- Signed quotient, through the divide unit (R129). -/
def execIdiv (g : Guard) (d a : BitVec 7) (s : State) : Out :=
  divWord (.idiv g d a) g [.v d, .v a] d 0 (fun h => (quotS (rdV h.st d) (rdV h.st a), 0)) s

/-- Unsigned quotient, through the divide unit (R129). -/
def execIdivUns (g : Guard) (d a : BitVec 7) (s : State) : Out :=
  divWord (.idivUns g d a) g [.v d, .v a] d 0 (fun h => (quotU (rdV h.st d) (rdV h.st a), 0)) s

/-- Signed remainder, through the divide unit (R129). -/
def execIrem (g : Guard) (d a : BitVec 7) (s : State) : Out :=
  divWord (.irem g d a) g [.v d, .v a] d 0 (fun h => (remS (rdV h.st d) (rdV h.st a), 0)) s

/-- Unsigned remainder, through the divide unit (R129). -/
def execIremUns (g : Guard) (d a : BitVec 7) (s : State) : Out :=
  divWord (.iremUns g d a) g [.v d, .v a] d 0 (fun h => (remU (rdV h.st d) (rdV h.st a), 0)) s

/-- The lesser by signed value (R128). -/
def execImin (g : Guard) (d a : BitVec 7) (s : State) : Out :=
  intWord2 (.imin g d a) g d a 1 (fun x y => if y.toInt < x.toInt then y else x) s

/-- The lesser by unsigned value (R128). -/
def execIminUns (g : Guard) (d a : BitVec 7) (s : State) : Out :=
  intWord2 (.iminUns g d a) g d a 1 (fun x y => if y.toNat < x.toNat then y else x) s

/-- The greater by signed value (R128). -/
def execImax (g : Guard) (d a : BitVec 7) (s : State) : Out :=
  intWord2 (.imax g d a) g d a 1 (fun x y => if x.toInt < y.toInt then y else x) s

/-- The greater by unsigned value (R128). -/
def execImaxUns (g : Guard) (d a : BitVec 7) (s : State) : Out :=
  intWord2 (.imaxUns g d a) g d a 1 (fun x y => if x.toNat < y.toNat then y else x) s

/-- d and not a (R128). -/
def execAndn (g : Guard) (d a : BitVec 7) (s : State) : Out :=
  intWord2 (.andn g d a) g d a 1 (fun x y => x &&& ~~~y) s

/-- Arithmetic shift right, the count capped at 31 (R128). -/
def execSar (g : Guard) (d a : BitVec 7) (s : State) : Out :=
  intWord2 (.sar g d a) g d a 1 (fun x y => shiftA x y.toNat) s

/-- Rotate left by the count mod 32 (R128). -/
def execRotl (g : Guard) (d a : BitVec 7) (s : State) : Out :=
  intWord2 (.rotl g d a) g d a 1 (fun x y => rotate x y.toNat) s

/-- Bit-field extract with sign extension (R130). -/
def execBfx (g : Guard) (d a : BitVec 7) (s : State) : Out :=
  intWord2 (.bfx g d a) g d a 1 (fun x y => bitExtract true x y) s

/-- Bit-field extract with zero extension (R130). -/
def execBfxUns (g : Guard) (d a : BitVec 7) (s : State) : Out :=
  intWord2 (.bfxUns g d a) g d a 1 (fun x y => bitExtract false x y) s

/-- V2[d] := int_res(d + a) (R128). -/
def execIaddD (g : Guard) (d a : BitVec 7) (s : State) : Out :=
  intPair (.iaddD g d a) g d a 1 (fun sg x y => intRes 64 sg (x.toInt + y.toInt)) s

/-- V2[d] := int_res(d - a) (R128). -/
def execIsubD (g : Guard) (d a : BitVec 7) (s : State) : Out :=
  intPair (.isubD g d a) g d a 1 (fun sg x y => intRes 64 sg (x.toInt - y.toInt)) s

/-- V2[d] := int_res(d a), latency 4 (R128). -/
def execImulD (g : Guard) (d a : BitVec 7) (s : State) : Out :=
  intPair (.imulD g d a) g d a 4 (fun sg x y => intRes 64 sg (x.toInt * y.toInt)) s

/-- Bitwise and of pairs (R128). -/
def execAndD (g : Guard) (d a : BitVec 7) (s : State) : Out :=
  intPair (.andD g d a) g d a 1 (fun _ x y => x &&& y) s

/-- Bitwise or of pairs (R128). -/
def execOrD (g : Guard) (d a : BitVec 7) (s : State) : Out :=
  intPair (.orD g d a) g d a 1 (fun _ x y => x ||| y) s

/-- Bitwise exclusive or of pairs (R128). -/
def execXorD (g : Guard) (d a : BitVec 7) (s : State) : Out :=
  intPair (.xorD g d a) g d a 1 (fun _ x y => x ^^^ y) s

/-- d and not a on pairs (R128). -/
def execAndnD (g : Guard) (d a : BitVec 7) (s : State) : Out :=
  intPair (.andnD g d a) g d a 1 (fun _ x y => x &&& ~~~y) s

/-- The lesser of two pairs by signed value (R128). -/
def execIminD (g : Guard) (d a : BitVec 7) (s : State) : Out :=
  intPair (.iminD g d a) g d a 1 (fun _ x y => if y.toInt < x.toInt then y else x) s

/-- Shift left of a pair (R128). -/
def execShlD (g : Guard) (d a : BitVec 7) (s : State) : Out :=
  shiftPair (.shlD g d a) g d a (fun x n => shiftL x n) s

/-- Shift right of a pair (R128). -/
def execShrD (g : Guard) (d a : BitVec 7) (s : State) : Out :=
  shiftPair (.shrD g d a) g d a (fun x n => shiftR x n) s

/-- Arithmetic shift right of a pair, the count capped at 63 (R128). -/
def execSarD (g : Guard) (d a : BitVec 7) (s : State) : Out :=
  shiftPair (.sarD g d a) g d a (fun x n => shiftA x n) s

/-- Rotate a pair left by the count mod 64 (R128). -/
def execRotlD (g : Guard) (d a : BitVec 7) (s : State) : Out :=
  shiftPair (.rotlD g d a) g d a (fun x n => rotate x n) s

/-- The lesser of two pairs by unsigned value (R128). -/
def execIminDUns (g : Guard) (d a : BitVec 7) (s : State) : Out :=
  intPair (.iminDUns g d a) g d a 1 (fun _ x y => if y.toNat < x.toNat then y else x) s

/-- The greater of two pairs by signed value (R128). -/
def execImaxD (g : Guard) (d a : BitVec 7) (s : State) : Out :=
  intPair (.imaxD g d a) g d a 1 (fun _ x y => if x.toInt < y.toInt then y else x) s

/-- The greater of two pairs by unsigned value (R128). -/
def execImaxDUns (g : Guard) (d a : BitVec 7) (s : State) : Out :=
  intPair (.imaxDUns g d a) g d a 1 (fun _ x y => if x.toNat < y.toNat then y else x) s

/-- Copy (R131). -/
def execMov (g : Guard) (d a : BitVec 7) (s : State) : Out :=
  unaryWord (.mov g d a) g d a (fun x => x) s

/-- Absolute value, wrapping (R131). -/
def execIabs (g : Guard) (d a : BitVec 7) (s : State) : Out :=
  unaryWord (.iabs g d a) g d a (fun x => absRes x) s

/-- Negation, wrapping (R131). -/
def execIneg (g : Guard) (d a : BitVec 7) (s : State) : Out :=
  unaryWord (.ineg g d a) g d a (fun x => -x) s

/-- Complement (R131). -/
def execNot (g : Guard) (d a : BitVec 7) (s : State) : Out :=
  unaryWord (.not g d a) g d a (fun x => ~~~x) s

/-- Count of one bits (R131). -/
def execPopc (g : Guard) (d a : BitVec 7) (s : State) : Out :=
  unaryWord (.popc g d a) g d a (fun x => BitVec.ofNat 32 (popCount x)) s

/-- Leading zeros (R131). -/
def execClz (g : Guard) (d a : BitVec 7) (s : State) : Out :=
  unaryWord (.clz g d a) g d a (fun x => BitVec.ofNat 32 (leadZeros x)) s

/-- Trailing zeros (R131). -/
def execCtz (g : Guard) (d a : BitVec 7) (s : State) : Out :=
  unaryWord (.ctz g d a) g d a (fun x => BitVec.ofNat 32 (trailZeros x)) s

/-- Bit reversal (R131). -/
def execBrev (g : Guard) (d a : BitVec 7) (s : State) : Out :=
  unaryWord (.brev g d a) g d a (fun x => bitReverse x) s

/-- Copy of a pair (R131). -/
def execMovD (g : Guard) (d a : BitVec 7) (s : State) : Out :=
  unaryPair (.movD g d a) g d a (fun x => x) s

/-- Absolute value, wrapping of a pair (R131). -/
def execIabsD (g : Guard) (d a : BitVec 7) (s : State) : Out :=
  unaryPair (.iabsD g d a) g d a (fun x => absRes x) s

/-- Negation, wrapping of a pair (R131). -/
def execInegD (g : Guard) (d a : BitVec 7) (s : State) : Out :=
  unaryPair (.inegD g d a) g d a (fun x => -x) s

/-- Complement of a pair (R131). -/
def execNotD (g : Guard) (d a : BitVec 7) (s : State) : Out :=
  unaryPair (.notD g d a) g d a (fun x => ~~~x) s

/-- Count of one bits of a pair (R131). -/
def execPopcD (g : Guard) (d a : BitVec 7) (s : State) : Out :=
  countPair (.popcD g d a) g d a (fun x => popCount x) s

/-- Leading zeros of a pair (R131). -/
def execClzD (g : Guard) (d a : BitVec 7) (s : State) : Out :=
  countPair (.clzD g d a) g d a (fun x => leadZeros x) s

/-- Trailing zeros of a pair (R131). -/
def execCtzD (g : Guard) (d a : BitVec 7) (s : State) : Out :=
  countPair (.ctzD g d a) g d a (fun x => trailZeros x) s

/-- Bit reversal of a pair (R131). -/
def execBrevD (g : Guard) (d a : BitVec 7) (s : State) : Out :=
  unaryPair (.brevD g d a) g d a (fun x => bitReverse x) s

/-- V[d] := int_res(a + imm) (R132, R123). -/
def execIaddImm (g : Guard) (d a i : BitVec 7) (s : State) : Out :=
  regWord (.iaddImm g d a i) g [.v a] [.v d] 1
    (fun h => toV d (intRes 32 (hintSat h.st.hint) ((rdV h.st a).toInt + immFI h.st.hint i))) s

/-- Shift left by an immediate (R132). -/
def execShlImm (g : Guard) (d a : BitVec 7) (n : BitVec 5) (s : State) : Out :=
  unaryWord (.shlImm g d a n) g d a (fun x => shiftL x n.toNat) s

/-- Shift right by an immediate (R132). -/
def execShrImm (g : Guard) (d a : BitVec 7) (n : BitVec 5) (s : State) : Out :=
  unaryWord (.shrImm g d a n) g d a (fun x => shiftR x n.toNat) s

/-- Arithmetic shift right by an immediate (R132). -/
def execSarImm (g : Guard) (d a : BitVec 7) (n : BitVec 5) (s : State) : Out :=
  unaryWord (.sarImm g d a n) g d a (fun x => shiftA x n.toNat) s

/-- Rotate left by an immediate (R132). -/
def execRotlImm (g : Guard) (d a : BitVec 7) (n : BitVec 5) (s : State) : Out :=
  unaryWord (.rotlImm g d a n) g d a (fun x => rotate x n.toNat) s

/-- V[d] := imm (R132, R123). -/
def execMovi (g : Guard) (d : BitVec 7) (i : BitVec 14) (s : State) : Out :=
  regWord (.movi g d i) g [] [.v d] 1 (fun h => toV d (BitVec.ofInt 32 (immFL h.st.hint i))) s

/-- Bits 31:18 of V[d] := imm14; the others stay (R132). -/
def execMovhi (g : Guard) (d : BitVec 7) (i : BitVec 14) (s : State) : Out :=
  regWord (.movhi g d i) g [.v d] [.v d] 1 (fun h => toV d (i ++ (rdV h.st d).extractLsb' 0 18)) s

/-- Predicate logic (R135). -/
def execPand (g : Guard) (q : BitVec 3) (a b : BitVec 7) (s : State) : Out :=
  regWord (.pand g q a b) g [.p (pReg a), .p (pReg b)] [.p q] 1 (fun h => toP q (rdP h.st (pReg a) && rdP h.st (pReg b))) s

/-- Predicate logic (R135). -/
def execPor (g : Guard) (q : BitVec 3) (a b : BitVec 7) (s : State) : Out :=
  regWord (.por g q a b) g [.p (pReg a), .p (pReg b)] [.p q] 1 (fun h => toP q (rdP h.st (pReg a) || rdP h.st (pReg b))) s

/-- Predicate logic (R135). -/
def execPxor (g : Guard) (q : BitVec 3) (a b : BitVec 7) (s : State) : Out :=
  regWord (.pxor g q a b) g [.p (pReg a), .p (pReg b)] [.p q] 1 (fun h => toP q (rdP h.st (pReg a) != rdP h.st (pReg b))) s

/-- Predicate complement (R135). -/
def execPnot (g : Guard) (q : BitVec 3) (a : BitVec 7) (s : State) : Out :=
  regWord (.pnot g q a) g [.p (pReg a)] [.p q] 1 (fun h => toP q (!rdP h.st (pReg a))) s

end Sys2Proof.Machine
end

