-- ==== Sys2Proof/Machine/Sched.lean ====
section
/-!
DEFINITION. Binding, launching and resuming cords (spec/10_stage_nodes.md R209 to R215), the end of a phase
(spec/07_parallel_execution.md R176 to R180), pre-emption by drain, flush and save, and the restore
(spec/20_faults_and_horizon.md R361 to R365, spec/23_dies_and_devices.md R400), and the divide unit (R57).
-/
namespace Sys2Proof.Machine

/-- The divide and square-root unit of a lane delivers its oldest result (R57, R129). -/
def execDivideResult (k l : Nat) (s : State) : Out := .next (divideDone s k l)

/-! ### Binding -/

/-- The bind record of its 32 bytes, bit 0 the lowest of the first (R213). -/
def bindOf (x : BitVec 256) : BindRec where
  ctx := x.extractLsb' 0 32
  node := x.extractLsb' 32 16
  kind := x.extractLsb' 48 16
  source := x.extractLsb' 64 64
  lanes := x.extractLsb' 128 64
  vbase := x.extractLsb' 192 16
  kbase := x.extractLsb' 208 8
  macros := x.extractLsb' 216 8
  sbase := x.extractLsb' 224 16
  rsvd := x.extractLsb' 240 16

/-- The 32 bytes of a bind record (R213). -/
def bindBits (b : BindRec) : BitVec 256 :=
  b.rsvd ++ b.sbase ++ b.macros ++ b.kbase ++ b.vbase ++ b.lanes ++ b.source ++ b.kind ++ b.node ++ b.ctx

/-- The work a bind record names: its header, strand count, batt and cord. -/
structure Work where
  graph : Nat
  hdr   : NodeHdr
  count : Nat
  batt  : Option Batt := none
  ready : Option OpenBatt := none
  cord  : Option (Nat × Cord) := none
deriving DecidableEq, Repr

/-- The strands of a cord launched from a batt of n records (R210). -/
def launchCount (h : NodeHdr) (n : Nat) : Nat := if h.shared then h.cord else n

/-- The node of an open graph (R222). -/
def openNode (x : Context) (g n : Nat) : Option NodeHdr := if (graphOf x g).any (!·.closed) then nodeOf x g n else none

/-- The cord of a batt that was flushed in its first phase: it starts again under the same party names (R362). -/
def flushedFrom (s : State) (ctx : Nat) (t : Batt) : Option (Nat × Cord) :=
  s.cords.find? (fun p => p.2.life == .flushed && p.2.ctx == ctx && p.2.phase == 0 && p.2.batt.id == t.id)

/-- The node of a closed batt: its graph is open, or a cord launched from the batt is to start again (R222, R362). -/
def battNode (s : State) (ctx : Nat) (t : Batt) : Option NodeHdr :=
  if (flushedFrom s ctx t).isSome then nodeOf (ctxOf s ctx) t.graph t.node else openNode (ctxOf s ctx) t.graph t.node

/-- The work of a KIND 0 record (R213): a closed batt by its number, or the READY batt of graph g of the node by 2^63 + g (log 14). -/
def battWork (s : State) (c : CoreId) (b : BindRec) : Option Work :=
  let x := ctxOf s b.ctx.toNat
  match x.batts.find? (fun t => t.id == b.source.toNat && t.node == b.node.toNat && t.dev == c.dev && t.die == c.die && !t.bound) with
  | some t => (battNode s b.ctx.toNat t).map (fun h => { graph := t.graph, hdr := h, count := launchCount h t.slots.length, batt := some t })
  | none =>
    match openOf x (b.source.toNat - 2 ^ 63) b.node.toNat c.dev c.die with
    | some o =>
      if b.source.toNat < 2 ^ 63 || o.ready.isNone then none
      else (openNode x o.graph o.node).map (fun h => { graph := o.graph, hdr := h, count := launchCount h o.slots.length, ready := some o })
    | none => none

/-- A cord that waits to be bound at an address: a phase record, or a save area (R179, R363). -/
def waitsAt (c : Cord) (a : Nat) : Bool :=
  match c.life with
  | .queued => a == recordAddr c
  | .flushed => 0 < c.phase && a == recordAddr c
  | .saved => a == saveAddr c
  | .running | .ended => false

/-- Every slot-table entry of a die with its core. -/
def dieEntries (s : State) (dev die : Nat) : List (Nat × SlotEntry) :=
  (dieOf s dev die).cores.flatMap (fun q => q.2.slots.toList.map (fun e => (q.1, e)))

/-- A cord is bound already. -/
def cordBound (s : State) (k : Nat) (c : Cord) : Bool :=
  (dieEntries s c.dev c.die).any (fun e => match e.2 with | .bound _ _ (some j) => j == k | _ => false)

/-- The header a cord runs its next phase under: its own, with the counts of the node the record names (R315). A saved cord goes on under
the counts it has. -/
def phaseHdr (s : State) (n : Nat) (c : Cord) : Option NodeHdr :=
  if c.life == .saved then (if n == c.node then some c.hdr else none)
  else (nodeOf (ctxOf s c.ctx) c.graph n).map (fun h =>
    { c.hdr with vregs := h.vregs, kregs := h.kregs, scratch := h.scratch, macros := h.macros })

/-- The work of a KIND 1 record (R213). -/
def phaseWork (s : State) (c : CoreId) (b : BindRec) : Option Work :=
  (s.cords.find? (fun p => p.2.ctx == b.ctx.toNat && p.2.dev == c.dev && p.2.die == c.die &&
    waitsAt p.2 b.source.toNat && !cordBound s p.1 p.2)).bind (fun p => (phaseHdr s b.node.toNat p.2).map (fun h =>
      { graph := p.2.graph, hdr := h, count := popCount p.2.lanes, cord := some p }))

/-- The work a bind record names. -/
def workOf (s : State) (c : CoreId) (b : BindRec) : Option Work :=
  if b.kind == 0#16 then battWork s c b else if b.kind == 1#16 then phaseWork s c b else none

/-- Two ranges have a common member; an empty one has none. -/
def meet (a n b m : Nat) : Bool := decide (0 < n) && decide (0 < m) && decide (a < b + m) && decide (b < a + n)

/-- Two grants on one core name a common resource (R156, R214). -/
def conflicts (p q : BindRec × NodeHdr) : Bool :=
  ((p.1.lanes &&& q.1.lanes) != 0 && meet p.1.vbase.toNat p.2.vregs q.1.vbase.toNat q.2.vregs) ||
  meet (4 * p.1.kbase.toNat) p.2.kregs (4 * q.1.kbase.toNat) q.2.kregs || (p.1.macros &&& q.1.macros) != 0 ||
  meet (256 * p.1.sbase.toNat) p.2.scratch (256 * q.1.sbase.toNat) q.2.scratch

/-- The header of a bound entry's work. -/
def boundHdr (s : State) (b : BindRec) (batt cord : Option Nat) : Option NodeHdr :=
  let x := ctxOf s b.ctx.toNat
  match cord with
  | some k => (mget s.cords k).bind (phaseHdr s b.node.toNat)
  | none => (batt.bind (fun t => x.batts.find? (·.id == t))).bind (fun t => nodeOf x t.graph t.node)

/-- The grants in force on a core. -/
def grantsOn (s : State) (c : CoreId) : List (BindRec × NodeHdr) :=
  (coreOf s c.dev c.die c.core).slots.toList.filterMap (fun e => match e with
    | .free => none
    | .bound b t k => (boundHdr s b t k).map (fun h => (b, h))
    | .running k => (mget s.cords k).map (fun x => (x.bind, x.hdr)))

/-- A cord between phases that keeps its scratchpad on its core (R179). -/
def keepsScratch (c : Cord) : Bool := c.hdr.kept && (c.life == .queued || (c.life == .flushed && decide (0 < c.phase)))

/-- The grant meets scratchpad that another cord keeps. -/
def meetsKept (s : State) (c : CoreId) (b : BindRec) (w : Work) : Bool :=
  s.cords.any (fun p => keepsScratch p.2 && p.2.dev == c.dev && p.2.die == c.die && p.2.core == c.core &&
    (w.cord.map (·.1)) != some p.1 && meet (256 * b.sbase.toNat) w.hdr.scratch (scrBase p.2) p.2.hdr.scratch)

/-- The counts of a bind record match the header and the core (R156, R213, R214). -/
def countsFit (b : BindRec) (h : NodeHdr) : Bool :=
  popCount b.macros == h.macros && b.vbase.toNat % 8 == 0 && decide (b.vbase.toNat + h.vregs ≤ 2048) &&
  decide (b.kbase.toNat ≤ 15) && decide (4 * b.kbase.toNat + h.kregs ≤ 64) &&
  decide (256 * b.sbase.toNat + h.scratch ≤ 524288) && b.rsvd == 0#16

/-- LANES names the strands of the work: the count of a new batt, the lanes of a cord that has them (R179, R214, R362). -/
def lanesFit (s : State) (b : BindRec) (w : Work) : Bool :=
  popCount b.lanes == w.count && w.cord.all (fun p => p.2.lanes == b.lanes) &&
  (w.batt.bind (flushedFrom s b.ctx.toNat)).all (fun p => p.2.lanes == b.lanes)

/-- Why the dispatch hardware refuses a bind record (R214, R252, R430); 0 when it accepts: 1 no such work, 2 the entry is not
free, 3 a resource is not free, 4 LANES, 5 the counts, 6 a kept core or SBASE, 7 a write window, 8 the core is the steward's or no core
(R14, R424). The codes, and the order in which the conditions are examined, are the model's own (DESIGN CHOICE, log 61). -/
def bindReason (s : State) (c : CoreId) (entry : Nat) (b : BindRec) : Nat :=
  if 63 ≤ c.core then 8
  else
    match workOf s c b with
    | none => 1
    | some w =>
      if (coreOf s c.dev c.die c.core).slots[entry]? != some .free then 2
      else if !countsFit b w.hdr then 5
      else if !lanesFit s b w then 4
      else if (grantsOn s c).any (conflicts (b, w.hdr)) || meetsKept s c b w then 3
      else if w.cord.any (fun p => keepsScratch p.2 && (p.2.core != c.core || p.2.bind.sbase != b.sbase)) then 6
      else if (mget s.modules c.dev).any (fun m => m.windows.any (nodeHits s b.ctx.toNat c.dev w.hdr.leases)) then 7
      else 0

/-- Set a slot-table entry. -/
def setSlotEntry (s : State) (c : CoreId) (entry : Nat) (e : SlotEntry) : State :=
  modCore s c.dev c.die c.core (fun co => { co with slots := co.slots.setIfInBounds entry e })

/-- The refusal is reported to the steward as an event of the die's arbiter (R214). -/
def reportRefusal (s : State) (c : CoreId) (entry reason : Nat) : State :=
  modDie s c.dev c.die (fun d => { d with reports := d.reports ++ [(32 * c.core + entry, reason)] })

/-- Bind the work: a READY batt closes, a batt is taken, a queued cord leaves the queue (R207, R214). -/
def bindWork (s : State) (c : CoreId) (entry : Nat) (b : BindRec) (w : Work) : State :=
  let ctx := b.ctx.toNat
  match w.cord with
  | some p =>
    let s := modCtx s ctx (fun x => { x with queued := x.queued.filter (· != p.1) })
    setSlotEntry s c entry (.bound b none (some p.1))
  | none =>
    let (u, s) := freshUid s
    let s := match w.ready with
      | some o => modCtx s ctx (closeBatt u (cycOf s c.dev c.die) o)
      | none => s
    let id := (w.batt.map (·.id)).getD u
    let s := modCtx s ctx (fun x => { x with batts := x.batts.map (fun t => if t.id == id then { t with bound := true } else t) })
    setSlotEntry s c entry (.bound b (some id) none)

/-- The steward writes a bind record, which is accepted or refused and reported (R213, R214). -/
def execBindRecord (c : CoreId) (entry : Nat) (b : BindRec) (s : State) : Out :=
  match bindReason s c entry b, workOf s c b with
  | 0, some w => .next (bindWork s c entry b w)
  | r, _ => .next (reportRefusal s c entry r)

/-! ### Launching -/

/-- Every lease range is mapped with its access (R215). -/
def resident (s : State) (ctx dev : Nat) (ls : List Lease) : Bool :=
  ls.all (fun l => (List.range ((l.hi + 65535) / 65536 - l.lo / 65536)).all (fun i =>
    (walk s ctx dev ((l.lo / 65536 + i) * 65536)).any (fun e => e.r && (l.ro || e.w))))

/-- The bytes, scales and macros of a grant become empty; kept scratchpad stays (R154, R180, R249). -/
def clearGrant (b : BindRec) (h : NodeHdr) (keep : Bool) (co : Core) : Core :=
  let lo := 256 * b.sbase.toNat
  { co with
    scratch := if keep then co.scratch else co.scratch.filter (fun x => !(decide (lo ≤ x.1) && decide (x.1 < lo + h.scratch)))
    scales := co.scales.mapIdx (fun i y => if 4 * b.kbase.toNat ≤ i && i < 4 * b.kbase.toNat + h.kregs then ⟨0, []⟩ else y)
    macros := co.macros.mapIdx (fun i y => if b.macros.getLsbD i then blankMac else y) }

/-- Write bytes at a virtual address of a context, as the steward does: no party holds them afterwards, no LLC but the home's keeps their
words, and a word written whole is no longer poisoned (R251, R256). -/
def writeVa (s : State) (ctx dev va : Nat) (bs : List (BitVec 8)) : State :=
  let ps := bs.zipIdx.filterMap (fun b => (walk s ctx dev (va + b.2)).map (fun e => (entryKey e (va + b.2), b.1)))
  let as := ps.map (·.1)
  let whole := wholeWords as
  directoryWrite { s with
    mem := writeCells s.mem as (ps.map (·.2))
    tokens := as.foldl mdel s.tokens
    poison := s.poison.filter (fun w => !whole.contains w) } ⟨dev, 4, 63⟩ as

/-- The lowest slice of a graph's queue memory on a die that no live cord uses (log 14). A launch waits for one that its queue memory
has. -/
def freeSlice (s : State) (ctx graph dev die : Nat) : Nat :=
  let used := (s.cords.filter (fun p => p.2.ctx == ctx && p.2.graph == graph && p.2.dev == dev && p.2.die == die)).map (·.2.slice)
  ((List.range (used.length + 1)).find? (fun n => !used.contains n)).getD 0

/-- An empty convergence register. -/
def blankConv : Conv := ⟨0, 0, 0, 0, 0, 0, 0, []⟩

/-- What a cord starts each phase with, beside what a launch fills (R154, R179, R180, R194). -/
def freshPhase (c : Cord) : Cord :=
  { c with
    life := .running
    upend := []
    uheld := []
    tiles := Vector.replicate 16 blankTile
    tileAt := Vector.replicate 16 0
    conv := Vector.replicate 8 blankConv
    eops := []
    tagctr := 0
    barcfg := Vector.replicate 5 0
    insts := []
    groups := []
    onces := []
    preempt := none
    drainAt := 0
    p2 := false
    debug := false
    image := none }

/-- The queue memory of a graph on a die. -/
def allocOn (g : Graph) (die : Nat) : Alloc := (g.allocs.find? (·.die == die)).getD ⟨die, 0, 0, 0, 0, 0, []⟩

/-- A cord launched from a batt (R210, R211); one that starts again keeps the producing depths of its strands, which are those of the records
it received (R212, R230, R362). Bits 1:0 of a program counter and 2:0 of %csp are always 0 (R49, R54). -/
def battCord (s : State) (c : CoreId) (entry serial slice : Nat) (b : BindRec) (g : Graph) (h : NodeHdr) (t : Batt) (old : Option Cord) : Cord :=
  let al := allocOn g c.die
  let list := al.lists + 512 * slice
  let x := ctxOf s b.ctx.toNat
  let depthOf (a : Nat) : Nat := ((slotAt x c.dev c.die a).map (·.depth)).getD 0
  let deepest := t.slots.foldl (fun n a => max n (depthOf a)) 0
  let depth (l a : Nat) : Nat := ((old.bind (fun c => mget c.strands l)).map (·.depth)).getD (if h.shared then deepest else depthOf a)
  let strand (j l : Nat) : Strand :=
    let a := if h.shared then t.slots.headD 0 else t.slots.getD j 0
    let csp := BitVec.ofNat 64 (al.spills + (slice * 64 + l) * 4096 + 4088) &&& ~~~7#64
    let st := startStrand (wordAlign h.entry) csp (depth l a) (BitVec.ofNat 64 a)
    { st with v := (st.v.setIfInBounds 0 (BitVec.ofNat 32 a)).setIfInBounds 1 (BitVec.ofNat 32 (a / 2 ^ 32)) }
  freshPhase {
    ctx := b.ctx.toNat
    dev := c.dev
    die := c.die
    serial := serial
    core := c.core
    entry := entry
    lanes := b.lanes
    graph := t.graph
    node := t.node
    hdr := h
    bind := b
    batt := ⟨t.id, t.slots.length, BitVec.ofNat 64 list, t.slots, h.shared⟩
    phase := 0
    life := .running
    u := ((Vector.replicate 64 0).setIfInBounds 0 b.lanes).setIfInBounds 1 (BitVec.ofNat 64 t.slots.length) |>.setIfInBounds 2
      (BitVec.ofNat 64 list)
    upend := []
    uheld := []
    tiles := Vector.replicate 16 blankTile
    tileAt := Vector.replicate 16 0
    conv := Vector.replicate 8 blankConv
    eops := []
    tagctr := 0
    barcfg := Vector.replicate 5 0
    insts := []
    groups := []
    onces := []
    trig := Vector.replicate 16 blankTrig
    preempt := none
    drainAt := 0
    p2 := false
    debug := false
    image := none
    area := al.areas + slice * areaStride
    slice := slice
    savedAt := 0
    pod := (old.map (·.pod)).getD s.pod
    strands := (lanesOf b.lanes).zipIdx.map (fun q => (q.1, strand q.2 q.1)) }

/-- The BATTED records of a batt become HELD by its cord, in per-strand mode each by its strand (R203, R210). -/
def holdRecords (k dev : Nat) (h : NodeHdr) (lanes : BitVec 64) (slots : List Nat) (x : Context) : Context :=
  let ls := lanesOf lanes
  { x with slots := x.slots.map (fun q =>
      if q.dev == dev && q.state == .batted && slots.contains q.addr then
        { q with state := .held, cord := k, lane := if h.shared then none else (slots.idxOf? q.addr).bind (ls[·]?) }
      else q) }

/-- A seed of the graph is still to be committed: its commit comes before every event of the graph's cords (R235). R235 speaks of the start of
a graph; the model has it also for a graph that runs (DESIGN CHOICE, log 92). -/
def seedsWait (s : State) (ctx graph : Nat) : Bool :=
  s.rings.any (fun g => g.id.ctx == some ctx && g.pending.any (fun r => r.code == 6#32 && r.arg0.toNat / 2 ^ 32 == graph))

/-- A party name of a launch is still in use: by a cord of its die, or by a cord whose bytes a recall is still to make STALE. The serial
wraps modulo 2^28, and the manual does not say what a launch then does: it waits (DESIGN CHOICE, log 83). -/
def serialBusy (s : State) (dev die serial : Nat) : Bool :=
  (mget s.cords (cordKey dev die serial)).isSome || s.recalls.any (fun rc => rc.dev == dev && rc.die == die && rc.serial == serial)

/-- Launch from a batt (R211), once the queue memory has room for the cord and the seeds of its graph are committed; a flushed cord starts
again under its own party names, and what it held it holds still (R203, R362). The serial counts the die's launches modulo 2^28 (R259). -/
def launchBatt (s : State) (c : CoreId) (entry : Nat) (b : BindRec) (t : Batt) : State :=
  let ctx := b.ctx.toNat
  match graphOf (ctxOf s ctx) t.graph, battNode s ctx t with
  | some g, some h =>
    let old := flushedFrom s ctx t
    let serial := (old.map (·.2.serial)).getD (dieOf s c.dev c.die).serial
    let slice := (old.map (·.2.slice)).getD (freeSlice s ctx t.graph c.dev c.die)
    let k := cordKey c.dev c.die serial
    if !resident s ctx c.dev h.leases || seedsWait s ctx t.graph ||
        (old.isNone && (decide ((allocOn g c.die).slices ≤ slice) || serialBusy s c.dev c.die serial)) then s
    else
      let s := if old.isSome then s else modDie s c.dev c.die (fun d => { d with serial := (d.serial + 1) % 2 ^ 28 })
      let cord := battCord s c entry serial slice b g h t (old.map (·.2))
      let s := { s with cords := mset s.cords k cord }
      let s := if old.isSome then s else modCtx s ctx (holdRecords k c.dev h b.lanes t.slots)
      let s := writeVa s ctx c.dev cord.batt.list.toNat (t.slots.flatMap (leBytes 8))
      let s := modCore s c.dev c.die c.core (clearGrant b h false)
      acquireStep (setSlotEntry s c entry (.running k)) c 3
  | _, _ => s

/-- Start the next phase of a cord, or start a flushed phase again, from its phase record, under the counts of the node the bind record
names (R179, R315, R362). The sends that fired between the phases are still to start (R413). -/
def launchPhase (s : State) (c : CoreId) (entry : Nat) (b : BindRec) (k : Nat) (old : Cord) : State :=
  let keep := keepsScratch old
  let fired (l : Nat) : List Op := (old.eops.filter (·.lane == l)).map firedOp
  let strands := (lanesOf old.lanes).zipIdx.map (fun q =>
    (q.1, { phaseStrand s old q.2 ((mget old.strands q.1).getD (startStrand 0 0 0 0)) with ops := fired q.1 }))
  let h := (phaseHdr s b.node.toNat old).getD old.hdr
  let cord := { freshPhase { old with core := c.core, entry := entry, bind := b, hdr := h, u := phaseUniforms s old, strands := strands } with
    eops := old.eops }
  let s := { s with cords := mset s.cords k cord }
  let s := modCore s c.dev c.die c.core (clearGrant b h keep)
  acquireStep (setSlotEntry s c entry (.running k)) c 3

/-! ### Saving and restoring -/

/-- An operation of a strand has settled, or is a copy that a save quiesces (R363, R364). -/
def opStill (c : Cord) (now : Nat) (o : Op) : Bool :=
  opDone now o || (o.kind == .engine && (eopOf c o.uid).any (fun e => e.cls == .copy && eopLive e))

/-- Nothing of the strand is on its way (R363): its accesses have settled, its failure is recorded and its results written. -/
def strandStill (c : Cord) (now : Nat) (st : Strand) : Bool :=
  st.fault.isNone && !st.ops.any (opFailed now) && st.pend.isEmpty && st.divs.isEmpty && st.wait != .answer && st.tiling.isNone &&
  st.ops.all (opStill c now)

/-- An engine operation that R352 will discard, which a failure its strand cannot record yet keeps from starting. -/
def eopStuck (c : Cord) (e : EOp) : Bool :=
  e.state == .waiting && e.chunks.isEmpty &&
  c.strands.any (fun p => (opOf p.2 e.uid).isSome && (olderOps p.2 e.uid).any (·.state == .failed))

/-- An engine operation that cannot start before such a failure is recorded: R352 will discard it, or its turn comes after one that R352 will
discard. It is saved as it waits. -/
def eopHeld (c : Cord) (e : EOp) : Bool :=
  eopStuck c e ||
  (e.state == .waiting && !(if e.kind == .mma then productReady c e else startTurn c e) && (olderEops c e.uid).any (eopStuck c))

/-- A strand operation that waits for the completion of an instance: the flags of a fallible result, or, behind a failure that cannot be
recorded yet, what cannot start or be sent (R363, R435). -/
def opHeld (c : Cord) (st : Strand) (o : Op) : Bool :=
  let held (o : Op) : Bool := o.kind == .engine && (eopOf c o.uid).any (eopHeld c)
  (o.kind == .flag && c.insts.any (fun x => x.arr.any (·.uid == o.uid))) || held o ||
  (o.state == .unsent && (olderOps st o.uid).any held)

/-- The strand may be saved (R363): nothing of it is on its way but what waits for the completion of an instance. One that stands arrived at an
instance with a failure it cannot record yet is saved as it stands (R435): everything older has settled, and R352 discards the rest. -/
def strandSaves (c : Cord) (now l : Nat) (st : Strand) : Bool :=
  st.pend.isEmpty && st.divs.isEmpty && st.wait != .answer && st.tiling.isNone &&
  (if st.fault.isNone && !st.ops.any (opFailed now) then st.ops.all (fun o => opStill c now o || opHeld c st o)
   else arrivedFailing c l st && st.ops.all (fun o => opStill c now o || opHeld c st o ||
      ((olderOps st o.uid).any (·.state == .failed) && discards c now o)))

/-- A draining cord has stopped at its yield points (R378). -/
def allStopped (c : Cord) : Bool :=
  c.strands.any (fun p => p.2.stopped) &&
  c.strands.all (fun p => p.2.mode == .ended || p.2.stopped || blockedIn c p.1 p.2)

/-- The cord may be saved now (R363, R364, R378). -/
def savable (s : State) (k : Nat) (c : Cord) : Bool :=
  let now := cycOf s c.dev c.die
  c.life == .running && (c.preempt == some .save || (c.preempt == some .drain && allStopped c)) &&
  c.strands.all (fun p => strandSaves c now p.1 p.2) && c.upend.isEmpty &&
  !c.eops.any (fun e => e.cls != .copy && eopLive e && !eopHeld c e) && !s.knotEvs.any (fun e => e.cord == k)

/-- An outstanding copy is quiesced: it will be reissued for exactly the chunks not credited, those that failed among them (R364). -/
def quiesce (e : EOp) : EOp :=
  if e.cls == .copy && (e.state == .started || e.state == .reading) then
    { e with
      state := .waiting
      chunks := if e.chunks.isEmpty then List.replicate (chunkCount (copyBytes e)) 0 else e.chunks.map (fun x => if x == 1 then 1 else 0)
      cause := 0, addr := 0, detail := 0, sent := 0, bad := [], got := [] }
  else e

/-- What the copies of a cord have on the way to other modules is neither written nor credited after the snapshot (R364). -/
def dropPieces (s : State) (k : Nat) : State := (s.packets.filter (fun p => p.cord == k && enginePkt p)).foldl dropPacket s

/-- A pre-empted cord is saved: the save area is written, its resources are freed, and the steward holds the area (R363 to R365);
a cord stopped by bkpt has its area logged (R373). -/
def execSave (k : Nat) (s : State) : Out :=
  match mget s.cords k with
  | none => .next s
  | some c =>
    if !savable s k c then .next s
    else
      let im := imageOf s c
      let s := { s with mem := writeMem s.mem (byteKey c.dev (saveAddr c)) (saveArea s c im) }
      let s := if c.debug then
          note s c.ctx ⟨c.ctx, c.node, 0, 6, 0, BitVec.ofNat 64 (saveAddr c), c.core, c.die, 23⟩
        else s
      let s := modCord (freeEntry (dropPieces s k) c) k (fun c => { c with
        life := .saved
        preempt := none
        image := some im
        savedAt := cycOf s c.dev c.die
        eops := c.eops.map quiesce
        strands := c.strands.map (fun p => (p.1, { p.2 with stopped := false })) })
      .next (modCtx s c.ctx (fun x => { x with queued := x.queued ++ [k] }))

/-- The engine part of a save area is put back on a core (R363, R364). -/
def putImage (c : Cord) (im : Image) (co : Core) : Core :=
  let co := { co with scratch := im.scratch.foldl (fun m b => mset m (scrBase c + b.1) b.2) co.scratch }
  let co := im.scales.zipIdx.foldl (fun co y => modScale c y.2 (fun _ => y.1) co) co
  im.macros.zipIdx.foldl (fun co y => modMac c y.2 (fun _ => y.1) co) co

/-- The credits a landing held are applied in arrival order (R410). -/
def applyHeld (k : Nat) (s : State) (l : Landing) : State := l.held.foldl (fun s n => (creditAt s k l.sw n).1) s

/-- A cord is configured in the groups of its settings whose instances hold its core (R194, R195). -/
def renewGroups (c : Cord) : Cord :=
  [2, 3, 4, 5].foldl (fun c kind =>
    let v := c.barcfg[kind - 1]?.getD 0
    if cfgCount v == 0 then c else setBarcfg kind v c) c

/-- A saved cord resumes with every field as saved (R363, R364, R400, R410, R373). Its new core drops its L1, so that no strand reads words
from before an acquire it took on the old one (R226, R263; DEDUCED, log 84). -/
def resumeSaved (s : State) (c : CoreId) (entry : Nat) (b : BindRec) (k : Nat) (old : Cord) : State :=
  let now := cycOf s c.dev c.die
  let back (st : Strand) : Strand :=
    if old.debug && st.mode == .masked && st.trap.any (fun r => r.cause == 23#32) then leaveHandler false now st else st
  let cord := renewGroups { old with
    core := c.core
    entry := entry
    bind := b
    life := .running
    image := none
    debug := false
    strands := old.strands.map (fun p => (p.1, back p.2)) }
  let s := { s with cords := mset s.cords k cord }
  let s := modCore s c.dev c.die c.core (fun co => putImage cord (old.image.getD ⟨[], [], []⟩) (clearGrant b old.hdr false co))
  let s := acquireStep (setSlotEntry s c entry (.running k)) c 3
  let ls := (ctxOf s old.ctx).landings.filter (fun l => l.cord == k)
  let s := modCtx s old.ctx (fun x => { x with landings := x.landings.map (fun l => if l.cord == k then { l with held := [] } else l) })
  let s := ls.foldl (applyHeld k) s
  (armedSends old).foldl (fun s t => fireOn s k t.1.sw (fun _ => true)) s

/-- A queued, flushed or saved cord goes on under a bind record (R179, R362, R363). -/
def resumeCord (s : State) (c : CoreId) (entry : Nat) (b : BindRec) (k : Nat) : State :=
  match mget s.cords k with
  | none => s
  | some old =>
    if !resident s old.ctx c.dev old.hdr.leases || seedsWait s old.ctx old.graph then s
    else if old.life == .saved then resumeSaved s c entry b k old
    else launchPhase s c entry b k old

/-- A bound entry launches or resumes its cord once its leases are resident (R211, R214, R215). -/
def execLaunch (c : CoreId) (entry : Nat) (s : State) : Out :=
  match (coreOf s c.dev c.die c.core).slots[entry]? with
  | some (.bound b t k) =>
    match k, t with
    | some k, _ => .next (resumeCord s c entry b k)
    | none, some n =>
      match (ctxOf s b.ctx.toNat).batts.find? (·.id == n) with
      | some bt => .next (launchBatt s c entry b bt)
      | none => .next s
    | none, none => .next s
  | _ => .next s

/-- The steward binds a save area, and the cord is restored in the same step once it is accepted and its leases are resident
(R363, R364). -/
def execRestore (c : CoreId) (entry : Nat) (b : BindRec) (s : State) : Out :=
  match bindReason s c entry b, workOf s c b with
  | 0, some w =>
    match w.cord with
    | some p =>
      if p.2.life == .saved then .next (resumeCord (bindWork s c entry b w) c entry b p.1) else .next (reportRefusal s c entry 1)
    | none => .next (reportRefusal s c entry 1)
  | r, _ => .next (reportRefusal s c entry r)

/-! ### Phase ends -/

/-- The phase instance of a cord that every member has reached or ended before. -/
def phaseReached (c : Cord) : Bool := c.insts.any (fun x => x.kind == 6 && instComplete c x)

/-- The waits of a phase end (R177, R351). -/
def phaseDone (s : State) (c : Cord) : Bool :=
  let now := cycOf s c.dev c.die
  c.life == .running && phaseReached c && countersZero c && c.upend.isEmpty && (c.preempt.isNone || c.preempt == some .drain) &&
  c.strands.all (fun p => p.2.mode == .ended || (p.2.mode == .running && strandStill c now p.2 && p.2.held.isEmpty))

/-- The members' release of die scope (R274). -/
def releaseAll (s : State) (c : Cord) : State :=
  c.strands.foldl (fun s p => if p.2.mode == .ended then s else releaseStep s (partyOf c p.1)) s

/-- Without kept scratchpad, armed sends are cancelled and landings removed (R400, R410). -/
def dropLandings (s : State) (k : Nat) (c : Cord) (keep : Bool) : State :=
  if keep then s
  else modCtx (cancelSends s k (fun _ _ => true)) c.ctx (fun x => { x with landings := x.landings.filter (fun l => l.cord != k) })

/-- A phase ends: the phase record is written, the resources are released, and the next phase is queued (R177, R178). -/
def execPhaseEnd (k : Nat) (s : State) : Out :=
  match mget s.cords k with
  | none => .next s
  | some c =>
    if !phaseDone s c then .next s
    else
      let s := dropLandings (releaseAll s c) k c c.hdr.kept
      let s := { s with mem := writeMem s.mem (byteKey c.dev (recordAddr c)) (phaseRecord { c with phase := c.phase + 1 }) }
      let s := modCord (freeEntry s c) k (fun c => { c with
        phase := c.phase + 1
        life := .queued
        preempt := none
        insts := []
        savedAt := cycOf s c.dev c.die
        strands := c.strands.map (fun p => (p.1, { p.2 with wait := .none, sync := Vector.replicate 7 0 })) })
      .next (modCtx s c.ctx (fun x => { x with queued := x.queued ++ [k] }))

/-! ### Pre-emption -/

/-- The progress of a cord in its phase (R361). -/
def progress (c : Cord) : Nat :=
  let issued := c.strands.foldl (fun n p => max n p.2.issued) 0
  if c.hdr.hint == 0 then 0 else 100 * issued / c.hdr.hint

/-- The method the core picks (R361). -/
def preemptMethod (c : Cord) : Method :=
  if c.strands.any (fun p => p.2.mode == .handler || p.2.mode == .masked) then .save
  else if 75 ≤ progress c then .drain
  else if c.hdr.idem && decide (progress c < 25) then .flush
  else .save

/-- The steward pre-empts a cord (R361). -/
def execPreempt (k : Nat) (s : State) : Out :=
  .next (modCord s k (fun c =>
    if c.life == .running && c.preempt.isNone then { c with preempt := some (preemptMethod c), drainAt := s.wall } else c))

/-- A draining cord that has met the drain limit is saved (R361, R424). -/
def execDrainLimitExpiry (k : Nat) (s : State) : Out :=
  .next (modCord s k (fun c =>
    let limit := ((mget s.modules c.dev).map (·.drainLimit)).getD 0
    if c.preempt == some .drain && decide (c.drainAt + limit ≤ s.wall) then { c with preempt := some .save } else c))

/-- The waits of a flush (R362): every sent access has settled, or is performed and its reply dropped behind a failure (R352), no tile word
has bytes to write, and no engine operation but a copy is under way. -/
def flushable (s : State) (k : Nat) (c : Cord) : Bool :=
  let now := cycOf s c.dev c.die
  c.life == .running && c.preempt == some .flush && !s.knotEvs.any (fun e => e.cord == k) &&
  c.strands.all (fun p => p.2.tiling.isNone &&
    p.2.ops.all (fun o => o.state == .unsent || o.kind == .engine || o.kind == .flag || opDone now o ||
      (o.state == .performed && behindFailure ⟨c, p.2, o, now⟩))) &&
  !c.eops.any (fun e => e.cls != .copy && (e.state == .started || e.state == .reading))

/-- A pre-empted cord is flushed: its phase will start again (R362). A phase after the first is queued with the cycle of the flush as its time
(R216 names none; DESIGN CHOICE, log 90). -/
def execFlush (k : Nat) (s : State) : Out :=
  match mget s.cords k with
  | none => .next s
  | some c =>
    if !flushable s k c then .next s
    else
      let s := mshrLeaveAll (dropLandings (dropPieces s k) k c (c.hdr.kept && decide (0 < c.phase))) c
      let s := modCtx s c.ctx (fun x =>
        let x := c.strands.foldl (fun x p => leavePool x k p.1) x
        { x with
          slots := x.slots.map (fun q => if q.state == .reserved && q.cord == k then freeSlot q else q)
          batts := x.batts.map (fun t => if c.phase == 0 && t.id == c.batt.id then
            { t with bound := false } else t)
          queued := if c.phase == 0 then x.queued else x.queued ++ [k] })
      .next (modCord (freeEntry s c) k (fun c => { c with
        life := .flushed
        preempt := none
        upend := []
        uheld := []
        eops := []
        insts := []
        savedAt := cycOf s c.dev c.die
        strands := c.strands.map (fun p => (p.1, { p.2 with wait := .none, ops := [], held := [], pend := [], divs := [] })) }))

end Sys2Proof.Machine
end

