-- ==== Sys2Proof/Machine/Mapping.lean ====
section
/-!
DEFINITION. The page tables the security steward writes and the requests that change them: MAP, UNMAP, PROTECT and EXPORT
(spec/13_memory_levels.md R240, R243, R258, spec/14_consistency_model.md R275, spec/23_dies_and_devices.md R387, R389,
spec/26_start_and_management.md R427 to R429). Where tables lie below the root is the model's (log 15).
-/
namespace Sys2Proof.Machine

/-! ### Rings -/

/-- The ring of a name. -/
def ringOf (s : State) (q : RingId) : Option Ring := s.rings.find? (·.id == q)

/-- Change a ring. -/
def modRing (s : State) (q : RingId) (f : Ring → Ring) : State :=
  { s with rings := s.rings.map (fun r => if r.id == q then f r else r) }

/-- The request at the head of a ring (R427). -/
def headReq (s : State) (q : RingId) : Option ReqRec := (ringOf s q).bind (·.pending.head?)

/-- The record at the head completes with its STATUS and RESULT (R427). -/
def completeReq (s : State) (q : RingId) (status result : Nat) : State :=
  modRing s q (fun r => match r.pending with
    | [] => r
    | x :: xs => { r with
        pending := xs
        done_ := r.done_ ++ [{ x with status := BitVec.ofNat 32 status, result := BitVec.ofNat 32 result }] })

/-- A refusal: STATUS 2, nothing else changed (R428). -/
def refuseReq (s : State) (q : RingId) (result : Nat) : State := completeReq s q 2 result

/-- The module of a ring has started. -/
def ringLive (s : State) (q : RingId) : Bool := (mget s.modules q.dev).any (·.started)

/-- The request record of its 64 bytes, bit 0 the lowest of the first (R427), with what its arguments address. -/
def reqOf (x : BitVec 512) (image : Option GraphImage) (bytes : List (BitVec 8)) : ReqRec where
  code := x.extractLsb' 0 32
  ctx := x.extractLsb' 32 32
  arg0 := x.extractLsb' 64 64
  arg1 := x.extractLsb' 128 64
  arg2 := x.extractLsb' 192 64
  status := x.extractLsb' 256 32
  result := x.extractLsb' 288 32
  rsvd := x.extractLsb' 320 192
  image := image
  bytes := bytes

/-- The 64 bytes of a request record (R427). -/
def reqBits (r : ReqRec) : BitVec 512 := r.rsvd ++ r.result ++ r.status ++ r.arg2 ++ r.arg1 ++ r.arg0 ++ r.ctx ++ r.code

/-- The record asks for a known code and its reserved bytes are 0 (R428). -/
def wellFormedReq (r : ReqRec) : Bool := decide (1 ≤ r.code.toNat) && decide (r.code.toNat ≤ 14) && r.rsvd == 0

/-- CTX of a record as its ring must hold it (R427). -/
def ringCtx (q : RingId) : BitVec 32 := match q.ctx with | some x => BitVec.ofNat 32 x | none => 0xFFFFFFFF

/-- The context of a record exists: STATUS 4 otherwise (R427). A record of the module ring names none. -/
def ctxKnown (s : State) (q : RingId) (r : ReqRec) : Bool :=
  r.ctx == ringCtx q && q.ctx.all (fun x => (mget s.contexts x).isSome)

/-- Serve the request of a code at the head of a ring. -/
def serve (s : State) (q : RingId) (code : Nat) (f : ReqRec → State → State) : Out :=
  match headReq s q with
  | none => .next s
  | some r =>
    if !ringLive s q || r.code.toNat != code || !wellFormedReq r then .next s
    else if !ctxKnown s q r then .next (completeReq s q 4 0)
    else .next (f r s)

/-- Serve a request that concerns the context of its ring; the module ring has none (R427). -/
def serveCtx (s : State) (q : RingId) (code : Nat) (f : Nat → ReqRec → State → State) : Out :=
  serve s q code (fun r s => match q.ctx with
    | some x => f x r s
    | none => completeReq s q 4 0)

/-! ### Tables -/

/-- Clear a frame: bytes, token records, poison (R422, R258). -/
def clearFrame (s : State) (f : Nat) : State :=
  { s with
    mem := s.mem.filter (fun c => c.1 / 2 ^ 16 != f)
    tokens := s.tokens.filter (fun p => p.1 / 2 ^ 16 != f)
    poison := s.poison.filter (fun w => w * 8 / 2 ^ 16 != f) }

/-- A new empty table of a context on a module, in the next of the frames set aside for its tables; none when all are used (log 15). -/
def newTable (s : State) (ctx dev : Nat) : Option (Nat × State) :=
  let x := ctxOf s ctx
  let n := (mget x.tables dev).getD 0
  if (mget x.room dev).getD 0 ≤ n then none
  else
    let a := (tableSpan x dev).1 + 2 ^ 16 * (n + 1)
    some (a, modCtx (clearFrame s (byteKey dev a / 2 ^ 16)) ctx (fun x => { x with tables := mset x.tables dev (n + 1) }))

/-- The table an entry points to; a new one where it holds no pointer (R240). -/
def subTable (s : State) (ctx dev entry : Nat) : Option (Nat × State) :=
  let e := tableEntry s.mem dev entry
  if isPointer e then some (bitsOf e 12 28 * 4096, s)
  else (newTable s ctx dev).map (fun p => (p.1, setEntry p.2 dev entry (BitVec.ofNat 64 (p.1 + 1))))

/-- The steward writes a leaf of a virtual address (R240); none when no frame is left for a table it needs. -/
def putLeaf (s : State) (ctx dev va : Nat) (big : Bool) (e : BitVec 64) : Option State :=
  (rootOf s ctx dev).bind (fun root =>
    (subTable s ctx dev (root + va / 2 ^ 38 * 8)).bind (fun p =>
      let a := p.1 + va / 2 ^ 25 % 2 ^ 13 * 8
      if big then some (setEntry p.2 dev a e)
      else (subTable p.2 ctx dev a).map (fun q => setEntry q.2 dev (q.1 + va / 2 ^ 16 % 2 ^ 9 * 8) e)))

/-! ### MAP -/

/-- The page size SZ of a template names. -/
def pageSize (t : BitVec 64) : Nat := if t.getLsbD 5 then 2 ^ 25 else 2 ^ 16

/-- X, W and R of a template as bit 0 read, bit 1 write, bit 2 execute. -/
def rightsOf (t : BitVec 64) : BitVec 3 := t.extractLsb' 2 3

/-- A MAP template and range keep the rules of R429. -/
def mapTemplateOk (r : ReqRec) : Bool :=
  let t := r.arg2
  let n := pageSize t
  bitsOf t 56 8 == 0 && bitsOf t 0 2 == 0 && bitsOf t 6 2 == 0 && bitsOf t 9 13 == 0 && (!t.getLsbD 5 || bitsOf t 22 9 == 0) &&
  r.arg0.toNat % n == 0 && r.arg1.toNat % n == 0 && r.arg1 != 0

/-- The frames of page i of a MAP range. -/
def mapFrames (t : BitVec 64) (i : Nat) : List Nat :=
  pageFrames (byteKey (bitsOf t 46 10) (bitsOf t 22 24 * 2 ^ 16 + i * pageSize t)) (t.getLsbD 5)

/-- Nothing is mapped in a page. -/
def pageUnmapped (s : State) (ctx dev va size : Nat) : Bool :=
  (List.range (size / 2 ^ 16)).all (fun j => (walk s ctx dev (va + j * 2 ^ 16)).isNone)

/-- The context owns a frame (R258). -/
def ownsFrame (x : Context) (f : Nat) : Bool :=
  x.owned.any (fun o => decide (byteKey o.1 o.2.1 ≤ f * 2 ^ 16) && decide (f * 2 ^ 16 + 2 ^ 16 ≤ byteKey o.1 (o.2.1 + o.2.2)))

/-- The export table of a frame's module has an entry for a context that a module may use (R387, R389). -/
def exportedTo (s : State) (dev ctx f : Nat) : Bool :=
  (mget s.modules (keyDev (f * 2 ^ 16))).any (fun m => m.exports.any (fun e =>
    e.ctx == ctx && e.frame == keyDpa (f * 2 ^ 16) / 2 ^ 16 && !e.cut.contains dev))

/-- Page i of a MAP range passes the checks of R239, R258, R387 and R429: rights within the context's grant, and the frames the context's own,
or exported to it with those rights. -/
def mapPageOk (s : State) (ctx dev : Nat) (r : ReqRec) (i : Nat) : Bool :=
  let t := r.arg2
  let va := r.arg0.toNat + i * pageSize t
  let fs := mapFrames t i
  let within (a b : BitVec 3) : Bool := a &&& ~~~b == 0
  decide (va + pageSize t ≤ 2 ^ 48) && pageUnmapped s ctx dev va (pageSize t) &&
  decide (bitsOf t 22 24 * 2 ^ 16 + (i + 1) * pageSize t ≤ 2 ^ 40) && fs.all (fun f => (homeDie (f * 2 ^ 16)).isSome) &&
  within (rightsOf t) (ctxOf s ctx).grant &&
  (if bitsOf t 46 10 == dev then fs.all (fun f => ownsFrame (ctxOf s ctx) f && !reservedFrame s f)
  else t.getLsbD 8 && fs.all (fun f => exportedTo s dev ctx f && within (rightsOf t) (exportRights s dev ctx (f * 2 ^ 16))))

/-- The highest generation of some frames. The frames of a 32 MiB page have one generation (R243), and the manual does not say which it is
where theirs differ when they are mapped: the model takes the highest (DESIGN CHOICE, log 82). -/
def topGen (s : State) (fs : List Nat) : BitVec 8 :=
  BitVec.ofNat 8 (fs.foldl (fun g f => max g (frameOf s (f * 2 ^ 16)).gen.toNat) 0)

/-- Frames become VALID with one generation: one not mapped since it was last FREE is cleared but for the weight store, and the bytes of all have no
holder and no mark (R258, R262, R422). -/
def validate (s : State) (fs : List Nat) (g : BitVec 8) : State :=
  let s := (fs.filter (fun f => !(frameOf s (f * 2 ^ 16)).seen && !isWeight (f * 2 ^ 16))).foldl clearFrame s
  modFrames (clearTokens s fs) fs (fun _ => ⟨g, .valid, true⟩)

/-- Map one page: its frames become VALID, and the leaf is written with their generation (R258). A leaf of another module's frame takes the
frame's generation. None when no frame is left for a table. -/
def mapPage (s : State) (ctx dev : Nat) (r : ReqRec) (i : Nat) : Option State :=
  let t := r.arg2
  let fs := mapFrames t i
  let g := topGen s fs
  let s := if bitsOf t 46 10 != dev then s else validate s fs g
  let e := (t ||| 3) + BitVec.ofNat 64 (i * pageSize t / 2 ^ 16 * 2 ^ 22) + (g.zeroExtend 64 <<< 56)
  putLeaf s ctx dev (r.arg0.toNat + i * pageSize t) (t.getLsbD 5) e

/-- Map the pages of a range in turn: the state with all of them, or the first page with no frame left for a table (log 15). -/
def mapPages (ctx dev : Nat) (r : ReqRec) : List Nat → State → State ⊕ Nat
  | [], s => .inl s
  | i :: is, s =>
    match mapPage s ctx dev r i with
    | some s => mapPages ctx dev r is s
    | none => .inr i

/-- MAP (R258, R428, R429). -/
def serveMap (q : RingId) (ctx : Nat) (r : ReqRec) (s : State) : State :=
  let pages := List.range (r.arg1.toNat / pageSize r.arg2)
  if !mapTemplateOk r then refuseReq s q 0xFFFFFFFF
  else if pages.any (fun i => movingFrames s (mapFrames r.arg2 i)) then s
  else
    match pages.find? (fun i => !mapPageOk s ctx q.dev r i) with
    | some i => refuseReq s q i
    | none =>
      match mapPages ctx q.dev r pages s with
      | .inl t => completeReq t q 1 0
      | .inr i => refuseReq s q i

/-- The MAP request at the head of a ring (R258, R428, R429). -/
def execMapReq (q : RingId) (s : State) : Out := serveCtx s q 1 (serveMap q)

/-! ### UNMAP and PROTECT -/

/-- The 64 KiB pages a range touches. -/
def rangePages (r : ReqRec) : List Nat :=
  let lo := r.arg0.toNat / 2 ^ 16
  let hi := (r.arg0.toNat + r.arg1.toNat + 2 ^ 16 - 1) / 2 ^ 16
  if r.arg1 == 0 then [] else (List.range (hi - lo)).map (lo + ·)

/-- The valid leaf of a 64 KiB page: where its entry lies, the entry, and whether it is a 32 MiB leaf. -/
def validLeaf (s : State) (ctx dev page : Nat) : Option (Nat × BitVec 64 × Bool) :=
  match leafOf s ctx dev (page * 2 ^ 16) with
  | some (a, e, big) => if isLeaf e big then some (a, e, big) else none
  | none => none

/-- A 32 MiB page lies only in part in the range (log 15). -/
def partBig (s : State) (ctx dev : Nat) (ps : List Nat) (page : Nat) : Bool :=
  match validLeaf s ctx dev page with
  | some (_, _, true) => !(ps.contains (page / 512 * 512) && ps.contains (page / 512 * 512 + 511))
  | _ => false

/-- A lease of a cord of the context that is bound or queued on the module covers a page (R258); a cord holds its leases until it ends, flushed
or not (R215). -/
def pageLeased (s : State) (ctx dev page : Nat) : Bool :=
  let on (ls : List Lease) : Bool := ls.any (fun l => decide (l.lo < (page + 1) * 2 ^ 16) && decide (page * 2 ^ 16 < l.hi))
  s.cords.any (fun p => p.2.ctx == ctx && p.2.dev == dev && on p.2.hdr.leases) ||
  (mget s.modules dev).any (fun m => m.dies.toList.any (fun d => d.cores.any (fun c => c.2.slots.toList.any (fun e => match e with
    | .bound b t k => b.ctx.toNat == ctx && (boundHdr s b t k).any (fun h => on h.leases)
    | _ => false))))

/-- The leaves of a range, each once. -/
def rangeLeaves (s : State) (ctx dev : Nat) (ps : List Nat) : List (Nat × Nat × BitVec 64 × Bool) :=
  ps.filterMap (fun p => match validLeaf s ctx dev p with
    | some (a, e, big) => if big && p % 512 != 0 then none else some (p, a, e, big)
    | none => none)

/-- Two modules reach each other on no plane. -/
def unreachable (s : State) (a b : Nat) : Bool :=
  (List.range 16).all (fun j => (stationOf s a j).link == .down || (stationOf s b j).link == .down)

/-- The leaves of other modules' contexts that name frames of a module: module, context, entry and DPA of the entry. -/
def importsOf (s : State) (dev : Nat) (fs : List Nat) : List (Nat × Nat × Nat × BitVec 64) :=
  (s.modules.filter (fun m => m.1 != dev)).flatMap (fun m => s.contexts.flatMap (fun p =>
    ((leavesOf s p.2 m.1).filter (fun l => bitsOf l.2 46 10 == dev && (leafFrames l.2).any fs.contains)).map (fun l =>
      (m.1, p.1, l.1, l.2))))

/-- No plane between two modules is up, and they are not out of reach of each other (R389, R395). -/
def noAnswer (s : State) (a b : Nat) : Bool :=
  !unreachable s a b && !(List.range 16).any (fun j => (stationOf s a j).link == .up && (stationOf s b j).link == .up)

/-- A steward has no answer yet from an importing module: no plane between them is up, and the link is not down (R389, R395). -/
def importerWaits (s : State) (dev : Nat) (fs : List Nat) : Bool :=
  (importsOf s dev fs).any (fun l => noAnswer s dev l.1)

/-- Importers rewrite or clear their leaves of exported frames; one whose link is down loses the mapping (R389). new gives the new entry
for a module, a context and an old entry. -/
def rewriteImporters (s : State) (dev : Nat) (fs : List Nat) (new : Nat → Nat → BitVec 64 → BitVec 64) : State :=
  (importsOf s dev fs).foldl (fun s l =>
    if unreachable s dev l.1 then
      { s with modules := mmod s.modules dev (fun t => { t with exports := t.exports.map (fun x =>
          if x.ctx == l.2.1 && fs.contains (byteKey dev (x.frame * 2 ^ 16) / 2 ^ 16) then { x with cut := x.cut ++ [l.1] } else x) }) }
    else setEntry s l.1 l.2.2.1 (new l.1 l.2.1 l.2.2.2)) s

/-- A leaf with new rights and a generation. -/
def withRights (t : BitVec 64) (g : BitVec 8) (e : BitVec 64) : BitVec 64 :=
  (e &&& 0x00FFFFFFFFFFFFE3) ||| (t &&& 0x1C) ||| (g.zeroExtend 64 <<< 56)

/-- The template's rights that the export entries of a leaf's frames give a context on a module (R387). -/
def importRights (s : State) (t : BitVec 64) (dev ctx : Nat) (e : BitVec 64) : BitVec 64 :=
  ((leafFrames e).foldl (fun r f => r &&& exportRights s dev ctx (f * 2 ^ 16)) (rightsOf t)).zeroExtend 64 <<< 2

/-- A leaf with another generation. -/
def withGen (g : BitVec 8) (e : BitVec 64) : BitVec 64 := (e &&& 0x00FFFFFFFFFFFFFF) ||| (g.zeroExtend 64 <<< 56)

/-- The leaves of a module's contexts that name some frames: context, DPA of the entry, entry. -/
def localLeaves (s : State) (dev : Nat) (fs : List Nat) : List (Nat × Nat × BitVec 64) :=
  s.contexts.flatMap (fun p => ((leavesOf s p.2 dev).filter (fun l => (leafFrames l.2).any fs.contains)).map (fun l => (p.1, l.1, l.2)))

/-- Some frames of a module, with those of the pages that any leaf makes of them, which have one generation (R243). -/
def pageMates (s : State) (dev : Nat) (fs : List Nat) : List Nat :=
  (fs ++ (localLeaves s dev fs).flatMap (fun l => leafFrames l.2.2) ++ (importsOf s dev fs).flatMap (fun l => leafFrames l.2.2.2)).eraseDups

/-- A change of a leaf of another module's frame advances the frame's generation there, so that requests made under the old translation are
refused; every other leaf of the frame keeps its rights and takes the new generation (R258, R389; DESIGN CHOICE, log 98). Out of reach nothing
advances. Answers the generation. -/
def advanceFar (s : State) (ctx dev : Nat) (e : BitVec 64) : State × BitVec 8 :=
  let home := bitsOf e 46 10
  if home == dev || unreachable s dev home then (s, e.extractLsb' 56 8)
  else
    let fs := pageMates s home (leafFrames e)
    let g := topGen s fs + 1
    let s := rewriteImporters s home fs (fun _ _ e => withGen g e)
    let s := (localLeaves s home fs).foldl (fun s l => setEntry s home l.2.1 (withGen g l.2.2)) s
    (advanced (modFrames s fs (fun f => { f with gen := g })) ctx fs, g)

/-- Protect one page: requests drained, its frames' generation advanced, the leaf rewritten (R258, R275, R389). -/
def protectPage (s : State) (ctx dev : Nat) (t : BitVec 64) (l : Nat × Nat × BitVec 64 × Bool) : State :=
  let (_, a, e, _) := l
  let fs := leafFrames e
  if bitsOf e 46 10 != dev then
    let (s, g) := advanceFar s ctx dev e
    setEntry s dev a (withRights t g e)
  else
    let s := drainFrames s fs
    let g := topGen s fs + 1
    let s := rewriteImporters s dev fs (fun m x e => withRights (importRights s t m x e) g e)
    let s := modFrames s fs (fun f => { f with gen := g })
    setEntry (advanced s ctx fs) dev a (withRights t g e)

/-- A page that the steward mapped for itself and not at the context's request: queue memory of a graph, or the page of path records
(R202, R403). -/
def stewardPage (s : State) (ctx dev page : Nat) : Bool :=
  let x := ctxOf s ctx
  x.graphs.any (fun g => g.dev == dev && g.allocs.any (fun al => al.pages.any (fun p => p.1 / 2 ^ 16 == page))) ||
  (x.roots.any (·.1 == dev) && x.pathVa.toNat % 2 ^ 48 / 2 ^ 16 == page)

/-- Why PROTECT refuses a page: not mapped by the context (R258), a 32 MiB page in part (log 15), or a remote leaf beyond its export
(R387). -/
def protectBad (s : State) (ctx dev : Nat) (t : BitVec 64) (ps : List Nat) (page : Nat) : Bool :=
  match validLeaf s ctx dev page with
  | none => true
  | some (_, e, _) =>
    stewardPage s ctx dev page || partBig s ctx dev ps page ||
    (bitsOf e 46 10 != dev && (leafFrames e).any (fun f => rightsOf t &&& ~~~(exportRights s dev ctx (f * 2 ^ 16)) != 0))

/-- The frames of a leaf that lie on a module itself. -/
def ownFrames (dev : Nat) (e : BitVec 64) : List Nat := if bitsOf e 46 10 == dev then leafFrames e else []

/-- The frames of a module that a list of leaves names. -/
def rangeFrames (dev : Nat) (ls : List (Nat × Nat × BitVec 64 × Bool)) : List Nat := ls.flatMap (fun l => ownFrames dev l.2.2.1)

/-- The module of another module's frame, or one that imports the frame, cannot answer (R389, log 98). -/
def farWaits (s : State) (dev : Nat) (e : BitVec 64) : Bool :=
  let home := bitsOf e 46 10
  home != dev && (noAnswer s dev home || (!unreachable s dev home && importerWaits s home (pageMates s home (leafFrames e))))

/-- A change of leaves waits while a frame of theirs moves or a module it asks cannot answer (R245, R389). -/
def leavesWait (s : State) (dev : Nat) (ls : List (Nat × Nat × BitVec 64 × Bool)) : Bool :=
  ls.any (fun l => movingFrames s (leafFrames l.2.2.1) || importerWaits s dev (ownFrames dev l.2.2.1) || farWaits s dev l.2.2.1)

/-- PROTECT (R258, R275, R389, R428, R429): it waits while the requests to its frames are not all drained. -/
def serveProtect (q : RingId) (ctx : Nat) (r : ReqRec) (s : State) : State :=
  let ps := rangePages r
  let ls := rangeLeaves s ctx q.dev ps
  if r.arg2 &&& ~~~0x1C != 0 then refuseReq s q 0xFFFFFFFF
  else
    match ps.zipIdx.find? (fun p => protectBad s ctx q.dev r.arg2 ps p.1) with
    | some p => refuseReq s q p.2
    | none =>
      if leavesWait s q.dev ls then s
      else
        let s := drainFrames s (rangeFrames q.dev ls)
        if undrained s (rangeFrames q.dev ls) then s
        else completeReq (ls.foldl (fun s l => protectPage s ctx q.dev r.arg2 l) s) q 1 0

/-- The PROTECT request at the head of a ring (R258, R389). -/
def execProtectReq (q : RingId) (s : State) : Out := serveCtx s q 3 (serveProtect q)

/-- UNMAP (R258, R275, R389, R428, R429). A page that the steward mapped for itself is no mapping of the context, and refuses it (DEDUCED,
log 85). -/
def serveUnmap (q : RingId) (ctx : Nat) (r : ReqRec) (s : State) : State :=
  let ps := rangePages r
  let ls := rangeLeaves s ctx q.dev ps
  if r.arg2 != 0 then refuseReq s q 0xFFFFFFFF
  else
    match ps.zipIdx.find? (fun p => stewardPage s ctx q.dev p.1 || partBig s ctx q.dev ps p.1 || pageLeased s ctx q.dev p.1) with
    | some p => refuseReq s q p.2
    | none =>
      if leavesWait s q.dev ls then s
      else
        let s := drainFrames s (rangeFrames q.dev ls)
        if undrained s (rangeFrames q.dev ls) then s
        else
          completeReq (ls.foldl (fun s l =>
            let s := rewriteImporters (advanceFar s ctx q.dev l.2.2.1).1 q.dev (ownFrames q.dev l.2.2.1) (fun _ _ _ => 0)
            unmapPage s ctx q.dev (l.1 * 2 ^ 16)) s) q 1 0

/-- The UNMAP request at the head of a ring (R258, R389). -/
def execUnmapReq (q : RingId) (s : State) : Out := serveCtx s q 2 (serveUnmap q)

/-! ### EXPORT -/

/-- EXPORT: a pinned frame enters the export table (R387, R428); one that is being moved waits (R245). -/
def serveExport (q : RingId) (r : ReqRec) (s : State) : State :=
  let frame := r.arg0.toNat % 2 ^ 40 / 2 ^ 16
  let f := byteKey q.dev (frame * 2 ^ 16) / 2 ^ 16
  let ctx := r.arg2.toNat
  if movingFrames s [f] then s
  else if !framePinned s q.dev f || 2 ^ 40 ≤ r.arg0.toNat then refuseReq s q 0
  else
    completeReq { s with modules := mmod s.modules q.dev (fun m => { m with
      exports := m.exports.filter (fun e => !(e.ctx == ctx && e.frame == frame)) ++ [⟨ctx, frame, r.arg1.extractLsb' 0 3, []⟩] }) } q 1 0

/-- The EXPORT request at the head of a ring (R387, R428). -/
def execExportFrame (q : RingId) (s : State) : Out := serve s q 4 (serveExport q)

end Sys2Proof.Machine
end

