-- ==== Sys2Proof/Machine/Manage.lean ====
section
/-!
DEFINITION. Starts, clocks and contexts, and the management requests beside those of Mapping.lean
(spec/26_start_and_management.md R421 to R432, spec/10_stage_nodes.md R200, R202, R222, R235,
spec/23_dies_and_devices.md R382, R403, R415). The encodings the manual leaves open are the model's (log 4).
-/
namespace Sys2Proof.Machine

/-- Change a module. -/
def modModule (s : State) (dev : Nat) (f : Module → Module) : State := { s with modules := mmod s.modules dev f }

/-! ### Starts and clocks -/

/-- A station of a module that stops: a link that was up leaves the up state now, another has left it already (R395). -/
def stopStation (wall : Nat) (t : Station) : Station :=
  if t.link == .up then ⟨.retrain, wall, [], []⟩ else ⟨t.link, t.leftAt, [], []⟩

/-- The unanswered packets of others to a module that stops are to be delivered anew, from their senders' replay buffers (R393, R395); that
they had reached it stays known (R396). -/
def resendTo (s : State) (dev : Nat) : State :=
  let mine := s.packets.filter (fun p => p.dst == dev && p.answer.isNone)
  let s := { s with packets := s.packets.map (fun p => if p.dst == dev && p.answer.isNone then { p with reached := false } else p) }
  mine.foldl (fun s p => if remotePkt p then fillReplay s p.src.dev p.plane else s) s

/-- What a module holds outside its storage ends: cords, its own requests and packets, and what its contexts have on it; its links leave the
up state until its next start succeeds, which stops the timers of what others send it, and their requests to it stay to be delivered (R388,
R393 to R395, R421, R422). -/
def stopModule (s : State) (dev : Nat) : State :=
  let old := s
  let gone := (s.cords.filter (fun p => p.2.dev == dev)).map (·.1)
  let here (a : Nat) : Bool := keyDev a == dev
  let s : State := { s with
    cords := s.cords.filter (fun p => p.2.dev != dev)
    arrivals := s.arrivals.filter (fun r => r.core.dev != dev)
    packets := s.packets.filter (fun p => p.src.dev != dev)
    knotEvs := s.knotEvs.filter (fun e => !gone.contains e.cord)
    directory := s.directory.filter (fun d => !(d.dev == dev || d.region * 256 / 2 ^ 40 == dev))
    tokens := s.tokens.filter (fun t => !here t.1)
    frames := s.frames.filter (fun f => f.1 * 2 ^ 16 / 2 ^ 40 != dev)
    moves := s.moves.filter (fun m => m.old * 2 ^ 16 / 2 ^ 40 != dev)
    rings := s.rings.filter (fun r => r.id.dev != dev)
    todo := s.todo.filter (fun t => !gone.contains t.cord)
    contexts := s.contexts.map (fun p => (p.1, { p.2 with
      roots := p.2.roots.filter (·.1 != dev)
      tables := mdel p.2.tables dev
      room := mdel p.2.room dev
      graphs := p.2.graphs.filter (·.dev != dev)
      slots := p.2.slots.filter (·.dev != dev)
      opens := p.2.opens.filter (·.dev != dev)
      batts := p.2.batts.filter (·.dev != dev)
      queued := p.2.queued.filter (fun k => !gone.contains k)
      knots := p.2.knots.filter (fun k => k.1 / 2 ^ 20 != dev)
      landings := p.2.landings.filter (·.dev != dev) })) }
  retime old (modModule (resendTo s dev) dev (fun m => { m with
    started := false
    dies := Vector.replicate 4 Die.reset
    stations := m.stations.map (stopStation s.wall)
    ether := Vector.replicate 4 .retrain
    retiring := 0
    exports := []
    windows := [] }))

/-- The bytes of a module that lie in its GDDR7, or in its weight stores, are lost, and with them what was poisoned (R421, R422). -/
def loseBytes (s : State) (dev : Nat) (weight : Bool) : State :=
  let lost (a : Nat) : Bool := keyDev a == dev && isWeight a == weight
  { s with
    mem := s.mem.filter (fun c => !lost c.1)
    poison := s.poison.filter (fun w => !lost (w * 8)) }

/-- The image the next start runs (R423). -/
def startImage (m : Module) : Nat := if 3 ≤ m.fails then 2 else 1

/-- The module after a cold start whose step k fails, or whose steps all succeed (R421, R423); its links are up once a start has
succeeded. The manual has Glesko assign %dev when the pod forms (R17, R421 step 7) and does not say which number a module gets that had
one: the model keeps the number it had (DESIGN CHOICE, log 63). -/
def coldModule (m : Module) (fail : Option Nat) : Module :=
  match fail with
  | none => { Module.reset m.dev with image := startImage m }
  | some k => { m with
      started := false
      powered := true
      image := startImage m
      trained := decide (6 < k)
      cleared := decide (4 < k)
      fails := min 3 (m.fails + 1) }

/-- A module that has no number yet is cold-started under the number given, which it takes as its start succeeds (R17, R421 step 7, log 63);
the count of its failed starts is its own until then (R423). -/
def newModule (dev : Nat) : Module :=
  { Module.reset dev with joined := false, started := false, stations := Vector.replicate 16 ⟨.down, 0, [], []⟩ }

/-- A cold start: its steps in order, stopping at the step that fails (R421, R423). Nothing of the module outlives it; one of 1,024 numbers is
given, and the pod grows by a module that had none as its start succeeds (R17). -/
def execColdStart (dev : Nat) (fail : Option Nat) (s : State) : Out :=
  if 1024 ≤ dev then .next s
  else
    let m := (mget s.modules dev).getD (newModule dev)
    let s := { s with modules := mset s.modules dev m, pod := if fail.isNone && !m.joined then s.pod + 1 else s.pod }
    let t := loseBytes (stopModule s dev) dev false
    let t := if fail.all (fun k => decide (4 < k)) then loseBytes t dev true else t
    .next (retime t (modModule t dev (fun m => coldModule m fail)))

/-- A warm start keeps the weight store and the link training; without power or saved training the start runs cold (R422). -/
def execWarmStart (dev : Nat) (s : State) : Out :=
  match mget s.modules dev with
  | none => .next s
  | some m =>
    if m.powered && m.trained && m.joined then
      let t := loseBytes (stopModule s dev) dev false
      .next (retime t (modModule t dev (fun m => { m with
        started := true, image := startImage m, fails := 0
        stations := (Module.reset dev).stations, ether := (Module.reset dev).ether })))
    else execColdStart dev none s

/-- The step the sensors demand, with a margin in degrees for rising (R425): 0 to 2 the clocks, 3 the shutdown. -/
def clockDemand (x : Sensors) (margin : Nat) : Nat :=
  let m := x.macroT + margin
  let b := x.baseT + margin
  if 115 < m || 105 < b then 3
  else if 105 < m || 95 < b then 2
  else if 95 < m || 85 < b || 800 < x.power then 1
  else 0

/-- The next clock step of a die (R425). -/
def clockNext (clock : Nat) (x : Sensors) : Nat :=
  let d := min 2 (clockDemand x 0)
  if clock < d then clock + 1
  else if d < clock && min 2 (clockDemand x 5) < clock then clock - 1
  else clock

/-- A die sets its clock from its sensors, at most once in 100 microseconds; the last row shuts the module down (R425). -/
def execClockStep (dev die : Nat) (x : Sensors) (s : State) : Out :=
  let d := dieOf s dev die
  if clockDemand x 0 == 3 then
    .next (modModule (stopModule s dev) dev (fun m => { m with powered := false }))
  else
    let early := d.clockAt.any (fun t => decide (s.wall < t + 100000))
    let c := if early then d.clock else clockNext d.clock x
    .next (modDie s dev die (fun d => { d with
      sensors := x
      clock := c
      clockAt := if c == d.clock then d.clockAt else some s.wall }))

/-! ### Contexts -/

/-- A range of DPAs of a module is GDDR7 of one partition, of a die if one is named, in whole frames that are free and not the
stewards' own, and that no page is being moved to (R239, R245). -/
def spanFree (s : State) (dev lo hi : Nat) (die : Option Nat) : Bool :=
  let home := homeDie (byteKey dev lo)
  lo % 2 ^ 16 == 0 && hi % 2 ^ 16 == 0 && decide (lo < hi) && !isWeight lo && !isWeight (hi - 1) &&
  home.isSome && home == homeDie (byteKey dev (hi - 1)) && die.all (fun d => home == some d) &&
  !s.frames.any (fun f => keyDev (f.1 * 2 ^ 16) == dev && decide (lo ≤ keyDpa (f.1 * 2 ^ 16)) && decide (keyDpa (f.1 * 2 ^ 16) < hi) &&
    f.2.state != .free) &&
  !s.moves.any (fun m => keyDev (m.new_ * 2 ^ 16) == dev && decide (lo ≤ keyDpa (m.new_ * 2 ^ 16)) && decide (keyDpa (m.new_ * 2 ^ 16) < hi)) &&
  !(stewardSpans s dev).any (fun p => decide (p.1 < hi) && decide (lo < p.2))

/-- Two ranges of addresses have no common member. -/
def disjoint (p q : Nat × Nat) : Bool := decide (p.2 ≤ q.1) || decide (q.2 ≤ p.1)

/-- The DPAs of the tables a specification sets aside on a module: the root and its room. -/
def specSpan (x : CtxSpec) (m : Nat × Nat × Nat) : Nat × Nat :=
  (m.2.1, m.2.1 + 2 ^ 16 * (((x.room.find? (·.1 == m.1)).map (·.2)).getD 0 + 1))

/-- What a context needs on a module of its specification: a started module, storage for its tables and its path page, and receive slots
for its reserve (R239, R240, R392, R403). -/
def specOk (s : State) (x : CtxSpec) (m : Nat × Nat × Nat) : Bool :=
  let t := specSpan x m
  let p := (m.2.2, m.2.2 + 2 ^ 16)
  (mget s.modules m.1).any (·.started) && (x.mods.filter (·.1 == m.1)).length == 1 && decide (t.1 + 3 * 2 ^ 16 ≤ t.2) &&
  spanFree s m.1 t.1 t.2 none && spanFree s m.1 p.1 p.2 none && disjoint t p &&
  decide (((s.contexts.filter (fun c => c.2.roots.any (·.1 == m.1))).map (·.2.stSlots)).sum + blankCtx.stSlots ≤ 768)

/-- Glesko creates a context: its root tables empty, its path page mapped read-only and pinned on each module (R382, R403). A specification
the modules have no room for creates none. -/
def execContextCreation (x : CtxSpec) (s : State) : Out :=
  if 65536 ≤ x.num || (mget s.contexts x.num).isSome || !x.mods.all (specOk s x) then .next s
  else
    let c : Context := { blankCtx with
      num := x.num, roots := x.mods, room := x.room.foldl (fun m r => mset m r.1 r.2) [], pathVa := x.path, owned := x.owned
      grant := x.grant }
    let s := { s with contexts := mset s.contexts x.num c }
    .next (x.mods.foldl (fun s m =>
      let f := byteKey m.1 m.2.2 / 2 ^ 16
      let g := (frameOf s (f * 2 ^ 16)).gen
      let s := validate (clearFrame (clearFrame s (byteKey m.1 m.2.1 / 2 ^ 16)) f) [f] g
      let e := BitVec.ofNat 64 (m.1 * 2 ^ 46 + m.2.2 / 2 ^ 16 * 2 ^ 22 + 0x107) + (g.zeroExtend 64 <<< 56)
      (putLeaf s x.num m.1 (x.path.toNat % 2 ^ 48 / 2 ^ 16 * 2 ^ 16) false e).getD s) s)

/-! ### Graphs -/

/-- The bytes a slot occupies (R202). -/
def slotSize (h : NodeHdr) : Nat := max 16 ((h.recSize + 15) / 16 * 16)

/-- The slots of a graph's nodes in the slabs of one die, from an address upward (R202). That the slabs of a die stand one after another,
in node order, is the model's choice: the manual places no slab (DESIGN CHOICE, log 62). -/
def slabSlots (graph dev die : Nat) : Nat → Nat → List NodeHdr → List Slot
  | _, _, [] => []
  | a, n, h :: hs =>
    (List.range h.queue).map (fun i => ⟨a + i * slotSize h, graph, n, dev, die, .free, 0, none, 0⟩) ++
      slabSlots graph dev die (a + h.queue * slotSize h) (n + 1) hs

/-- The bytes the slabs of a graph's nodes take on a die (R202). -/
def slabBytes (nodes : List NodeHdr) : Nat := (nodes.map (fun h => h.queue * slotSize h)).sum

/-- The dies of a mask (R428). -/
def maskDies (m : BitVec 64) : List Nat := (List.range 4).filter (m.getLsbD ·)

/-- The pages of queue memory hold a range of virtual addresses, each with a write right or each without. -/
def pagesHold (al : Alloc) (w : Bool) (lo n : Nat) : Bool :=
  n == 0 || (List.range ((lo + n - 1) / 2 ^ 16 - lo / 2 ^ 16 + 1)).all (fun i =>
    al.pages.any (fun p => p.1 == (lo / 2 ^ 16 + i) * 2 ^ 16 && p.2.2 == w))

/-- Queue memory on a die is available (R178, R202, R211, R239): its pages are not mapped, and they and the record areas are free storage of
the die's partition; slabs and spill areas can be written, batt lists only read; no slot address is taken; and it serves one cord at least. -/
def allocOk (s : State) (ctx dev : Nat) (nodes : List NodeHdr) (al : Alloc) : Bool :=
  let areas := (al.areas, al.areas + al.slices * areaStride)
  al.pages.all (fun p => (walk s ctx dev p.1).isNone && p.1 % 2 ^ 16 == 0 && decide (p.1 < 2 ^ 48) &&
    spanFree s dev p.2.1 (p.2.1 + 2 ^ 16) (some al.die) && disjoint areas (p.2.1, p.2.1 + 2 ^ 16)) &&
  al.slices != 0 && spanFree s dev areas.1 areas.2 (some al.die) &&
  al.slab % 16 == 0 && pagesHold al true al.slab (slabBytes nodes) && pagesHold al false al.lists (512 * al.slices) &&
  pagesHold al true al.spills (64 * 4096 * al.slices) && al.spills % 4096 == 0 && al.lists % 8 == 0 &&
  disjoint (al.slab, al.slab + slabBytes nodes) (al.spills, al.spills + 64 * 4096 * al.slices) &&
  (slabSlots 0 dev al.die al.slab 0 nodes).all (fun q => !(ctxOf s ctx).slots.any (·.addr == q.addr))

/-- No two members of a list are equal. -/
def distinct (xs : List Nat) : Bool := xs.eraseDups.length == xs.length

/-- The queue memory of a load is available on every die it names, no page or frame twice (R202). -/
def allocsOk (s : State) (ctx dev : Nat) (nodes : List NodeHdr) (als : List Alloc) : Bool :=
  als.all (allocOk s ctx dev nodes) && distinct ((als.flatMap (·.pages)).map (·.1)) && distinct ((als.flatMap (·.pages)).map (·.2.1))

/-- The steward maps one page of queue memory, cleared (R202). -/
def mapQueuePage (s : State) (ctx dev : Nat) (p : Nat × Nat × Bool) : Option State :=
  let f := byteKey dev p.2.1 / 2 ^ 16
  let g := (frameOf s (f * 2 ^ 16)).gen
  let e := BitVec.ofNat 64 (dev * 2 ^ 46 + p.2.1 / 2 ^ 16 * 2 ^ 22 + 7 + (if p.2.2 then 8 else 0)) + (g.zeroExtend 64 <<< 56)
  putLeaf (validate (clearFrame s f) [f] g) ctx dev p.1 false e

/-- The steward maps the pages of queue memory (R202); none when no frame is left for a table (log 15). -/
def mapQueuePages (ctx dev : Nat) (ps : List (Nat × Nat × Bool)) (s : State) : Option State :=
  ps.foldl (fun s p => s.bind (fun s => mapQueuePage s ctx dev p)) (some s)

/-- The base of a section: a multiple of 65,536 (R85). -/
def sectionBase (im : GraphImage) (n : Nat) : Option Nat := im.sections[n]?.map (·.page * 2 ^ 16)

/-- The final value of a relocatable value (R198). -/
def finalValue (im : GraphImage) (r : Reloc) : Option (BitVec 64) := (sectionBase im r.sec).map (fun b => BitVec.ofNat 64 b + r.addend)

/-- A final value fits its datum: a .word holds one of 32 bits, signed or unsigned (R85, R88, R198). -/
def relocFits (im : GraphImage) (r : Reloc) : Bool :=
  (finalValue im r).any (fun v => r.wide || decide (v.toNat < 2 ^ 32) || decide (2 ^ 64 - 2 ^ 31 ≤ v.toNat))

/-- The bytes of a section with its relocatable values written (R198). -/
def sectionBytes (im : GraphImage) (x : Section) : List (BitVec 8) :=
  x.relocs.foldl (fun bs r =>
    let v := leBytes (if r.wide then 8 else 4) ((finalValue im r).getD 0).toNat
    bs.take r.at_ ++ v ++ bs.drop (r.at_ + v.length)) x.bytes

/-- An image can be loaded: its relocatable values fit and lie in their sections (R198). That it has a section, and that the pages of its
sections are mapped, is the model's condition: the manual names no refusal of other images (DESIGN CHOICE, log 79). -/
def imageOk (s : State) (ctx dev : Nat) (im : GraphImage) : Bool :=
  !im.sections.isEmpty && im.sections.all (fun x =>
    x.relocs.all (fun r => relocFits im r && decide (r.at_ + (if r.wide then 8 else 4) ≤ x.bytes.length)) &&
    (List.range ((x.bytes.length + 65535) / 2 ^ 16)).all (fun i => (walk s ctx dev ((x.page + i) * 2 ^ 16)).isSome))

/-- The headers of an image's nodes with their entry points fixed: offsets in the first section (R85, R201, log 4). -/
def imageNodes (im : GraphImage) : List NodeHdr :=
  im.nodes.map (fun h => { h with entry := BitVec.ofNat 64 ((sectionBase im 0).getD 0) + h.entry })

/-- GRAPH_LOAD (R85, R198, R200, R202, R428): refused when the image cannot be loaded or queue memory is unavailable. -/
def serveLoad (q : RingId) (ctx : Nat) (r : ReqRec) (s : State) : State :=
  let dies := maskDies r.arg1
  match r.image with
  | none => refuseReq s q 0
  | some im =>
    let als := dies.filterMap (fun d => im.allocs.find? (·.die == d))
    if dies.isEmpty || decide (16 ≤ r.arg1.toNat) || als.length != dies.length || !imageOk s ctx q.dev im ||
        !allocsOk s ctx q.dev im.nodes als then refuseReq s q 0
    else
      match mapQueuePages ctx q.dev (als.flatMap (·.pages)) s with
      | none => refuseReq s q 0
      | some t =>
        let (id, t) := freshUid t
        let t := modCtx t ctx (fun x => { x with
          graphs := x.graphs ++ [⟨id, q.dev, imageNodes im, false, als⟩]
          slots := x.slots ++ als.flatMap (fun al => slabSlots id q.dev al.die al.slab 0 im.nodes) })
        completeReq (im.sections.foldl (fun t x => writeVa t ctx q.dev (x.page * 2 ^ 16) (sectionBytes im x)) t) q 1 id

/-- The GRAPH_LOAD request at the head of a ring (R200, R202). -/
def execGraphLoad (q : RingId) (s : State) : Out := serveCtx s q 5 (serveLoad q)

/-- A batt timer of a die has expired in the cycle that ends (R206, R208). -/
def timersDue (s : State) (dev die : Nat) : Bool :=
  s.contexts.any (fun p => p.2.opens.any (fun b => b.dev == dev && b.die == die && timerDue s b p.2))

/-- GRAPH_SEED (R235, R428): the record is written into the lowest free slot and committed at depth 0. The commit stands at the head of the
next cycle, before every event of the graph's cords and before the timers of that cycle: the request waits while a word or timer of this
cycle is still to come. A graph or node that does not exist is refused as a closed one is, and of several reasons a closed node is reported
before a wrong die, and that before a full slab: the manual names neither (DESIGN CHOICE, log 81). -/
def serveSeed (q : RingId) (ctx : Nat) (r : ReqRec) (s : State) : State :=
  let node := r.arg0.toNat % 2 ^ 32
  let graph := r.arg0.toNat / 2 ^ 32
  let die := r.arg1.toNat
  let x := ctxOf s ctx
  match graphOf x graph, nodeOf x graph node with
  | some g, some h =>
    if g.closed then refuseReq s q 1
    else if g.dev != q.dev || !g.allocs.any (·.die == die) then refuseReq s q 3
    else
      match lowestFree x graph node q.dev die with
      | none => refuseReq s q 2
      | some slot => if !s.todo.isEmpty || timersDue s q.dev die then s else
        let s := writeVa s ctx q.dev slot.addr ((List.range h.recSize).map (fun i => r.bytes.getD i 0))
        let (u, s) := freshUid s
        completeReq (modCtx s ctx (commitSlot u (cycOf s q.dev die + 1) slot)) q 1 0
  | _, _ => refuseReq s q 1

/-- The GRAPH_SEED request at the head of a ring (R235). -/
def execGraphSeed (q : RingId) (s : State) : Out := serveCtx s q 6 (serveSeed q)

/-- A cord was launched from a batt. -/
def launchedFrom (s : State) (ctx : Nat) (t : Batt) : Bool := s.cords.any (fun p => p.2.ctx == ctx && p.2.batt.id == t.id)

/-- A graph closes (R203, R207, R219, R222): its committed and batted records, open batts and batts not launched are discarded, its
counting knots break, and its queue memory is released with its last cord. -/
def closeGraph (s : State) (ctx graph : Nat) : State :=
  let x := ctxOf s ctx
  let dead := (x.batts.filter (fun t => t.graph == graph && !launchedFrom s ctx t)).map (·.id)
  let s := modCtx s ctx (fun x => { x with
    graphs := x.graphs.map (fun g => if g.id == graph then { g with closed := true } else g)
    slots := x.slots.map (fun p => if p.graph == graph && (p.state == .committed || p.state == .batted) then freeSlot p else p)
    opens := x.opens.filter (·.graph != graph)
    batts := x.batts.filter (fun t => !dead.contains t.id)
    knots := x.knots.map (fun p => if p.2.graph == graph && p.2.owner == graphOwner then (p.1, breakKnot p.2) else p) })
  let s : State := { s with modules := s.modules.map (fun m => (m.1, { m.2 with
    dies := m.2.dies.map (fun d => { d with
      cores := d.cores.map (fun c => (c.1, { c.2 with
        slots := c.2.slots.map (fun e => match e with
          | .bound b (some t) _ => if b.ctx.toNat == ctx && dead.contains t then .free else e
          | _ => e) })) }) })) }
  releaseGraph s ctx graph

/-- The GRAPH_CLOSE request at the head of a ring (R222). -/
def execGraphClose (q : RingId) (s : State) : Out :=
  serveCtx s q 7 (fun ctx r s => completeReq (closeGraph s ctx r.arg0.toNat) q 1 0)

/-! ### Windows and peers -/

/-- The contexts WINDOW_OPEN names: four fields of 16 bits (log 4). -/
def windowCtxs (x : BitVec 64) : List Nat := (List.range 4).map (fun i => bitsOf x (16 * i) 16)

/-- WINDOW_OPEN (R252, R430): served once, it makes the window whose binds are refused from now on, and names it in RESULT; it
completes when the window is open. -/
def serveWindow (q : RingId) (r : ReqRec) (s : State) : State :=
  match (mget s.modules q.dev).bind (fun m => m.windows.find? (fun w => r.result != 0 && w.id == r.result.toNat)) with
  | some w => if w.open_ then completeReq s q 1 w.id else s
  | none =>
    let (u, s) := freshUid s
    let lo := max (2 ^ 39) (r.arg0.toNat / 2 ^ 16 * 2 ^ 16)
    let hi := (r.arg0.toNat + r.arg1.toNat + 65535) / 2 ^ 16 * 2 ^ 16
    let s := modModule s q.dev (fun m => { m with windows := m.windows ++ [⟨u + 1, lo, hi, windowCtxs r.arg2, false⟩] })
    modRing s q (fun g => match g.pending with
      | [] => g
      | x :: xs => { g with pending := { x with result := BitVec.ofNat 32 (u + 1) } :: xs })

/-- The WINDOW_OPEN request at the head of a ring (R252, R430). -/
def execWindowOpen (q : RingId) (s : State) : Out := serve s q 8 (serveWindow q)

/-- The WINDOW_CLOSE request at the head of a ring (R252, R428). -/
def execWindowClose (q : RingId) (s : State) : Out :=
  serve s q 9 (fun r s => completeReq (modModule s q.dev (fun m =>
    { m with windows := m.windows.filter (fun w => w.id != r.arg0.toNat) })) q 1 0)

/-- The PEER_SET request at the head of a ring: an entry of the context's peer table (R415, R428, log 4). -/
def execPeerSet (q : RingId) (s : State) : Out :=
  serveCtx s q 10 (fun ctx r s => completeReq (modCtx s ctx (fun x =>
    { x with peers := mset x.peers (r.arg0.toNat % 2 ^ 16) ⟨r.arg1.toNat % 1024, r.arg2.toNat % 4⟩ })) q 1 0)

/-! ### Settings -/

/-- Change a module's settings: the number of R424's table from 1, and the value in nanoseconds; none outside the range. -/
def setModule (n v : Nat) (m : Module) : Option Module :=
  if n == 1 then (if 10000 ≤ v && v ≤ 10000000 then some { m with drainLimit := v } else none)
  else if n == 2 then (if 100000 ≤ v && v ≤ 100000000 then some { m with linkLimit := v } else none)
  else if n == 3 then (if 5000 ≤ v && v ≤ 1000000 then some { m with e2eLimit := v } else none)
  else none

/-- Change a context's settings (R424); others is what the other contexts reserve at a station. -/
def setContext (n : Nat) (v : BitVec 64) (others : Nat) (x : Context) : Option Context :=
  let k := v.toNat
  if n == 4 then (if others + k ≤ 768 then some { x with stSlots := k } else none)
  else if n == 5 then (if k ≤ 4096 then some { x with waiters := k } else none)
  else if n == 6 then (if 1 ≤ k && k ≤ 255 then some { x with weight := k } else none)
  else if n == 7 then
    (if v == BitVec.allOnes 64 then some { x with vector := none }
     else if k % 4 == 0 then some { x with vector := some v } else none)
  else if n == 8 then (if k ≤ 1 then some { x with debug := k == 1 } else none)
  else none

/-- The most the other contexts reserve at a station of a module the context runs on (R392). -/
def reservedBeside (s : State) (ctx : Nat) : Nat :=
  (ctxOf s ctx).roots.foldl (fun n r =>
    max n ((s.contexts.filter (fun p => p.1 != ctx && p.2.roots.any (·.1 == r.1))).map (fun p => p.2.stSlots)).sum) 0

/-- SET (R424, R428): settings 1 to 3 are the module's, 4 to 8 the context's. -/
def serveSet (q : RingId) (r : ReqRec) (s : State) : State :=
  let n := r.arg0.toNat
  if 4 ≤ n && n ≤ 8 then
    match q.ctx with
    | none => completeReq s q 4 0
    | some ctx =>
      let others := reservedBeside s ctx
      match setContext n r.arg1 others (ctxOf s ctx) with
      | some x => completeReq (modCtx s ctx (fun _ => x)) q 1 0
      | none => refuseReq s q 0
  else
    match (mget s.modules q.dev).bind (setModule n r.arg1.toNat) with
    | some m => completeReq (modModule s q.dev (fun _ => m)) q 1 0
    | none => refuseReq s q 0

/-- The SET request at the head of a ring (R424, R428). -/
def execSetReq (q : RingId) (s : State) : Out := serve s q 11 (serveSet q)

/-! ### Records of the log and of health -/

/-- An event-log record (R257). -/
def logBytes (r : LogRec) : List (BitVec 8) :=
  leBytes 4 r.ctx ++ leBytes 2 r.node ++ leBytes 1 r.lane ++ leBytes 1 r.kind ++ leBytes 8 r.pc.toNat ++ leBytes 8 r.va.toNat ++
  leBytes 1 r.core ++ leBytes 1 r.die ++ leBytes 6 r.cause

/-- What a request writes to its destination in application-die memory (log 4). -/
def sendOut (s : State) (q : RingId) (bs : List (BitVec 8)) : State := modRing s q (fun g => { g with out := g.out ++ bs })

/-- LOG_READ copies the oldest unread records and writes LOST into RESULT (R431). -/
def serveLog (q : RingId) (ctx : Nat) (r : ReqRec) (s : State) : State :=
  let x := ctxOf s ctx
  let rs := (x.log.drop (x.log.length - x.unread)).take r.arg1.toNat
  let s := sendOut s q (rs.flatMap logBytes)
  completeReq (modCtx s ctx (fun x => { x with unread := x.unread - rs.length })) q 1 x.lost.toNat

/-- The LOG_READ request at the head of a ring (R431). -/
def execLogRead (q : RingId) (s : State) : Out := serveCtx s q 12 (serveLog q)

/-- The state of a link as HEALTH gives it. -/
def linkCode (l : Link) : Nat := match l with | .up => 0 | .retrain => 1 | .down => 2

/-- The health record of a die (R432, log 4). -/
def healthBytes (s : State) (m : Module) (die : Nat) : List (BitVec 8) :=
  let d := m.dies[die]?.getD Die.reset
  let bad := (s.poison.filter (fun w => keyDev (w * 8) == m.dev && homeDie (w * 8) == some die)).length
  leBytes 4 d.clock ++ leBytes 4 d.sensors.macroT ++ leBytes 4 d.sensors.baseT ++ leBytes 4 d.sensors.power ++
  leBytes 4 d.corrected ++ leBytes 4 bad ++
  (List.range 4).flatMap (fun j => leBytes 1 (linkCode ((m.stations[4 * die + j]?.map (·.link)).getD .down))) ++ leBytes 4 (linkCode (m.ether[die]?.getD .down)) ++
  leBytes 4 m.image ++ leBytes 4 m.fails ++ leBytes 24 0

/-- The HEALTH request at the head of a ring (R432). -/
def execHealthReq (q : RingId) (s : State) : Out :=
  serve s q 13 (fun _ s => match mget s.modules q.dev with
    | some m => completeReq (sendOut s q ((List.range 4).flatMap (healthBytes s m))) q 1 0
    | none => s)

/-- The RESET request at the head of a ring raises a context error (R366, R430). -/
def execResetReq (q : RingId) (s : State) : Out :=
  serveCtx s q 14 (fun ctx _ s => completeReq (contextError s ctx 0 0 0 0 ⟨q.dev, 0, 63⟩) q 1 0)

/-- A record with another code or a non-zero reserved byte completes with STATUS 3 (R428). -/
def execMalformedRequest (q : RingId) (s : State) : Out :=
  match headReq s q with
  | none => .next s
  | some r => if ringLive s q && !wellFormedReq r then .next (completeReq s q 3 0) else .next s

end Sys2Proof.Machine
end

