-- ==== Sys2Proof/Machine/Dispatch.lean ====
section
/-!
DEFINITION. The one dispatch from an instruction to its meaning.
-/
namespace Sys2Proof.Machine

/-- What an instruction word or an event does. -/
def exec (i : Instr) (s : State) : Host.Outcome State Fault Refusal :=
  match i with
  | .iadd g d a b => Sys2Proof.Machine.execIadd g d a b s
  | .isub g d a b => Sys2Proof.Machine.execIsub g d a b s
  | .imul g d a b => Sys2Proof.Machine.execImul g d a b s
  | .imad g d a b => Sys2Proof.Machine.execImad g d a b s
  | .and g d a b => Sys2Proof.Machine.execAnd g d a b s
  | .or g d a b => Sys2Proof.Machine.execOr g d a b s
  | .xor g d a b => Sys2Proof.Machine.execXor g d a b s
  | .shl g d a b => Sys2Proof.Machine.execShl g d a b s
  | .shr g d a b => Sys2Proof.Machine.execShr g d a b s
  | .icmp g c q a b => Sys2Proof.Machine.execIcmp g c q a b s
  | .sel g d a b => Sys2Proof.Machine.execSel g d a b s
  | .lea g d a b => Sys2Proof.Machine.execLea g d a b s
  | .bfi g d a b => Sys2Proof.Machine.execBfi g d a b s
  | .idp4 g d a b => Sys2Proof.Machine.execIdp4 g d a b s
  | .imulh g d a => Sys2Proof.Machine.execImulh g d a s
  | .imulhUns g d a => Sys2Proof.Machine.execImulhUns g d a s
  | .idiv g d a => Sys2Proof.Machine.execIdiv g d a s
  | .idivUns g d a => Sys2Proof.Machine.execIdivUns g d a s
  | .irem g d a => Sys2Proof.Machine.execIrem g d a s
  | .iremUns g d a => Sys2Proof.Machine.execIremUns g d a s
  | .imin g d a => Sys2Proof.Machine.execImin g d a s
  | .iminUns g d a => Sys2Proof.Machine.execIminUns g d a s
  | .imax g d a => Sys2Proof.Machine.execImax g d a s
  | .imaxUns g d a => Sys2Proof.Machine.execImaxUns g d a s
  | .andn g d a => Sys2Proof.Machine.execAndn g d a s
  | .sar g d a => Sys2Proof.Machine.execSar g d a s
  | .rotl g d a => Sys2Proof.Machine.execRotl g d a s
  | .bfx g d a => Sys2Proof.Machine.execBfx g d a s
  | .bfxUns g d a => Sys2Proof.Machine.execBfxUns g d a s
  | .iaddD g d a => Sys2Proof.Machine.execIaddD g d a s
  | .isubD g d a => Sys2Proof.Machine.execIsubD g d a s
  | .imulD g d a => Sys2Proof.Machine.execImulD g d a s
  | .andD g d a => Sys2Proof.Machine.execAndD g d a s
  | .orD g d a => Sys2Proof.Machine.execOrD g d a s
  | .xorD g d a => Sys2Proof.Machine.execXorD g d a s
  | .andnD g d a => Sys2Proof.Machine.execAndnD g d a s
  | .iminD g d a => Sys2Proof.Machine.execIminD g d a s
  | .shlD g d a => Sys2Proof.Machine.execShlD g d a s
  | .shrD g d a => Sys2Proof.Machine.execShrD g d a s
  | .sarD g d a => Sys2Proof.Machine.execSarD g d a s
  | .rotlD g d a => Sys2Proof.Machine.execRotlD g d a s
  | .iminDUns g d a => Sys2Proof.Machine.execIminDUns g d a s
  | .imaxD g d a => Sys2Proof.Machine.execImaxD g d a s
  | .imaxDUns g d a => Sys2Proof.Machine.execImaxDUns g d a s
  | .mov g d a => Sys2Proof.Machine.execMov g d a s
  | .iabs g d a => Sys2Proof.Machine.execIabs g d a s
  | .ineg g d a => Sys2Proof.Machine.execIneg g d a s
  | .not g d a => Sys2Proof.Machine.execNot g d a s
  | .popc g d a => Sys2Proof.Machine.execPopc g d a s
  | .clz g d a => Sys2Proof.Machine.execClz g d a s
  | .ctz g d a => Sys2Proof.Machine.execCtz g d a s
  | .brev g d a => Sys2Proof.Machine.execBrev g d a s
  | .movD g d a => Sys2Proof.Machine.execMovD g d a s
  | .iabsD g d a => Sys2Proof.Machine.execIabsD g d a s
  | .inegD g d a => Sys2Proof.Machine.execInegD g d a s
  | .notD g d a => Sys2Proof.Machine.execNotD g d a s
  | .popcD g d a => Sys2Proof.Machine.execPopcD g d a s
  | .clzD g d a => Sys2Proof.Machine.execClzD g d a s
  | .ctzD g d a => Sys2Proof.Machine.execCtzD g d a s
  | .brevD g d a => Sys2Proof.Machine.execBrevD g d a s
  | .iaddImm g d a imm => Sys2Proof.Machine.execIaddImm g d a imm s
  | .shlImm g d a n => Sys2Proof.Machine.execShlImm g d a n s
  | .shrImm g d a n => Sys2Proof.Machine.execShrImm g d a n s
  | .sarImm g d a n => Sys2Proof.Machine.execSarImm g d a n s
  | .rotlImm g d a n => Sys2Proof.Machine.execRotlImm g d a n s
  | .movi g d imm => Sys2Proof.Machine.execMovi g d imm s
  | .movhi g d imm => Sys2Proof.Machine.execMovhi g d imm s
  | .pand g q a b => Sys2Proof.Machine.execPand g q a b s
  | .por g q a b => Sys2Proof.Machine.execPor g q a b s
  | .pxor g q a b => Sys2Proof.Machine.execPxor g q a b s
  | .pnot g q a => Sys2Proof.Machine.execPnot g q a s
  | .mfs g d r => Sys2Proof.Machine.execMfs g d r s
  | .mts g a r => Sys2Proof.Machine.execMts g a r s
  | .mvs g d a => Sys2Proof.Machine.execMvs g d a s
  | .mvsD g d a => Sys2Proof.Machine.execMvsD g d a s
  | .movs g d a => Sys2Proof.Machine.execMovs g d a s
  | .movsD g d a => Sys2Proof.Machine.execMovsD g d a s
  | .fadd g d a b => Sys2Proof.Machine.execFadd g d a b s
  | .fsub g d a b => Sys2Proof.Machine.execFsub g d a b s
  | .fmul g d a b => Sys2Proof.Machine.execFmul g d a b s
  | .ffma g d a b => Sys2Proof.Machine.execFfma g d a b s
  | .fcmp g c q a b => Sys2Proof.Machine.execFcmp g c q a b s
  | .fdiv g d a => Sys2Proof.Machine.execFdiv g d a s
  | .fmin g d a => Sys2Proof.Machine.execFmin g d a s
  | .fmax g d a => Sys2Proof.Machine.execFmax g d a s
  | .hadd2Hf g d a => Sys2Proof.Machine.execHadd2Hf g d a s
  | .hadd2Bf g d a => Sys2Proof.Machine.execHadd2Bf g d a s
  | .hmul2Hf g d a => Sys2Proof.Machine.execHmul2Hf g d a s
  | .hmul2Bf g d a => Sys2Proof.Machine.execHmul2Bf g d a s
  | .frcp g d a => Sys2Proof.Machine.execFrcp g d a s
  | .frsq g d a => Sys2Proof.Machine.execFrsq g d a s
  | .fsqrt g d a => Sys2Proof.Machine.execFsqrt g d a s
  | .fexp2 g d a => Sys2Proof.Machine.execFexp2 g d a s
  | .flog2 g d a => Sys2Proof.Machine.execFlog2 g d a s
  | .fclass g d a => Sys2Proof.Machine.execFclass g d a s
  | .cvt g d a x y => Sys2Proof.Machine.execCvt g d a x y s
  | .hfma2Hf g d a b => Sys2Proof.Machine.execHfma2Hf g d a b s
  | .hfma2Bf g d a b => Sys2Proof.Machine.execHfma2Bf g d a b s
  | .ldW g d a o => Sys2Proof.Machine.execLdW g d a o s
  | .stW g d a o => Sys2Proof.Machine.execStW g d a o s
  | .ld g d a z => Sys2Proof.Machine.execLd g d a z s
  | .ldAcq g d a z k => Sys2Proof.Machine.execLdAcq g d a z k s
  | .st g d a z => Sys2Proof.Machine.execSt g d a z s
  | .stRel g d a z k => Sys2Proof.Machine.execStRel g d a z k s
  | .lds g d a z => Sys2Proof.Machine.execLds g d a z s
  | .sts g d a z => Sys2Proof.Machine.execSts g d a z s
  | .ldo g d a z => Sys2Proof.Machine.execLdo g d a z s
  | .ldoAcq g d a z k => Sys2Proof.Machine.execLdoAcq g d a z k s
  | .amoAdd g d a k => Sys2Proof.Machine.execAmoAdd g d a k s
  | .amoSub g d a k => Sys2Proof.Machine.execAmoSub g d a k s
  | .amoMin g d a k => Sys2Proof.Machine.execAmoMin g d a k s
  | .amoMax g d a k => Sys2Proof.Machine.execAmoMax g d a k s
  | .amoMinUns g d a k => Sys2Proof.Machine.execAmoMinUns g d a k s
  | .amoMaxUns g d a k => Sys2Proof.Machine.execAmoMaxUns g d a k s
  | .amoAnd g d a k => Sys2Proof.Machine.execAmoAnd g d a k s
  | .amoOr g d a k => Sys2Proof.Machine.execAmoOr g d a k s
  | .amoXor g d a k => Sys2Proof.Machine.execAmoXor g d a k s
  | .amoSwp g d a k => Sys2Proof.Machine.execAmoSwp g d a k s
  | .amoAddF g d a k => Sys2Proof.Machine.execAmoAddF g d a k s
  | .acas g d a k => Sys2Proof.Machine.execAcas g d a k s
  | .amoAddD g d a k => Sys2Proof.Machine.execAmoAddD g d a k s
  | .amoSwpD g d a k => Sys2Proof.Machine.execAmoSwpD g d a k s
  | .acasD g d a k => Sys2Proof.Machine.execAcasD g d a k s
  | .amosAdd g d a => Sys2Proof.Machine.execAmosAdd g d a s
  | .amosSub g d a => Sys2Proof.Machine.execAmosSub g d a s
  | .amosMin g d a => Sys2Proof.Machine.execAmosMin g d a s
  | .amosMax g d a => Sys2Proof.Machine.execAmosMax g d a s
  | .amosMinUns g d a => Sys2Proof.Machine.execAmosMinUns g d a s
  | .amosMaxUns g d a => Sys2Proof.Machine.execAmosMaxUns g d a s
  | .amosAnd g d a => Sys2Proof.Machine.execAmosAnd g d a s
  | .amosOr g d a => Sys2Proof.Machine.execAmosOr g d a s
  | .amosXor g d a => Sys2Proof.Machine.execAmosXor g d a s
  | .amosSwp g d a => Sys2Proof.Machine.execAmosSwp g d a s
  | .amosCas g d a => Sys2Proof.Machine.execAmosCas g d a s
  | .fenceAcq g k => Sys2Proof.Machine.execFenceAcq g k s
  | .fenceRel g k => Sys2Proof.Machine.execFenceRel g k s
  | .fence g k => Sys2Proof.Machine.execFence g k s
  | .invl1 g a => Sys2Proof.Machine.execInvl1 g a s
  | .invl1All g => Sys2Proof.Machine.execInvl1All g s
  | .tkrel g a => Sys2Proof.Machine.execTkrel g a s
  | .bra g f => Sys2Proof.Machine.execBra g f s
  | .call g f => Sys2Proof.Machine.execCall g f s
  | .brp g n imm => Sys2Proof.Machine.execBrp g n imm s
  | .bdec g d imm => Sys2Proof.Machine.execBdec g d imm s
  | .nop g => Sys2Proof.Machine.execNop g s
  | .exit g => Sys2Proof.Machine.execExit g s
  | .ret g => Sys2Proof.Machine.execRet g s
  | .callv g a => Sys2Proof.Machine.execCallv g a s
  | .jmpv g a => Sys2Proof.Machine.execJmpv g a s
  | .trap g n => Sys2Proof.Machine.execTrap g n s
  | .bkpt g n => Sys2Proof.Machine.execBkpt g n s
  | .yieldp g => Sys2Proof.Machine.execYieldp g s
  | .rte g => Sys2Proof.Machine.execRte g s
  | .rteRerun g => Sys2Proof.Machine.execRteRerun g s
  | .trrec g d a => Sys2Proof.Machine.execTrrec g d a s
  | .rep g n x y z => Sys2Proof.Machine.execRep g n x y z s
  | .hintWait g w => Sys2Proof.Machine.execHintWait g w s
  | .hintExt g e => Sys2Proof.Machine.execHintExt g e s
  | .hintMod g x r => Sys2Proof.Machine.execHintMod g x r s
  | .hintCache g l c => Sys2Proof.Machine.execHintCache g l c s
  | .hintFetchI g o => Sys2Proof.Machine.execHintFetchI g o s
  | .hintFetchD g a o => Sys2Proof.Machine.execHintFetchD g a o s
  | .xlmIdx g d a m => Sys2Proof.Machine.execXlmIdx g d a m s
  | .xlmXor g d a m => Sys2Proof.Machine.execXlmXor g d a m s
  | .xlmUp g d a m => Sys2Proof.Machine.execXlmUp g d a m s
  | .xlmDn g d a m => Sys2Proof.Machine.execXlmDn g d a m s
  | .red g d a o => Sys2Proof.Machine.execRed g d a o s
  | .scan g d a o => Sys2Proof.Machine.execScan g d a o s
  | .scanExcl g d a o => Sys2Proof.Machine.execScanExcl g d a o s
  | .elect g d a => Sys2Proof.Machine.execElect g d a s
  | .cvset g d a => Sys2Proof.Machine.execCvset g d a s
  | .phase g a => Sys2Proof.Machine.execPhase g a s
  | .bar g a k => Sys2Proof.Machine.execBar g a k s
  | .barcfg g a k => Sys2Proof.Machine.execBarcfg g a k s
  | .voteAny g d a x => Sys2Proof.Machine.execVoteAny g d a x s
  | .voteAll g d a x => Sys2Proof.Machine.execVoteAll g d a x s
  | .voteBallot g d a x => Sys2Proof.Machine.execVoteBallot g d a x s
  | .qrsv g d a x => Sys2Proof.Machine.execQrsv g d a x s
  | .qcmt g a => Sys2Proof.Machine.execQcmt g a s
  | .qdrop g a => Sys2Proof.Machine.execQdrop g a s
  | .qfree g a => Sys2Proof.Machine.execQfree g a s
  | .qstat g d a => Sys2Proof.Machine.execQstat g d a s
  | .batt g d => Sys2Proof.Machine.execBatt g d s
  | .knnew g d x => Sys2Proof.Machine.execKnnew g d x s
  | .knset g d a => Sys2Proof.Machine.execKnset g d a s
  | .knadd g d a => Sys2Proof.Machine.execKnadd g d a s
  | .knget g d a x => Sys2Proof.Machine.execKnget g d a x s
  | .knwait g d a => Sys2Proof.Machine.execKnwait g d a s
  | .knpoll g a x => Sys2Proof.Machine.execKnpoll g a x s
  | .knfree g a => Sys2Proof.Machine.execKnfree g a s
  | .knbrk g a => Sys2Proof.Machine.execKnbrk g a s
  | .hzrd g d => Sys2Proof.Machine.execHzrd g d s
  | .hzseq g d => Sys2Proof.Machine.execHzseq g d s
  | .hzwait g a => Sys2Proof.Machine.execHzwait g a s
  | .hzbrClr g imm => Sys2Proof.Machine.execHzbrClr g imm s
  | .hzbrNclr g imm => Sys2Proof.Machine.execHzbrNclr g imm s
  | .tdef g d a => Sys2Proof.Machine.execTdef g d a s
  | .tld g d a m => Sys2Proof.Machine.execTld g d a m s
  | .tst g d a => Sys2Proof.Machine.execTst g d a s
  | .tcopy g a => Sys2Proof.Machine.execTcopy g a s
  | .swinit g d a => Sys2Proof.Machine.execSwinit g d a s
  | .swait g d a => Sys2Proof.Machine.execSwait g d a s
  | .swadd g d a => Sys2Proof.Machine.execSwadd g d a s
  | .waito g n c => Sys2Proof.Machine.execWaito g n c s
  | .press g d m => Sys2Proof.Machine.execPress g d m s
  | .pressw g d a m => Sys2Proof.Machine.execPressw g d a m s
  | .mma g d a m j => Sys2Proof.Machine.execMma g d a m j s
  | .skadd g d a r => Sys2Proof.Machine.execSkadd g d a r s
  | .sksub g d a r => Sys2Proof.Machine.execSksub g d a r s
  | .skmax g d a r => Sys2Proof.Machine.execSkmax g d a r s
  | .skmin g d a r => Sys2Proof.Machine.execSkmin g d a r s
  | .skset g d a r => Sys2Proof.Machine.execSkset g d a r s
  | .skmov g d a r => Sys2Proof.Machine.execSkmov g d a r s
  | .skext g d a => Sys2Proof.Machine.execSkext g d a s
  | .skins g d a r => Sys2Proof.Machine.execSkins g d a r s
  | .skbind g d a => Sys2Proof.Machine.execSkbind g d a s
  | .cmpr g d a => Sys2Proof.Machine.execCmpr g d a s
  | .sbmap g d a => Sys2Proof.Machine.execSbmap g d a s
  | .cbld g a => Sys2Proof.Machine.execCbld g a s
  | .cbldDef g => Sys2Proof.Machine.execCbldDef g s
  | .cbdec g d a => Sys2Proof.Machine.execCbdec g d a s
  | .rsend g a => Sys2Proof.Machine.execRsend g a s
  | .rsendAdd g a => Sys2Proof.Machine.execRsendAdd g a s
  | .tsend g d a => Sys2Proof.Machine.execTsend g d a s
  | .tscncl g a => Sys2Proof.Machine.execTscncl g a s
  | .esend g a => Sys2Proof.Machine.execEsend g a s
  | .erecv g a => Sys2Proof.Machine.execErecv g a s
  | .illegalInstruction w => Sys2Proof.Machine.execIllegalInstruction w s
  | .instructionFill c va ctx => Sys2Proof.Machine.execInstructionFill c va ctx s
  | .divideResult c l => Sys2Proof.Machine.execDivideResult c l s
  | .phaseEnd c => Sys2Proof.Machine.execPhaseEnd c s
  | .battTimerExpiry ctx graph node dev die => Sys2Proof.Machine.execBattTimerExpiry ctx graph node dev die s
  | .remoteKnotEvent k => Sys2Proof.Machine.execRemoteKnotEvent k s
  | .waiterWake ctx dev slot => Sys2Proof.Machine.execWaiterWake ctx dev slot s
  | .bindRecord c entry b => Sys2Proof.Machine.execBindRecord c entry b s
  | .launch c entry => Sys2Proof.Machine.execLaunch c entry s
  | .l1Read c l u => Sys2Proof.Machine.execL1Read c l u s
  | .send c l u => Sys2Proof.Machine.execSend c l u s
  | .perform r => Sys2Proof.Machine.execPerform r s
  | .fill c l u => Sys2Proof.Machine.execFill c l u s
  | .release c l u => Sys2Proof.Machine.execRelease c l u s
  | .acquire c l u => Sys2Proof.Machine.execAcquire c l u s
  | .drop c l u => Sys2Proof.Machine.execDrop c l u s
  | .evict c word => Sys2Proof.Machine.execEvict c word s
  | .settle c l u => Sys2Proof.Machine.execSettle c l u s
  | .tableWalk c ctx va => Sys2Proof.Machine.execTableWalk c ctx va s
  | .tlbShootdown ctx => Sys2Proof.Machine.execTlbShootdown ctx s
  | .migration ctx va frame => Sys2Proof.Machine.execMigration ctx va frame s
  | .readPacket p tag => Sys2Proof.Machine.execReadPacket p tag s
  | .writePacket p tag => Sys2Proof.Machine.execWritePacket p tag s
  | .portReply p tag => Sys2Proof.Machine.execPortReply p tag s
  | .refreshWindowStart dev die grp => Sys2Proof.Machine.execRefreshWindowStart dev die grp s
  | .refreshWindowEnd dev die grp => Sys2Proof.Machine.execRefreshWindowEnd dev die grp s
  | .writeWindowOpens dev win => Sys2Proof.Machine.execWriteWindowOpens dev win s
  | .engineStart c u => Sys2Proof.Machine.execEngineStart c u s
  | .chunkCredit c u k => Sys2Proof.Machine.execChunkCredit c u k s
  | .pressComplete c u => Sys2Proof.Machine.execPressComplete c u s
  | .cbldComplete c u => Sys2Proof.Machine.execCbldComplete c u s
  | .passStart c u => Sys2Proof.Machine.execPassStart c u s
  | .passWriteback c u => Sys2Proof.Machine.execPassWriteback c u s
  | .engineRetire c cls => Sys2Proof.Machine.execEngineRetire c cls s
  | .failure c l => Sys2Proof.Machine.execFailure c l s
  | .trapEntry c => Sys2Proof.Machine.execTrapEntry c s
  | .preempt c => Sys2Proof.Machine.execPreempt c s
  | .drainLimitExpiry c => Sys2Proof.Machine.execDrainLimitExpiry c s
  | .flush c => Sys2Proof.Machine.execFlush c s
  | .save c => Sys2Proof.Machine.execSave c s
  | .restore c entry b => Sys2Proof.Machine.execRestore c entry b s
  | .remoteRequest pkt => Sys2Proof.Machine.execRemoteRequest pkt s
  | .acknowledgement pkt => Sys2Proof.Machine.execAcknowledgement pkt s
  | .endToEndTimeout pkt => Sys2Proof.Machine.execEndToEndTimeout pkt s
  | .stompedPacket pkt => Sys2Proof.Machine.execStompedPacket pkt s
  | .linkRetrain dev st => Sys2Proof.Machine.execLinkRetrain dev st s
  | .linkReturn dev st => Sys2Proof.Machine.execLinkReturn dev st s
  | .linkDownDeclared dev st => Sys2Proof.Machine.execLinkDownDeclared dev st s
  | .planeRetire dev plane => Sys2Proof.Machine.execPlaneRetire dev plane s
  | .fabricArrival pkt => Sys2Proof.Machine.execFabricArrival pkt s
  | .ethernetPacket pkt => Sys2Proof.Machine.execEthernetPacket pkt s
  | .sprayPacketSend c u => Sys2Proof.Machine.execSprayPacketSend c u s
  | .esendRetryLimit c u => Sys2Proof.Machine.execEsendRetryLimit c u s
  | .clockStep dev die x => Sys2Proof.Machine.execClockStep dev die x s
  | .coldStart dev fail => Sys2Proof.Machine.execColdStart dev fail s
  | .warmStart dev => Sys2Proof.Machine.execWarmStart dev s
  | .mapReq q => Sys2Proof.Machine.execMapReq q s
  | .unmapReq q => Sys2Proof.Machine.execUnmapReq q s
  | .protectReq q => Sys2Proof.Machine.execProtectReq q s
  | .exportFrame q => Sys2Proof.Machine.execExportFrame q s
  | .graphLoad q => Sys2Proof.Machine.execGraphLoad q s
  | .graphSeed q => Sys2Proof.Machine.execGraphSeed q s
  | .graphClose q => Sys2Proof.Machine.execGraphClose q s
  | .windowOpen q => Sys2Proof.Machine.execWindowOpen q s
  | .windowClose q => Sys2Proof.Machine.execWindowClose q s
  | .peerSet q => Sys2Proof.Machine.execPeerSet q s
  | .setReq q => Sys2Proof.Machine.execSetReq q s
  | .logRead q => Sys2Proof.Machine.execLogRead q s
  | .healthReq q => Sys2Proof.Machine.execHealthReq q s
  | .resetReq q => Sys2Proof.Machine.execResetReq q s
  | .malformedRequest q => Sys2Proof.Machine.execMalformedRequest q s
  | .contextCreation x => Sys2Proof.Machine.execContextCreation x s
  | .transportRetransmission pkt => Sys2Proof.Machine.execTransportRetransmission pkt s
  | .transportAcknowledgement pkt cwnd srtt => Sys2Proof.Machine.execTransportAcknowledgement pkt cwnd srtt s
  | .linkLevelReplay dev st => Sys2Proof.Machine.execLinkLevelReplay dev st s
  | .linkCreditReturn dev st ctx => Sys2Proof.Machine.execLinkCreditReturn dev st ctx s

end Sys2Proof.Machine
end

