-- ==== Sys2Proof/Machine/Policy.lean ====
section
/-!
DEFINITION. The steward's default policy (spec/10_stage_nodes.md R216, spec/26_start_and_management.md R424): which bindable work it binds
next, and where it places it. What R216 leaves to the steward is the model's (log 41).
-/
namespace Sys2Proof.Machine

/-! ### Bindable work -/

/-- Work of a context on a die that may be bound: the time it stands at, its node, the KIND and SOURCE that name it, its header, its strand
count and, for a cord that goes on, its lanes and the cord. -/
structure Bindable where
  time   : Nat
  node   : Nat
  kind   : BitVec 16
  source : BitVec 64
  hdr    : NodeHdr
  count  : Nat
  lanes  : Option (BitVec 64)
  cord   : Option Cord
deriving DecidableEq, Repr

/-- The closed batts of a context that wait on a die: each stands at the cycle it closed. -/
def closedWork (s : State) (ctx dev die : Nat) : List Bindable :=
  ((ctxOf s ctx).batts.filter (fun t => t.dev == dev && t.die == die && !t.bound)).filterMap (fun t =>
    (battNode s ctx t).map (fun h =>
      ⟨t.at_, t.node, 0, BitVec.ofNat 64 t.id, h, launchCount h t.slots.length, (flushedFrom s ctx t).map (·.2.lanes), none⟩))

/-- The READY batts of a context on a die: each stands at the cycle it became READY. -/
def readyWork (s : State) (ctx dev die : Nat) : List Bindable :=
  let x := ctxOf s ctx
  (x.opens.filter (fun o => o.dev == dev && o.die == die)).filterMap (fun o => o.ready.bind (fun t =>
    (openNode x o.graph o.node).map (fun h =>
      ⟨t, o.node, 0, BitVec.ofNat 64 (2 ^ 63 + o.graph), h, launchCount h o.slots.length, none, none⟩)))

/-- The phases and saves of a context that wait on a die: each stands at the cycle its phase ended or its save was written. -/
def waitingWork (s : State) (ctx dev die : Nat) : List Bindable :=
  (s.cords.filter (fun p => p.2.ctx == ctx && p.2.dev == dev && p.2.die == die && !cordBound s p.1 p.2)).filterMap (fun p =>
    let c := p.2
    let a := if c.life == .saved then saveAddr c else recordAddr c
    if waitsAt c a then
      (phaseHdr s c.node c).map (fun h => ⟨c.savedAt, c.node, 1, BitVec.ofNat 64 a, h, popCount c.lanes, some c.lanes, some c⟩)
    else none)

/-- The bindable work of a context on a die. -/
def bindable (s : State) (ctx dev die : Nat) : List Bindable :=
  closedWork s ctx dev die ++ readyWork s ctx dev die ++ waitingWork s ctx dev die

/-! ### Placing -/

/-- The first n members of a list, if it has as many. -/
def firstN {α : Type} (n : Nat) (xs : List α) : Option (List α) := if n ≤ xs.length then some (xs.take n) else none

/-- The lanes of a core whose registers from a base on are free. -/
def freeLanes (gs : List (BindRec × NodeHdr)) (base n : Nat) : List Nat :=
  (List.range 64).filter (fun l => gs.all (fun g => !(g.1.lanes.getLsbD l && meet base n g.1.vbase.toNat g.2.vregs)))

/-- The lane masks a piece of work may take on a core, each with the lowest VBASE that serves it. -/
def lanePlaces (gs : List (BindRec × NodeHdr)) (w : Bindable) : List (BitVec 64 × Nat) :=
  ((List.range 256).filter (fun i => 8 * i + w.hdr.vregs ≤ 2048)).filterMap (fun i =>
    let free := freeLanes gs (8 * i) w.hdr.vregs
    match w.lanes with
    | some m => if (lanesOf m).all free.contains then some (m, 8 * i) else none
    | none => (firstN w.count free).map (fun ls => (ls.foldl (fun m l => m ||| 1#64 <<< l) 0, 8 * i)))

/-- The lowest lanes that fit (R216): the least mask, at the lowest VBASE. -/
def lowestLanes (gs : List (BindRec × NodeHdr)) (w : Bindable) : Option (BitVec 64 × Nat) :=
  (lanePlaces gs w).foldl (fun b p => match b with
    | none => some p
    | some q => if p.1.toNat < q.1.toNat then some p else some q) none

/-- The lowest scale granule, macros and scratchpad bases that are free on a core. -/
def lowestRest (s : State) (c : CoreId) (gs : List (BindRec × NodeHdr)) (w : Bindable) : Option (Nat × BitVec 8 × BitVec 16) :=
  let h := w.hdr
  let ks := (List.range 16).filter (fun i => 4 * i + h.kregs ≤ 64 && gs.all (fun g => !meet (4 * i) h.kregs (4 * g.1.kbase.toNat) g.2.kregs))
  let ms := firstN h.macros ((List.range 8).filter (fun m => gs.all (fun g => !g.1.macros.getLsbD m)))
  let others := (s.cords.filter (fun p => keepsScratch p.2 && p.2.dev == c.dev && p.2.die == c.die && p.2.core == c.core &&
    some p.2 != w.cord)).map (fun p => (scrBase p.2, p.2.hdr.scratch))
  let taken := gs.map (fun g => (256 * g.1.sbase.toNat, g.2.scratch)) ++ others
  let kept := (w.cord.filter keepsScratch).map (·.bind.sbase.toNat)
  let ss := (match kept with | some b => [b] | none => List.range 2048).filter (fun i =>
    256 * i + h.scratch ≤ 524288 && taken.all (fun t => !meet (256 * i) h.scratch t.1 t.2))
  match ks.head?, ms, ss.head? with
  | some k, some ms, some b => some (k, ms.foldl (fun m i => m ||| 1#8 <<< i) 0, BitVec.ofNat 16 b)
  | _, _, _ => none

/-- The bind record of work on a core, where its resources fit, with the lowest free entry. -/
def placeOn (s : State) (ctx : Nat) (c : CoreId) (w : Bindable) : Option (Nat × BindRec) :=
  let gs := grantsOn s c
  let entry := (List.range 32).find? (fun i => (coreOf s c.dev c.die c.core).slots[i]? == some .free)
  match entry, lowestLanes gs w, lowestRest s c gs w with
  | some i, some (m, v), some (k, ms, b) =>
    let r : BindRec := {
      ctx := BitVec.ofNat 32 ctx
      node := BitVec.ofNat 16 w.node
      kind := w.kind
      source := w.source
      lanes := m
      vbase := BitVec.ofNat 16 v
      kbase := BitVec.ofNat 8 k
      macros := ms
      sbase := b
      rsvd := 0 }
    if bindReason s c i r == 0 then some (i, r) else none
  | _, _, _ => none

/-- Work on the lowest core of a die where it fits; a phase that keeps its scratchpad stays on its core (R179, R216). -/
def place (s : State) (ctx dev die : Nat) (w : Bindable) : Option (CoreId × Nat × BindRec) :=
  let cores := match w.cord.filter keepsScratch with | some c => [c.core] | none => List.range 63
  cores.findSome? (fun n => (placeOn s ctx ⟨dev, die, n⟩ w).map (fun p => (⟨dev, die, n⟩, p.1, p.2)))

/-! ### Choosing -/

/-- One piece of work comes before another: the earlier time, then the lower node (R216). -/
def before (a b : Bindable) : Bool := decide (a.time < b.time) || (a.time == b.time && decide (a.node < b.node))

/-- The work of a context that the steward takes, with its place: the first of those that fit (R216). Of works of equal time and node the
first of bindable is taken: closed batts, then READY batts, then waiting cords (DESIGN CHOICE, log 80). -/
def firstWork (s : State) (ctx dev die : Nat) : Option (CoreId × Nat × BindRec) :=
  (((bindable s ctx dev die).filterMap (fun w => (place s ctx dev die w).map (fun p => (w, p)))).foldl (fun b w => match b with
    | none => some w
    | some v => if before w.1 v.1 then some w else some v) none).map (·.2)

/-- The contexts in the order the round-robin looks at them: the one it serves while binds are left to it, then the others by rising number
from the next one on. -/
def turnOrder (s : State) (d : Die) : List Nat :=
  let ns := s.contexts.map (·.1)
  (if d.left == 0 then [] else ns.filter (· == d.turn)) ++ ns.filter (d.turn < ·) ++ ns.filter (· < d.turn) ++ ns.filter (· == d.turn)

/-- The steward of a die binds the next work by weighted round-robin among the contexts (R216, R424); without work that fits it binds none. -/
def stewardBind (dev die : Nat) (s : State) : Out :=
  let d := dieOf s dev die
  match (turnOrder s d).findSome? (fun n => (firstWork s n dev die).map (fun p => (n, p))) with
  | none => .next s
  | some (n, c, i, r) =>
    let left := if n == d.turn && d.left != 0 then d.left - 1 else (ctxOf s n).weight - 1
    execBindRecord c i r (modDie s dev die (fun d => { d with turn := n, left := left }))

end Sys2Proof.Machine
end

