-- ==== Sys2Proof/Machine/Cycle.lean ====
section
/-!
DEFINITION. A cycle of a die (spec/07_parallel_execution.md R160 to R165, R172, R183, spec/10_stage_nodes.md R206) and the
moves the part makes by itself: which strands issue next, and which events are at hand.
-/
namespace Sys2Proof.Machine

/-! ### One word of one strand -/

/-- The strand selected first executes its word; one that has none, or whose word is not cached, is passed over (R66). -/
def runSelected (s : State) : Out :=
  match here s with
  | none => .next (popTodo s)
  | some h =>
    match rawWord (coreOfCord s h.cord) h.cord h.st with
    | none => .next (popTodo s)
    | some w => exec (instrOf h.st w) s

/-! ### Candidates -/

/-- A strand that could issue in this cycle, with its cord. -/
structure Cand where
  k  : Nat
  l  : Nat
  c  : Cord
  st : Strand
deriving DecidableEq, Repr

/-- The strands of a core that are able to issue and have their word (R66, R160). -/
def ableOn (s : State) (dev die core : Nat) : List Cand :=
  s.cords.flatMap (fun p =>
    if p.2.dev == dev && p.2.die == die && p.2.core == core then
      p.2.strands.filterMap (fun q =>
        if ableStrand p.2 q.2 (cycOf s dev die) && (rawWord (coreOfCord s p.2) p.2 q.2).isSome then some ⟨p.1, q.1, p.2, q.2⟩
        else none)
    else [])

/-- The strand issues if it is selected (R160): its word is not held, or is a polling word that has not issued yet. -/
def readyCand (s : State) (x : Cand) : Bool :=
  match runSelected { s with todo := [⟨x.k, x.l, 0, x.l⟩] } with
  | .next t =>
    match strandOf t x.k x.l with
    | some st => st.issued != x.st.issued || st.fault.isSome || st.mode != x.st.mode || (polling st && !polling x.st)
    | none => true
  | _ => true

/-- The registers of a bank (R49). -/
def bankRegs (j : Nat) : List (BitVec 7) := (List.range 32).map (fun i => BitVec.ofNat 7 (4 * i + j))

/-- The vector registers of a bank that a hint fetch.d names, which no issue rule asks for (R162, log 33). -/
def hintReads (j : Nat) (i : Instr) : Bool :=
  match i with
  | .hintFetchD _ a _ => a.toNat % 4 == j || (a.toNat + 1) % 4 == j
  | _ => false

/-- The strand's word reads a vector register of bank j, whatever holds it or its predicate (R162): as a word of an ended cord it would meet
the check of R59 on a register of the bank. -/
def readsBank (s : State) (j : Nat) (x : Cand) : Bool :=
  let t := modCord { s with todo := [⟨x.k, x.l, 0, x.l⟩] } x.k (fun c => { c with life := .ended })
  let t := modStrand t x.k x.l (fun st => { st with
    stat := st.stat ||| 1
    chk := (bankRegs j).map (fun n => ⟨.v n, 1, 0⟩) })
  (rawWord (coreOfCord s x.c) x.c x.st).any (fun w => hintReads j (instrOf x.st w)) ||
  match runSelected t with
  | .next t => (strandOf t x.k x.l).any (fun st => st.fault.any (·.cause == 2))
  | _ => false

/-- A braid: strands at one word address with distinct lanes (R160). -/
structure Braid where
  ctx : Nat
  pc  : BitVec 64
  xs  : List Cand
deriving DecidableEq, Repr

/-- Put a strand into the first braid of its address that has its lane free (R160). R160 does not speak of contexts: strands of two of them at
equal program counters stand in two braids, and count as two program counters of the braid table (DESIGN CHOICE, log 89). -/
def joinBraid (x : Cand) : List Braid → List Braid
  | [] => [⟨x.c.ctx, pcOf x.st, [x]⟩]
  | b :: bs =>
    if b.ctx == x.c.ctx && b.pc == pcOf x.st && !b.xs.any (fun y => y.l == x.l) then { b with xs := b.xs ++ [x] } :: bs
    else b :: joinBraid x bs

/-- The bank-use vector of a braid (R162). -/
def bankUse (s : State) (b : Braid) : List Bool := (List.range 4).map (fun j => b.xs.any (readsBank s j))

/-- Two braids share no bank (R163). -/
def apart (s : State) (a b : Braid) : Bool := !((bankUse s a).zip (bankUse s b)).any (fun p => p.1 && p.2)

/-- The longest a strand of the braid has been ready and not selected. -/
def braidIdle (b : Braid) : Nat := b.xs.foldl (fun n x => max n x.st.idle) 0

/-- The program counters of some braids, each once. -/
def braidPcs (bs : List Braid) : List (Nat × BitVec 64) := (bs.map (fun b => (b.ctx, b.pc))).eraseDups

/-- The candidates of a cycle (R161): the braid table holds 64 program counters, from any one on; that of a strand held for 2,048 cycles is
always among them (R183, log 2). -/
def tableBraids (s : State) (bs : List Braid) : List Braid × State :=
  let ps := braidPcs bs
  if ps.length ≤ 64 then (bs, s)
  else
    let (i, s) := choose s ps.length
    let late := braidPcs (bs.filter (fun b => decide (2048 ≤ braidIdle b)))
    let kept := (late ++ ps.drop i ++ ps.take i).eraseDups.take 64
    (bs.filter (fun b => kept.contains (b.ctx, b.pc)), s)

/-- Select a braid: the longest held once it has waited 2,048 cycles, which keeps every strand within 4,096 (R183, at most 2,048
strands stand on a core), otherwise any (R163, log 2). -/
def pickBraid (s : State) (bs : List Braid) : Option Braid × State :=
  let worst := bs.foldl (fun n b => max n (braidIdle b)) 0
  if 2048 ≤ worst then (bs.find? (fun b => braidIdle b == worst), s)
  else if bs.isEmpty then (none, s)
  else
    let (i, s) := choose s bs.length
    (bs[i]?, s)

/-! ### The order of a cycle -/

/-- The kind order of the task words (R206); none for other words. -/
def taskOrder (i : Instr) : Option Nat :=
  match i with
  | .qfree _ _ => some 0
  | .qdrop _ _ => some 1
  | .qcmt _ _ => some 2
  | .qrsv _ _ _ _ => some 3
  | .qstat _ _ _ => some 4
  | .knset _ _ _ => some 5
  | .knadd _ _ _ => some 6
  | .knbrk _ _ => some 7
  | .knfree _ _ => some 8
  | .knnew _ _ _ => some 9
  | .knget _ _ _ _ => some 10
  | .knpoll _ _ _ => some 11
  | .knwait _ _ _ => some 12
  | _ => none

/-- The kind of a strand's task word. -/
def candOrder (s : State) (x : Cand) : Option Nat :=
  (rawWord (coreOfCord s x.c) x.c x.st).bind (fun w => taskOrder (instrOf x.st w))

/-- Insert by a rising key. -/
def insertBy {α : Type} (key : α → Nat) (x : α) : List α → List α
  | [] => [x]
  | y :: ys => if key x < key y then x :: y :: ys else y :: insertBy key x ys

/-- Sort by a rising key; equal keys keep their order. -/
def sortBy {α : Type} (key : α → Nat) : List α → List α
  | [] => []
  | x :: xs => insertBy key x (sortBy key xs)

/-- The selections of a braid, by ascending lane (R164). -/
def braidSels (n : Nat) (b : Braid) : List (Sel × Cand) :=
  let xs := sortBy (·.l) b.xs.reverse
  let lo := (xs.head?.map (·.l)).getD 0
  xs.map (fun x => (⟨x.k, x.l, n, lo⟩, x))

/-- A strand whose word is held looks at it: nothing changes but what it waits in. -/
def lookAgain (s : State) (x : Cand) : State :=
  match runSelected { s with todo := [⟨x.k, x.l, 0, x.l⟩] } with
  | .next t => { t with todo := s.todo }
  | _ => s

/-- The strands a core executes in a cycle, in order: the braids, task words last by lane and kind (R163, R164, R206); held strands look
again first, and the ready strands that were not selected count the cycle (R183). That a core issues a braid whenever one is ready, and a
second whenever one with other banks is, is the model's choice: R163 says up to two (DESIGN CHOICE, log 64). So is it that the other words
of a core, the ends of strands among them, come before its task words: R206 gives no end a place (DESIGN CHOICE, log 91). -/
def selectCore (s : State) (dev die core : Nat) : List Sel × State :=
  let able := ableOn s dev die core
  let ready := able.filter (readyCand s)
  let s := (able.filter (fun x => !readyCand s x)).foldl lookAgain s
  let (bs, s) := tableBraids s (ready.foldl (fun bs x => joinBraid x bs) [])
  let (b0, s) := pickBraid s bs
  match b0 with
  | none => ([], s)
  | some b0 =>
    let (b1, s) := pickBraid s (bs.filter (fun b => b != b0 && apart s b0 b))
    let sels := braidSels 0 b0 ++ (b1.map (braidSels 1)).getD []
    let plain := sels.filter (fun p => (candOrder s p.2).isNone)
    let tasks := sortBy (fun p => p.2.l * 16 + (candOrder s p.2).getD 0) (sels.filter (fun p => (candOrder s p.2).isSome)).reverse
    let chosen (x : Cand) : Bool := sels.any (fun p => p.2.k == x.k && p.2.l == x.l)
    let s := able.foldl (fun s x => modStrand s x.k x.l (fun st => { st with
      idle := if ready.any (fun y => y.k == x.k && y.l == x.l) && !chosen x then st.idle + 1 else 0 })) s
    ((plain ++ tasks).map (·.1), s)

/-- The cores of a die that run cords, ascending. -/
def busyCores (s : State) (dev die : Nat) : List Nat :=
  (List.range 64).filter (fun n => s.cords.any (fun p => p.2.life == .running && p.2.dev == dev && p.2.die == die && p.2.core == n))

/-! ### Stuck cords -/

/-- The strand has met a fault or a failure. -/
def hasFaulted (now : Nat) (st : Strand) : Bool := st.fault.isSome || st.ops.any (opFailed now)

/-- The strand waits at a cross-lane instance, a core barrier, a phase or a signing (R172). -/
def stuckWait (st : Strand) : Bool := st.wait == .bar 1 || st.wait == .phase || st.wait == .sign

/-- Every live strand that has not faulted waits, one at least, and no instance is complete (R172). A faulted strand is one whose
arrival stands until its instance completes (R435); one that is about to be masked off, is masked off or is in handler mode keeps
the fault from being raised (R356). -/
def stuckCord (now : Nat) (c : Cord) : Bool :=
  let live := c.strands.filter (fun p => p.2.mode != .ended)
  let arrived (l : Nat) : Bool := c.insts.any (fun x => x.kind != 6 && (arrivalOf x l).isSome)
  c.life == .running && live.all (fun p => p.2.mode == .running) && live.any (fun p => stuckWait p.2 && !hasFaulted now p.2) &&
  live.all (fun p => if hasFaulted now p.2 then arrived p.1 else stuckWait p.2) && !c.insts.any (instComplete c)

/-- The stuck-cord fault of a waiting strand: at a barrier or phase its arrival is undone and the word counts as not issued, at a
signing or a cross-lane result it stops before its word (R172, R353). -/
def stuckStrand (s : State) (k l : Nat) : State :=
  match mget s.cords k with
  | none => s
  | some c =>
    match mget c.strands l, c.insts.find? (fun x => x.kind != 0 && (arrivalOf x l).isSome) with
    | none, _ => s
    | some _, some x =>
      let a := (arrivalOf x l).getD ⟨l, 0, 0, false, 0, 0, false, none, 0, 0, 0, 0, false⟩
      let s := modCord s k (fun c => { c with
        insts := (c.insts.map (fun y => if y.uid == x.uid then { y with arr := y.arr.filter (·.lane != l) } else y)).filter
          (fun y => !y.arr.isEmpty) })
      let s := modStrand s k l (fun st => { st with
        sync := st.sync.setIfInBounds x.kind ((st.sync[x.kind]?.getD 0) - 1) })
      faultLeft s k l 6 a.pc a.word a.hint 0
    | some st, none =>
      let w := (rawWord (coreOfCord s c) c st).getD 0
      modStrand s k l (fun st => { st with
        wait := .none
        fault := some ⟨6, pcOf st, w, repIndex st, 0, 0, false, false, if (hintKind st.hint).toNat < 4 then st.hint else 0,
          !st.rerun.isEmpty, false⟩ })

/-- The stuck-cord fault is raised on every waiting strand (R172). -/
def raiseStuck (s : State) (k : Nat) : State :=
  match mget s.cords k with
  | none => s
  | some c =>
    let now := cycOf s c.dev c.die
    if stuckCord now c then
      (c.strands.filter (fun p => p.2.mode != .ended && !hasFaulted now p.2)).foldl (fun s p => stuckStrand s k p.1) s
    else s

/-! ### A cycle -/

/-- The waits that a failure or an ASYNC fault of this cycle ends, in every strand of a cord (R435). -/
def abandonCord (s : State) (k : Nat) : State :=
  match mget s.cords k with
  | none => s
  | some c => c.strands.foldl (fun s p => abandonWait s k p.1) s

/-- The next cycle of a die: its count rises, results that become visible take their place (R58), stuck cords and fired sends are
looked at, and the strands of the cycle are selected. -/
def tickDie (dev die : Nat) (s : State) : State :=
  let s := modDie s dev die (fun d => { d with cyc := d.cyc + 1 })
  let now := cycOf s dev die
  let mine (p : Nat × Cord) : Bool := p.2.dev == dev && p.2.die == die
  let s : State := { s with cords := s.cords.map (fun p => if mine p then (p.1, commitCord now p.2) else p) }
  let ks := (s.cords.filter mine).map (·.1)
  let s := ks.foldl abandonCord s
  let s := ks.foldl raiseStuck s
  let s := ks.foldl numberFired s
  let r := (busyCores s dev die).foldl (fun (r : List Sel × State) n =>
    let q := selectCore r.2 dev die n
    (r.1 ++ q.1, q.2)) ([], s)
  { r.2 with todo := r.1 }

/-! ### Events at hand -/

/-- A move of the part. -/
abbrev Move := State → Out


/-- The batt timers of a die that have expired: the cycle does not pass them (R206, R208). -/
def dueTimers (s : State) (dev die : Nat) : List Move :=
  s.contexts.flatMap (fun p => (p.2.opens.filter (fun b => b.dev == dev && b.die == die && timerDue s b p.2)).map
    (fun b => execBattTimerExpiry p.1 b.graph b.node dev die))

/-- The refresh windows of a die that begin or end now (R253). -/
def dueRefresh (s : State) (dev die : Nat) : List Move :=
  let d := dieOf s dev die
  ((List.range 8).filter (refreshDue d)).map (execRefreshWindowStart dev die) ++
  ((List.range 8).filter (refreshOver d)).map (execRefreshWindowEnd dev die)

/-- The events of a strand: its unit's result, its tile word, its failure, its accesses and its table walks. -/
def strandEvents (k : Nat) (c : Cord) (l : Nat) (st : Strand) (now : Nat) : List Move :=
  (if st.divs.isEmpty then [] else [execDivideResult k l]) ++ (if st.tiling.isSome then [execTileWrite k l] else []) ++
  (if st.fault.isSome || st.ops.any (fun o => o.state == .failed) then [execFailure k l] else []) ++
  (st.ops.filter (fun o => o.kind != .engine && o.kind != .flag && o.state != .settled && o.state != .failed)).flatMap (fun o =>
    [execL1Read k l o.uid, execSend k l o.uid, execFill k l o.uid, execRelease k l o.uid, execAcquire k l o.uid, execDrop k l o.uid, execSettle k l o.uid,
     execTableWalk (coreIdOf c) c.ctx o.va, execTableWalk (coreIdOf c) c.ctx (o.va + BitVec.ofNat 64 (o.size - 1))]) ++
  (if fetching c st then (neededAddrs Core.reset c l st now).map (fun a => execInstructionFill (coreIdOf c) a c.ctx) ++
    [execInstructionFill (coreIdOf c) (st.pc + 4) c.ctx] else [])

/-- The events of an engine operation. -/
def engineEvents (k : Nat) (e : EOp) : List Move :=
  [execEngineStart k e.uid, execPressComplete k e.uid, execCbldComplete k e.uid, execPassStart k e.uid, execPassWriteback k e.uid,
   execSprayPacketSend k e.uid, execEsendRetryLimit k e.uid] ++ (List.range e.chunks.length).map (execChunkCredit k e.uid)

/-- The events of a cord. -/
def cordEvents (k : Nat) (c : Cord) (now : Nat) : List Move :=
  c.strands.flatMap (fun p => strandEvents k c p.1 p.2 now) ++ c.eops.flatMap (engineEvents k) ++
  [EngClass.copy, .press, .matrix, .fabric].map (execEngineRetire k) ++
  [execPhaseEnd k, execTrapEntry k] ++ (if c.preempt.isSome then [execSave k, execFlush k, execDrainLimitExpiry k] else [])

/-- The LLC of a die replaces a region (R251, log 56). -/
def replaceLlc (dev die : Nat) : Move := fun s =>
  .next (match llcVictim s dev die with | some r => llcDrop s dev die r | none => s)

/-- The events of a die: its ports, its LLC and L1s, its instruction caches, its bound entries, its steward, its timers and windows. -/
def dieEvents (s : State) (dev die : Nat) : List Move :=
  let d := dieOf s dev die
  d.ports.flatMap (fun p => p.2.sent.flatMap (fun q =>
    [execReadPacket ⟨dev, die, p.1⟩ q.tag, execWritePacket ⟨dev, die, p.1⟩ q.tag, execPortReply ⟨dev, die, p.1⟩ q.tag])) ++
  [replaceLlc dev die, stewardBind dev die] ++
  d.cores.flatMap (fun p => p.2.asks.map (fun a => execInstructionFill ⟨dev, die, p.1⟩ (BitVec.ofNat 64 a.2) a.1) ++
    p.2.dasks.map (fun a => serveData ⟨dev, die, p.1⟩ a.1 a.2) ++ p.2.l1.map (fun w => execEvict ⟨dev, die, p.1⟩ w.1) ++
    ((List.range 32).filter (fun i => match p.2.slots[i]? with | some (.bound _ _ _) => true | _ => false)).map (execLaunch ⟨dev, die, p.1⟩)) ++
  dueTimers s dev die ++ dueRefresh s dev die

/-- The event that serves a request (R428). -/
def requestEvent (q : RingId) (r : ReqRec) : Move :=
  if !wellFormedReq r then execMalformedRequest q
  else match r.code.toNat with
    | 1 => execMapReq q
    | 2 => execUnmapReq q
    | 3 => execProtectReq q
    | 4 => execExportFrame q
    | 5 => execGraphLoad q
    | 6 => execGraphSeed q
    | 7 => execGraphClose q
    | 8 => execWindowOpen q
    | 9 => execWindowClose q
    | 10 => execPeerSet q
    | 11 => execSetReq q
    | 12 => execLogRead q
    | 13 => execHealthReq q
    | _ => execResetReq q

/-- A link of a module that has left the up state is declared down, with what has been sent over it since; a module that has not started has
links too (R395, R421). -/
def linkEvents (s : State) (m : Module) : List Move :=
  ((List.range 16).filter (fun j => (stationOf s m.dev j).link != .up)).map (execLinkDownDeclared m.dev)

/-- The events of a module that has started: dies, links and windows. -/
def moduleEvents (s : State) (m : Module) : List Move :=
  (List.range 4).flatMap (dieEvents s m.dev) ++ m.windows.map (fun w => execWriteWindowOpens m.dev w.id) ++
  (List.range 16).flatMap (fun j =>
    let t := stationOf s m.dev j
    (if t.link == .retrain then [execLinkReturn m.dev j] else []) ++
    (if t.replay.isEmpty then [] else [execLinkLevelReplay m.dev j]) ++ t.inUse.map (fun u => execLinkCreditReturn m.dev j u.1) ++
    (if m.retiring.getLsbD j then [execPlaneRetire m.dev j] else []))

/-- The events of a packet. The values a transport acknowledgement brings are free (R402, log 2). -/
def packetEvents (s : State) (p : Packet) : List Move :=
  [execRemoteRequest p.id, execFabricArrival p.id, execEthernetPacket p.id, execAcknowledgement p.id, execEndToEndTimeout p.id,
   execTransportRetransmission p.id, execTransportAcknowledgement p.id (Config.choice s.choices) (Config.choice (s.choices + 1))] ++
  (if p.stomped then [execStompedPacket p.id] else [])

/-- A closed graph whose last cord has ended is released once the requests to its queue memory are drained (R222, R275). -/
def releaseLate (ctx g : Nat) : Move := fun s => .next (releaseGraph s ctx g)

/-- The events of a context: its knots' waiters, its migrations under way and its closed graphs. -/
def contextEvents (s : State) (n : Nat) (x : Context) : List Move :=
  (x.knots.filter (fun k => k.2.waiters.any (·.woken.isSome))).map (fun k => execWaiterWake n (k.1 / 2 ^ 20) (k.1 % 2 ^ 20)) ++
  (s.moves.filter (fun m => m.ctx == n && decide (m.step < 4))).map (fun m => execMigration n m.va m.new_) ++
  (x.graphs.filter (·.closed)).map (fun g => releaseLate n g.id)

/-- A recall under way goes on (R275). -/
def recallEvent (rc : Recall) : Move := fun s => .next (recallNow rc s)

/-- The events at hand: what the part may do next by itself. One that is not ready yet changes nothing. -/
def events (s : State) : List Move :=
  s.cords.flatMap (fun p => cordEvents p.1 p.2 (cycOf s p.2.dev p.2.die)) ++ s.arrivals.map (fun r => execPerform r.uid) ++
  s.modules.flatMap (fun m => linkEvents s m.2 ++ (if m.2.started then moduleEvents s m.2 else [])) ++ s.packets.flatMap (packetEvents s) ++
  s.recalls.map recallEvent ++
  s.contexts.flatMap (fun p => contextEvents s p.1 p.2) ++ s.knotEvs.map (fun e => execRemoteKnotEvent e.id) ++
  s.rings.flatMap (fun r => (r.pending.head?.map (requestEvent r.id)).toList)

/-- The dies whose next cycle may begin: nothing is due on them. -/
def dieTicks (s : State) : List (Nat × Nat) :=
  s.modules.flatMap (fun m => if m.2.started then
    ((List.range 4).filter (fun d => (dueTimers s m.1 d ++ dueRefresh s m.1 d).isEmpty)).map (fun d => (m.1, d)) else [])

/-! ### Inputs -/

/-- Host software places a ring in application-die memory: a power of two of records, from 16 to 4,096 (R427). -/
def placeRing (s : State) (q : RingId) (size : Nat) : State :=
  if s.rings.any (·.id == q) || !(List.range 9).any (fun i => size == 16 * 2 ^ i) then s
  else { s with rings := s.rings ++ [⟨q, size, 0, [], [], []⟩] }

/-- Software writes a record at a ring's tail, with STATUS pending, and then the new tail to its doorbell (R427); a full ring takes none. -/
def doorbell (s : State) (q : RingId) (r : ReqRec) : State :=
  modRing s q (fun g =>
    if g.pending.length < g.size then
      { g with tail := (g.tail + 1) % g.size, pending := g.pending ++ [{ r with status := 0, result := 0 }] }
    else g)

/-- What comes from outside takes its effect. -/
def takeInput (i : Input) (s : State) : Out :=
  match i with
  | .event i => exec i s
  | .ring q size => .next (placeRing s q size)
  | .doorbell q r image bytes => .next (doorbell s q (reqOf r image bytes))

/-! ### Moves -/

/-- The moves at hand: an event, a cycle of a die, or what comes from outside next. -/
def moves (s : State) : List Move :=
  events s ++ (dieTicks s).map (fun p s => .next (tickDie p.1 p.2 s)) ++
  (s.inputs.head?.map (fun i s => takeInput i { s with inputs := s.inputs.tail })).toList

/-- Time passes and a free choice among the moves at hand is made (R5, R182, R206, R263; logs 2 and 7). -/
def chooseMove (s : State) : Option Move × State :=
  let s : State := { s with wall := s.wall + Config.elapse s.choices, choices := s.choices + 1 }
  let ms := moves s
  let (i, s) := choose s ms.length
  (ms[i]?, s)

/-- The next move of a part with no strand left to execute in the current cycle; without a module that runs, only time passes. -/
def idleStep (s : State) : Out :=
  match chooseMove s with
  | (some m, s) => m s
  | (none, s) => .next s

/-! ### Placing one word -/

/-- The cord the one-word machine runs: one strand on lane 0, with every resource of its core. -/
def probeCord : Cord := freshPhase {
  ctx := 1
  dev := 0
  die := 0
  serial := 0
  core := 0
  entry := 0
  lanes := 1
  graph := 0
  node := 0
  hdr := ⟨0, 0, 1, 0, true, 1, 1, 0, 1, 0, 0, 128, 32, 524288, 8, false, false, [], 65536⟩
  bind := ⟨1, 0, 0, 0, 1, 0, 0, 255, 0, 0⟩
  batt := ⟨0, 1, 0, [], true⟩
  phase := 0
  life := .running
  u := (Vector.replicate 64 0).setIfInBounds 0 1
  upend := []
  uheld := []
  tiles := Vector.replicate 16 blankTile
  tileAt := Vector.replicate 16 0
  conv := Vector.replicate 8 blankConv
  eops := []
  tagctr := 0
  barcfg := Vector.replicate 5 0
  insts := []
  groups := []
  onces := []
  trig := Vector.replicate 16 blankTrig
  preempt := none
  drainAt := 0
  p2 := false
  debug := false
  image := none
  area := 2 ^ 32
  slice := 0
  savedAt := 0
  pod := 1
  strands := [(0, startStrand 65536 0 0 0)] }

/-- The one-word machine: context 1 and its cord, the word at address 65,536 in memory and in the instruction cache, the page
mapped there, and the strand selected. -/
def placeWord (w : BitVec 32) (s : State) : State :=
  let x : Context := { blankCtx with num := 1, roots := [(0, 2 ^ 33, 2 ^ 34)] }
  let st := startStrand 65536 0 0 0
  let s : State := { s with
    contexts := mset s.contexts 1 x
    cords := mset s.cords 0 { probeCord with strands := [(0, { st with ready := cycOf s 0 0 })] }
    frames := mset s.frames 1 ⟨0, .valid, true⟩
    mem := writeMem s.mem 65536 (leBytes 4 w.toNat)
    todo := [⟨0, 0, 0, 0⟩] }
  modCore s 0 0 0 (fun co => { co with
    tlb := [⟨1, 65536, 65536, 0, 65536, 0, true, true, true⟩]
    icache := [⟨1, 65536, w :: List.replicate 15 0⟩] })

end Sys2Proof.Machine
end

