-- ==== Sys2Proof/Machine/Step.lean ====
section
/-!
DEFINITION. The step of the machine: the strands selected in the current cycle execute their words one after another; then
the part makes its next move.
-/
namespace Sys2Proof.Machine

/-- One step. -/
def step (s : State) : Host.Outcome State Fault Refusal :=
  match s.todo with
  | _ :: _ => runSelected s
  | [] => idleStep s

/-- The machine with an instruction placed where the next step fetches it: a strand of its own, selected (log 3). -/
def State.withFetchWord (s : State) (nbits w : Nat) : State := placeWord (BitVec.ofNat 32 (w % 2 ^ nbits)) s

end Sys2Proof.Machine
end

