-- ==== Sys2Proof/Laws/Codec.lean ====
section
/-!
SUPPORT. Fields of an encoded word: what the decoder's extractions find in a word that mkWord built, for each layout of the payload.
-/
namespace Sys2Proof.Laws
set_option Elab.async false

theorem ext_low {v w s n : Nat} (x : BitVec v) (y : BitVec w) (h : s + n ≤ w) :
    (x ++ y).extractLsb' s n = y.extractLsb' s n := by
  apply BitVec.eq_of_getLsbD_eq; intro i hi
  simp only [BitVec.getLsbD_extractLsb', BitVec.getLsbD_append]
  rw [if_pos (by omega)]

theorem ext_high {v w s n : Nat} (x : BitVec v) (y : BitVec w) (h : w ≤ s) :
    (x ++ y).extractLsb' s n = x.extractLsb' (s - w) n := by
  apply BitVec.eq_of_getLsbD_eq; intro i hi
  simp only [BitVec.getLsbD_extractLsb', BitVec.getLsbD_append]
  rw [if_neg (by omega)]
  congr 2; omega

theorem ext_all {w : Nat} (x : BitVec w) : x.extractLsb' 0 w = x := by
  apply BitVec.eq_of_getLsbD_eq; intro i hi
  simp [hi]

theorem mk_major (g : Guard) (m : BitVec 6) (p : BitVec 21) : majorOf (mkWord g m p) = m := by
  unfold majorOf mkWord
  rw [ext_high (w := 21) _ _ (by decide), ext_low (w := 6) _ _ (by decide), ext_all]

theorem mk_guard (g : Guard) (m : BitVec 6) (p : BitVec 21) : guardOf (mkWord g m p) = g := by
  unfold guardOf mkWord
  rw [ext_high (w := 21) _ _ (by decide), ext_high (w := 6) _ _ (by decide), ext_high (w := 2) _ _ (by decide), ext_all,
    ext_high (w := 21) _ _ (by decide), ext_high (w := 6) _ _ (by decide), ext_low (w := 2) _ _ (by decide), ext_all]

theorem mk_payload {s n : Nat} (g : Guard) (m : BitVec 6) (p : BitVec 21) (h : s + n ≤ 21) :
    (mkWord g m p).extractLsb' s n = p.extractLsb' s n :=
  ext_low (w := 21) _ _ h

theorem pay_7_7_7_at_14_7 (x0 : BitVec 7) (x1 : BitVec 7) (x2 : BitVec 7) :
    BitVec.extractLsb' (n := 21) 14 7 (x0 ++ x1 ++ x2) = x0 :=
  (ext_high (v := 14) (w := 7) (x0 ++ x1) x2 (by decide)).trans ((ext_high (v := 7) (w := 7) x0 x1 (by decide)).trans (ext_all x0))

theorem pay_7_7_7_at_7_7 (x0 : BitVec 7) (x1 : BitVec 7) (x2 : BitVec 7) :
    BitVec.extractLsb' (n := 21) 7 7 (x0 ++ x1 ++ x2) = x1 :=
  (ext_high (v := 14) (w := 7) (x0 ++ x1) x2 (by decide)).trans ((ext_low (v := 7) (w := 7) x0 x1 (by decide)).trans (ext_all x1))

theorem pay_7_7_7_at_0_7 (x0 : BitVec 7) (x1 : BitVec 7) (x2 : BitVec 7) :
    BitVec.extractLsb' (n := 21) 0 7 (x0 ++ x1 ++ x2) = x2 :=
  (ext_low (v := 14) (w := 7) (x0 ++ x1) x2 (by decide)).trans (ext_all x2)

theorem pay_4_3_7_7_at_17_4 (x0 : BitVec 4) (x1 : BitVec 3) (x2 : BitVec 7) (x3 : BitVec 7) :
    BitVec.extractLsb' (n := 21) 17 4 (x0 ++ x1 ++ x2 ++ x3) = x0 :=
  (ext_high (v := 14) (w := 7) (x0 ++ x1 ++ x2) x3 (by decide)).trans ((ext_high (v := 7) (w := 7) (x0 ++ x1) x2 (by decide)).trans ((ext_high (v := 4) (w := 3) x0 x1 (by decide)).trans (ext_all x0)))

theorem pay_4_3_7_7_at_7_7 (x0 : BitVec 4) (x1 : BitVec 3) (x2 : BitVec 7) (x3 : BitVec 7) :
    BitVec.extractLsb' (n := 21) 7 7 (x0 ++ x1 ++ x2 ++ x3) = x2 :=
  (ext_high (v := 14) (w := 7) (x0 ++ x1 ++ x2) x3 (by decide)).trans ((ext_low (v := 7) (w := 7) (x0 ++ x1) x2 (by decide)).trans (ext_all x2))

theorem pay_4_3_7_7_at_0_7 (x0 : BitVec 4) (x1 : BitVec 3) (x2 : BitVec 7) (x3 : BitVec 7) :
    BitVec.extractLsb' (n := 21) 0 7 (x0 ++ x1 ++ x2 ++ x3) = x3 :=
  (ext_low (v := 14) (w := 7) (x0 ++ x1 ++ x2) x3 (by decide)).trans (ext_all x3)

theorem pay_4_3_7_7_at_14_3 (x0 : BitVec 4) (x1 : BitVec 3) (x2 : BitVec 7) (x3 : BitVec 7) :
    BitVec.extractLsb' (n := 21) 14 3 (x0 ++ x1 ++ x2 ++ x3) = x1 :=
  (ext_high (v := 14) (w := 7) (x0 ++ x1 ++ x2) x3 (by decide)).trans ((ext_high (v := 7) (w := 7) (x0 ++ x1) x2 (by decide)).trans ((ext_low (v := 4) (w := 3) x0 x1 (by decide)).trans (ext_all x1)))

theorem pay_7_7_2_5_at_5_2 (x0 : BitVec 7) (x1 : BitVec 7) (x2 : BitVec 2) (x3 : BitVec 5) :
    BitVec.extractLsb' (n := 21) 5 2 (x0 ++ x1 ++ x2 ++ x3) = x2 :=
  (ext_high (v := 16) (w := 5) (x0 ++ x1 ++ x2) x3 (by decide)).trans ((ext_low (v := 14) (w := 2) (x0 ++ x1) x2 (by decide)).trans (ext_all x2))

theorem pay_7_7_2_5_at_14_7 (x0 : BitVec 7) (x1 : BitVec 7) (x2 : BitVec 2) (x3 : BitVec 5) :
    BitVec.extractLsb' (n := 21) 14 7 (x0 ++ x1 ++ x2 ++ x3) = x0 :=
  (ext_high (v := 16) (w := 5) (x0 ++ x1 ++ x2) x3 (by decide)).trans ((ext_high (v := 14) (w := 2) (x0 ++ x1) x2 (by decide)).trans ((ext_high (v := 7) (w := 7) x0 x1 (by decide)).trans (ext_all x0)))

theorem pay_7_7_2_5_at_7_7 (x0 : BitVec 7) (x1 : BitVec 7) (x2 : BitVec 2) (x3 : BitVec 5) :
    BitVec.extractLsb' (n := 21) 7 7 (x0 ++ x1 ++ x2 ++ x3) = x1 :=
  (ext_high (v := 16) (w := 5) (x0 ++ x1 ++ x2) x3 (by decide)).trans ((ext_high (v := 14) (w := 2) (x0 ++ x1) x2 (by decide)).trans ((ext_low (v := 7) (w := 7) x0 x1 (by decide)).trans (ext_all x1)))

theorem pay_7_7_2_5_at_0_5 (x0 : BitVec 7) (x1 : BitVec 7) (x2 : BitVec 2) (x3 : BitVec 5) :
    BitVec.extractLsb' (n := 21) 0 5 (x0 ++ x1 ++ x2 ++ x3) = x3 :=
  (ext_low (v := 16) (w := 5) (x0 ++ x1 ++ x2) x3 (by decide)).trans (ext_all x3)

theorem pay_7_14_at_14_7 (x0 : BitVec 7) (x1 : BitVec 14) :
    BitVec.extractLsb' (n := 21) 14 7 (x0 ++ x1) = x0 :=
  (ext_high (v := 7) (w := 14) x0 x1 (by decide)).trans (ext_all x0)

theorem pay_7_14_at_0_14 (x0 : BitVec 7) (x1 : BitVec 14) :
    BitVec.extractLsb' (n := 21) 0 14 (x0 ++ x1) = x1 :=
  (ext_low (v := 7) (w := 14) x0 x1 (by decide)).trans (ext_all x1)

theorem pay_7_8_6_at_6_1 (x0 : BitVec 7) (x1 : BitVec 8) (x2 : BitVec 6) :
    BitVec.extractLsb' (n := 21) 6 1 (x0 ++ x1 ++ x2) = x1.extractLsb' 0 1 :=
  (ext_high (v := 15) (w := 6) (x0 ++ x1) x2 (by decide)).trans (ext_low (v := 7) (w := 8) x0 x1 (by decide))

theorem pay_7_8_6_at_0_6 (x0 : BitVec 7) (x1 : BitVec 8) (x2 : BitVec 6) :
    BitVec.extractLsb' (n := 21) 0 6 (x0 ++ x1 ++ x2) = x2 :=
  (ext_low (v := 15) (w := 6) (x0 ++ x1) x2 (by decide)).trans (ext_all x2)

theorem pay_7_8_6_at_7_7 (x0 : BitVec 7) (x1 : BitVec 8) (x2 : BitVec 6) :
    BitVec.extractLsb' (n := 21) 7 7 (x0 ++ x1 ++ x2) = x1.extractLsb' 1 7 :=
  (ext_high (v := 15) (w := 6) (x0 ++ x1) x2 (by decide)).trans (ext_low (v := 7) (w := 8) x0 x1 (by decide))

theorem pay_7_8_6_at_14_7 (x0 : BitVec 7) (x1 : BitVec 8) (x2 : BitVec 6) :
    BitVec.extractLsb' (n := 21) 14 7 (x0 ++ x1 ++ x2) = x0 :=
  (ext_high (v := 15) (w := 6) (x0 ++ x1) x2 (by decide)).trans ((ext_high (v := 7) (w := 8) x0 x1 (by decide)).trans (ext_all x0))

theorem pay_7_7_1_6_at_6_1 (x0 : BitVec 7) (x1 : BitVec 7) (x2 : BitVec 1) (x3 : BitVec 6) :
    BitVec.extractLsb' (n := 21) 6 1 (x0 ++ x1 ++ x2 ++ x3) = x2 :=
  (ext_high (v := 15) (w := 6) (x0 ++ x1 ++ x2) x3 (by decide)).trans ((ext_low (v := 14) (w := 1) (x0 ++ x1) x2 (by decide)).trans (ext_all x2))

theorem pay_7_7_1_6_at_0_6 (x0 : BitVec 7) (x1 : BitVec 7) (x2 : BitVec 1) (x3 : BitVec 6) :
    BitVec.extractLsb' (n := 21) 0 6 (x0 ++ x1 ++ x2 ++ x3) = x3 :=
  (ext_low (v := 15) (w := 6) (x0 ++ x1 ++ x2) x3 (by decide)).trans (ext_all x3)

theorem pay_7_7_1_6_at_14_7 (x0 : BitVec 7) (x1 : BitVec 7) (x2 : BitVec 1) (x3 : BitVec 6) :
    BitVec.extractLsb' (n := 21) 14 7 (x0 ++ x1 ++ x2 ++ x3) = x0 :=
  (ext_high (v := 15) (w := 6) (x0 ++ x1 ++ x2) x3 (by decide)).trans ((ext_high (v := 14) (w := 1) (x0 ++ x1) x2 (by decide)).trans ((ext_high (v := 7) (w := 7) x0 x1 (by decide)).trans (ext_all x0)))

theorem pay_7_7_1_6_at_7_7 (x0 : BitVec 7) (x1 : BitVec 7) (x2 : BitVec 1) (x3 : BitVec 6) :
    BitVec.extractLsb' (n := 21) 7 7 (x0 ++ x1 ++ x2 ++ x3) = x1 :=
  (ext_high (v := 15) (w := 6) (x0 ++ x1 ++ x2) x3 (by decide)).trans ((ext_high (v := 14) (w := 1) (x0 ++ x1) x2 (by decide)).trans ((ext_low (v := 7) (w := 7) x0 x1 (by decide)).trans (ext_all x1)))

theorem pay_1_3_3_7_7_at_20_1 (x0 : BitVec 1) (x1 : BitVec 3) (x2 : BitVec 3) (x3 : BitVec 7) (x4 : BitVec 7) :
    BitVec.extractLsb' (n := 21) 20 1 (x0 ++ x1 ++ x2 ++ x3 ++ x4) = x0 :=
  (ext_high (v := 14) (w := 7) (x0 ++ x1 ++ x2 ++ x3) x4 (by decide)).trans ((ext_high (v := 7) (w := 7) (x0 ++ x1 ++ x2) x3 (by decide)).trans ((ext_high (v := 4) (w := 3) (x0 ++ x1) x2 (by decide)).trans ((ext_high (v := 1) (w := 3) x0 x1 (by decide)).trans (ext_all x0))))

theorem pay_1_3_3_7_7_at_17_3 (x0 : BitVec 1) (x1 : BitVec 3) (x2 : BitVec 3) (x3 : BitVec 7) (x4 : BitVec 7) :
    BitVec.extractLsb' (n := 21) 17 3 (x0 ++ x1 ++ x2 ++ x3 ++ x4) = x1 :=
  (ext_high (v := 14) (w := 7) (x0 ++ x1 ++ x2 ++ x3) x4 (by decide)).trans ((ext_high (v := 7) (w := 7) (x0 ++ x1 ++ x2) x3 (by decide)).trans ((ext_high (v := 4) (w := 3) (x0 ++ x1) x2 (by decide)).trans ((ext_low (v := 1) (w := 3) x0 x1 (by decide)).trans (ext_all x1))))

theorem pay_1_3_3_7_7_at_14_3 (x0 : BitVec 1) (x1 : BitVec 3) (x2 : BitVec 3) (x3 : BitVec 7) (x4 : BitVec 7) :
    BitVec.extractLsb' (n := 21) 14 3 (x0 ++ x1 ++ x2 ++ x3 ++ x4) = x2 :=
  (ext_high (v := 14) (w := 7) (x0 ++ x1 ++ x2 ++ x3) x4 (by decide)).trans ((ext_high (v := 7) (w := 7) (x0 ++ x1 ++ x2) x3 (by decide)).trans ((ext_low (v := 4) (w := 3) (x0 ++ x1) x2 (by decide)).trans (ext_all x2)))

theorem pay_1_3_3_7_7_at_7_7 (x0 : BitVec 1) (x1 : BitVec 3) (x2 : BitVec 3) (x3 : BitVec 7) (x4 : BitVec 7) :
    BitVec.extractLsb' (n := 21) 7 7 (x0 ++ x1 ++ x2 ++ x3 ++ x4) = x3 :=
  (ext_high (v := 14) (w := 7) (x0 ++ x1 ++ x2 ++ x3) x4 (by decide)).trans ((ext_low (v := 7) (w := 7) (x0 ++ x1 ++ x2) x3 (by decide)).trans (ext_all x3))

theorem pay_1_3_3_7_7_at_0_7 (x0 : BitVec 1) (x1 : BitVec 3) (x2 : BitVec 3) (x3 : BitVec 7) (x4 : BitVec 7) :
    BitVec.extractLsb' (n := 21) 0 7 (x0 ++ x1 ++ x2 ++ x3 ++ x4) = x4 :=
  (ext_low (v := 14) (w := 7) (x0 ++ x1 ++ x2 ++ x3) x4 (by decide)).trans (ext_all x4)

theorem pay_7_7_3_4_at_4_3 (x0 : BitVec 7) (x1 : BitVec 7) (x2 : BitVec 3) (x3 : BitVec 4) :
    BitVec.extractLsb' (n := 21) 4 3 (x0 ++ x1 ++ x2 ++ x3) = x2 :=
  (ext_high (v := 17) (w := 4) (x0 ++ x1 ++ x2) x3 (by decide)).trans ((ext_low (v := 14) (w := 3) (x0 ++ x1) x2 (by decide)).trans (ext_all x2))

theorem pay_7_7_3_4_at_0_4 (x0 : BitVec 7) (x1 : BitVec 7) (x2 : BitVec 3) (x3 : BitVec 4) :
    BitVec.extractLsb' (n := 21) 0 4 (x0 ++ x1 ++ x2 ++ x3) = x3 :=
  (ext_low (v := 17) (w := 4) (x0 ++ x1 ++ x2) x3 (by decide)).trans (ext_all x3)

theorem pay_7_7_3_4_at_14_7 (x0 : BitVec 7) (x1 : BitVec 7) (x2 : BitVec 3) (x3 : BitVec 4) :
    BitVec.extractLsb' (n := 21) 14 7 (x0 ++ x1 ++ x2 ++ x3) = x0 :=
  (ext_high (v := 17) (w := 4) (x0 ++ x1 ++ x2) x3 (by decide)).trans ((ext_high (v := 14) (w := 3) (x0 ++ x1) x2 (by decide)).trans ((ext_high (v := 7) (w := 7) x0 x1 (by decide)).trans (ext_all x0)))

theorem pay_7_7_3_4_at_7_7 (x0 : BitVec 7) (x1 : BitVec 7) (x2 : BitVec 3) (x3 : BitVec 4) :
    BitVec.extractLsb' (n := 21) 7 7 (x0 ++ x1 ++ x2 ++ x3) = x1 :=
  (ext_high (v := 17) (w := 4) (x0 ++ x1 ++ x2) x3 (by decide)).trans ((ext_high (v := 14) (w := 3) (x0 ++ x1) x2 (by decide)).trans ((ext_low (v := 7) (w := 7) x0 x1 (by decide)).trans (ext_all x1)))

theorem pay_7_7_3_1_3_at_0_4 (x0 : BitVec 7) (x1 : BitVec 7) (x2 : BitVec 3) (x3 : BitVec 1) (x4 : BitVec 3) :
    BitVec.extractLsb' (n := 21) 0 4 (x0 ++ x1 ++ x2 ++ x3 ++ x4) = x3 ++ x4 := by
  apply BitVec.eq_of_getLsbD_eq; intro i hi
  simp only [BitVec.getLsbD_extractLsb', BitVec.getLsbD_append]
  have : i < 4 := hi
  interval_cases i <;> simp

theorem pay_7_7_3_1_3_at_3_1 (x0 : BitVec 7) (x1 : BitVec 7) (x2 : BitVec 3) (x3 : BitVec 1) (x4 : BitVec 3) :
    BitVec.extractLsb' (n := 21) 3 1 (x0 ++ x1 ++ x2 ++ x3 ++ x4) = x3 :=
  (ext_high (v := 18) (w := 3) (x0 ++ x1 ++ x2 ++ x3) x4 (by decide)).trans ((ext_low (v := 17) (w := 1) (x0 ++ x1 ++ x2) x3 (by decide)).trans (ext_all x3))

theorem pay_7_7_3_1_3_at_4_3 (x0 : BitVec 7) (x1 : BitVec 7) (x2 : BitVec 3) (x3 : BitVec 1) (x4 : BitVec 3) :
    BitVec.extractLsb' (n := 21) 4 3 (x0 ++ x1 ++ x2 ++ x3 ++ x4) = x2 :=
  (ext_high (v := 18) (w := 3) (x0 ++ x1 ++ x2 ++ x3) x4 (by decide)).trans ((ext_high (v := 17) (w := 1) (x0 ++ x1 ++ x2) x3 (by decide)).trans ((ext_low (v := 14) (w := 3) (x0 ++ x1) x2 (by decide)).trans (ext_all x2)))

theorem pay_7_7_3_1_3_at_0_3 (x0 : BitVec 7) (x1 : BitVec 7) (x2 : BitVec 3) (x3 : BitVec 1) (x4 : BitVec 3) :
    BitVec.extractLsb' (n := 21) 0 3 (x0 ++ x1 ++ x2 ++ x3 ++ x4) = x4 :=
  (ext_low (v := 18) (w := 3) (x0 ++ x1 ++ x2 ++ x3) x4 (by decide)).trans (ext_all x4)

theorem pay_7_7_3_1_3_at_7_7 (x0 : BitVec 7) (x1 : BitVec 7) (x2 : BitVec 3) (x3 : BitVec 1) (x4 : BitVec 3) :
    BitVec.extractLsb' (n := 21) 7 7 (x0 ++ x1 ++ x2 ++ x3 ++ x4) = x1 :=
  (ext_high (v := 18) (w := 3) (x0 ++ x1 ++ x2 ++ x3) x4 (by decide)).trans ((ext_high (v := 17) (w := 1) (x0 ++ x1 ++ x2) x3 (by decide)).trans ((ext_high (v := 14) (w := 3) (x0 ++ x1) x2 (by decide)).trans ((ext_low (v := 7) (w := 7) x0 x1 (by decide)).trans (ext_all x1))))

theorem pay_7_7_3_1_3_at_14_7 (x0 : BitVec 7) (x1 : BitVec 7) (x2 : BitVec 3) (x3 : BitVec 1) (x4 : BitVec 3) :
    BitVec.extractLsb' (n := 21) 14 7 (x0 ++ x1 ++ x2 ++ x3 ++ x4) = x0 :=
  (ext_high (v := 18) (w := 3) (x0 ++ x1 ++ x2 ++ x3) x4 (by decide)).trans ((ext_high (v := 17) (w := 1) (x0 ++ x1 ++ x2) x3 (by decide)).trans ((ext_high (v := 14) (w := 3) (x0 ++ x1) x2 (by decide)).trans ((ext_high (v := 7) (w := 7) x0 x1 (by decide)).trans (ext_all x0))))

theorem pay_7_7_1_3_3_at_6_1 (x0 : BitVec 7) (x1 : BitVec 7) (x2 : BitVec 1) (x3 : BitVec 3) (x4 : BitVec 3) :
    BitVec.extractLsb' (n := 21) 6 1 (x0 ++ x1 ++ x2 ++ x3 ++ x4) = x2 :=
  (ext_high (v := 18) (w := 3) (x0 ++ x1 ++ x2 ++ x3) x4 (by decide)).trans ((ext_high (v := 15) (w := 3) (x0 ++ x1 ++ x2) x3 (by decide)).trans ((ext_low (v := 14) (w := 1) (x0 ++ x1) x2 (by decide)).trans (ext_all x2)))

theorem pay_7_7_1_3_3_at_3_3 (x0 : BitVec 7) (x1 : BitVec 7) (x2 : BitVec 1) (x3 : BitVec 3) (x4 : BitVec 3) :
    BitVec.extractLsb' (n := 21) 3 3 (x0 ++ x1 ++ x2 ++ x3 ++ x4) = x3 :=
  (ext_high (v := 18) (w := 3) (x0 ++ x1 ++ x2 ++ x3) x4 (by decide)).trans ((ext_low (v := 15) (w := 3) (x0 ++ x1 ++ x2) x3 (by decide)).trans (ext_all x3))

theorem pay_7_7_1_3_3_at_0_3 (x0 : BitVec 7) (x1 : BitVec 7) (x2 : BitVec 1) (x3 : BitVec 3) (x4 : BitVec 3) :
    BitVec.extractLsb' (n := 21) 0 3 (x0 ++ x1 ++ x2 ++ x3 ++ x4) = x4 :=
  (ext_low (v := 18) (w := 3) (x0 ++ x1 ++ x2 ++ x3) x4 (by decide)).trans (ext_all x4)

theorem pay_7_7_1_3_3_at_14_7 (x0 : BitVec 7) (x1 : BitVec 7) (x2 : BitVec 1) (x3 : BitVec 3) (x4 : BitVec 3) :
    BitVec.extractLsb' (n := 21) 14 7 (x0 ++ x1 ++ x2 ++ x3 ++ x4) = x0 :=
  (ext_high (v := 18) (w := 3) (x0 ++ x1 ++ x2 ++ x3) x4 (by decide)).trans ((ext_high (v := 15) (w := 3) (x0 ++ x1 ++ x2) x3 (by decide)).trans ((ext_high (v := 14) (w := 1) (x0 ++ x1) x2 (by decide)).trans ((ext_high (v := 7) (w := 7) x0 x1 (by decide)).trans (ext_all x0))))

theorem pay_7_7_1_3_3_at_7_7 (x0 : BitVec 7) (x1 : BitVec 7) (x2 : BitVec 1) (x3 : BitVec 3) (x4 : BitVec 3) :
    BitVec.extractLsb' (n := 21) 7 7 (x0 ++ x1 ++ x2 ++ x3 ++ x4) = x1 :=
  (ext_high (v := 18) (w := 3) (x0 ++ x1 ++ x2 ++ x3) x4 (by decide)).trans ((ext_high (v := 15) (w := 3) (x0 ++ x1 ++ x2) x3 (by decide)).trans ((ext_high (v := 14) (w := 1) (x0 ++ x1) x2 (by decide)).trans ((ext_low (v := 7) (w := 7) x0 x1 (by decide)).trans (ext_all x1))))

theorem pay_7_7_4_3_at_0_7 (x0 : BitVec 7) (x1 : BitVec 7) (x2 : BitVec 4) (x3 : BitVec 3) :
    BitVec.extractLsb' (n := 21) 0 7 (x0 ++ x1 ++ x2 ++ x3) = x2 ++ x3 := by
  apply BitVec.eq_of_getLsbD_eq; intro i hi
  simp only [BitVec.getLsbD_extractLsb', BitVec.getLsbD_append]
  have : i < 7 := hi
  interval_cases i <;> simp

theorem pay_7_7_4_3_at_3_4 (x0 : BitVec 7) (x1 : BitVec 7) (x2 : BitVec 4) (x3 : BitVec 3) :
    BitVec.extractLsb' (n := 21) 3 4 (x0 ++ x1 ++ x2 ++ x3) = x2 :=
  (ext_high (v := 18) (w := 3) (x0 ++ x1 ++ x2) x3 (by decide)).trans ((ext_low (v := 14) (w := 4) (x0 ++ x1) x2 (by decide)).trans (ext_all x2))

theorem pay_7_7_4_3_at_0_3 (x0 : BitVec 7) (x1 : BitVec 7) (x2 : BitVec 4) (x3 : BitVec 3) :
    BitVec.extractLsb' (n := 21) 0 3 (x0 ++ x1 ++ x2 ++ x3) = x3 :=
  (ext_low (v := 18) (w := 3) (x0 ++ x1 ++ x2) x3 (by decide)).trans (ext_all x3)

theorem pay_7_7_4_3_at_7_7 (x0 : BitVec 7) (x1 : BitVec 7) (x2 : BitVec 4) (x3 : BitVec 3) :
    BitVec.extractLsb' (n := 21) 7 7 (x0 ++ x1 ++ x2 ++ x3) = x1 :=
  (ext_high (v := 18) (w := 3) (x0 ++ x1 ++ x2) x3 (by decide)).trans ((ext_high (v := 14) (w := 4) (x0 ++ x1) x2 (by decide)).trans ((ext_low (v := 7) (w := 7) x0 x1 (by decide)).trans (ext_all x1)))

theorem pay_7_7_4_3_at_14_7 (x0 : BitVec 7) (x1 : BitVec 7) (x2 : BitVec 4) (x3 : BitVec 3) :
    BitVec.extractLsb' (n := 21) 14 7 (x0 ++ x1 ++ x2 ++ x3) = x0 :=
  (ext_high (v := 18) (w := 3) (x0 ++ x1 ++ x2) x3 (by decide)).trans ((ext_high (v := 14) (w := 4) (x0 ++ x1) x2 (by decide)).trans ((ext_high (v := 7) (w := 7) x0 x1 (by decide)).trans (ext_all x0)))

theorem pay_18_3_at_3_4 (x0 : BitVec 18) (x1 : BitVec 3) :
    BitVec.extractLsb' (n := 21) 3 4 (x0 ++ x1) = x0.extractLsb' 0 4 :=
  ext_high (v := 18) (w := 3) x0 x1 (by decide)

theorem pay_18_3_at_0_3 (x0 : BitVec 18) (x1 : BitVec 3) :
    BitVec.extractLsb' (n := 21) 0 3 (x0 ++ x1) = x1 :=
  (ext_low (v := 18) (w := 3) x0 x1 (by decide)).trans (ext_all x1)

theorem pay_18_3_at_7_14 (x0 : BitVec 18) (x1 : BitVec 3) :
    BitVec.extractLsb' (n := 21) 7 14 (x0 ++ x1) = x0.extractLsb' 4 14 :=
  ext_high (v := 18) (w := 3) x0 x1 (by decide)

theorem pay_7_7_7_at_3_4 (x0 : BitVec 7) (x1 : BitVec 7) (x2 : BitVec 7) :
    BitVec.extractLsb' (n := 21) 3 4 (x0 ++ x1 ++ x2) = x2.extractLsb' 3 4 :=
  ext_low (v := 14) (w := 7) (x0 ++ x1) x2 (by decide)

theorem pay_21_at_0_21 (x0 : BitVec 21) :
    BitVec.extractLsb' (n := 21) 0 21 (x0) = x0 :=
  ext_all x0

theorem pay_4_3_14_at_17_4 (x0 : BitVec 4) (x1 : BitVec 3) (x2 : BitVec 14) :
    BitVec.extractLsb' (n := 21) 17 4 (x0 ++ x1 ++ x2) = x0 :=
  (ext_high (v := 7) (w := 14) (x0 ++ x1) x2 (by decide)).trans ((ext_high (v := 4) (w := 3) x0 x1 (by decide)).trans (ext_all x0))

theorem pay_4_3_14_at_14_3 (x0 : BitVec 4) (x1 : BitVec 3) (x2 : BitVec 14) :
    BitVec.extractLsb' (n := 21) 14 3 (x0 ++ x1 ++ x2) = x1 :=
  (ext_high (v := 7) (w := 14) (x0 ++ x1) x2 (by decide)).trans ((ext_low (v := 4) (w := 3) x0 x1 (by decide)).trans (ext_all x1))

theorem pay_4_3_14_at_0_14 (x0 : BitVec 4) (x1 : BitVec 3) (x2 : BitVec 14) :
    BitVec.extractLsb' (n := 21) 0 14 (x0 ++ x1 ++ x2) = x2 :=
  (ext_low (v := 7) (w := 14) (x0 ++ x1) x2 (by decide)).trans (ext_all x2)

theorem pay_7_14_at_0_7 (x0 : BitVec 7) (x1 : BitVec 14) :
    BitVec.extractLsb' (n := 21) 0 7 (x0 ++ x1) = x1.extractLsb' 0 7 :=
  ext_low (v := 7) (w := 14) x0 x1 (by decide)

theorem pay_7_14_at_7_7 (x0 : BitVec 7) (x1 : BitVec 14) :
    BitVec.extractLsb' (n := 21) 7 7 (x0 ++ x1) = x1.extractLsb' 7 7 :=
  ext_low (v := 7) (w := 14) x0 x1 (by decide)

theorem pay_6_3_3_3_6_at_0_6 (x0 : BitVec 6) (x1 : BitVec 3) (x2 : BitVec 3) (x3 : BitVec 3) (x4 : BitVec 6) :
    BitVec.extractLsb' (n := 21) 0 6 (x0 ++ x1 ++ x2 ++ x3 ++ x4) = x4 :=
  (ext_low (v := 15) (w := 6) (x0 ++ x1 ++ x2 ++ x3) x4 (by decide)).trans (ext_all x4)

theorem pay_6_3_3_3_6_at_15_6 (x0 : BitVec 6) (x1 : BitVec 3) (x2 : BitVec 3) (x3 : BitVec 3) (x4 : BitVec 6) :
    BitVec.extractLsb' (n := 21) 15 6 (x0 ++ x1 ++ x2 ++ x3 ++ x4) = x0 :=
  (ext_high (v := 15) (w := 6) (x0 ++ x1 ++ x2 ++ x3) x4 (by decide)).trans ((ext_high (v := 12) (w := 3) (x0 ++ x1 ++ x2) x3 (by decide)).trans ((ext_high (v := 9) (w := 3) (x0 ++ x1) x2 (by decide)).trans ((ext_high (v := 6) (w := 3) x0 x1 (by decide)).trans (ext_all x0))))

theorem pay_6_3_3_3_6_at_12_3 (x0 : BitVec 6) (x1 : BitVec 3) (x2 : BitVec 3) (x3 : BitVec 3) (x4 : BitVec 6) :
    BitVec.extractLsb' (n := 21) 12 3 (x0 ++ x1 ++ x2 ++ x3 ++ x4) = x1 :=
  (ext_high (v := 15) (w := 6) (x0 ++ x1 ++ x2 ++ x3) x4 (by decide)).trans ((ext_high (v := 12) (w := 3) (x0 ++ x1 ++ x2) x3 (by decide)).trans ((ext_high (v := 9) (w := 3) (x0 ++ x1) x2 (by decide)).trans ((ext_low (v := 6) (w := 3) x0 x1 (by decide)).trans (ext_all x1))))

theorem pay_6_3_3_3_6_at_9_3 (x0 : BitVec 6) (x1 : BitVec 3) (x2 : BitVec 3) (x3 : BitVec 3) (x4 : BitVec 6) :
    BitVec.extractLsb' (n := 21) 9 3 (x0 ++ x1 ++ x2 ++ x3 ++ x4) = x2 :=
  (ext_high (v := 15) (w := 6) (x0 ++ x1 ++ x2 ++ x3) x4 (by decide)).trans ((ext_high (v := 12) (w := 3) (x0 ++ x1 ++ x2) x3 (by decide)).trans ((ext_low (v := 9) (w := 3) (x0 ++ x1) x2 (by decide)).trans (ext_all x2)))

theorem pay_6_3_3_3_6_at_6_3 (x0 : BitVec 6) (x1 : BitVec 3) (x2 : BitVec 3) (x3 : BitVec 3) (x4 : BitVec 6) :
    BitVec.extractLsb' (n := 21) 6 3 (x0 ++ x1 ++ x2 ++ x3 ++ x4) = x3 :=
  (ext_high (v := 15) (w := 6) (x0 ++ x1 ++ x2 ++ x3) x4 (by decide)).trans ((ext_low (v := 12) (w := 3) (x0 ++ x1 ++ x2) x3 (by decide)).trans (ext_all x3))

theorem pay_4_17_at_17_4 (x0 : BitVec 4) (x1 : BitVec 17) :
    BitVec.extractLsb' (n := 21) 17 4 (x0 ++ x1) = x0 :=
  (ext_high (v := 4) (w := 17) x0 x1 (by decide)).trans (ext_all x0)

theorem pay_4_17_at_0_17 (x0 : BitVec 4) (x1 : BitVec 17) :
    BitVec.extractLsb' (n := 21) 0 17 (x0 ++ x1) = x1 :=
  (ext_low (v := 4) (w := 17) x0 x1 (by decide)).trans (ext_all x1)

theorem pay_18_1_2_at_17_4 (x0 : BitVec 18) (x1 : BitVec 1) (x2 : BitVec 2) :
    BitVec.extractLsb' (n := 21) 17 4 (x0 ++ x1 ++ x2) = x0.extractLsb' 14 4 :=
  (ext_high (v := 19) (w := 2) (x0 ++ x1) x2 (by decide)).trans (ext_high (v := 18) (w := 1) x0 x1 (by decide))

theorem pay_18_1_2_at_7_10 (x0 : BitVec 18) (x1 : BitVec 1) (x2 : BitVec 2) :
    BitVec.extractLsb' (n := 21) 7 10 (x0 ++ x1 ++ x2) = x0.extractLsb' 4 10 :=
  (ext_high (v := 19) (w := 2) (x0 ++ x1) x2 (by decide)).trans (ext_high (v := 18) (w := 1) x0 x1 (by decide))

theorem pay_18_1_2_at_3_4 (x0 : BitVec 18) (x1 : BitVec 1) (x2 : BitVec 2) :
    BitVec.extractLsb' (n := 21) 3 4 (x0 ++ x1 ++ x2) = x0.extractLsb' 0 4 :=
  (ext_high (v := 19) (w := 2) (x0 ++ x1) x2 (by decide)).trans (ext_high (v := 18) (w := 1) x0 x1 (by decide))

theorem pay_18_1_2_at_2_1 (x0 : BitVec 18) (x1 : BitVec 1) (x2 : BitVec 2) :
    BitVec.extractLsb' (n := 21) 2 1 (x0 ++ x1 ++ x2) = x1 :=
  (ext_high (v := 19) (w := 2) (x0 ++ x1) x2 (by decide)).trans ((ext_low (v := 18) (w := 1) x0 x1 (by decide)).trans (ext_all x1))

theorem pay_18_1_2_at_0_2 (x0 : BitVec 18) (x1 : BitVec 1) (x2 : BitVec 2) :
    BitVec.extractLsb' (n := 21) 0 2 (x0 ++ x1 ++ x2) = x2 :=
  (ext_low (v := 19) (w := 2) (x0 ++ x1) x2 (by decide)).trans (ext_all x2)

theorem pay_17_2_2_at_17_4 (x0 : BitVec 17) (x1 : BitVec 2) (x2 : BitVec 2) :
    BitVec.extractLsb' (n := 21) 17 4 (x0 ++ x1 ++ x2) = x0.extractLsb' 13 4 :=
  (ext_high (v := 19) (w := 2) (x0 ++ x1) x2 (by decide)).trans (ext_high (v := 17) (w := 2) x0 x1 (by decide))

theorem pay_17_2_2_at_2_2 (x0 : BitVec 17) (x1 : BitVec 2) (x2 : BitVec 2) :
    BitVec.extractLsb' (n := 21) 2 2 (x0 ++ x1 ++ x2) = x1 :=
  (ext_high (v := 19) (w := 2) (x0 ++ x1) x2 (by decide)).trans ((ext_low (v := 17) (w := 2) x0 x1 (by decide)).trans (ext_all x1))

theorem pay_17_2_2_at_0_2 (x0 : BitVec 17) (x1 : BitVec 2) (x2 : BitVec 2) :
    BitVec.extractLsb' (n := 21) 0 2 (x0 ++ x1 ++ x2) = x2 :=
  (ext_low (v := 19) (w := 2) (x0 ++ x1) x2 (by decide)).trans (ext_all x2)

theorem pay_17_2_2_at_7_10 (x0 : BitVec 17) (x1 : BitVec 2) (x2 : BitVec 2) :
    BitVec.extractLsb' (n := 21) 7 10 (x0 ++ x1 ++ x2) = x0.extractLsb' 3 10 :=
  (ext_high (v := 19) (w := 2) (x0 ++ x1) x2 (by decide)).trans (ext_high (v := 17) (w := 2) x0 x1 (by decide))

theorem pay_17_2_2_at_4_3 (x0 : BitVec 17) (x1 : BitVec 2) (x2 : BitVec 2) :
    BitVec.extractLsb' (n := 21) 4 3 (x0 ++ x1 ++ x2) = x0.extractLsb' 0 3 :=
  (ext_high (v := 19) (w := 2) (x0 ++ x1) x2 (by decide)).trans (ext_high (v := 17) (w := 2) x0 x1 (by decide))

theorem pay_5_16_at_17_4 (x0 : BitVec 5) (x1 : BitVec 16) :
    BitVec.extractLsb' (n := 21) 17 4 (x0 ++ x1) = x0.extractLsb' 1 4 :=
  ext_high (v := 5) (w := 16) x0 x1 (by decide)

theorem pay_5_16_at_16_5 (x0 : BitVec 5) (x1 : BitVec 16) :
    BitVec.extractLsb' (n := 21) 16 5 (x0 ++ x1) = x0 :=
  (ext_high (v := 5) (w := 16) x0 x1 (by decide)).trans (ext_all x0)

theorem pay_5_16_at_0_16 (x0 : BitVec 5) (x1 : BitVec 16) :
    BitVec.extractLsb' (n := 21) 0 16 (x0 ++ x1) = x1 :=
  (ext_low (v := 5) (w := 16) x0 x1 (by decide)).trans (ext_all x1)

theorem pay_5_7_9_at_17_4 (x0 : BitVec 5) (x1 : BitVec 7) (x2 : BitVec 9) :
    BitVec.extractLsb' (n := 21) 17 4 (x0 ++ x1 ++ x2) = x0.extractLsb' 1 4 :=
  (ext_high (v := 12) (w := 9) (x0 ++ x1) x2 (by decide)).trans (ext_high (v := 5) (w := 7) x0 x1 (by decide))

theorem pay_5_7_9_at_16_5 (x0 : BitVec 5) (x1 : BitVec 7) (x2 : BitVec 9) :
    BitVec.extractLsb' (n := 21) 16 5 (x0 ++ x1 ++ x2) = x0 :=
  (ext_high (v := 12) (w := 9) (x0 ++ x1) x2 (by decide)).trans ((ext_high (v := 5) (w := 7) x0 x1 (by decide)).trans (ext_all x0))

theorem pay_5_7_9_at_9_7 (x0 : BitVec 5) (x1 : BitVec 7) (x2 : BitVec 9) :
    BitVec.extractLsb' (n := 21) 9 7 (x0 ++ x1 ++ x2) = x1 :=
  (ext_high (v := 12) (w := 9) (x0 ++ x1) x2 (by decide)).trans ((ext_low (v := 5) (w := 7) x0 x1 (by decide)).trans (ext_all x1))

theorem pay_5_7_9_at_0_9 (x0 : BitVec 5) (x1 : BitVec 7) (x2 : BitVec 9) :
    BitVec.extractLsb' (n := 21) 0 9 (x0 ++ x1 ++ x2) = x2 :=
  (ext_low (v := 12) (w := 9) (x0 ++ x1) x2 (by decide)).trans (ext_all x2)

theorem pay_7_7_7_at_0_3 (x0 : BitVec 7) (x1 : BitVec 7) (x2 : BitVec 7) :
    BitVec.extractLsb' (n := 21) 0 3 (x0 ++ x1 ++ x2) = x2.extractLsb' 0 3 :=
  ext_low (v := 14) (w := 7) (x0 ++ x1) x2 (by decide)

theorem pay_7_14_at_3_4 (x0 : BitVec 7) (x1 : BitVec 14) :
    BitVec.extractLsb' (n := 21) 3 4 (x0 ++ x1) = x1.extractLsb' 3 4 :=
  ext_low (v := 7) (w := 14) x0 x1 (by decide)

theorem pay_7_14_at_0_3 (x0 : BitVec 7) (x1 : BitVec 14) :
    BitVec.extractLsb' (n := 21) 0 3 (x0 ++ x1) = x1.extractLsb' 0 3 :=
  ext_low (v := 7) (w := 14) x0 x1 (by decide)

theorem pay_7_11_3_at_3_4 (x0 : BitVec 7) (x1 : BitVec 11) (x2 : BitVec 3) :
    BitVec.extractLsb' (n := 21) 3 4 (x0 ++ x1 ++ x2) = x1.extractLsb' 0 4 :=
  (ext_high (v := 18) (w := 3) (x0 ++ x1) x2 (by decide)).trans (ext_low (v := 7) (w := 11) x0 x1 (by decide))

theorem pay_7_11_3_at_7_7 (x0 : BitVec 7) (x1 : BitVec 11) (x2 : BitVec 3) :
    BitVec.extractLsb' (n := 21) 7 7 (x0 ++ x1 ++ x2) = x1.extractLsb' 4 7 :=
  (ext_high (v := 18) (w := 3) (x0 ++ x1) x2 (by decide)).trans (ext_low (v := 7) (w := 11) x0 x1 (by decide))

theorem pay_7_11_3_at_14_7 (x0 : BitVec 7) (x1 : BitVec 11) (x2 : BitVec 3) :
    BitVec.extractLsb' (n := 21) 14 7 (x0 ++ x1 ++ x2) = x0 :=
  (ext_high (v := 18) (w := 3) (x0 ++ x1) x2 (by decide)).trans ((ext_high (v := 7) (w := 11) x0 x1 (by decide)).trans (ext_all x0))

theorem pay_7_11_3_at_0_3 (x0 : BitVec 7) (x1 : BitVec 11) (x2 : BitVec 3) :
    BitVec.extractLsb' (n := 21) 0 3 (x0 ++ x1 ++ x2) = x2 :=
  (ext_low (v := 18) (w := 3) (x0 ++ x1) x2 (by decide)).trans (ext_all x2)

theorem pay_7_7_7_at_5_2 (x0 : BitVec 7) (x1 : BitVec 7) (x2 : BitVec 7) :
    BitVec.extractLsb' (n := 21) 5 2 (x0 ++ x1 ++ x2) = x2.extractLsb' 5 2 :=
  ext_low (v := 14) (w := 7) (x0 ++ x1) x2 (by decide)

theorem pay_7_7_7_at_0_5 (x0 : BitVec 7) (x1 : BitVec 7) (x2 : BitVec 7) :
    BitVec.extractLsb' (n := 21) 0 5 (x0 ++ x1 ++ x2) = x2.extractLsb' 0 5 :=
  ext_low (v := 14) (w := 7) (x0 ++ x1) x2 (by decide)

theorem pay_7_7_7_at_4_3 (x0 : BitVec 7) (x1 : BitVec 7) (x2 : BitVec 7) :
    BitVec.extractLsb' (n := 21) 4 3 (x0 ++ x1 ++ x2) = x2.extractLsb' 4 3 :=
  ext_low (v := 14) (w := 7) (x0 ++ x1) x2 (by decide)

theorem pay_7_7_7_at_0_4 (x0 : BitVec 7) (x1 : BitVec 7) (x2 : BitVec 7) :
    BitVec.extractLsb' (n := 21) 0 4 (x0 ++ x1 ++ x2) = x2.extractLsb' 0 4 :=
  ext_low (v := 14) (w := 7) (x0 ++ x1) x2 (by decide)

theorem pay_7_7_3_2_2_at_4_3 (x0 : BitVec 7) (x1 : BitVec 7) (x2 : BitVec 3) (x3 : BitVec 2) (x4 : BitVec 2) :
    BitVec.extractLsb' (n := 21) 4 3 (x0 ++ x1 ++ x2 ++ x3 ++ x4) = x2 :=
  (ext_high (v := 19) (w := 2) (x0 ++ x1 ++ x2 ++ x3) x4 (by decide)).trans ((ext_high (v := 17) (w := 2) (x0 ++ x1 ++ x2) x3 (by decide)).trans ((ext_low (v := 14) (w := 3) (x0 ++ x1) x2 (by decide)).trans (ext_all x2)))

theorem pay_7_7_3_2_2_at_14_7 (x0 : BitVec 7) (x1 : BitVec 7) (x2 : BitVec 3) (x3 : BitVec 2) (x4 : BitVec 2) :
    BitVec.extractLsb' (n := 21) 14 7 (x0 ++ x1 ++ x2 ++ x3 ++ x4) = x0 :=
  (ext_high (v := 19) (w := 2) (x0 ++ x1 ++ x2 ++ x3) x4 (by decide)).trans ((ext_high (v := 17) (w := 2) (x0 ++ x1 ++ x2) x3 (by decide)).trans ((ext_high (v := 14) (w := 3) (x0 ++ x1) x2 (by decide)).trans ((ext_high (v := 7) (w := 7) x0 x1 (by decide)).trans (ext_all x0))))

theorem pay_7_7_3_2_2_at_0_2 (x0 : BitVec 7) (x1 : BitVec 7) (x2 : BitVec 3) (x3 : BitVec 2) (x4 : BitVec 2) :
    BitVec.extractLsb' (n := 21) 0 2 (x0 ++ x1 ++ x2 ++ x3 ++ x4) = x4 :=
  (ext_low (v := 19) (w := 2) (x0 ++ x1 ++ x2 ++ x3) x4 (by decide)).trans (ext_all x4)

theorem pay_7_7_3_2_2_at_7_7 (x0 : BitVec 7) (x1 : BitVec 7) (x2 : BitVec 3) (x3 : BitVec 2) (x4 : BitVec 2) :
    BitVec.extractLsb' (n := 21) 7 7 (x0 ++ x1 ++ x2 ++ x3 ++ x4) = x1 :=
  (ext_high (v := 19) (w := 2) (x0 ++ x1 ++ x2 ++ x3) x4 (by decide)).trans ((ext_high (v := 17) (w := 2) (x0 ++ x1 ++ x2) x3 (by decide)).trans ((ext_high (v := 14) (w := 3) (x0 ++ x1) x2 (by decide)).trans ((ext_low (v := 7) (w := 7) x0 x1 (by decide)).trans (ext_all x1))))

theorem pay_7_7_3_2_2_at_2_2 (x0 : BitVec 7) (x1 : BitVec 7) (x2 : BitVec 3) (x3 : BitVec 2) (x4 : BitVec 2) :
    BitVec.extractLsb' (n := 21) 2 2 (x0 ++ x1 ++ x2 ++ x3 ++ x4) = x3 :=
  (ext_high (v := 19) (w := 2) (x0 ++ x1 ++ x2 ++ x3) x4 (by decide)).trans ((ext_low (v := 17) (w := 2) (x0 ++ x1 ++ x2) x3 (by decide)).trans (ext_all x3))

theorem pay_7_8_3_3_at_6_1 (x0 : BitVec 7) (x1 : BitVec 8) (x2 : BitVec 3) (x3 : BitVec 3) :
    BitVec.extractLsb' (n := 21) 6 1 (x0 ++ x1 ++ x2 ++ x3) = x1.extractLsb' 0 1 :=
  (ext_high (v := 18) (w := 3) (x0 ++ x1 ++ x2) x3 (by decide)).trans ((ext_high (v := 15) (w := 3) (x0 ++ x1) x2 (by decide)).trans (ext_low (v := 7) (w := 8) x0 x1 (by decide)))

theorem pay_7_8_3_3_at_7_7 (x0 : BitVec 7) (x1 : BitVec 8) (x2 : BitVec 3) (x3 : BitVec 3) :
    BitVec.extractLsb' (n := 21) 7 7 (x0 ++ x1 ++ x2 ++ x3) = x1.extractLsb' 1 7 :=
  (ext_high (v := 18) (w := 3) (x0 ++ x1 ++ x2) x3 (by decide)).trans ((ext_high (v := 15) (w := 3) (x0 ++ x1) x2 (by decide)).trans (ext_low (v := 7) (w := 8) x0 x1 (by decide)))

theorem pay_7_8_3_3_at_0_3 (x0 : BitVec 7) (x1 : BitVec 8) (x2 : BitVec 3) (x3 : BitVec 3) :
    BitVec.extractLsb' (n := 21) 0 3 (x0 ++ x1 ++ x2 ++ x3) = x3 :=
  (ext_low (v := 18) (w := 3) (x0 ++ x1 ++ x2) x3 (by decide)).trans (ext_all x3)

theorem pay_7_8_3_3_at_14_7 (x0 : BitVec 7) (x1 : BitVec 8) (x2 : BitVec 3) (x3 : BitVec 3) :
    BitVec.extractLsb' (n := 21) 14 7 (x0 ++ x1 ++ x2 ++ x3) = x0 :=
  (ext_high (v := 18) (w := 3) (x0 ++ x1 ++ x2) x3 (by decide)).trans ((ext_high (v := 15) (w := 3) (x0 ++ x1) x2 (by decide)).trans ((ext_high (v := 7) (w := 8) x0 x1 (by decide)).trans (ext_all x0)))

theorem pay_7_8_3_3_at_3_3 (x0 : BitVec 7) (x1 : BitVec 8) (x2 : BitVec 3) (x3 : BitVec 3) :
    BitVec.extractLsb' (n := 21) 3 3 (x0 ++ x1 ++ x2 ++ x3) = x2 :=
  (ext_high (v := 18) (w := 3) (x0 ++ x1 ++ x2) x3 (by decide)).trans ((ext_low (v := 15) (w := 3) (x0 ++ x1) x2 (by decide)).trans (ext_all x2))

theorem pay_7_7_3_3_1_at_0_1 (x0 : BitVec 7) (x1 : BitVec 7) (x2 : BitVec 3) (x3 : BitVec 3) (x4 : BitVec 1) :
    BitVec.extractLsb' (n := 21) 0 1 (x0 ++ x1 ++ x2 ++ x3 ++ x4) = x4 :=
  (ext_low (v := 20) (w := 1) (x0 ++ x1 ++ x2 ++ x3) x4 (by decide)).trans (ext_all x4)

theorem pay_7_7_3_3_1_at_14_7 (x0 : BitVec 7) (x1 : BitVec 7) (x2 : BitVec 3) (x3 : BitVec 3) (x4 : BitVec 1) :
    BitVec.extractLsb' (n := 21) 14 7 (x0 ++ x1 ++ x2 ++ x3 ++ x4) = x0 :=
  (ext_high (v := 20) (w := 1) (x0 ++ x1 ++ x2 ++ x3) x4 (by decide)).trans ((ext_high (v := 17) (w := 3) (x0 ++ x1 ++ x2) x3 (by decide)).trans ((ext_high (v := 14) (w := 3) (x0 ++ x1) x2 (by decide)).trans ((ext_high (v := 7) (w := 7) x0 x1 (by decide)).trans (ext_all x0))))

theorem pay_7_7_3_3_1_at_7_7 (x0 : BitVec 7) (x1 : BitVec 7) (x2 : BitVec 3) (x3 : BitVec 3) (x4 : BitVec 1) :
    BitVec.extractLsb' (n := 21) 7 7 (x0 ++ x1 ++ x2 ++ x3 ++ x4) = x1 :=
  (ext_high (v := 20) (w := 1) (x0 ++ x1 ++ x2 ++ x3) x4 (by decide)).trans ((ext_high (v := 17) (w := 3) (x0 ++ x1 ++ x2) x3 (by decide)).trans ((ext_high (v := 14) (w := 3) (x0 ++ x1) x2 (by decide)).trans ((ext_low (v := 7) (w := 7) x0 x1 (by decide)).trans (ext_all x1))))

theorem pay_7_7_3_3_1_at_4_3 (x0 : BitVec 7) (x1 : BitVec 7) (x2 : BitVec 3) (x3 : BitVec 3) (x4 : BitVec 1) :
    BitVec.extractLsb' (n := 21) 4 3 (x0 ++ x1 ++ x2 ++ x3 ++ x4) = x2 :=
  (ext_high (v := 20) (w := 1) (x0 ++ x1 ++ x2 ++ x3) x4 (by decide)).trans ((ext_high (v := 17) (w := 3) (x0 ++ x1 ++ x2) x3 (by decide)).trans ((ext_low (v := 14) (w := 3) (x0 ++ x1) x2 (by decide)).trans (ext_all x2)))

theorem pay_7_7_3_3_1_at_1_3 (x0 : BitVec 7) (x1 : BitVec 7) (x2 : BitVec 3) (x3 : BitVec 3) (x4 : BitVec 1) :
    BitVec.extractLsb' (n := 21) 1 3 (x0 ++ x1 ++ x2 ++ x3 ++ x4) = x3 :=
  (ext_high (v := 20) (w := 1) (x0 ++ x1 ++ x2 ++ x3) x4 (by decide)).trans ((ext_low (v := 17) (w := 3) (x0 ++ x1 ++ x2) x3 (by decide)).trans (ext_all x3))

theorem beq_app_1_3 (x : BitVec 1) (y : BitVec 3) (c : BitVec 4) :
    (x ++ y == c) = (x == c.extractLsb' 3 1 && y == c.extractLsb' 0 3) := by
  rw [Bool.eq_iff_iff]
  simp only [beq_iff_eq, Bool.and_eq_true]
  constructor
  · rintro rfl
    exact ⟨((ext_high x y (by decide)).trans (ext_all x)).symm, ((ext_low x y (by decide)).trans (ext_all y)).symm⟩
  · rintro ⟨rfl, rfl⟩
    apply BitVec.eq_of_getLsbD_eq; intro i hi
    have hi : i < 4 := hi
    simp only [BitVec.getLsbD_append, BitVec.getLsbD_extractLsb']
    by_cases h : i < 3
    · simp [h]
    · rw [if_neg h, decide_eq_true (show i - 3 < 1 by omega), Bool.true_and, show 3 + (i - 3) = i by omega]

theorem beq_app_4_3 (x : BitVec 4) (y : BitVec 3) (c : BitVec 7) :
    (x ++ y == c) = (x == c.extractLsb' 3 4 && y == c.extractLsb' 0 3) := by
  rw [Bool.eq_iff_iff]
  simp only [beq_iff_eq, Bool.and_eq_true]
  constructor
  · rintro rfl
    exact ⟨((ext_high x y (by decide)).trans (ext_all x)).symm, ((ext_low x y (by decide)).trans (ext_all y)).symm⟩
  · rintro ⟨rfl, rfl⟩
    apply BitVec.eq_of_getLsbD_eq; intro i hi
    have hi : i < 7 := hi
    simp only [BitVec.getLsbD_append, BitVec.getLsbD_extractLsb']
    by_cases h : i < 3
    · simp [h]
    · rw [if_neg h, decide_eq_true (show i - 3 < 4 by omega), Bool.true_and, show 3 + (i - 3) = i by omega]

theorem scope_ne {k : BitVec 3} (h : hasScope k = true) : (k == 0#3) = false := by
  revert h; revert k; decide

theorem decode_at_01 {w : Word} (h : majorOf w = 0x01#6) : decode w = .ok (.iadd (guardOf w) (w.extractLsb' 14 7) (w.extractLsb' 7 7) (w.extractLsb' 0 7)) := by
  simp only [decode, h]

theorem decode_at_02 {w : Word} (h : majorOf w = 0x02#6) : decode w = .ok (.isub (guardOf w) (w.extractLsb' 14 7) (w.extractLsb' 7 7) (w.extractLsb' 0 7)) := by
  simp only [decode, h]

theorem decode_at_03 {w : Word} (h : majorOf w = 0x03#6) : decode w = .ok (.imul (guardOf w) (w.extractLsb' 14 7) (w.extractLsb' 7 7) (w.extractLsb' 0 7)) := by
  simp only [decode, h]

theorem decode_at_04 {w : Word} (h : majorOf w = 0x04#6) : decode w = .ok (.imad (guardOf w) (w.extractLsb' 14 7) (w.extractLsb' 7 7) (w.extractLsb' 0 7)) := by
  simp only [decode, h]

theorem decode_at_05 {w : Word} (h : majorOf w = 0x05#6) : decode w = .ok (.and (guardOf w) (w.extractLsb' 14 7) (w.extractLsb' 7 7) (w.extractLsb' 0 7)) := by
  simp only [decode, h]

theorem decode_at_06 {w : Word} (h : majorOf w = 0x06#6) : decode w = .ok (.or (guardOf w) (w.extractLsb' 14 7) (w.extractLsb' 7 7) (w.extractLsb' 0 7)) := by
  simp only [decode, h]

theorem decode_at_07 {w : Word} (h : majorOf w = 0x07#6) : decode w = .ok (.xor (guardOf w) (w.extractLsb' 14 7) (w.extractLsb' 7 7) (w.extractLsb' 0 7)) := by
  simp only [decode, h]

theorem decode_at_08 {w : Word} (h : majorOf w = 0x08#6) : decode w = .ok (.shl (guardOf w) (w.extractLsb' 14 7) (w.extractLsb' 7 7) (w.extractLsb' 0 7)) := by
  simp only [decode, h]

theorem decode_at_09 {w : Word} (h : majorOf w = 0x09#6) : decode w = .ok (.shr (guardOf w) (w.extractLsb' 14 7) (w.extractLsb' 7 7) (w.extractLsb' 0 7)) := by
  simp only [decode, h]

theorem decode_at_0A {w : Word} (h : majorOf w = 0x0A#6) : decode w = need (icmpClass (w.extractLsb' 17 4) (w.extractLsb' 7 7) (w.extractLsb' 0 7)) .register (.ok (.icmp (guardOf w) (w.extractLsb' 17 4) (w.extractLsb' 14 3) (w.extractLsb' 7 7) (w.extractLsb' 0 7))) := by
  simp only [decode, h]

theorem decode_at_0B {w : Word} (h : majorOf w = 0x0B#6) : decode w = .ok (.sel (guardOf w) (w.extractLsb' 14 7) (w.extractLsb' 7 7) (w.extractLsb' 0 7)) := by
  simp only [decode, h]

theorem decode_at_0C {w : Word} (h : majorOf w = 0x0C#6) : decode w = need (even (w.extractLsb' 14 7) && even (w.extractLsb' 7 7)) .register (.ok (.lea (guardOf w) (w.extractLsb' 14 7) (w.extractLsb' 7 7) (w.extractLsb' 0 7))) := by
  simp only [decode, h]

theorem decode_at_0D {w : Word} (h : majorOf w = 0x0D#6) : decode w = .ok (.bfi (guardOf w) (w.extractLsb' 14 7) (w.extractLsb' 7 7) (w.extractLsb' 0 7)) := by
  simp only [decode, h]

theorem decode_at_0E {w : Word} (h : majorOf w = 0x0E#6) : decode w = .ok (.idp4 (guardOf w) (w.extractLsb' 14 7) (w.extractLsb' 7 7) (w.extractLsb' 0 7)) := by
  simp only [decode, h]

theorem decode_at_0F {w : Word} (h : majorOf w = 0x0F#6) : decode w = decode0F (guardOf w) w := by
  simp only [decode, h]

theorem decode_at_10 {w : Word} (h : majorOf w = 0x10#6) : decode w = decode10 (guardOf w) w := by
  simp only [decode, h]

theorem decode_at_11 {w : Word} (h : majorOf w = 0x11#6) : decode w = .ok (.iaddImm (guardOf w) (w.extractLsb' 14 7) (w.extractLsb' 7 7) (w.extractLsb' 0 7)) := by
  simp only [decode, h]

theorem decode_at_12 {w : Word} (h : majorOf w = 0x12#6) : decode w = decode12 (guardOf w) w := by
  simp only [decode, h]

theorem decode_at_13 {w : Word} (h : majorOf w = 0x13#6) : decode w = .ok (.movi (guardOf w) (w.extractLsb' 14 7) (w.extractLsb' 0 14)) := by
  simp only [decode, h]

theorem decode_at_14 {w : Word} (h : majorOf w = 0x14#6) : decode w = .ok (.movhi (guardOf w) (w.extractLsb' 14 7) (w.extractLsb' 0 14)) := by
  simp only [decode, h]

theorem decode_at_15 {w : Word} (h : majorOf w = 0x15#6) : decode w = decode15 (guardOf w) w := by
  simp only [decode, h]

theorem decode_at_16 {w : Word} (h : majorOf w = 0x16#6) : decode w = decode16 (guardOf w) w := by
  simp only [decode, h]

theorem decode_at_17 {w : Word} (h : majorOf w = 0x17#6) : decode w = decode17 (guardOf w) w := by
  simp only [decode, h]

theorem decode_at_18 {w : Word} (h : majorOf w = 0x18#6) : decode w = .ok (.fadd (guardOf w) (w.extractLsb' 14 7) (w.extractLsb' 7 7) (w.extractLsb' 0 7)) := by
  simp only [decode, h]

theorem decode_at_19 {w : Word} (h : majorOf w = 0x19#6) : decode w = .ok (.fsub (guardOf w) (w.extractLsb' 14 7) (w.extractLsb' 7 7) (w.extractLsb' 0 7)) := by
  simp only [decode, h]

theorem decode_at_1A {w : Word} (h : majorOf w = 0x1A#6) : decode w = .ok (.fmul (guardOf w) (w.extractLsb' 14 7) (w.extractLsb' 7 7) (w.extractLsb' 0 7)) := by
  simp only [decode, h]

theorem decode_at_1B {w : Word} (h : majorOf w = 0x1B#6) : decode w = .ok (.ffma (guardOf w) (w.extractLsb' 14 7) (w.extractLsb' 7 7) (w.extractLsb' 0 7)) := by
  simp only [decode, h]

theorem decode_at_1C {w : Word} (h : majorOf w = 0x1C#6) : decode w = decode1C (guardOf w) w := by
  simp only [decode, h]

theorem decode_at_1D {w : Word} (h : majorOf w = 0x1D#6) : decode w = decode1D (guardOf w) w := by
  simp only [decode, h]

theorem decode_at_1E {w : Word} (h : majorOf w = 0x1E#6) : decode w = decode1E (guardOf w) w := by
  simp only [decode, h]

theorem decode_at_1F {w : Word} (h : majorOf w = 0x1F#6) : decode w = need (cvtCodes (w.extractLsb' 4 3) (w.extractLsb' 0 4)) .function (.ok (.cvt (guardOf w) (w.extractLsb' 14 7) (w.extractLsb' 7 7) (w.extractLsb' 4 3) (w.extractLsb' 0 4))) := by
  simp only [decode, h]

theorem decode_at_20 {w : Word} (h : majorOf w = 0x20#6) : decode w = .ok (.hfma2Hf (guardOf w) (w.extractLsb' 14 7) (w.extractLsb' 7 7) (w.extractLsb' 0 7)) := by
  simp only [decode, h]

theorem decode_at_21 {w : Word} (h : majorOf w = 0x21#6) : decode w = .ok (.hfma2Bf (guardOf w) (w.extractLsb' 14 7) (w.extractLsb' 7 7) (w.extractLsb' 0 7)) := by
  simp only [decode, h]

theorem decode_at_22 {w : Word} (h : majorOf w = 0x22#6) : decode w = need (even (w.extractLsb' 7 7)) .register (.ok (.ldW (guardOf w) (w.extractLsb' 14 7) (w.extractLsb' 7 7) (w.extractLsb' 0 7))) := by
  simp only [decode, h]

theorem decode_at_23 {w : Word} (h : majorOf w = 0x23#6) : decode w = need (even (w.extractLsb' 7 7)) .register (.ok (.stW (guardOf w) (w.extractLsb' 14 7) (w.extractLsb' 7 7) (w.extractLsb' 0 7))) := by
  simp only [decode, h]

theorem decode_at_24 {w : Word} (h : majorOf w = 0x24#6) : decode w = decode24 (guardOf w) w := by
  simp only [decode, h]

theorem decode_at_25 {w : Word} (h : majorOf w = 0x25#6) : decode w = decode25 (guardOf w) w := by
  simp only [decode, h]

theorem decode_at_26 {w : Word} (h : majorOf w = 0x26#6) : decode w = decode26 (guardOf w) w := by
  simp only [decode, h]

theorem decode_at_27 {w : Word} (h : majorOf w = 0x27#6) : decode w = decode27 (guardOf w) w := by
  simp only [decode, h]

theorem decode_at_28 {w : Word} (h : majorOf w = 0x28#6) : decode w = decode28 (guardOf w) w := by
  simp only [decode, h]

theorem decode_at_29 {w : Word} (h : majorOf w = 0x29#6) : decode w = decode29 (guardOf w) w := by
  simp only [decode, h]

theorem decode_at_2A {w : Word} (h : majorOf w = 0x2A#6) : decode w = .ok (.bra (guardOf w) (w.extractLsb' 0 21)) := by
  simp only [decode, h]

theorem decode_at_2B {w : Word} (h : majorOf w = 0x2B#6) : decode w = .ok (.call (guardOf w) (w.extractLsb' 0 21)) := by
  simp only [decode, h]

theorem decode_at_2C {w : Word} (h : majorOf w = 0x2C#6) : decode w = need (w.extractLsb' 17 4 == 0x0#4) .reserved (.ok (.brp (guardOf w) (w.extractLsb' 14 3) (w.extractLsb' 0 14))) := by
  simp only [decode, h]

theorem decode_at_2D {w : Word} (h : majorOf w = 0x2D#6) : decode w = .ok (.bdec (guardOf w) (w.extractLsb' 14 7) (w.extractLsb' 0 14)) := by
  simp only [decode, h]

theorem decode_at_2E {w : Word} (h : majorOf w = 0x2E#6) : decode w = decode2E (guardOf w) w := by
  simp only [decode, h]

theorem decode_at_2F {w : Word} (h : majorOf w = 0x2F#6) : decode w = need (w.extractLsb' 0 6 == 0x0#6) .reserved (.ok (.rep (guardOf w) (w.extractLsb' 15 6) (w.extractLsb' 12 3) (w.extractLsb' 9 3) (w.extractLsb' 6 3))) := by
  simp only [decode, h]

theorem decode_at_30 {w : Word} (h : majorOf w = 0x30#6) : decode w = decode30 (guardOf w) w := by
  simp only [decode, h]

theorem decode_at_31 {w : Word} (h : majorOf w = 0x31#6) : decode w = decode31 (guardOf w) w := by
  simp only [decode, h]

theorem decode_at_32 {w : Word} (h : majorOf w = 0x32#6) : decode w = decode32 (guardOf w) w := by
  simp only [decode, h]

theorem decode_at_33 {w : Word} (h : majorOf w = 0x33#6) : decode w = decode33 (guardOf w) w := by
  simp only [decode, h]

theorem decode_at_34 {w : Word} (h : majorOf w = 0x34#6) : decode w = decode34 (guardOf w) w := by
  simp only [decode, h]

theorem decode_at_35 {w : Word} (h : majorOf w = 0x35#6) : decode w = decode35 (guardOf w) w := by
  simp only [decode, h]

theorem decode_at_36 {w : Word} (h : majorOf w = 0x36#6) : decode w = decode36 (guardOf w) w := by
  simp only [decode, h]

theorem decode_at_38 {w : Word} (h : majorOf w = 0x38#6) : decode w = decode38 (guardOf w) w := by
  simp only [decode, h]

theorem decode_at_39 {w : Word} (h : majorOf w = 0x39#6) : decode w = decode39 (guardOf w) w := by
  simp only [decode, h]

theorem decode_at_3A {w : Word} (h : majorOf w = 0x3A#6) : decode w = decode3A (guardOf w) w := by
  simp only [decode, h]

theorem decode_at_3B {w : Word} (h : majorOf w = 0x3B#6) : decode w = need (w.extractLsb' 0 1 == 0x0#1) .reserved (need (vacc (w.extractLsb' 14 7) && below 16 (w.extractLsb' 7 7)) .register (.ok (.mma (guardOf w) (w.extractLsb' 14 7) (w.extractLsb' 7 7) (w.extractLsb' 4 3) (w.extractLsb' 1 3)))) := by
  simp only [decode, h]

theorem decode_at_3C {w : Word} (h : majorOf w = 0x3C#6) : decode w = decode3C (guardOf w) w := by
  simp only [decode, h]

theorem decode_at_3D {w : Word} (h : majorOf w = 0x3D#6) : decode w = decode3D (guardOf w) w := by
  simp only [decode, h]

theorem decode_at_3E {w : Word} (h : majorOf w = 0x3E#6) : decode w = decode3E (guardOf w) w := by
  simp only [decode, h]

end Sys2Proof.Laws
end

