-- ==== Sys2Proof/Laws/PerInstr.lean ====
section
/-!
SUPPORT. Decoding the encoding of a well-formed word gives the word back, one lemma for each constructor.
-/
namespace Sys2Proof.Laws
set_option Elab.async false
set_option linter.unusedSimpArgs false

/-- The instruction, where it is a well-formed word, decodes from its encoding. -/
def RoundTrip.Statement (i : Instr) : Prop := i.isWord = true → WF i → decode (encode i) = .ok i

theorem RoundTrip.iadd (g : Guard) (d : BitVec 7) (a : BitVec 7) (b : BitVec 7) : RoundTrip.Statement (.iadd g d a b) := by
  intro _ _
  refine (decode_at_01 (mk_major _ _ _)).trans ?_
  simp (disch := omega) only [mk_guard, mk_payload, pay_7_7_7_at_14_7, pay_7_7_7_at_7_7, pay_7_7_7_at_0_7]

theorem RoundTrip.isub (g : Guard) (d : BitVec 7) (a : BitVec 7) (b : BitVec 7) : RoundTrip.Statement (.isub g d a b) := by
  intro _ _
  refine (decode_at_02 (mk_major _ _ _)).trans ?_
  simp (disch := omega) only [mk_guard, mk_payload, pay_7_7_7_at_14_7, pay_7_7_7_at_7_7, pay_7_7_7_at_0_7]

theorem RoundTrip.imul (g : Guard) (d : BitVec 7) (a : BitVec 7) (b : BitVec 7) : RoundTrip.Statement (.imul g d a b) := by
  intro _ _
  refine (decode_at_03 (mk_major _ _ _)).trans ?_
  simp (disch := omega) only [mk_guard, mk_payload, pay_7_7_7_at_14_7, pay_7_7_7_at_7_7, pay_7_7_7_at_0_7]

theorem RoundTrip.imad (g : Guard) (d : BitVec 7) (a : BitVec 7) (b : BitVec 7) : RoundTrip.Statement (.imad g d a b) := by
  intro _ _
  refine (decode_at_04 (mk_major _ _ _)).trans ?_
  simp (disch := omega) only [mk_guard, mk_payload, pay_7_7_7_at_14_7, pay_7_7_7_at_7_7, pay_7_7_7_at_0_7]

theorem RoundTrip.and (g : Guard) (d : BitVec 7) (a : BitVec 7) (b : BitVec 7) : RoundTrip.Statement (.and g d a b) := by
  intro _ _
  refine (decode_at_05 (mk_major _ _ _)).trans ?_
  simp (disch := omega) only [mk_guard, mk_payload, pay_7_7_7_at_14_7, pay_7_7_7_at_7_7, pay_7_7_7_at_0_7]

theorem RoundTrip.or (g : Guard) (d : BitVec 7) (a : BitVec 7) (b : BitVec 7) : RoundTrip.Statement (.or g d a b) := by
  intro _ _
  refine (decode_at_06 (mk_major _ _ _)).trans ?_
  simp (disch := omega) only [mk_guard, mk_payload, pay_7_7_7_at_14_7, pay_7_7_7_at_7_7, pay_7_7_7_at_0_7]

theorem RoundTrip.xor (g : Guard) (d : BitVec 7) (a : BitVec 7) (b : BitVec 7) : RoundTrip.Statement (.xor g d a b) := by
  intro _ _
  refine (decode_at_07 (mk_major _ _ _)).trans ?_
  simp (disch := omega) only [mk_guard, mk_payload, pay_7_7_7_at_14_7, pay_7_7_7_at_7_7, pay_7_7_7_at_0_7]

theorem RoundTrip.shl (g : Guard) (d : BitVec 7) (a : BitVec 7) (b : BitVec 7) : RoundTrip.Statement (.shl g d a b) := by
  intro _ _
  refine (decode_at_08 (mk_major _ _ _)).trans ?_
  simp (disch := omega) only [mk_guard, mk_payload, pay_7_7_7_at_14_7, pay_7_7_7_at_7_7, pay_7_7_7_at_0_7]

theorem RoundTrip.shr (g : Guard) (d : BitVec 7) (a : BitVec 7) (b : BitVec 7) : RoundTrip.Statement (.shr g d a b) := by
  intro _ _
  refine (decode_at_09 (mk_major _ _ _)).trans ?_
  simp (disch := omega) only [mk_guard, mk_payload, pay_7_7_7_at_14_7, pay_7_7_7_at_7_7, pay_7_7_7_at_0_7]

theorem RoundTrip.icmp (g : Guard) (c : BitVec 4) (q : BitVec 3) (a : BitVec 7) (b : BitVec 7) : RoundTrip.Statement (.icmp g c q a b) := by
  intro _ (h : (icmpClass c a b) = true)
  refine (decode_at_0A (mk_major _ _ _)).trans ?_
  simp (disch := omega) only [mk_guard, mk_payload, pay_4_3_7_7_at_17_4, pay_4_3_7_7_at_7_7, pay_4_3_7_7_at_0_7, pay_4_3_7_7_at_14_3]
  simp only [need, BitVec.reduceBEq, Bool.and_true, Bool.true_and, Bool.and_eq_true, h, and_self, ↓reduceIte]

theorem RoundTrip.sel (g : Guard) (d : BitVec 7) (a : BitVec 7) (b : BitVec 7) : RoundTrip.Statement (.sel g d a b) := by
  intro _ _
  refine (decode_at_0B (mk_major _ _ _)).trans ?_
  simp (disch := omega) only [mk_guard, mk_payload, pay_7_7_7_at_14_7, pay_7_7_7_at_7_7, pay_7_7_7_at_0_7]

theorem RoundTrip.lea (g : Guard) (d : BitVec 7) (a : BitVec 7) (b : BitVec 7) : RoundTrip.Statement (.lea g d a b) := by
  intro _ (h : (even d && even a) = true)
  simp only [Bool.and_eq_true] at h
  refine (decode_at_0C (mk_major _ _ _)).trans ?_
  simp (disch := omega) only [mk_guard, mk_payload, pay_7_7_7_at_14_7, pay_7_7_7_at_7_7, pay_7_7_7_at_0_7]
  simp only [need, BitVec.reduceBEq, Bool.and_true, Bool.true_and, Bool.and_eq_true, h, and_self, ↓reduceIte]

theorem RoundTrip.bfi (g : Guard) (d : BitVec 7) (a : BitVec 7) (b : BitVec 7) : RoundTrip.Statement (.bfi g d a b) := by
  intro _ _
  refine (decode_at_0D (mk_major _ _ _)).trans ?_
  simp (disch := omega) only [mk_guard, mk_payload, pay_7_7_7_at_14_7, pay_7_7_7_at_7_7, pay_7_7_7_at_0_7]

theorem RoundTrip.idp4 (g : Guard) (d : BitVec 7) (a : BitVec 7) (b : BitVec 7) : RoundTrip.Statement (.idp4 g d a b) := by
  intro _ _
  refine (decode_at_0E (mk_major _ _ _)).trans ?_
  simp (disch := omega) only [mk_guard, mk_payload, pay_7_7_7_at_14_7, pay_7_7_7_at_7_7, pay_7_7_7_at_0_7]

theorem RoundTrip.imulh (g : Guard) (d : BitVec 7) (a : BitVec 7) : RoundTrip.Statement (.imulh g d a) := by
  intro _ _
  refine (decode_at_0F (mk_major _ _ _)).trans ?_
  simp (disch := omega) only [decode0F, mk_guard, mk_payload, pay_7_7_7_at_0_7, pay_7_7_7_at_14_7, pay_7_7_7_at_7_7, BitVec.reduceBEq, BitVec.reduceExtractLsb', ↓reduceIte, Bool.false_eq_true, Bool.false_and, Bool.true_and]

theorem RoundTrip.imulhUns (g : Guard) (d : BitVec 7) (a : BitVec 7) : RoundTrip.Statement (.imulhUns g d a) := by
  intro _ _
  refine (decode_at_0F (mk_major _ _ _)).trans ?_
  simp (disch := omega) only [decode0F, mk_guard, mk_payload, pay_7_7_7_at_0_7, pay_7_7_7_at_14_7, pay_7_7_7_at_7_7, BitVec.reduceBEq, BitVec.reduceExtractLsb', ↓reduceIte, Bool.false_eq_true, Bool.false_and, Bool.true_and]

theorem RoundTrip.idiv (g : Guard) (d : BitVec 7) (a : BitVec 7) : RoundTrip.Statement (.idiv g d a) := by
  intro _ _
  refine (decode_at_0F (mk_major _ _ _)).trans ?_
  simp (disch := omega) only [decode0F, mk_guard, mk_payload, pay_7_7_7_at_0_7, pay_7_7_7_at_14_7, pay_7_7_7_at_7_7, BitVec.reduceBEq, BitVec.reduceExtractLsb', ↓reduceIte, Bool.false_eq_true, Bool.false_and, Bool.true_and]

theorem RoundTrip.idivUns (g : Guard) (d : BitVec 7) (a : BitVec 7) : RoundTrip.Statement (.idivUns g d a) := by
  intro _ _
  refine (decode_at_0F (mk_major _ _ _)).trans ?_
  simp (disch := omega) only [decode0F, mk_guard, mk_payload, pay_7_7_7_at_0_7, pay_7_7_7_at_14_7, pay_7_7_7_at_7_7, BitVec.reduceBEq, BitVec.reduceExtractLsb', ↓reduceIte, Bool.false_eq_true, Bool.false_and, Bool.true_and]

theorem RoundTrip.irem (g : Guard) (d : BitVec 7) (a : BitVec 7) : RoundTrip.Statement (.irem g d a) := by
  intro _ _
  refine (decode_at_0F (mk_major _ _ _)).trans ?_
  simp (disch := omega) only [decode0F, mk_guard, mk_payload, pay_7_7_7_at_0_7, pay_7_7_7_at_14_7, pay_7_7_7_at_7_7, BitVec.reduceBEq, BitVec.reduceExtractLsb', ↓reduceIte, Bool.false_eq_true, Bool.false_and, Bool.true_and]

theorem RoundTrip.iremUns (g : Guard) (d : BitVec 7) (a : BitVec 7) : RoundTrip.Statement (.iremUns g d a) := by
  intro _ _
  refine (decode_at_0F (mk_major _ _ _)).trans ?_
  simp (disch := omega) only [decode0F, mk_guard, mk_payload, pay_7_7_7_at_0_7, pay_7_7_7_at_14_7, pay_7_7_7_at_7_7, BitVec.reduceBEq, BitVec.reduceExtractLsb', ↓reduceIte, Bool.false_eq_true, Bool.false_and, Bool.true_and]

theorem RoundTrip.imin (g : Guard) (d : BitVec 7) (a : BitVec 7) : RoundTrip.Statement (.imin g d a) := by
  intro _ _
  refine (decode_at_0F (mk_major _ _ _)).trans ?_
  simp (disch := omega) only [decode0F, mk_guard, mk_payload, pay_7_7_7_at_0_7, pay_7_7_7_at_14_7, pay_7_7_7_at_7_7, BitVec.reduceBEq, BitVec.reduceExtractLsb', ↓reduceIte, Bool.false_eq_true, Bool.false_and, Bool.true_and]

theorem RoundTrip.iminUns (g : Guard) (d : BitVec 7) (a : BitVec 7) : RoundTrip.Statement (.iminUns g d a) := by
  intro _ _
  refine (decode_at_0F (mk_major _ _ _)).trans ?_
  simp (disch := omega) only [decode0F, mk_guard, mk_payload, pay_7_7_7_at_0_7, pay_7_7_7_at_14_7, pay_7_7_7_at_7_7, BitVec.reduceBEq, BitVec.reduceExtractLsb', ↓reduceIte, Bool.false_eq_true, Bool.false_and, Bool.true_and]

theorem RoundTrip.imax (g : Guard) (d : BitVec 7) (a : BitVec 7) : RoundTrip.Statement (.imax g d a) := by
  intro _ _
  refine (decode_at_0F (mk_major _ _ _)).trans ?_
  simp (disch := omega) only [decode0F, mk_guard, mk_payload, pay_7_7_7_at_0_7, pay_7_7_7_at_14_7, pay_7_7_7_at_7_7, BitVec.reduceBEq, BitVec.reduceExtractLsb', ↓reduceIte, Bool.false_eq_true, Bool.false_and, Bool.true_and]

theorem RoundTrip.imaxUns (g : Guard) (d : BitVec 7) (a : BitVec 7) : RoundTrip.Statement (.imaxUns g d a) := by
  intro _ _
  refine (decode_at_0F (mk_major _ _ _)).trans ?_
  simp (disch := omega) only [decode0F, mk_guard, mk_payload, pay_7_7_7_at_0_7, pay_7_7_7_at_14_7, pay_7_7_7_at_7_7, BitVec.reduceBEq, BitVec.reduceExtractLsb', ↓reduceIte, Bool.false_eq_true, Bool.false_and, Bool.true_and]

theorem RoundTrip.andn (g : Guard) (d : BitVec 7) (a : BitVec 7) : RoundTrip.Statement (.andn g d a) := by
  intro _ _
  refine (decode_at_0F (mk_major _ _ _)).trans ?_
  simp (disch := omega) only [decode0F, mk_guard, mk_payload, pay_7_7_7_at_0_7, pay_7_7_7_at_14_7, pay_7_7_7_at_7_7, BitVec.reduceBEq, BitVec.reduceExtractLsb', ↓reduceIte, Bool.false_eq_true, Bool.false_and, Bool.true_and]

theorem RoundTrip.sar (g : Guard) (d : BitVec 7) (a : BitVec 7) : RoundTrip.Statement (.sar g d a) := by
  intro _ _
  refine (decode_at_0F (mk_major _ _ _)).trans ?_
  simp (disch := omega) only [decode0F, mk_guard, mk_payload, pay_7_7_7_at_0_7, pay_7_7_7_at_14_7, pay_7_7_7_at_7_7, BitVec.reduceBEq, BitVec.reduceExtractLsb', ↓reduceIte, Bool.false_eq_true, Bool.false_and, Bool.true_and]

theorem RoundTrip.rotl (g : Guard) (d : BitVec 7) (a : BitVec 7) : RoundTrip.Statement (.rotl g d a) := by
  intro _ _
  refine (decode_at_0F (mk_major _ _ _)).trans ?_
  simp (disch := omega) only [decode0F, mk_guard, mk_payload, pay_7_7_7_at_0_7, pay_7_7_7_at_14_7, pay_7_7_7_at_7_7, BitVec.reduceBEq, BitVec.reduceExtractLsb', ↓reduceIte, Bool.false_eq_true, Bool.false_and, Bool.true_and]

theorem RoundTrip.bfx (g : Guard) (d : BitVec 7) (a : BitVec 7) : RoundTrip.Statement (.bfx g d a) := by
  intro _ _
  refine (decode_at_0F (mk_major _ _ _)).trans ?_
  simp (disch := omega) only [decode0F, mk_guard, mk_payload, pay_7_7_7_at_0_7, pay_7_7_7_at_14_7, pay_7_7_7_at_7_7, BitVec.reduceBEq, BitVec.reduceExtractLsb', ↓reduceIte, Bool.false_eq_true, Bool.false_and, Bool.true_and]

theorem RoundTrip.bfxUns (g : Guard) (d : BitVec 7) (a : BitVec 7) : RoundTrip.Statement (.bfxUns g d a) := by
  intro _ _
  refine (decode_at_0F (mk_major _ _ _)).trans ?_
  simp (disch := omega) only [decode0F, mk_guard, mk_payload, pay_7_7_7_at_0_7, pay_7_7_7_at_14_7, pay_7_7_7_at_7_7, BitVec.reduceBEq, BitVec.reduceExtractLsb', ↓reduceIte, Bool.false_eq_true, Bool.false_and, Bool.true_and]

theorem RoundTrip.iaddD (g : Guard) (d : BitVec 7) (a : BitVec 7) : RoundTrip.Statement (.iaddD g d a) := by
  intro _ (h : (even d && even a) = true)
  simp only [Bool.and_eq_true] at h
  refine (decode_at_0F (mk_major _ _ _)).trans ?_
  simp (disch := omega) only [decode0F, mk_guard, mk_payload, pay_7_7_7_at_0_7, pay_7_7_7_at_14_7, pay_7_7_7_at_7_7, BitVec.reduceBEq, BitVec.reduceExtractLsb', ↓reduceIte, Bool.false_eq_true, Bool.false_and, Bool.true_and]
  simp only [need, BitVec.reduceBEq, Bool.and_true, Bool.true_and, Bool.and_eq_true, h, and_self, ↓reduceIte]

theorem RoundTrip.isubD (g : Guard) (d : BitVec 7) (a : BitVec 7) : RoundTrip.Statement (.isubD g d a) := by
  intro _ (h : (even d && even a) = true)
  simp only [Bool.and_eq_true] at h
  refine (decode_at_0F (mk_major _ _ _)).trans ?_
  simp (disch := omega) only [decode0F, mk_guard, mk_payload, pay_7_7_7_at_0_7, pay_7_7_7_at_14_7, pay_7_7_7_at_7_7, BitVec.reduceBEq, BitVec.reduceExtractLsb', ↓reduceIte, Bool.false_eq_true, Bool.false_and, Bool.true_and]
  simp only [need, BitVec.reduceBEq, Bool.and_true, Bool.true_and, Bool.and_eq_true, h, and_self, ↓reduceIte]

theorem RoundTrip.imulD (g : Guard) (d : BitVec 7) (a : BitVec 7) : RoundTrip.Statement (.imulD g d a) := by
  intro _ (h : (even d && even a) = true)
  simp only [Bool.and_eq_true] at h
  refine (decode_at_0F (mk_major _ _ _)).trans ?_
  simp (disch := omega) only [decode0F, mk_guard, mk_payload, pay_7_7_7_at_0_7, pay_7_7_7_at_14_7, pay_7_7_7_at_7_7, BitVec.reduceBEq, BitVec.reduceExtractLsb', ↓reduceIte, Bool.false_eq_true, Bool.false_and, Bool.true_and]
  simp only [need, BitVec.reduceBEq, Bool.and_true, Bool.true_and, Bool.and_eq_true, h, and_self, ↓reduceIte]

theorem RoundTrip.andD (g : Guard) (d : BitVec 7) (a : BitVec 7) : RoundTrip.Statement (.andD g d a) := by
  intro _ (h : (even d && even a) = true)
  simp only [Bool.and_eq_true] at h
  refine (decode_at_0F (mk_major _ _ _)).trans ?_
  simp (disch := omega) only [decode0F, mk_guard, mk_payload, pay_7_7_7_at_0_7, pay_7_7_7_at_14_7, pay_7_7_7_at_7_7, BitVec.reduceBEq, BitVec.reduceExtractLsb', ↓reduceIte, Bool.false_eq_true, Bool.false_and, Bool.true_and]
  simp only [need, BitVec.reduceBEq, Bool.and_true, Bool.true_and, Bool.and_eq_true, h, and_self, ↓reduceIte]

theorem RoundTrip.orD (g : Guard) (d : BitVec 7) (a : BitVec 7) : RoundTrip.Statement (.orD g d a) := by
  intro _ (h : (even d && even a) = true)
  simp only [Bool.and_eq_true] at h
  refine (decode_at_0F (mk_major _ _ _)).trans ?_
  simp (disch := omega) only [decode0F, mk_guard, mk_payload, pay_7_7_7_at_0_7, pay_7_7_7_at_14_7, pay_7_7_7_at_7_7, BitVec.reduceBEq, BitVec.reduceExtractLsb', ↓reduceIte, Bool.false_eq_true, Bool.false_and, Bool.true_and]
  simp only [need, BitVec.reduceBEq, Bool.and_true, Bool.true_and, Bool.and_eq_true, h, and_self, ↓reduceIte]

theorem RoundTrip.xorD (g : Guard) (d : BitVec 7) (a : BitVec 7) : RoundTrip.Statement (.xorD g d a) := by
  intro _ (h : (even d && even a) = true)
  simp only [Bool.and_eq_true] at h
  refine (decode_at_0F (mk_major _ _ _)).trans ?_
  simp (disch := omega) only [decode0F, mk_guard, mk_payload, pay_7_7_7_at_0_7, pay_7_7_7_at_14_7, pay_7_7_7_at_7_7, BitVec.reduceBEq, BitVec.reduceExtractLsb', ↓reduceIte, Bool.false_eq_true, Bool.false_and, Bool.true_and]
  simp only [need, BitVec.reduceBEq, Bool.and_true, Bool.true_and, Bool.and_eq_true, h, and_self, ↓reduceIte]

theorem RoundTrip.andnD (g : Guard) (d : BitVec 7) (a : BitVec 7) : RoundTrip.Statement (.andnD g d a) := by
  intro _ (h : (even d && even a) = true)
  simp only [Bool.and_eq_true] at h
  refine (decode_at_0F (mk_major _ _ _)).trans ?_
  simp (disch := omega) only [decode0F, mk_guard, mk_payload, pay_7_7_7_at_0_7, pay_7_7_7_at_14_7, pay_7_7_7_at_7_7, BitVec.reduceBEq, BitVec.reduceExtractLsb', ↓reduceIte, Bool.false_eq_true, Bool.false_and, Bool.true_and]
  simp only [need, BitVec.reduceBEq, Bool.and_true, Bool.true_and, Bool.and_eq_true, h, and_self, ↓reduceIte]

theorem RoundTrip.iminD (g : Guard) (d : BitVec 7) (a : BitVec 7) : RoundTrip.Statement (.iminD g d a) := by
  intro _ (h : (even d && even a) = true)
  simp only [Bool.and_eq_true] at h
  refine (decode_at_0F (mk_major _ _ _)).trans ?_
  simp (disch := omega) only [decode0F, mk_guard, mk_payload, pay_7_7_7_at_0_7, pay_7_7_7_at_14_7, pay_7_7_7_at_7_7, BitVec.reduceBEq, BitVec.reduceExtractLsb', ↓reduceIte, Bool.false_eq_true, Bool.false_and, Bool.true_and]
  simp only [need, BitVec.reduceBEq, Bool.and_true, Bool.true_and, Bool.and_eq_true, h, and_self, ↓reduceIte]

theorem RoundTrip.shlD (g : Guard) (d : BitVec 7) (a : BitVec 7) : RoundTrip.Statement (.shlD g d a) := by
  intro _ (h : (even d) = true)
  refine (decode_at_0F (mk_major _ _ _)).trans ?_
  simp (disch := omega) only [decode0F, mk_guard, mk_payload, pay_7_7_7_at_0_7, pay_7_7_7_at_14_7, pay_7_7_7_at_7_7, BitVec.reduceBEq, BitVec.reduceExtractLsb', ↓reduceIte, Bool.false_eq_true, Bool.false_and, Bool.true_and]
  simp only [need, BitVec.reduceBEq, Bool.and_true, Bool.true_and, Bool.and_eq_true, h, and_self, ↓reduceIte]

theorem RoundTrip.shrD (g : Guard) (d : BitVec 7) (a : BitVec 7) : RoundTrip.Statement (.shrD g d a) := by
  intro _ (h : (even d) = true)
  refine (decode_at_0F (mk_major _ _ _)).trans ?_
  simp (disch := omega) only [decode0F, mk_guard, mk_payload, pay_7_7_7_at_0_7, pay_7_7_7_at_14_7, pay_7_7_7_at_7_7, BitVec.reduceBEq, BitVec.reduceExtractLsb', ↓reduceIte, Bool.false_eq_true, Bool.false_and, Bool.true_and]
  simp only [need, BitVec.reduceBEq, Bool.and_true, Bool.true_and, Bool.and_eq_true, h, and_self, ↓reduceIte]

theorem RoundTrip.sarD (g : Guard) (d : BitVec 7) (a : BitVec 7) : RoundTrip.Statement (.sarD g d a) := by
  intro _ (h : (even d) = true)
  refine (decode_at_0F (mk_major _ _ _)).trans ?_
  simp (disch := omega) only [decode0F, mk_guard, mk_payload, pay_7_7_7_at_0_7, pay_7_7_7_at_14_7, pay_7_7_7_at_7_7, BitVec.reduceBEq, BitVec.reduceExtractLsb', ↓reduceIte, Bool.false_eq_true, Bool.false_and, Bool.true_and]
  simp only [need, BitVec.reduceBEq, Bool.and_true, Bool.true_and, Bool.and_eq_true, h, and_self, ↓reduceIte]

theorem RoundTrip.rotlD (g : Guard) (d : BitVec 7) (a : BitVec 7) : RoundTrip.Statement (.rotlD g d a) := by
  intro _ (h : (even d) = true)
  refine (decode_at_0F (mk_major _ _ _)).trans ?_
  simp (disch := omega) only [decode0F, mk_guard, mk_payload, pay_7_7_7_at_0_7, pay_7_7_7_at_14_7, pay_7_7_7_at_7_7, BitVec.reduceBEq, BitVec.reduceExtractLsb', ↓reduceIte, Bool.false_eq_true, Bool.false_and, Bool.true_and]
  simp only [need, BitVec.reduceBEq, Bool.and_true, Bool.true_and, Bool.and_eq_true, h, and_self, ↓reduceIte]

theorem RoundTrip.iminDUns (g : Guard) (d : BitVec 7) (a : BitVec 7) : RoundTrip.Statement (.iminDUns g d a) := by
  intro _ (h : (even d && even a) = true)
  simp only [Bool.and_eq_true] at h
  refine (decode_at_0F (mk_major _ _ _)).trans ?_
  simp (disch := omega) only [decode0F, mk_guard, mk_payload, pay_7_7_7_at_0_7, pay_7_7_7_at_14_7, pay_7_7_7_at_7_7, BitVec.reduceBEq, BitVec.reduceExtractLsb', ↓reduceIte, Bool.false_eq_true, Bool.false_and, Bool.true_and]
  simp only [need, BitVec.reduceBEq, Bool.and_true, Bool.true_and, Bool.and_eq_true, h, and_self, ↓reduceIte]

theorem RoundTrip.imaxD (g : Guard) (d : BitVec 7) (a : BitVec 7) : RoundTrip.Statement (.imaxD g d a) := by
  intro _ (h : (even d && even a) = true)
  simp only [Bool.and_eq_true] at h
  refine (decode_at_0F (mk_major _ _ _)).trans ?_
  simp (disch := omega) only [decode0F, mk_guard, mk_payload, pay_7_7_7_at_0_7, pay_7_7_7_at_14_7, pay_7_7_7_at_7_7, BitVec.reduceBEq, BitVec.reduceExtractLsb', ↓reduceIte, Bool.false_eq_true, Bool.false_and, Bool.true_and]
  simp only [need, BitVec.reduceBEq, Bool.and_true, Bool.true_and, Bool.and_eq_true, h, and_self, ↓reduceIte]

theorem RoundTrip.imaxDUns (g : Guard) (d : BitVec 7) (a : BitVec 7) : RoundTrip.Statement (.imaxDUns g d a) := by
  intro _ (h : (even d && even a) = true)
  simp only [Bool.and_eq_true] at h
  refine (decode_at_0F (mk_major _ _ _)).trans ?_
  simp (disch := omega) only [decode0F, mk_guard, mk_payload, pay_7_7_7_at_0_7, pay_7_7_7_at_14_7, pay_7_7_7_at_7_7, BitVec.reduceBEq, BitVec.reduceExtractLsb', ↓reduceIte, Bool.false_eq_true, Bool.false_and, Bool.true_and]
  simp only [need, BitVec.reduceBEq, Bool.and_true, Bool.true_and, Bool.and_eq_true, h, and_self, ↓reduceIte]

theorem RoundTrip.mov (g : Guard) (d : BitVec 7) (a : BitVec 7) : RoundTrip.Statement (.mov g d a) := by
  intro _ _
  refine (decode_at_10 (mk_major _ _ _)).trans ?_
  simp (disch := omega) only [decode10, mk_guard, mk_payload, pay_7_7_7_at_0_7, pay_7_7_7_at_14_7, pay_7_7_7_at_7_7, BitVec.reduceBEq, BitVec.reduceExtractLsb', ↓reduceIte, Bool.false_eq_true, Bool.false_and, Bool.true_and]

theorem RoundTrip.iabs (g : Guard) (d : BitVec 7) (a : BitVec 7) : RoundTrip.Statement (.iabs g d a) := by
  intro _ _
  refine (decode_at_10 (mk_major _ _ _)).trans ?_
  simp (disch := omega) only [decode10, mk_guard, mk_payload, pay_7_7_7_at_0_7, pay_7_7_7_at_14_7, pay_7_7_7_at_7_7, BitVec.reduceBEq, BitVec.reduceExtractLsb', ↓reduceIte, Bool.false_eq_true, Bool.false_and, Bool.true_and]

theorem RoundTrip.ineg (g : Guard) (d : BitVec 7) (a : BitVec 7) : RoundTrip.Statement (.ineg g d a) := by
  intro _ _
  refine (decode_at_10 (mk_major _ _ _)).trans ?_
  simp (disch := omega) only [decode10, mk_guard, mk_payload, pay_7_7_7_at_0_7, pay_7_7_7_at_14_7, pay_7_7_7_at_7_7, BitVec.reduceBEq, BitVec.reduceExtractLsb', ↓reduceIte, Bool.false_eq_true, Bool.false_and, Bool.true_and]

theorem RoundTrip.not (g : Guard) (d : BitVec 7) (a : BitVec 7) : RoundTrip.Statement (.not g d a) := by
  intro _ _
  refine (decode_at_10 (mk_major _ _ _)).trans ?_
  simp (disch := omega) only [decode10, mk_guard, mk_payload, pay_7_7_7_at_0_7, pay_7_7_7_at_14_7, pay_7_7_7_at_7_7, BitVec.reduceBEq, BitVec.reduceExtractLsb', ↓reduceIte, Bool.false_eq_true, Bool.false_and, Bool.true_and]

theorem RoundTrip.popc (g : Guard) (d : BitVec 7) (a : BitVec 7) : RoundTrip.Statement (.popc g d a) := by
  intro _ _
  refine (decode_at_10 (mk_major _ _ _)).trans ?_
  simp (disch := omega) only [decode10, mk_guard, mk_payload, pay_7_7_7_at_0_7, pay_7_7_7_at_14_7, pay_7_7_7_at_7_7, BitVec.reduceBEq, BitVec.reduceExtractLsb', ↓reduceIte, Bool.false_eq_true, Bool.false_and, Bool.true_and]

theorem RoundTrip.clz (g : Guard) (d : BitVec 7) (a : BitVec 7) : RoundTrip.Statement (.clz g d a) := by
  intro _ _
  refine (decode_at_10 (mk_major _ _ _)).trans ?_
  simp (disch := omega) only [decode10, mk_guard, mk_payload, pay_7_7_7_at_0_7, pay_7_7_7_at_14_7, pay_7_7_7_at_7_7, BitVec.reduceBEq, BitVec.reduceExtractLsb', ↓reduceIte, Bool.false_eq_true, Bool.false_and, Bool.true_and]

theorem RoundTrip.ctz (g : Guard) (d : BitVec 7) (a : BitVec 7) : RoundTrip.Statement (.ctz g d a) := by
  intro _ _
  refine (decode_at_10 (mk_major _ _ _)).trans ?_
  simp (disch := omega) only [decode10, mk_guard, mk_payload, pay_7_7_7_at_0_7, pay_7_7_7_at_14_7, pay_7_7_7_at_7_7, BitVec.reduceBEq, BitVec.reduceExtractLsb', ↓reduceIte, Bool.false_eq_true, Bool.false_and, Bool.true_and]

theorem RoundTrip.brev (g : Guard) (d : BitVec 7) (a : BitVec 7) : RoundTrip.Statement (.brev g d a) := by
  intro _ _
  refine (decode_at_10 (mk_major _ _ _)).trans ?_
  simp (disch := omega) only [decode10, mk_guard, mk_payload, pay_7_7_7_at_0_7, pay_7_7_7_at_14_7, pay_7_7_7_at_7_7, BitVec.reduceBEq, BitVec.reduceExtractLsb', ↓reduceIte, Bool.false_eq_true, Bool.false_and, Bool.true_and]

theorem RoundTrip.movD (g : Guard) (d : BitVec 7) (a : BitVec 7) : RoundTrip.Statement (.movD g d a) := by
  intro _ (h : (even d && even a) = true)
  simp only [Bool.and_eq_true] at h
  refine (decode_at_10 (mk_major _ _ _)).trans ?_
  simp (disch := omega) only [decode10, mk_guard, mk_payload, pay_7_7_7_at_0_7, pay_7_7_7_at_14_7, pay_7_7_7_at_7_7, BitVec.reduceBEq, BitVec.reduceExtractLsb', ↓reduceIte, Bool.false_eq_true, Bool.false_and, Bool.true_and]
  simp only [need, BitVec.reduceBEq, Bool.and_true, Bool.true_and, Bool.and_eq_true, h, and_self, ↓reduceIte]

theorem RoundTrip.iabsD (g : Guard) (d : BitVec 7) (a : BitVec 7) : RoundTrip.Statement (.iabsD g d a) := by
  intro _ (h : (even d && even a) = true)
  simp only [Bool.and_eq_true] at h
  refine (decode_at_10 (mk_major _ _ _)).trans ?_
  simp (disch := omega) only [decode10, mk_guard, mk_payload, pay_7_7_7_at_0_7, pay_7_7_7_at_14_7, pay_7_7_7_at_7_7, BitVec.reduceBEq, BitVec.reduceExtractLsb', ↓reduceIte, Bool.false_eq_true, Bool.false_and, Bool.true_and]
  simp only [need, BitVec.reduceBEq, Bool.and_true, Bool.true_and, Bool.and_eq_true, h, and_self, ↓reduceIte]

theorem RoundTrip.inegD (g : Guard) (d : BitVec 7) (a : BitVec 7) : RoundTrip.Statement (.inegD g d a) := by
  intro _ (h : (even d && even a) = true)
  simp only [Bool.and_eq_true] at h
  refine (decode_at_10 (mk_major _ _ _)).trans ?_
  simp (disch := omega) only [decode10, mk_guard, mk_payload, pay_7_7_7_at_0_7, pay_7_7_7_at_14_7, pay_7_7_7_at_7_7, BitVec.reduceBEq, BitVec.reduceExtractLsb', ↓reduceIte, Bool.false_eq_true, Bool.false_and, Bool.true_and]
  simp only [need, BitVec.reduceBEq, Bool.and_true, Bool.true_and, Bool.and_eq_true, h, and_self, ↓reduceIte]

theorem RoundTrip.notD (g : Guard) (d : BitVec 7) (a : BitVec 7) : RoundTrip.Statement (.notD g d a) := by
  intro _ (h : (even d && even a) = true)
  simp only [Bool.and_eq_true] at h
  refine (decode_at_10 (mk_major _ _ _)).trans ?_
  simp (disch := omega) only [decode10, mk_guard, mk_payload, pay_7_7_7_at_0_7, pay_7_7_7_at_14_7, pay_7_7_7_at_7_7, BitVec.reduceBEq, BitVec.reduceExtractLsb', ↓reduceIte, Bool.false_eq_true, Bool.false_and, Bool.true_and]
  simp only [need, BitVec.reduceBEq, Bool.and_true, Bool.true_and, Bool.and_eq_true, h, and_self, ↓reduceIte]

theorem RoundTrip.popcD (g : Guard) (d : BitVec 7) (a : BitVec 7) : RoundTrip.Statement (.popcD g d a) := by
  intro _ (h : (even a) = true)
  refine (decode_at_10 (mk_major _ _ _)).trans ?_
  simp (disch := omega) only [decode10, mk_guard, mk_payload, pay_7_7_7_at_0_7, pay_7_7_7_at_7_7, pay_7_7_7_at_14_7, BitVec.reduceBEq, BitVec.reduceExtractLsb', ↓reduceIte, Bool.false_eq_true, Bool.false_and, Bool.true_and]
  simp only [need, BitVec.reduceBEq, Bool.and_true, Bool.true_and, Bool.and_eq_true, h, and_self, ↓reduceIte]

theorem RoundTrip.clzD (g : Guard) (d : BitVec 7) (a : BitVec 7) : RoundTrip.Statement (.clzD g d a) := by
  intro _ (h : (even a) = true)
  refine (decode_at_10 (mk_major _ _ _)).trans ?_
  simp (disch := omega) only [decode10, mk_guard, mk_payload, pay_7_7_7_at_0_7, pay_7_7_7_at_7_7, pay_7_7_7_at_14_7, BitVec.reduceBEq, BitVec.reduceExtractLsb', ↓reduceIte, Bool.false_eq_true, Bool.false_and, Bool.true_and]
  simp only [need, BitVec.reduceBEq, Bool.and_true, Bool.true_and, Bool.and_eq_true, h, and_self, ↓reduceIte]

theorem RoundTrip.ctzD (g : Guard) (d : BitVec 7) (a : BitVec 7) : RoundTrip.Statement (.ctzD g d a) := by
  intro _ (h : (even a) = true)
  refine (decode_at_10 (mk_major _ _ _)).trans ?_
  simp (disch := omega) only [decode10, mk_guard, mk_payload, pay_7_7_7_at_0_7, pay_7_7_7_at_7_7, pay_7_7_7_at_14_7, BitVec.reduceBEq, BitVec.reduceExtractLsb', ↓reduceIte, Bool.false_eq_true, Bool.false_and, Bool.true_and]
  simp only [need, BitVec.reduceBEq, Bool.and_true, Bool.true_and, Bool.and_eq_true, h, and_self, ↓reduceIte]

theorem RoundTrip.brevD (g : Guard) (d : BitVec 7) (a : BitVec 7) : RoundTrip.Statement (.brevD g d a) := by
  intro _ (h : (even d && even a) = true)
  simp only [Bool.and_eq_true] at h
  refine (decode_at_10 (mk_major _ _ _)).trans ?_
  simp (disch := omega) only [decode10, mk_guard, mk_payload, pay_7_7_7_at_0_7, pay_7_7_7_at_14_7, pay_7_7_7_at_7_7, BitVec.reduceBEq, BitVec.reduceExtractLsb', ↓reduceIte, Bool.false_eq_true, Bool.false_and, Bool.true_and]
  simp only [need, BitVec.reduceBEq, Bool.and_true, Bool.true_and, Bool.and_eq_true, h, and_self, ↓reduceIte]

theorem RoundTrip.iaddImm (g : Guard) (d : BitVec 7) (a : BitVec 7) (i : BitVec 7) : RoundTrip.Statement (.iaddImm g d a i) := by
  intro _ _
  refine (decode_at_11 (mk_major _ _ _)).trans ?_
  simp (disch := omega) only [mk_guard, mk_payload, pay_7_7_7_at_14_7, pay_7_7_7_at_7_7, pay_7_7_7_at_0_7]

theorem RoundTrip.shlImm (g : Guard) (d : BitVec 7) (a : BitVec 7) (n : BitVec 5) : RoundTrip.Statement (.shlImm g d a n) := by
  intro _ _
  refine (decode_at_12 (mk_major _ _ _)).trans ?_
  simp (disch := omega) only [decode12, mk_guard, mk_payload, pay_7_7_2_5_at_5_2, pay_7_7_2_5_at_14_7, pay_7_7_2_5_at_7_7, pay_7_7_2_5_at_0_5, BitVec.reduceBEq, BitVec.reduceExtractLsb', ↓reduceIte, Bool.false_eq_true, Bool.false_and, Bool.true_and]

theorem RoundTrip.shrImm (g : Guard) (d : BitVec 7) (a : BitVec 7) (n : BitVec 5) : RoundTrip.Statement (.shrImm g d a n) := by
  intro _ _
  refine (decode_at_12 (mk_major _ _ _)).trans ?_
  simp (disch := omega) only [decode12, mk_guard, mk_payload, pay_7_7_2_5_at_5_2, pay_7_7_2_5_at_14_7, pay_7_7_2_5_at_7_7, pay_7_7_2_5_at_0_5, BitVec.reduceBEq, BitVec.reduceExtractLsb', ↓reduceIte, Bool.false_eq_true, Bool.false_and, Bool.true_and]

theorem RoundTrip.sarImm (g : Guard) (d : BitVec 7) (a : BitVec 7) (n : BitVec 5) : RoundTrip.Statement (.sarImm g d a n) := by
  intro _ _
  refine (decode_at_12 (mk_major _ _ _)).trans ?_
  simp (disch := omega) only [decode12, mk_guard, mk_payload, pay_7_7_2_5_at_5_2, pay_7_7_2_5_at_14_7, pay_7_7_2_5_at_7_7, pay_7_7_2_5_at_0_5, BitVec.reduceBEq, BitVec.reduceExtractLsb', ↓reduceIte, Bool.false_eq_true, Bool.false_and, Bool.true_and]

theorem RoundTrip.rotlImm (g : Guard) (d : BitVec 7) (a : BitVec 7) (n : BitVec 5) : RoundTrip.Statement (.rotlImm g d a n) := by
  intro _ _
  refine (decode_at_12 (mk_major _ _ _)).trans ?_
  simp (disch := omega) only [decode12, mk_guard, mk_payload, pay_7_7_2_5_at_5_2, pay_7_7_2_5_at_14_7, pay_7_7_2_5_at_7_7, pay_7_7_2_5_at_0_5, BitVec.reduceBEq, BitVec.reduceExtractLsb', ↓reduceIte, Bool.false_eq_true, Bool.false_and, Bool.true_and]

theorem RoundTrip.movi (g : Guard) (d : BitVec 7) (i : BitVec 14) : RoundTrip.Statement (.movi g d i) := by
  intro _ _
  refine (decode_at_13 (mk_major _ _ _)).trans ?_
  simp (disch := omega) only [mk_guard, mk_payload, pay_7_14_at_14_7, pay_7_14_at_0_14]

theorem RoundTrip.movhi (g : Guard) (d : BitVec 7) (i : BitVec 14) : RoundTrip.Statement (.movhi g d i) := by
  intro _ _
  refine (decode_at_14 (mk_major _ _ _)).trans ?_
  simp (disch := omega) only [mk_guard, mk_payload, pay_7_14_at_14_7, pay_7_14_at_0_14]

theorem RoundTrip.pand (g : Guard) (q : BitVec 3) (a : BitVec 7) (b : BitVec 7) : RoundTrip.Statement (.pand g q a b) := by
  intro _ (h : (below 8 a && below 8 b) = true)
  simp only [Bool.and_eq_true] at h
  refine (decode_at_15 (mk_major _ _ _)).trans ?_
  simp (disch := omega) only [decode15, mk_guard, mk_payload, pay_4_3_7_7_at_17_4, pay_4_3_7_7_at_7_7, pay_4_3_7_7_at_0_7, pay_4_3_7_7_at_14_3, BitVec.reduceBEq, BitVec.reduceExtractLsb', ↓reduceIte, Bool.false_eq_true, Bool.false_and, Bool.true_and]
  simp only [need, BitVec.reduceBEq, Bool.and_true, Bool.true_and, Bool.and_eq_true, h, and_self, ↓reduceIte]

theorem RoundTrip.por (g : Guard) (q : BitVec 3) (a : BitVec 7) (b : BitVec 7) : RoundTrip.Statement (.por g q a b) := by
  intro _ (h : (below 8 a && below 8 b) = true)
  simp only [Bool.and_eq_true] at h
  refine (decode_at_15 (mk_major _ _ _)).trans ?_
  simp (disch := omega) only [decode15, mk_guard, mk_payload, pay_4_3_7_7_at_17_4, pay_4_3_7_7_at_7_7, pay_4_3_7_7_at_0_7, pay_4_3_7_7_at_14_3, BitVec.reduceBEq, BitVec.reduceExtractLsb', ↓reduceIte, Bool.false_eq_true, Bool.false_and, Bool.true_and]
  simp only [need, BitVec.reduceBEq, Bool.and_true, Bool.true_and, Bool.and_eq_true, h, and_self, ↓reduceIte]

theorem RoundTrip.pxor (g : Guard) (q : BitVec 3) (a : BitVec 7) (b : BitVec 7) : RoundTrip.Statement (.pxor g q a b) := by
  intro _ (h : (below 8 a && below 8 b) = true)
  simp only [Bool.and_eq_true] at h
  refine (decode_at_15 (mk_major _ _ _)).trans ?_
  simp (disch := omega) only [decode15, mk_guard, mk_payload, pay_4_3_7_7_at_17_4, pay_4_3_7_7_at_7_7, pay_4_3_7_7_at_0_7, pay_4_3_7_7_at_14_3, BitVec.reduceBEq, BitVec.reduceExtractLsb', ↓reduceIte, Bool.false_eq_true, Bool.false_and, Bool.true_and]
  simp only [need, BitVec.reduceBEq, Bool.and_true, Bool.true_and, Bool.and_eq_true, h, and_self, ↓reduceIte]

theorem RoundTrip.pnot (g : Guard) (q : BitVec 3) (a : BitVec 7) : RoundTrip.Statement (.pnot g q a) := by
  intro _ (h : (below 8 a) = true)
  refine (decode_at_15 (mk_major _ _ _)).trans ?_
  simp (disch := omega) only [decode15, mk_guard, mk_payload, pay_4_3_7_7_at_17_4, pay_4_3_7_7_at_0_7, pay_4_3_7_7_at_7_7, pay_4_3_7_7_at_14_3, BitVec.reduceBEq, BitVec.reduceExtractLsb', ↓reduceIte, Bool.false_eq_true, Bool.false_and, Bool.true_and]
  simp only [need, BitVec.reduceBEq, Bool.and_true, Bool.true_and, Bool.and_eq_true, h, and_self, ↓reduceIte]

theorem RoundTrip.mfs (g : Guard) (d : BitVec 7) (r : BitVec 6) : RoundTrip.Statement (.mfs g d r) := by
  intro _ (h : (spReadable r && spWidth r d) = true)
  simp only [Bool.and_eq_true] at h
  refine (decode_at_16 (mk_major _ _ _)).trans ?_
  simp (disch := omega) only [decode16, mk_guard, mk_payload, pay_7_8_6_at_6_1, pay_7_8_6_at_0_6, pay_7_8_6_at_7_7, pay_7_8_6_at_14_7, BitVec.reduceBEq, BitVec.reduceExtractLsb', ↓reduceIte, Bool.false_eq_true, Bool.false_and, Bool.true_and]
  simp only [need, BitVec.reduceBEq, Bool.and_true, Bool.true_and, Bool.and_eq_true, h, and_self, ↓reduceIte]

theorem RoundTrip.mts (g : Guard) (a : BitVec 7) (r : BitVec 6) : RoundTrip.Statement (.mts g a r) := by
  intro _ (h : (spWritable r && spWidth r a) = true)
  simp only [Bool.and_eq_true] at h
  refine (decode_at_16 (mk_major _ _ _)).trans ?_
  simp (disch := omega) only [decode16, mk_guard, mk_payload, pay_7_7_1_6_at_6_1, pay_7_7_1_6_at_0_6, pay_7_7_1_6_at_14_7, pay_7_7_1_6_at_7_7, BitVec.reduceBEq, BitVec.reduceExtractLsb', ↓reduceIte, Bool.false_eq_true, Bool.false_and, Bool.true_and]
  simp only [need, BitVec.reduceBEq, Bool.and_true, Bool.true_and, Bool.and_eq_true, h, and_self, ↓reduceIte]

theorem RoundTrip.mvs (g : Guard) (d : BitVec 7) (a : BitVec 7) : RoundTrip.Statement (.mvs g d a) := by
  intro _ (h : (below 64 a) = true)
  refine (decode_at_17 (mk_major _ _ _)).trans ?_
  simp (disch := omega) only [decode17, mk_guard, mk_payload, pay_7_7_7_at_0_7, pay_7_7_7_at_7_7, pay_7_7_7_at_14_7, BitVec.reduceBEq, BitVec.reduceExtractLsb', ↓reduceIte, Bool.false_eq_true, Bool.false_and, Bool.true_and]
  simp only [need, BitVec.reduceBEq, Bool.and_true, Bool.true_and, Bool.and_eq_true, h, and_self, ↓reduceIte]

theorem RoundTrip.mvsD (g : Guard) (d : BitVec 7) (a : BitVec 7) : RoundTrip.Statement (.mvsD g d a) := by
  intro _ (h : (even d && below 64 a) = true)
  simp only [Bool.and_eq_true] at h
  refine (decode_at_17 (mk_major _ _ _)).trans ?_
  simp (disch := omega) only [decode17, mk_guard, mk_payload, pay_7_7_7_at_0_7, pay_7_7_7_at_14_7, pay_7_7_7_at_7_7, BitVec.reduceBEq, BitVec.reduceExtractLsb', ↓reduceIte, Bool.false_eq_true, Bool.false_and, Bool.true_and]
  simp only [need, BitVec.reduceBEq, Bool.and_true, Bool.true_and, Bool.and_eq_true, h, and_self, ↓reduceIte]

theorem RoundTrip.movs (g : Guard) (d : BitVec 7) (a : BitVec 7) : RoundTrip.Statement (.movs g d a) := by
  intro _ (h : (below 64 d) = true)
  refine (decode_at_17 (mk_major _ _ _)).trans ?_
  simp (disch := omega) only [decode17, mk_guard, mk_payload, pay_7_7_7_at_0_7, pay_7_7_7_at_14_7, pay_7_7_7_at_7_7, BitVec.reduceBEq, BitVec.reduceExtractLsb', ↓reduceIte, Bool.false_eq_true, Bool.false_and, Bool.true_and]
  simp only [need, BitVec.reduceBEq, Bool.and_true, Bool.true_and, Bool.and_eq_true, h, and_self, ↓reduceIte]

theorem RoundTrip.movsD (g : Guard) (d : BitVec 7) (a : BitVec 7) : RoundTrip.Statement (.movsD g d a) := by
  intro _ (h : (below 64 d && even a) = true)
  simp only [Bool.and_eq_true] at h
  refine (decode_at_17 (mk_major _ _ _)).trans ?_
  simp (disch := omega) only [decode17, mk_guard, mk_payload, pay_7_7_7_at_0_7, pay_7_7_7_at_14_7, pay_7_7_7_at_7_7, BitVec.reduceBEq, BitVec.reduceExtractLsb', ↓reduceIte, Bool.false_eq_true, Bool.false_and, Bool.true_and]
  simp only [need, BitVec.reduceBEq, Bool.and_true, Bool.true_and, Bool.and_eq_true, h, and_self, ↓reduceIte]

theorem RoundTrip.fadd (g : Guard) (d : BitVec 7) (a : BitVec 7) (b : BitVec 7) : RoundTrip.Statement (.fadd g d a b) := by
  intro _ _
  refine (decode_at_18 (mk_major _ _ _)).trans ?_
  simp (disch := omega) only [mk_guard, mk_payload, pay_7_7_7_at_14_7, pay_7_7_7_at_7_7, pay_7_7_7_at_0_7]

theorem RoundTrip.fsub (g : Guard) (d : BitVec 7) (a : BitVec 7) (b : BitVec 7) : RoundTrip.Statement (.fsub g d a b) := by
  intro _ _
  refine (decode_at_19 (mk_major _ _ _)).trans ?_
  simp (disch := omega) only [mk_guard, mk_payload, pay_7_7_7_at_14_7, pay_7_7_7_at_7_7, pay_7_7_7_at_0_7]

theorem RoundTrip.fmul (g : Guard) (d : BitVec 7) (a : BitVec 7) (b : BitVec 7) : RoundTrip.Statement (.fmul g d a b) := by
  intro _ _
  refine (decode_at_1A (mk_major _ _ _)).trans ?_
  simp (disch := omega) only [mk_guard, mk_payload, pay_7_7_7_at_14_7, pay_7_7_7_at_7_7, pay_7_7_7_at_0_7]

theorem RoundTrip.ffma (g : Guard) (d : BitVec 7) (a : BitVec 7) (b : BitVec 7) : RoundTrip.Statement (.ffma g d a b) := by
  intro _ _
  refine (decode_at_1B (mk_major _ _ _)).trans ?_
  simp (disch := omega) only [mk_guard, mk_payload, pay_7_7_7_at_14_7, pay_7_7_7_at_7_7, pay_7_7_7_at_0_7]

theorem RoundTrip.fcmp (g : Guard) (c : BitVec 3) (q : BitVec 3) (a : BitVec 7) (b : BitVec 7) : RoundTrip.Statement (.fcmp g c q a b) := by
  intro _ _
  refine (decode_at_1C (mk_major _ _ _)).trans ?_
  simp (disch := omega) only [decode1C, mk_guard, mk_payload, pay_1_3_3_7_7_at_20_1, pay_1_3_3_7_7_at_17_3, pay_1_3_3_7_7_at_14_3, pay_1_3_3_7_7_at_7_7, pay_1_3_3_7_7_at_0_7, BitVec.reduceBEq, BitVec.reduceExtractLsb', ↓reduceIte, Bool.false_eq_true, Bool.false_and, Bool.true_and]

theorem RoundTrip.fdiv (g : Guard) (d : BitVec 7) (a : BitVec 7) : RoundTrip.Statement (.fdiv g d a) := by
  intro _ _
  refine (decode_at_1D (mk_major _ _ _)).trans ?_
  simp (disch := omega) only [decode1D, mk_guard, mk_payload, pay_7_7_7_at_0_7, pay_7_7_7_at_14_7, pay_7_7_7_at_7_7, BitVec.reduceBEq, BitVec.reduceExtractLsb', ↓reduceIte, Bool.false_eq_true, Bool.false_and, Bool.true_and]

theorem RoundTrip.fmin (g : Guard) (d : BitVec 7) (a : BitVec 7) : RoundTrip.Statement (.fmin g d a) := by
  intro _ _
  refine (decode_at_1D (mk_major _ _ _)).trans ?_
  simp (disch := omega) only [decode1D, mk_guard, mk_payload, pay_7_7_7_at_0_7, pay_7_7_7_at_14_7, pay_7_7_7_at_7_7, BitVec.reduceBEq, BitVec.reduceExtractLsb', ↓reduceIte, Bool.false_eq_true, Bool.false_and, Bool.true_and]

theorem RoundTrip.fmax (g : Guard) (d : BitVec 7) (a : BitVec 7) : RoundTrip.Statement (.fmax g d a) := by
  intro _ _
  refine (decode_at_1D (mk_major _ _ _)).trans ?_
  simp (disch := omega) only [decode1D, mk_guard, mk_payload, pay_7_7_7_at_0_7, pay_7_7_7_at_14_7, pay_7_7_7_at_7_7, BitVec.reduceBEq, BitVec.reduceExtractLsb', ↓reduceIte, Bool.false_eq_true, Bool.false_and, Bool.true_and]

theorem RoundTrip.hadd2Hf (g : Guard) (d : BitVec 7) (a : BitVec 7) : RoundTrip.Statement (.hadd2Hf g d a) := by
  intro _ _
  refine (decode_at_1D (mk_major _ _ _)).trans ?_
  simp (disch := omega) only [decode1D, mk_guard, mk_payload, pay_7_7_7_at_0_7, pay_7_7_7_at_14_7, pay_7_7_7_at_7_7, BitVec.reduceBEq, BitVec.reduceExtractLsb', ↓reduceIte, Bool.false_eq_true, Bool.false_and, Bool.true_and]

theorem RoundTrip.hadd2Bf (g : Guard) (d : BitVec 7) (a : BitVec 7) : RoundTrip.Statement (.hadd2Bf g d a) := by
  intro _ _
  refine (decode_at_1D (mk_major _ _ _)).trans ?_
  simp (disch := omega) only [decode1D, mk_guard, mk_payload, pay_7_7_7_at_0_7, pay_7_7_7_at_14_7, pay_7_7_7_at_7_7, BitVec.reduceBEq, BitVec.reduceExtractLsb', ↓reduceIte, Bool.false_eq_true, Bool.false_and, Bool.true_and]

theorem RoundTrip.hmul2Hf (g : Guard) (d : BitVec 7) (a : BitVec 7) : RoundTrip.Statement (.hmul2Hf g d a) := by
  intro _ _
  refine (decode_at_1D (mk_major _ _ _)).trans ?_
  simp (disch := omega) only [decode1D, mk_guard, mk_payload, pay_7_7_7_at_0_7, pay_7_7_7_at_14_7, pay_7_7_7_at_7_7, BitVec.reduceBEq, BitVec.reduceExtractLsb', ↓reduceIte, Bool.false_eq_true, Bool.false_and, Bool.true_and]

theorem RoundTrip.hmul2Bf (g : Guard) (d : BitVec 7) (a : BitVec 7) : RoundTrip.Statement (.hmul2Bf g d a) := by
  intro _ _
  refine (decode_at_1D (mk_major _ _ _)).trans ?_
  simp (disch := omega) only [decode1D, mk_guard, mk_payload, pay_7_7_7_at_0_7, pay_7_7_7_at_14_7, pay_7_7_7_at_7_7, BitVec.reduceBEq, BitVec.reduceExtractLsb', ↓reduceIte, Bool.false_eq_true, Bool.false_and, Bool.true_and]

theorem RoundTrip.frcp (g : Guard) (d : BitVec 7) (a : BitVec 7) : RoundTrip.Statement (.frcp g d a) := by
  intro _ _
  refine (decode_at_1E (mk_major _ _ _)).trans ?_
  simp (disch := omega) only [decode1E, mk_guard, mk_payload, pay_7_7_7_at_0_7, pay_7_7_7_at_14_7, pay_7_7_7_at_7_7, BitVec.reduceBEq, BitVec.reduceExtractLsb', ↓reduceIte, Bool.false_eq_true, Bool.false_and, Bool.true_and]

theorem RoundTrip.frsq (g : Guard) (d : BitVec 7) (a : BitVec 7) : RoundTrip.Statement (.frsq g d a) := by
  intro _ _
  refine (decode_at_1E (mk_major _ _ _)).trans ?_
  simp (disch := omega) only [decode1E, mk_guard, mk_payload, pay_7_7_7_at_0_7, pay_7_7_7_at_14_7, pay_7_7_7_at_7_7, BitVec.reduceBEq, BitVec.reduceExtractLsb', ↓reduceIte, Bool.false_eq_true, Bool.false_and, Bool.true_and]

theorem RoundTrip.fsqrt (g : Guard) (d : BitVec 7) (a : BitVec 7) : RoundTrip.Statement (.fsqrt g d a) := by
  intro _ _
  refine (decode_at_1E (mk_major _ _ _)).trans ?_
  simp (disch := omega) only [decode1E, mk_guard, mk_payload, pay_7_7_7_at_0_7, pay_7_7_7_at_14_7, pay_7_7_7_at_7_7, BitVec.reduceBEq, BitVec.reduceExtractLsb', ↓reduceIte, Bool.false_eq_true, Bool.false_and, Bool.true_and]

theorem RoundTrip.fexp2 (g : Guard) (d : BitVec 7) (a : BitVec 7) : RoundTrip.Statement (.fexp2 g d a) := by
  intro _ _
  refine (decode_at_1E (mk_major _ _ _)).trans ?_
  simp (disch := omega) only [decode1E, mk_guard, mk_payload, pay_7_7_7_at_0_7, pay_7_7_7_at_14_7, pay_7_7_7_at_7_7, BitVec.reduceBEq, BitVec.reduceExtractLsb', ↓reduceIte, Bool.false_eq_true, Bool.false_and, Bool.true_and]

theorem RoundTrip.flog2 (g : Guard) (d : BitVec 7) (a : BitVec 7) : RoundTrip.Statement (.flog2 g d a) := by
  intro _ _
  refine (decode_at_1E (mk_major _ _ _)).trans ?_
  simp (disch := omega) only [decode1E, mk_guard, mk_payload, pay_7_7_7_at_0_7, pay_7_7_7_at_14_7, pay_7_7_7_at_7_7, BitVec.reduceBEq, BitVec.reduceExtractLsb', ↓reduceIte, Bool.false_eq_true, Bool.false_and, Bool.true_and]

theorem RoundTrip.fclass (g : Guard) (d : BitVec 7) (a : BitVec 7) : RoundTrip.Statement (.fclass g d a) := by
  intro _ _
  refine (decode_at_1E (mk_major _ _ _)).trans ?_
  simp (disch := omega) only [decode1E, mk_guard, mk_payload, pay_7_7_7_at_0_7, pay_7_7_7_at_14_7, pay_7_7_7_at_7_7, BitVec.reduceBEq, BitVec.reduceExtractLsb', ↓reduceIte, Bool.false_eq_true, Bool.false_and, Bool.true_and]

theorem RoundTrip.cvt (g : Guard) (d : BitVec 7) (a : BitVec 7) (x : BitVec 3) (y : BitVec 4) : RoundTrip.Statement (.cvt g d a x y) := by
  intro _ (h : (cvtCodes x y) = true)
  refine (decode_at_1F (mk_major _ _ _)).trans ?_
  simp (disch := omega) only [mk_guard, mk_payload, pay_7_7_3_4_at_4_3, pay_7_7_3_4_at_0_4, pay_7_7_3_4_at_14_7, pay_7_7_3_4_at_7_7]
  simp only [need, BitVec.reduceBEq, Bool.and_true, Bool.true_and, Bool.and_eq_true, h, and_self, ↓reduceIte]

theorem RoundTrip.hfma2Hf (g : Guard) (d : BitVec 7) (a : BitVec 7) (b : BitVec 7) : RoundTrip.Statement (.hfma2Hf g d a b) := by
  intro _ _
  refine (decode_at_20 (mk_major _ _ _)).trans ?_
  simp (disch := omega) only [mk_guard, mk_payload, pay_7_7_7_at_14_7, pay_7_7_7_at_7_7, pay_7_7_7_at_0_7]

theorem RoundTrip.hfma2Bf (g : Guard) (d : BitVec 7) (a : BitVec 7) (b : BitVec 7) : RoundTrip.Statement (.hfma2Bf g d a b) := by
  intro _ _
  refine (decode_at_21 (mk_major _ _ _)).trans ?_
  simp (disch := omega) only [mk_guard, mk_payload, pay_7_7_7_at_14_7, pay_7_7_7_at_7_7, pay_7_7_7_at_0_7]

theorem RoundTrip.ldW (g : Guard) (d : BitVec 7) (a : BitVec 7) (o : BitVec 7) : RoundTrip.Statement (.ldW g d a o) := by
  intro _ (h : (even a) = true)
  refine (decode_at_22 (mk_major _ _ _)).trans ?_
  simp (disch := omega) only [mk_guard, mk_payload, pay_7_7_7_at_7_7, pay_7_7_7_at_14_7, pay_7_7_7_at_0_7]
  simp only [need, BitVec.reduceBEq, Bool.and_true, Bool.true_and, Bool.and_eq_true, h, and_self, ↓reduceIte]

theorem RoundTrip.stW (g : Guard) (d : BitVec 7) (a : BitVec 7) (o : BitVec 7) : RoundTrip.Statement (.stW g d a o) := by
  intro _ (h : (even a) = true)
  refine (decode_at_23 (mk_major _ _ _)).trans ?_
  simp (disch := omega) only [mk_guard, mk_payload, pay_7_7_7_at_7_7, pay_7_7_7_at_14_7, pay_7_7_7_at_0_7]
  simp only [need, BitVec.reduceBEq, Bool.and_true, Bool.true_and, Bool.and_eq_true, h, and_self, ↓reduceIte]

theorem RoundTrip.ld (g : Guard) (d : BitVec 7) (a : BitVec 7) (z : BitVec 3) : RoundTrip.Statement (.ld g d a z) := by
  intro _ (h : (loadSize z && even a && sized z d) = true)
  simp only [Bool.and_eq_true] at h
  refine (decode_at_24 (mk_major _ _ _)).trans ?_
  simp (disch := omega) only [decode24, mk_guard, mk_payload, pay_7_7_3_4_at_0_4, pay_7_7_3_4_at_4_3, pay_7_7_3_4_at_7_7, pay_7_7_3_4_at_14_7, BitVec.reduceBEq, BitVec.reduceExtractLsb', ↓reduceIte, Bool.false_eq_true, Bool.false_and, Bool.true_and]
  simp only [need, BitVec.reduceBEq, Bool.and_true, Bool.true_and, Bool.and_eq_true, h, and_self, ↓reduceIte]

theorem RoundTrip.ldAcq (g : Guard) (d : BitVec 7) (a : BitVec 7) (z : BitVec 3) (k : BitVec 3) : RoundTrip.Statement (.ldAcq g d a z k) := by
  intro _ (h : (loadSize z && hasScope k && even a && sized z d) = true)
  simp only [Bool.and_eq_true] at h
  refine (decode_at_24 (mk_major _ _ _)).trans ?_
  simp (disch := omega) only [decode24, mk_guard, mk_payload, pay_7_7_3_1_3_at_0_4, pay_7_7_3_1_3_at_3_1, pay_7_7_3_1_3_at_4_3, pay_7_7_3_1_3_at_0_3, pay_7_7_3_1_3_at_7_7, pay_7_7_3_1_3_at_14_7, beq_app_1_3, beq_app_4_3, BitVec.reduceBEq, BitVec.reduceExtractLsb', ↓reduceIte, Bool.false_eq_true, Bool.false_and, Bool.true_and]
  simp only [need, BitVec.reduceBEq, Bool.and_true, Bool.true_and, Bool.and_eq_true, h, and_self, ↓reduceIte]

theorem RoundTrip.st (g : Guard) (d : BitVec 7) (a : BitVec 7) (z : BitVec 3) : RoundTrip.Statement (.st g d a z) := by
  intro _ (h : (storeSize z && even a && sized z d) = true)
  simp only [Bool.and_eq_true] at h
  refine (decode_at_25 (mk_major _ _ _)).trans ?_
  simp (disch := omega) only [decode25, mk_guard, mk_payload, pay_7_7_3_4_at_0_4, pay_7_7_3_4_at_4_3, pay_7_7_3_4_at_7_7, pay_7_7_3_4_at_14_7, BitVec.reduceBEq, BitVec.reduceExtractLsb', ↓reduceIte, Bool.false_eq_true, Bool.false_and, Bool.true_and]
  simp only [need, BitVec.reduceBEq, Bool.and_true, Bool.true_and, Bool.and_eq_true, h, and_self, ↓reduceIte]

theorem RoundTrip.stRel (g : Guard) (d : BitVec 7) (a : BitVec 7) (z : BitVec 3) (k : BitVec 3) : RoundTrip.Statement (.stRel g d a z k) := by
  intro _ (h : (storeSize z && hasScope k && even a && sized z d) = true)
  simp only [Bool.and_eq_true] at h
  refine (decode_at_25 (mk_major _ _ _)).trans ?_
  simp (disch := omega) only [decode25, mk_guard, mk_payload, pay_7_7_3_1_3_at_0_4, pay_7_7_3_1_3_at_3_1, pay_7_7_3_1_3_at_4_3, pay_7_7_3_1_3_at_0_3, pay_7_7_3_1_3_at_7_7, pay_7_7_3_1_3_at_14_7, beq_app_1_3, beq_app_4_3, BitVec.reduceBEq, BitVec.reduceExtractLsb', ↓reduceIte, Bool.false_eq_true, Bool.false_and, Bool.true_and]
  simp only [need, BitVec.reduceBEq, Bool.and_true, Bool.true_and, Bool.and_eq_true, h, and_self, ↓reduceIte]

theorem RoundTrip.lds (g : Guard) (d : BitVec 7) (a : BitVec 7) (z : BitVec 3) : RoundTrip.Statement (.lds g d a z) := by
  intro _ (h : (loadSize z && sized z d) = true)
  simp only [Bool.and_eq_true] at h
  refine (decode_at_26 (mk_major _ _ _)).trans ?_
  simp (disch := omega) only [decode26, mk_guard, mk_payload, pay_7_7_1_3_3_at_6_1, pay_7_7_1_3_3_at_3_3, pay_7_7_1_3_3_at_0_3, pay_7_7_1_3_3_at_14_7, pay_7_7_1_3_3_at_7_7, BitVec.reduceBEq, BitVec.reduceExtractLsb', ↓reduceIte, Bool.false_eq_true, Bool.false_and, Bool.true_and]
  simp only [need, BitVec.reduceBEq, Bool.and_true, Bool.true_and, Bool.and_eq_true, h, and_self, ↓reduceIte]

theorem RoundTrip.sts (g : Guard) (d : BitVec 7) (a : BitVec 7) (z : BitVec 3) : RoundTrip.Statement (.sts g d a z) := by
  intro _ (h : (storeSize z && sized z d) = true)
  simp only [Bool.and_eq_true] at h
  refine (decode_at_26 (mk_major _ _ _)).trans ?_
  simp (disch := omega) only [decode26, mk_guard, mk_payload, pay_7_7_1_3_3_at_6_1, pay_7_7_1_3_3_at_3_3, pay_7_7_1_3_3_at_0_3, pay_7_7_1_3_3_at_14_7, pay_7_7_1_3_3_at_7_7, BitVec.reduceBEq, BitVec.reduceExtractLsb', ↓reduceIte, Bool.false_eq_true, Bool.false_and, Bool.true_and]
  simp only [need, BitVec.reduceBEq, Bool.and_true, Bool.true_and, Bool.and_eq_true, h, and_self, ↓reduceIte]

theorem RoundTrip.ldo (g : Guard) (d : BitVec 7) (a : BitVec 7) (z : BitVec 3) : RoundTrip.Statement (.ldo g d a z) := by
  intro _ (h : (obsSize z && even a && sized z d) = true)
  simp only [Bool.and_eq_true] at h
  refine (decode_at_27 (mk_major _ _ _)).trans ?_
  simp (disch := omega) only [decode27, mk_guard, mk_payload, pay_7_7_3_4_at_0_4, pay_7_7_3_4_at_4_3, pay_7_7_3_4_at_7_7, pay_7_7_3_4_at_14_7, BitVec.reduceBEq, BitVec.reduceExtractLsb', ↓reduceIte, Bool.false_eq_true, Bool.false_and, Bool.true_and]
  simp only [need, BitVec.reduceBEq, Bool.and_true, Bool.true_and, Bool.and_eq_true, h, and_self, ↓reduceIte]

theorem RoundTrip.ldoAcq (g : Guard) (d : BitVec 7) (a : BitVec 7) (z : BitVec 3) (k : BitVec 3) : RoundTrip.Statement (.ldoAcq g d a z k) := by
  intro _ (h : (obsSize z && hasScope k && even a && sized z d) = true)
  simp only [Bool.and_eq_true] at h
  refine (decode_at_27 (mk_major _ _ _)).trans ?_
  simp (disch := omega) only [decode27, mk_guard, mk_payload, pay_7_7_3_1_3_at_0_4, pay_7_7_3_1_3_at_3_1, pay_7_7_3_1_3_at_4_3, pay_7_7_3_1_3_at_0_3, pay_7_7_3_1_3_at_7_7, pay_7_7_3_1_3_at_14_7, beq_app_1_3, beq_app_4_3, BitVec.reduceBEq, BitVec.reduceExtractLsb', ↓reduceIte, Bool.false_eq_true, Bool.false_and, Bool.true_and]
  simp only [need, BitVec.reduceBEq, Bool.and_true, Bool.true_and, Bool.and_eq_true, h, and_self, ↓reduceIte]

theorem RoundTrip.amoAdd (g : Guard) (d : BitVec 7) (a : BitVec 7) (k : BitVec 3) : RoundTrip.Statement (.amoAdd g d a k) := by
  intro _ (h : (hasScope k && even a) = true)
  simp only [Bool.and_eq_true] at h
  refine (decode_at_28 (mk_major _ _ _)).trans ?_
  simp (disch := omega) only [decode28, mk_guard, mk_payload, pay_7_7_4_3_at_0_7, pay_7_7_4_3_at_3_4, pay_7_7_4_3_at_0_3, pay_7_7_4_3_at_7_7, pay_7_7_4_3_at_14_7, beq_app_1_3, beq_app_4_3, BitVec.reduceBEq, BitVec.reduceExtractLsb', ↓reduceIte, Bool.false_eq_true, Bool.false_and, Bool.true_and]
  simp only [need, scope_ne h.1, Bool.false_eq_true, BitVec.reduceBEq, Bool.and_true, Bool.true_and, Bool.and_eq_true, h, and_self, ↓reduceIte]

theorem RoundTrip.amoSub (g : Guard) (d : BitVec 7) (a : BitVec 7) (k : BitVec 3) : RoundTrip.Statement (.amoSub g d a k) := by
  intro _ (h : (hasScope k && even a) = true)
  simp only [Bool.and_eq_true] at h
  refine (decode_at_28 (mk_major _ _ _)).trans ?_
  simp (disch := omega) only [decode28, mk_guard, mk_payload, pay_7_7_4_3_at_0_7, pay_7_7_4_3_at_3_4, pay_7_7_4_3_at_0_3, pay_7_7_4_3_at_7_7, pay_7_7_4_3_at_14_7, beq_app_1_3, beq_app_4_3, BitVec.reduceBEq, BitVec.reduceExtractLsb', ↓reduceIte, Bool.false_eq_true, Bool.false_and, Bool.true_and]
  simp only [need, scope_ne h.1, Bool.false_eq_true, BitVec.reduceBEq, Bool.and_true, Bool.true_and, Bool.and_eq_true, h, and_self, ↓reduceIte]

theorem RoundTrip.amoMin (g : Guard) (d : BitVec 7) (a : BitVec 7) (k : BitVec 3) : RoundTrip.Statement (.amoMin g d a k) := by
  intro _ (h : (hasScope k && even a) = true)
  simp only [Bool.and_eq_true] at h
  refine (decode_at_28 (mk_major _ _ _)).trans ?_
  simp (disch := omega) only [decode28, mk_guard, mk_payload, pay_7_7_4_3_at_0_7, pay_7_7_4_3_at_3_4, pay_7_7_4_3_at_0_3, pay_7_7_4_3_at_7_7, pay_7_7_4_3_at_14_7, beq_app_1_3, beq_app_4_3, BitVec.reduceBEq, BitVec.reduceExtractLsb', ↓reduceIte, Bool.false_eq_true, Bool.false_and, Bool.true_and]
  simp only [need, scope_ne h.1, Bool.false_eq_true, BitVec.reduceBEq, Bool.and_true, Bool.true_and, Bool.and_eq_true, h, and_self, ↓reduceIte]

theorem RoundTrip.amoMax (g : Guard) (d : BitVec 7) (a : BitVec 7) (k : BitVec 3) : RoundTrip.Statement (.amoMax g d a k) := by
  intro _ (h : (hasScope k && even a) = true)
  simp only [Bool.and_eq_true] at h
  refine (decode_at_28 (mk_major _ _ _)).trans ?_
  simp (disch := omega) only [decode28, mk_guard, mk_payload, pay_7_7_4_3_at_0_7, pay_7_7_4_3_at_3_4, pay_7_7_4_3_at_0_3, pay_7_7_4_3_at_7_7, pay_7_7_4_3_at_14_7, beq_app_1_3, beq_app_4_3, BitVec.reduceBEq, BitVec.reduceExtractLsb', ↓reduceIte, Bool.false_eq_true, Bool.false_and, Bool.true_and]
  simp only [need, scope_ne h.1, Bool.false_eq_true, BitVec.reduceBEq, Bool.and_true, Bool.true_and, Bool.and_eq_true, h, and_self, ↓reduceIte]

theorem RoundTrip.amoMinUns (g : Guard) (d : BitVec 7) (a : BitVec 7) (k : BitVec 3) : RoundTrip.Statement (.amoMinUns g d a k) := by
  intro _ (h : (hasScope k && even a) = true)
  simp only [Bool.and_eq_true] at h
  refine (decode_at_28 (mk_major _ _ _)).trans ?_
  simp (disch := omega) only [decode28, mk_guard, mk_payload, pay_7_7_4_3_at_0_7, pay_7_7_4_3_at_3_4, pay_7_7_4_3_at_0_3, pay_7_7_4_3_at_7_7, pay_7_7_4_3_at_14_7, beq_app_1_3, beq_app_4_3, BitVec.reduceBEq, BitVec.reduceExtractLsb', ↓reduceIte, Bool.false_eq_true, Bool.false_and, Bool.true_and]
  simp only [need, scope_ne h.1, Bool.false_eq_true, BitVec.reduceBEq, Bool.and_true, Bool.true_and, Bool.and_eq_true, h, and_self, ↓reduceIte]

theorem RoundTrip.amoMaxUns (g : Guard) (d : BitVec 7) (a : BitVec 7) (k : BitVec 3) : RoundTrip.Statement (.amoMaxUns g d a k) := by
  intro _ (h : (hasScope k && even a) = true)
  simp only [Bool.and_eq_true] at h
  refine (decode_at_28 (mk_major _ _ _)).trans ?_
  simp (disch := omega) only [decode28, mk_guard, mk_payload, pay_7_7_4_3_at_0_7, pay_7_7_4_3_at_3_4, pay_7_7_4_3_at_0_3, pay_7_7_4_3_at_7_7, pay_7_7_4_3_at_14_7, beq_app_1_3, beq_app_4_3, BitVec.reduceBEq, BitVec.reduceExtractLsb', ↓reduceIte, Bool.false_eq_true, Bool.false_and, Bool.true_and]
  simp only [need, scope_ne h.1, Bool.false_eq_true, BitVec.reduceBEq, Bool.and_true, Bool.true_and, Bool.and_eq_true, h, and_self, ↓reduceIte]

theorem RoundTrip.amoAnd (g : Guard) (d : BitVec 7) (a : BitVec 7) (k : BitVec 3) : RoundTrip.Statement (.amoAnd g d a k) := by
  intro _ (h : (hasScope k && even a) = true)
  simp only [Bool.and_eq_true] at h
  refine (decode_at_28 (mk_major _ _ _)).trans ?_
  simp (disch := omega) only [decode28, mk_guard, mk_payload, pay_7_7_4_3_at_0_7, pay_7_7_4_3_at_3_4, pay_7_7_4_3_at_0_3, pay_7_7_4_3_at_7_7, pay_7_7_4_3_at_14_7, beq_app_1_3, beq_app_4_3, BitVec.reduceBEq, BitVec.reduceExtractLsb', ↓reduceIte, Bool.false_eq_true, Bool.false_and, Bool.true_and]
  simp only [need, scope_ne h.1, Bool.false_eq_true, BitVec.reduceBEq, Bool.and_true, Bool.true_and, Bool.and_eq_true, h, and_self, ↓reduceIte]

theorem RoundTrip.amoOr (g : Guard) (d : BitVec 7) (a : BitVec 7) (k : BitVec 3) : RoundTrip.Statement (.amoOr g d a k) := by
  intro _ (h : (hasScope k && even a) = true)
  simp only [Bool.and_eq_true] at h
  refine (decode_at_28 (mk_major _ _ _)).trans ?_
  simp (disch := omega) only [decode28, mk_guard, mk_payload, pay_7_7_4_3_at_0_7, pay_7_7_4_3_at_3_4, pay_7_7_4_3_at_0_3, pay_7_7_4_3_at_7_7, pay_7_7_4_3_at_14_7, beq_app_1_3, beq_app_4_3, BitVec.reduceBEq, BitVec.reduceExtractLsb', ↓reduceIte, Bool.false_eq_true, Bool.false_and, Bool.true_and]
  simp only [need, scope_ne h.1, Bool.false_eq_true, BitVec.reduceBEq, Bool.and_true, Bool.true_and, Bool.and_eq_true, h, and_self, ↓reduceIte]

theorem RoundTrip.amoXor (g : Guard) (d : BitVec 7) (a : BitVec 7) (k : BitVec 3) : RoundTrip.Statement (.amoXor g d a k) := by
  intro _ (h : (hasScope k && even a) = true)
  simp only [Bool.and_eq_true] at h
  refine (decode_at_28 (mk_major _ _ _)).trans ?_
  simp (disch := omega) only [decode28, mk_guard, mk_payload, pay_7_7_4_3_at_0_7, pay_7_7_4_3_at_3_4, pay_7_7_4_3_at_0_3, pay_7_7_4_3_at_7_7, pay_7_7_4_3_at_14_7, beq_app_1_3, beq_app_4_3, BitVec.reduceBEq, BitVec.reduceExtractLsb', ↓reduceIte, Bool.false_eq_true, Bool.false_and, Bool.true_and]
  simp only [need, scope_ne h.1, Bool.false_eq_true, BitVec.reduceBEq, Bool.and_true, Bool.true_and, Bool.and_eq_true, h, and_self, ↓reduceIte]

theorem RoundTrip.amoSwp (g : Guard) (d : BitVec 7) (a : BitVec 7) (k : BitVec 3) : RoundTrip.Statement (.amoSwp g d a k) := by
  intro _ (h : (hasScope k && even a) = true)
  simp only [Bool.and_eq_true] at h
  refine (decode_at_28 (mk_major _ _ _)).trans ?_
  simp (disch := omega) only [decode28, mk_guard, mk_payload, pay_7_7_4_3_at_0_7, pay_7_7_4_3_at_3_4, pay_7_7_4_3_at_0_3, pay_7_7_4_3_at_7_7, pay_7_7_4_3_at_14_7, beq_app_1_3, beq_app_4_3, BitVec.reduceBEq, BitVec.reduceExtractLsb', ↓reduceIte, Bool.false_eq_true, Bool.false_and, Bool.true_and]
  simp only [need, scope_ne h.1, Bool.false_eq_true, BitVec.reduceBEq, Bool.and_true, Bool.true_and, Bool.and_eq_true, h, and_self, ↓reduceIte]

theorem RoundTrip.amoAddF (g : Guard) (d : BitVec 7) (a : BitVec 7) (k : BitVec 3) : RoundTrip.Statement (.amoAddF g d a k) := by
  intro _ (h : (hasScope k && even a) = true)
  simp only [Bool.and_eq_true] at h
  refine (decode_at_28 (mk_major _ _ _)).trans ?_
  simp (disch := omega) only [decode28, mk_guard, mk_payload, pay_7_7_4_3_at_0_7, pay_7_7_4_3_at_3_4, pay_7_7_4_3_at_0_3, pay_7_7_4_3_at_7_7, pay_7_7_4_3_at_14_7, beq_app_1_3, beq_app_4_3, BitVec.reduceBEq, BitVec.reduceExtractLsb', ↓reduceIte, Bool.false_eq_true, Bool.false_and, Bool.true_and]
  simp only [need, scope_ne h.1, Bool.false_eq_true, BitVec.reduceBEq, Bool.and_true, Bool.true_and, Bool.and_eq_true, h, and_self, ↓reduceIte]

theorem RoundTrip.acas (g : Guard) (d : BitVec 7) (a : BitVec 7) (k : BitVec 3) : RoundTrip.Statement (.acas g d a k) := by
  intro _ (h : (hasScope k && even a && even d) = true)
  simp only [Bool.and_eq_true] at h
  refine (decode_at_28 (mk_major _ _ _)).trans ?_
  simp (disch := omega) only [decode28, mk_guard, mk_payload, pay_7_7_4_3_at_0_7, pay_7_7_4_3_at_3_4, pay_7_7_4_3_at_0_3, pay_7_7_4_3_at_7_7, pay_7_7_4_3_at_14_7, beq_app_1_3, beq_app_4_3, BitVec.reduceBEq, BitVec.reduceExtractLsb', ↓reduceIte, Bool.false_eq_true, Bool.false_and, Bool.true_and]
  simp only [need, scope_ne h.1.1, Bool.false_eq_true, BitVec.reduceBEq, Bool.and_true, Bool.true_and, Bool.and_eq_true, h, and_self, ↓reduceIte]

theorem RoundTrip.amoAddD (g : Guard) (d : BitVec 7) (a : BitVec 7) (k : BitVec 3) : RoundTrip.Statement (.amoAddD g d a k) := by
  intro _ (h : (hasScope k && even a && even d) = true)
  simp only [Bool.and_eq_true] at h
  refine (decode_at_28 (mk_major _ _ _)).trans ?_
  simp (disch := omega) only [decode28, mk_guard, mk_payload, pay_7_7_4_3_at_0_7, pay_7_7_4_3_at_3_4, pay_7_7_4_3_at_0_3, pay_7_7_4_3_at_7_7, pay_7_7_4_3_at_14_7, beq_app_1_3, beq_app_4_3, BitVec.reduceBEq, BitVec.reduceExtractLsb', ↓reduceIte, Bool.false_eq_true, Bool.false_and, Bool.true_and]
  simp only [need, scope_ne h.1.1, Bool.false_eq_true, BitVec.reduceBEq, Bool.and_true, Bool.true_and, Bool.and_eq_true, h, and_self, ↓reduceIte]

theorem RoundTrip.amoSwpD (g : Guard) (d : BitVec 7) (a : BitVec 7) (k : BitVec 3) : RoundTrip.Statement (.amoSwpD g d a k) := by
  intro _ (h : (hasScope k && even a && even d) = true)
  simp only [Bool.and_eq_true] at h
  refine (decode_at_28 (mk_major _ _ _)).trans ?_
  simp (disch := omega) only [decode28, mk_guard, mk_payload, pay_7_7_4_3_at_0_7, pay_7_7_4_3_at_3_4, pay_7_7_4_3_at_0_3, pay_7_7_4_3_at_7_7, pay_7_7_4_3_at_14_7, beq_app_1_3, beq_app_4_3, BitVec.reduceBEq, BitVec.reduceExtractLsb', ↓reduceIte, Bool.false_eq_true, Bool.false_and, Bool.true_and]
  simp only [need, scope_ne h.1.1, Bool.false_eq_true, BitVec.reduceBEq, Bool.and_true, Bool.true_and, Bool.and_eq_true, h, and_self, ↓reduceIte]

theorem RoundTrip.acasD (g : Guard) (d : BitVec 7) (a : BitVec 7) (k : BitVec 3) : RoundTrip.Statement (.acasD g d a k) := by
  intro _ (h : (hasScope k && even a && quad d) = true)
  simp only [Bool.and_eq_true] at h
  refine (decode_at_28 (mk_major _ _ _)).trans ?_
  simp (disch := omega) only [decode28, mk_guard, mk_payload, pay_7_7_4_3_at_0_7, pay_7_7_4_3_at_3_4, pay_7_7_4_3_at_0_3, pay_7_7_4_3_at_7_7, pay_7_7_4_3_at_14_7, beq_app_1_3, beq_app_4_3, BitVec.reduceBEq, BitVec.reduceExtractLsb', ↓reduceIte, Bool.false_eq_true, Bool.false_and, Bool.true_and]
  simp only [need, scope_ne h.1.1, Bool.false_eq_true, BitVec.reduceBEq, Bool.and_true, Bool.true_and, Bool.and_eq_true, h, and_self, ↓reduceIte]

theorem RoundTrip.amosAdd (g : Guard) (d : BitVec 7) (a : BitVec 7) : RoundTrip.Statement (.amosAdd g d a) := by
  intro _ _
  refine (decode_at_28 (mk_major _ _ _)).trans ?_
  simp (disch := omega) only [decode28, mk_guard, mk_payload, pay_7_7_7_at_0_7, pay_7_7_7_at_14_7, pay_7_7_7_at_7_7, BitVec.reduceBEq, BitVec.reduceExtractLsb', ↓reduceIte, Bool.false_eq_true, Bool.false_and, Bool.true_and]

theorem RoundTrip.amosSub (g : Guard) (d : BitVec 7) (a : BitVec 7) : RoundTrip.Statement (.amosSub g d a) := by
  intro _ _
  refine (decode_at_28 (mk_major _ _ _)).trans ?_
  simp (disch := omega) only [decode28, mk_guard, mk_payload, pay_7_7_7_at_0_7, pay_7_7_7_at_14_7, pay_7_7_7_at_7_7, BitVec.reduceBEq, BitVec.reduceExtractLsb', ↓reduceIte, Bool.false_eq_true, Bool.false_and, Bool.true_and]

theorem RoundTrip.amosMin (g : Guard) (d : BitVec 7) (a : BitVec 7) : RoundTrip.Statement (.amosMin g d a) := by
  intro _ _
  refine (decode_at_28 (mk_major _ _ _)).trans ?_
  simp (disch := omega) only [decode28, mk_guard, mk_payload, pay_7_7_7_at_0_7, pay_7_7_7_at_14_7, pay_7_7_7_at_7_7, BitVec.reduceBEq, BitVec.reduceExtractLsb', ↓reduceIte, Bool.false_eq_true, Bool.false_and, Bool.true_and]

theorem RoundTrip.amosMax (g : Guard) (d : BitVec 7) (a : BitVec 7) : RoundTrip.Statement (.amosMax g d a) := by
  intro _ _
  refine (decode_at_28 (mk_major _ _ _)).trans ?_
  simp (disch := omega) only [decode28, mk_guard, mk_payload, pay_7_7_7_at_0_7, pay_7_7_7_at_14_7, pay_7_7_7_at_7_7, BitVec.reduceBEq, BitVec.reduceExtractLsb', ↓reduceIte, Bool.false_eq_true, Bool.false_and, Bool.true_and]

theorem RoundTrip.amosMinUns (g : Guard) (d : BitVec 7) (a : BitVec 7) : RoundTrip.Statement (.amosMinUns g d a) := by
  intro _ _
  refine (decode_at_28 (mk_major _ _ _)).trans ?_
  simp (disch := omega) only [decode28, mk_guard, mk_payload, pay_7_7_7_at_0_7, pay_7_7_7_at_14_7, pay_7_7_7_at_7_7, BitVec.reduceBEq, BitVec.reduceExtractLsb', ↓reduceIte, Bool.false_eq_true, Bool.false_and, Bool.true_and]

theorem RoundTrip.amosMaxUns (g : Guard) (d : BitVec 7) (a : BitVec 7) : RoundTrip.Statement (.amosMaxUns g d a) := by
  intro _ _
  refine (decode_at_28 (mk_major _ _ _)).trans ?_
  simp (disch := omega) only [decode28, mk_guard, mk_payload, pay_7_7_7_at_0_7, pay_7_7_7_at_14_7, pay_7_7_7_at_7_7, BitVec.reduceBEq, BitVec.reduceExtractLsb', ↓reduceIte, Bool.false_eq_true, Bool.false_and, Bool.true_and]

theorem RoundTrip.amosAnd (g : Guard) (d : BitVec 7) (a : BitVec 7) : RoundTrip.Statement (.amosAnd g d a) := by
  intro _ _
  refine (decode_at_28 (mk_major _ _ _)).trans ?_
  simp (disch := omega) only [decode28, mk_guard, mk_payload, pay_7_7_7_at_0_7, pay_7_7_7_at_14_7, pay_7_7_7_at_7_7, BitVec.reduceBEq, BitVec.reduceExtractLsb', ↓reduceIte, Bool.false_eq_true, Bool.false_and, Bool.true_and]

theorem RoundTrip.amosOr (g : Guard) (d : BitVec 7) (a : BitVec 7) : RoundTrip.Statement (.amosOr g d a) := by
  intro _ _
  refine (decode_at_28 (mk_major _ _ _)).trans ?_
  simp (disch := omega) only [decode28, mk_guard, mk_payload, pay_7_7_7_at_0_7, pay_7_7_7_at_14_7, pay_7_7_7_at_7_7, BitVec.reduceBEq, BitVec.reduceExtractLsb', ↓reduceIte, Bool.false_eq_true, Bool.false_and, Bool.true_and]

theorem RoundTrip.amosXor (g : Guard) (d : BitVec 7) (a : BitVec 7) : RoundTrip.Statement (.amosXor g d a) := by
  intro _ _
  refine (decode_at_28 (mk_major _ _ _)).trans ?_
  simp (disch := omega) only [decode28, mk_guard, mk_payload, pay_7_7_7_at_0_7, pay_7_7_7_at_14_7, pay_7_7_7_at_7_7, BitVec.reduceBEq, BitVec.reduceExtractLsb', ↓reduceIte, Bool.false_eq_true, Bool.false_and, Bool.true_and]

theorem RoundTrip.amosSwp (g : Guard) (d : BitVec 7) (a : BitVec 7) : RoundTrip.Statement (.amosSwp g d a) := by
  intro _ _
  refine (decode_at_28 (mk_major _ _ _)).trans ?_
  simp (disch := omega) only [decode28, mk_guard, mk_payload, pay_7_7_7_at_0_7, pay_7_7_7_at_14_7, pay_7_7_7_at_7_7, BitVec.reduceBEq, BitVec.reduceExtractLsb', ↓reduceIte, Bool.false_eq_true, Bool.false_and, Bool.true_and]

theorem RoundTrip.amosCas (g : Guard) (d : BitVec 7) (a : BitVec 7) : RoundTrip.Statement (.amosCas g d a) := by
  intro _ (h : (even d) = true)
  refine (decode_at_28 (mk_major _ _ _)).trans ?_
  simp (disch := omega) only [decode28, mk_guard, mk_payload, pay_7_7_7_at_0_7, pay_7_7_7_at_14_7, pay_7_7_7_at_7_7, BitVec.reduceBEq, BitVec.reduceExtractLsb', ↓reduceIte, Bool.false_eq_true, Bool.false_and, Bool.true_and]
  simp only [need, BitVec.reduceBEq, Bool.and_true, Bool.true_and, Bool.and_eq_true, h, and_self, ↓reduceIte]

theorem RoundTrip.fenceAcq (g : Guard) (k : BitVec 3) : RoundTrip.Statement (.fenceAcq g k) := by
  intro _ (h : (hasScope k) = true)
  refine (decode_at_29 (mk_major _ _ _)).trans ?_
  simp (disch := omega) only [decode29, mk_guard, mk_payload, pay_18_3_at_3_4, pay_18_3_at_0_3, pay_18_3_at_7_14, BitVec.reduceBEq, BitVec.reduceExtractLsb', ↓reduceIte, Bool.false_eq_true, Bool.false_and, Bool.true_and]
  simp only [need, BitVec.reduceBEq, Bool.and_true, Bool.true_and, Bool.and_eq_true, h, and_self, ↓reduceIte]

theorem RoundTrip.fenceRel (g : Guard) (k : BitVec 3) : RoundTrip.Statement (.fenceRel g k) := by
  intro _ (h : (hasScope k) = true)
  refine (decode_at_29 (mk_major _ _ _)).trans ?_
  simp (disch := omega) only [decode29, mk_guard, mk_payload, pay_18_3_at_3_4, pay_18_3_at_0_3, pay_18_3_at_7_14, BitVec.reduceBEq, BitVec.reduceExtractLsb', ↓reduceIte, Bool.false_eq_true, Bool.false_and, Bool.true_and]
  simp only [need, BitVec.reduceBEq, Bool.and_true, Bool.true_and, Bool.and_eq_true, h, and_self, ↓reduceIte]

theorem RoundTrip.fence (g : Guard) (k : BitVec 3) : RoundTrip.Statement (.fence g k) := by
  intro _ (h : (hasScope k) = true)
  refine (decode_at_29 (mk_major _ _ _)).trans ?_
  simp (disch := omega) only [decode29, mk_guard, mk_payload, pay_18_3_at_3_4, pay_18_3_at_0_3, pay_18_3_at_7_14, BitVec.reduceBEq, BitVec.reduceExtractLsb', ↓reduceIte, Bool.false_eq_true, Bool.false_and, Bool.true_and]
  simp only [need, BitVec.reduceBEq, Bool.and_true, Bool.true_and, Bool.and_eq_true, h, and_self, ↓reduceIte]

theorem RoundTrip.invl1 (g : Guard) (a : BitVec 7) : RoundTrip.Statement (.invl1 g a) := by
  intro _ (h : (even a) = true)
  refine (decode_at_29 (mk_major _ _ _)).trans ?_
  simp (disch := omega) only [decode29, mk_guard, mk_payload, pay_7_7_7_at_3_4, pay_7_7_7_at_0_7, pay_7_7_7_at_14_7, pay_7_7_7_at_7_7, BitVec.reduceBEq, BitVec.reduceExtractLsb', ↓reduceIte, Bool.false_eq_true, Bool.false_and, Bool.true_and]
  simp only [need, BitVec.reduceBEq, Bool.and_true, Bool.true_and, Bool.and_eq_true, h, and_self, ↓reduceIte]

theorem RoundTrip.invl1All (g : Guard) : RoundTrip.Statement (.invl1All g) := by
  intro _ _
  refine (decode_at_29 (mk_major _ _ _)).trans ?_
  simp (disch := omega) only [decode29, mk_guard, mk_payload, BitVec.reduceBEq, BitVec.reduceExtractLsb', ↓reduceIte, Bool.false_eq_true, Bool.false_and, Bool.true_and]
  simp only [need, BitVec.reduceBEq, Bool.and_true, Bool.true_and, Bool.and_eq_true, and_self, ↓reduceIte]

theorem RoundTrip.tkrel (g : Guard) (a : BitVec 7) : RoundTrip.Statement (.tkrel g a) := by
  intro _ (h : (even a) = true)
  refine (decode_at_29 (mk_major _ _ _)).trans ?_
  simp (disch := omega) only [decode29, mk_guard, mk_payload, pay_7_7_7_at_3_4, pay_7_7_7_at_0_7, pay_7_7_7_at_14_7, pay_7_7_7_at_7_7, BitVec.reduceBEq, BitVec.reduceExtractLsb', ↓reduceIte, Bool.false_eq_true, Bool.false_and, Bool.true_and]
  simp only [need, BitVec.reduceBEq, Bool.and_true, Bool.true_and, Bool.and_eq_true, h, and_self, ↓reduceIte]

theorem RoundTrip.bra (g : Guard) (f : BitVec 21) : RoundTrip.Statement (.bra g f) := by
  intro _ _
  refine (decode_at_2A (mk_major _ _ _)).trans ?_
  simp (disch := omega) only [mk_guard, mk_payload, pay_21_at_0_21]

theorem RoundTrip.call (g : Guard) (f : BitVec 21) : RoundTrip.Statement (.call g f) := by
  intro _ _
  refine (decode_at_2B (mk_major _ _ _)).trans ?_
  simp (disch := omega) only [mk_guard, mk_payload, pay_21_at_0_21]

theorem RoundTrip.brp (g : Guard) (n : BitVec 3) (i : BitVec 14) : RoundTrip.Statement (.brp g n i) := by
  intro _ _
  refine (decode_at_2C (mk_major _ _ _)).trans ?_
  simp (disch := omega) only [mk_guard, mk_payload, pay_4_3_14_at_17_4, pay_4_3_14_at_14_3, pay_4_3_14_at_0_14]
  simp only [need, BitVec.reduceBEq, Bool.and_true, Bool.true_and, Bool.and_eq_true, and_self, ↓reduceIte]

theorem RoundTrip.bdec (g : Guard) (d : BitVec 7) (i : BitVec 14) : RoundTrip.Statement (.bdec g d i) := by
  intro _ _
  refine (decode_at_2D (mk_major _ _ _)).trans ?_
  simp (disch := omega) only [mk_guard, mk_payload, pay_7_14_at_14_7, pay_7_14_at_0_14]

theorem RoundTrip.nop (g : Guard) : RoundTrip.Statement (.nop g) := by
  intro _ _
  refine (decode_at_2E (mk_major _ _ _)).trans ?_
  simp (disch := omega) only [decode2E, mk_guard, mk_payload, BitVec.reduceBEq, BitVec.reduceExtractLsb', ↓reduceIte, Bool.false_eq_true, Bool.false_and, Bool.true_and]
  simp only [need, BitVec.reduceBEq, Bool.and_true, Bool.true_and, Bool.and_eq_true, and_self, ↓reduceIte]

theorem RoundTrip.exit (g : Guard) : RoundTrip.Statement (.exit g) := by
  intro _ _
  refine (decode_at_2E (mk_major _ _ _)).trans ?_
  simp (disch := omega) only [decode2E, mk_guard, mk_payload, BitVec.reduceBEq, BitVec.reduceExtractLsb', ↓reduceIte, Bool.false_eq_true, Bool.false_and, Bool.true_and]
  simp only [need, BitVec.reduceBEq, Bool.and_true, Bool.true_and, Bool.and_eq_true, and_self, ↓reduceIte]

theorem RoundTrip.ret (g : Guard) : RoundTrip.Statement (.ret g) := by
  intro _ _
  refine (decode_at_2E (mk_major _ _ _)).trans ?_
  simp (disch := omega) only [decode2E, mk_guard, mk_payload, BitVec.reduceBEq, BitVec.reduceExtractLsb', ↓reduceIte, Bool.false_eq_true, Bool.false_and, Bool.true_and]
  simp only [need, BitVec.reduceBEq, Bool.and_true, Bool.true_and, Bool.and_eq_true, and_self, ↓reduceIte]

theorem RoundTrip.callv (g : Guard) (a : BitVec 7) : RoundTrip.Statement (.callv g a) := by
  intro _ (h : (even a) = true)
  refine (decode_at_2E (mk_major _ _ _)).trans ?_
  simp (disch := omega) only [decode2E, mk_guard, mk_payload, pay_7_7_7_at_0_7, pay_7_7_7_at_14_7, pay_7_7_7_at_7_7, BitVec.reduceBEq, BitVec.reduceExtractLsb', ↓reduceIte, Bool.false_eq_true, Bool.false_and, Bool.true_and]
  simp only [need, BitVec.reduceBEq, Bool.and_true, Bool.true_and, Bool.and_eq_true, h, and_self, ↓reduceIte]

theorem RoundTrip.jmpv (g : Guard) (a : BitVec 7) : RoundTrip.Statement (.jmpv g a) := by
  intro _ (h : (even a) = true)
  refine (decode_at_2E (mk_major _ _ _)).trans ?_
  simp (disch := omega) only [decode2E, mk_guard, mk_payload, pay_7_7_7_at_0_7, pay_7_7_7_at_14_7, pay_7_7_7_at_7_7, BitVec.reduceBEq, BitVec.reduceExtractLsb', ↓reduceIte, Bool.false_eq_true, Bool.false_and, Bool.true_and]
  simp only [need, BitVec.reduceBEq, Bool.and_true, Bool.true_and, Bool.and_eq_true, h, and_self, ↓reduceIte]

theorem RoundTrip.trap (g : Guard) (n : BitVec 7) : RoundTrip.Statement (.trap g n) := by
  intro _ _
  refine (decode_at_2E (mk_major _ _ _)).trans ?_
  simp (disch := omega) only [decode2E, mk_guard, mk_payload, pay_7_14_at_0_7, pay_7_14_at_7_7, pay_7_14_at_14_7, BitVec.reduceBEq, BitVec.reduceExtractLsb', ↓reduceIte, Bool.false_eq_true, Bool.false_and, Bool.true_and]
  simp only [need, BitVec.reduceBEq, Bool.and_true, Bool.true_and, Bool.and_eq_true, and_self, ↓reduceIte]

theorem RoundTrip.bkpt (g : Guard) (n : BitVec 7) : RoundTrip.Statement (.bkpt g n) := by
  intro _ _
  refine (decode_at_2E (mk_major _ _ _)).trans ?_
  simp (disch := omega) only [decode2E, mk_guard, mk_payload, pay_7_14_at_0_7, pay_7_14_at_7_7, pay_7_14_at_14_7, BitVec.reduceBEq, BitVec.reduceExtractLsb', ↓reduceIte, Bool.false_eq_true, Bool.false_and, Bool.true_and]
  simp only [need, BitVec.reduceBEq, Bool.and_true, Bool.true_and, Bool.and_eq_true, and_self, ↓reduceIte]

theorem RoundTrip.yieldp (g : Guard) : RoundTrip.Statement (.yieldp g) := by
  intro _ _
  refine (decode_at_2E (mk_major _ _ _)).trans ?_
  simp (disch := omega) only [decode2E, mk_guard, mk_payload, BitVec.reduceBEq, BitVec.reduceExtractLsb', ↓reduceIte, Bool.false_eq_true, Bool.false_and, Bool.true_and]
  simp only [need, BitVec.reduceBEq, Bool.and_true, Bool.true_and, Bool.and_eq_true, and_self, ↓reduceIte]

theorem RoundTrip.rte (g : Guard) : RoundTrip.Statement (.rte g) := by
  intro _ _
  refine (decode_at_2E (mk_major _ _ _)).trans ?_
  simp (disch := omega) only [decode2E, mk_guard, mk_payload, BitVec.reduceBEq, BitVec.reduceExtractLsb', ↓reduceIte, Bool.false_eq_true, Bool.false_and, Bool.true_and]
  simp only [need, BitVec.reduceBEq, Bool.and_true, Bool.true_and, Bool.and_eq_true, and_self, ↓reduceIte]

theorem RoundTrip.rteRerun (g : Guard) : RoundTrip.Statement (.rteRerun g) := by
  intro _ _
  refine (decode_at_2E (mk_major _ _ _)).trans ?_
  simp (disch := omega) only [decode2E, mk_guard, mk_payload, BitVec.reduceBEq, BitVec.reduceExtractLsb', ↓reduceIte, Bool.false_eq_true, Bool.false_and, Bool.true_and]
  simp only [need, BitVec.reduceBEq, Bool.and_true, Bool.true_and, Bool.and_eq_true, and_self, ↓reduceIte]

theorem RoundTrip.trrec (g : Guard) (d : BitVec 7) (a : BitVec 7) : RoundTrip.Statement (.trrec g d a) := by
  intro _ _
  refine (decode_at_2E (mk_major _ _ _)).trans ?_
  simp (disch := omega) only [decode2E, mk_guard, mk_payload, pay_7_7_7_at_0_7, pay_7_7_7_at_14_7, pay_7_7_7_at_7_7, BitVec.reduceBEq, BitVec.reduceExtractLsb', ↓reduceIte, Bool.false_eq_true, Bool.false_and, Bool.true_and]

theorem RoundTrip.rep (g : Guard) (n : BitVec 6) (x : BitVec 3) (y : BitVec 3) (z : BitVec 3) : RoundTrip.Statement (.rep g n x y z) := by
  intro _ _
  refine (decode_at_2F (mk_major _ _ _)).trans ?_
  simp (disch := omega) only [mk_guard, mk_payload, pay_6_3_3_3_6_at_0_6, pay_6_3_3_3_6_at_15_6, pay_6_3_3_3_6_at_12_3, pay_6_3_3_3_6_at_9_3, pay_6_3_3_3_6_at_6_3]
  simp only [need, BitVec.reduceBEq, Bool.and_true, Bool.true_and, Bool.and_eq_true, and_self, ↓reduceIte]

theorem RoundTrip.hintWait (g : Guard) (w : BitVec 17) : RoundTrip.Statement (.hintWait g w) := by
  intro _ _
  refine (decode_at_30 (mk_major _ _ _)).trans ?_
  simp (disch := omega) only [decode30, mk_guard, mk_payload, pay_4_17_at_17_4, pay_4_17_at_0_17, BitVec.reduceBEq, BitVec.reduceExtractLsb', ↓reduceIte, Bool.false_eq_true, Bool.false_and, Bool.true_and]

theorem RoundTrip.hintExt (g : Guard) (e : BitVec 17) : RoundTrip.Statement (.hintExt g e) := by
  intro _ _
  refine (decode_at_30 (mk_major _ _ _)).trans ?_
  simp (disch := omega) only [decode30, mk_guard, mk_payload, pay_4_17_at_17_4, pay_4_17_at_0_17, BitVec.reduceBEq, BitVec.reduceExtractLsb', ↓reduceIte, Bool.false_eq_true, Bool.false_and, Bool.true_and]

theorem RoundTrip.hintMod (g : Guard) (x : BitVec 1) (r : BitVec 2) : RoundTrip.Statement (.hintMod g x r) := by
  intro _ _
  refine (decode_at_30 (mk_major _ _ _)).trans ?_
  simp (disch := omega) only [decode30, mk_guard, mk_payload, pay_18_1_2_at_17_4, pay_18_1_2_at_7_10, pay_18_1_2_at_3_4, pay_18_1_2_at_2_1, pay_18_1_2_at_0_2, BitVec.reduceBEq, BitVec.reduceExtractLsb', ↓reduceIte, Bool.false_eq_true, Bool.false_and, Bool.true_and]
  simp only [need, BitVec.reduceBEq, Bool.and_true, Bool.true_and, Bool.and_eq_true, and_self, ↓reduceIte]

theorem RoundTrip.hintCache (g : Guard) (l : BitVec 2) (c : BitVec 2) : RoundTrip.Statement (.hintCache g l c) := by
  intro _ (h : (cacheHint l && cacheHint c) = true)
  simp only [Bool.and_eq_true] at h
  refine (decode_at_30 (mk_major _ _ _)).trans ?_
  simp (disch := omega) only [decode30, mk_guard, mk_payload, pay_17_2_2_at_17_4, pay_17_2_2_at_2_2, pay_17_2_2_at_0_2, pay_17_2_2_at_7_10, pay_17_2_2_at_4_3, BitVec.reduceBEq, BitVec.reduceExtractLsb', ↓reduceIte, Bool.false_eq_true, Bool.false_and, Bool.true_and]
  simp only [need, BitVec.reduceBEq, Bool.and_true, Bool.true_and, Bool.and_eq_true, h, and_self, ↓reduceIte]

theorem RoundTrip.hintFetchI (g : Guard) (o : BitVec 16) : RoundTrip.Statement (.hintFetchI g o) := by
  intro _ _
  refine (decode_at_30 (mk_major _ _ _)).trans ?_
  simp (disch := omega) only [decode30, mk_guard, mk_payload, pay_5_16_at_17_4, pay_5_16_at_16_5, pay_5_16_at_0_16, BitVec.reduceBEq, BitVec.reduceExtractLsb', ↓reduceIte, Bool.false_eq_true, Bool.false_and, Bool.true_and]

theorem RoundTrip.hintFetchD (g : Guard) (a : BitVec 7) (o : BitVec 9) : RoundTrip.Statement (.hintFetchD g a o) := by
  intro _ _
  refine (decode_at_30 (mk_major _ _ _)).trans ?_
  simp (disch := omega) only [decode30, mk_guard, mk_payload, pay_5_7_9_at_17_4, pay_5_7_9_at_16_5, pay_5_7_9_at_9_7, pay_5_7_9_at_0_9, BitVec.reduceBEq, BitVec.reduceExtractLsb', ↓reduceIte, Bool.false_eq_true, Bool.false_and, Bool.true_and]

theorem RoundTrip.xlmIdx (g : Guard) (d : BitVec 7) (a : BitVec 7) (m : BitVec 5) : RoundTrip.Statement (.xlmIdx g d a m) := by
  intro _ _
  refine (decode_at_31 (mk_major _ _ _)).trans ?_
  simp (disch := omega) only [decode31, mk_guard, mk_payload, pay_7_7_2_5_at_5_2, pay_7_7_2_5_at_14_7, pay_7_7_2_5_at_7_7, pay_7_7_2_5_at_0_5, BitVec.reduceBEq, BitVec.reduceExtractLsb', ↓reduceIte, Bool.false_eq_true, Bool.false_and, Bool.true_and]

theorem RoundTrip.xlmXor (g : Guard) (d : BitVec 7) (a : BitVec 7) (m : BitVec 5) : RoundTrip.Statement (.xlmXor g d a m) := by
  intro _ _
  refine (decode_at_31 (mk_major _ _ _)).trans ?_
  simp (disch := omega) only [decode31, mk_guard, mk_payload, pay_7_7_2_5_at_5_2, pay_7_7_2_5_at_14_7, pay_7_7_2_5_at_7_7, pay_7_7_2_5_at_0_5, BitVec.reduceBEq, BitVec.reduceExtractLsb', ↓reduceIte, Bool.false_eq_true, Bool.false_and, Bool.true_and]

theorem RoundTrip.xlmUp (g : Guard) (d : BitVec 7) (a : BitVec 7) (m : BitVec 5) : RoundTrip.Statement (.xlmUp g d a m) := by
  intro _ _
  refine (decode_at_31 (mk_major _ _ _)).trans ?_
  simp (disch := omega) only [decode31, mk_guard, mk_payload, pay_7_7_2_5_at_5_2, pay_7_7_2_5_at_14_7, pay_7_7_2_5_at_7_7, pay_7_7_2_5_at_0_5, BitVec.reduceBEq, BitVec.reduceExtractLsb', ↓reduceIte, Bool.false_eq_true, Bool.false_and, Bool.true_and]

theorem RoundTrip.xlmDn (g : Guard) (d : BitVec 7) (a : BitVec 7) (m : BitVec 5) : RoundTrip.Statement (.xlmDn g d a m) := by
  intro _ _
  refine (decode_at_31 (mk_major _ _ _)).trans ?_
  simp (disch := omega) only [decode31, mk_guard, mk_payload, pay_7_7_2_5_at_5_2, pay_7_7_2_5_at_14_7, pay_7_7_2_5_at_7_7, pay_7_7_2_5_at_0_5, BitVec.reduceBEq, BitVec.reduceExtractLsb', ↓reduceIte, Bool.false_eq_true, Bool.false_and, Bool.true_and]

theorem RoundTrip.red (g : Guard) (d : BitVec 7) (a : BitVec 7) (o : BitVec 5) : RoundTrip.Statement (.red g d a o) := by
  intro _ (h : (redOp o && below 64 a) = true)
  simp only [Bool.and_eq_true] at h
  refine (decode_at_32 (mk_major _ _ _)).trans ?_
  simp (disch := omega) only [decode32, mk_guard, mk_payload, pay_7_7_2_5_at_5_2, pay_7_7_2_5_at_0_5, pay_7_7_2_5_at_7_7, pay_7_7_2_5_at_14_7, BitVec.reduceBEq, BitVec.reduceExtractLsb', ↓reduceIte, Bool.false_eq_true, Bool.false_and, Bool.true_and]
  simp only [need, BitVec.reduceBEq, Bool.and_true, Bool.true_and, Bool.and_eq_true, h, and_self, ↓reduceIte]

theorem RoundTrip.scan (g : Guard) (d : BitVec 7) (a : BitVec 7) (o : BitVec 5) : RoundTrip.Statement (.scan g d a o) := by
  intro _ (h : (redOp o && below 64 a) = true)
  simp only [Bool.and_eq_true] at h
  refine (decode_at_32 (mk_major _ _ _)).trans ?_
  simp (disch := omega) only [decode32, mk_guard, mk_payload, pay_7_7_2_5_at_5_2, pay_7_7_2_5_at_0_5, pay_7_7_2_5_at_7_7, pay_7_7_2_5_at_14_7, BitVec.reduceBEq, BitVec.reduceExtractLsb', ↓reduceIte, Bool.false_eq_true, Bool.false_and, Bool.true_and]
  simp only [need, BitVec.reduceBEq, Bool.and_true, Bool.true_and, Bool.and_eq_true, h, and_self, ↓reduceIte]

theorem RoundTrip.scanExcl (g : Guard) (d : BitVec 7) (a : BitVec 7) (o : BitVec 5) : RoundTrip.Statement (.scanExcl g d a o) := by
  intro _ (h : (redOp o && below 64 a) = true)
  simp only [Bool.and_eq_true] at h
  refine (decode_at_32 (mk_major _ _ _)).trans ?_
  simp (disch := omega) only [decode32, mk_guard, mk_payload, pay_7_7_2_5_at_5_2, pay_7_7_2_5_at_0_5, pay_7_7_2_5_at_7_7, pay_7_7_2_5_at_14_7, BitVec.reduceBEq, BitVec.reduceExtractLsb', ↓reduceIte, Bool.false_eq_true, Bool.false_and, Bool.true_and]
  simp only [need, BitVec.reduceBEq, Bool.and_true, Bool.true_and, Bool.and_eq_true, h, and_self, ↓reduceIte]

theorem RoundTrip.elect (g : Guard) (d : BitVec 7) (a : BitVec 7) : RoundTrip.Statement (.elect g d a) := by
  intro _ (h : (below 8 d && below 64 a) = true)
  simp only [Bool.and_eq_true] at h
  refine (decode_at_33 (mk_major _ _ _)).trans ?_
  simp (disch := omega) only [decode33, mk_guard, mk_payload, pay_7_7_7_at_3_4, pay_7_7_7_at_0_3, pay_7_7_7_at_14_7, pay_7_7_7_at_7_7, BitVec.reduceBEq, BitVec.reduceExtractLsb', ↓reduceIte, Bool.false_eq_true, Bool.false_and, Bool.true_and]
  simp only [need, BitVec.reduceBEq, Bool.and_true, Bool.true_and, Bool.and_eq_true, h, and_self, ↓reduceIte]

theorem RoundTrip.cvset (g : Guard) (d : BitVec 7) (a : BitVec 7) : RoundTrip.Statement (.cvset g d a) := by
  intro _ (h : (below 8 d && below 64 a) = true)
  simp only [Bool.and_eq_true] at h
  refine (decode_at_33 (mk_major _ _ _)).trans ?_
  simp (disch := omega) only [decode33, mk_guard, mk_payload, pay_7_7_7_at_3_4, pay_7_7_7_at_0_3, pay_7_7_7_at_14_7, pay_7_7_7_at_7_7, BitVec.reduceBEq, BitVec.reduceExtractLsb', ↓reduceIte, Bool.false_eq_true, Bool.false_and, Bool.true_and]
  simp only [need, BitVec.reduceBEq, Bool.and_true, Bool.true_and, Bool.and_eq_true, h, and_self, ↓reduceIte]

theorem RoundTrip.phase (g : Guard) (a : BitVec 7) : RoundTrip.Statement (.phase g a) := by
  intro _ (h : (below 64 a) = true)
  refine (decode_at_33 (mk_major _ _ _)).trans ?_
  simp (disch := omega) only [decode33, mk_guard, mk_payload, pay_7_7_7_at_3_4, pay_7_7_7_at_14_7, pay_7_7_7_at_0_3, pay_7_7_7_at_7_7, BitVec.reduceBEq, BitVec.reduceExtractLsb', ↓reduceIte, Bool.false_eq_true, Bool.false_and, Bool.true_and]
  simp only [need, BitVec.reduceBEq, Bool.and_true, Bool.true_and, Bool.and_eq_true, h, and_self, ↓reduceIte]

theorem RoundTrip.bar (g : Guard) (a : BitVec 7) (k : BitVec 3) : RoundTrip.Statement (.bar g a k) := by
  intro _ (h : (barScope k && below 64 a) = true)
  simp only [Bool.and_eq_true] at h
  refine (decode_at_33 (mk_major _ _ _)).trans ?_
  simp (disch := omega) only [decode33, mk_guard, mk_payload, pay_7_7_4_3_at_3_4, pay_7_7_4_3_at_0_3, pay_7_7_4_3_at_14_7, pay_7_7_4_3_at_7_7, BitVec.reduceBEq, BitVec.reduceExtractLsb', ↓reduceIte, Bool.false_eq_true, Bool.false_and, Bool.true_and]
  simp only [need, BitVec.reduceBEq, Bool.and_true, Bool.true_and, Bool.and_eq_true, h, and_self, ↓reduceIte]

theorem RoundTrip.barcfg (g : Guard) (a : BitVec 7) (k : BitVec 3) : RoundTrip.Statement (.barcfg g a k) := by
  intro _ (h : (barScope k && below 64 a) = true)
  simp only [Bool.and_eq_true] at h
  refine (decode_at_33 (mk_major _ _ _)).trans ?_
  simp (disch := omega) only [decode33, mk_guard, mk_payload, pay_7_7_4_3_at_3_4, pay_7_7_4_3_at_0_3, pay_7_7_4_3_at_14_7, pay_7_7_4_3_at_7_7, BitVec.reduceBEq, BitVec.reduceExtractLsb', ↓reduceIte, Bool.false_eq_true, Bool.false_and, Bool.true_and]
  simp only [need, BitVec.reduceBEq, Bool.and_true, Bool.true_and, Bool.and_eq_true, h, and_self, ↓reduceIte]

theorem RoundTrip.voteAny (g : Guard) (d : BitVec 7) (a : BitVec 7) (x : BitVec 3) : RoundTrip.Statement (.voteAny g d a x) := by
  intro _ (h : (below 8 d && below 64 a) = true)
  simp only [Bool.and_eq_true] at h
  refine (decode_at_33 (mk_major _ _ _)).trans ?_
  simp (disch := omega) only [decode33, mk_guard, mk_payload, pay_7_7_4_3_at_3_4, pay_7_7_4_3_at_14_7, pay_7_7_4_3_at_7_7, pay_7_7_4_3_at_0_3, BitVec.reduceBEq, BitVec.reduceExtractLsb', ↓reduceIte, Bool.false_eq_true, Bool.false_and, Bool.true_and]
  simp only [need, BitVec.reduceBEq, Bool.and_true, Bool.true_and, Bool.and_eq_true, h, and_self, ↓reduceIte]

theorem RoundTrip.voteAll (g : Guard) (d : BitVec 7) (a : BitVec 7) (x : BitVec 3) : RoundTrip.Statement (.voteAll g d a x) := by
  intro _ (h : (below 8 d && below 64 a) = true)
  simp only [Bool.and_eq_true] at h
  refine (decode_at_33 (mk_major _ _ _)).trans ?_
  simp (disch := omega) only [decode33, mk_guard, mk_payload, pay_7_7_4_3_at_3_4, pay_7_7_4_3_at_14_7, pay_7_7_4_3_at_7_7, pay_7_7_4_3_at_0_3, BitVec.reduceBEq, BitVec.reduceExtractLsb', ↓reduceIte, Bool.false_eq_true, Bool.false_and, Bool.true_and]
  simp only [need, BitVec.reduceBEq, Bool.and_true, Bool.true_and, Bool.and_eq_true, h, and_self, ↓reduceIte]

theorem RoundTrip.voteBallot (g : Guard) (d : BitVec 7) (a : BitVec 7) (x : BitVec 3) : RoundTrip.Statement (.voteBallot g d a x) := by
  intro _ (h : (below 64 d && below 64 a) = true)
  simp only [Bool.and_eq_true] at h
  refine (decode_at_33 (mk_major _ _ _)).trans ?_
  simp (disch := omega) only [decode33, mk_guard, mk_payload, pay_7_7_4_3_at_3_4, pay_7_7_4_3_at_14_7, pay_7_7_4_3_at_7_7, pay_7_7_4_3_at_0_3, BitVec.reduceBEq, BitVec.reduceExtractLsb', ↓reduceIte, Bool.false_eq_true, Bool.false_and, Bool.true_and]
  simp only [need, BitVec.reduceBEq, Bool.and_true, Bool.true_and, Bool.and_eq_true, h, and_self, ↓reduceIte]

theorem RoundTrip.qrsv (g : Guard) (d : BitVec 7) (a : BitVec 7) (x : BitVec 3) : RoundTrip.Statement (.qrsv g d a x) := by
  intro _ (h : (even d && below 64 a) = true)
  simp only [Bool.and_eq_true] at h
  refine (decode_at_34 (mk_major _ _ _)).trans ?_
  simp (disch := omega) only [decode34, mk_guard, mk_payload, pay_7_7_4_3_at_3_4, pay_7_7_4_3_at_14_7, pay_7_7_4_3_at_7_7, pay_7_7_4_3_at_0_3, BitVec.reduceBEq, BitVec.reduceExtractLsb', ↓reduceIte, Bool.false_eq_true, Bool.false_and, Bool.true_and]
  simp only [need, BitVec.reduceBEq, Bool.and_true, Bool.true_and, Bool.and_eq_true, h, and_self, ↓reduceIte]

theorem RoundTrip.qcmt (g : Guard) (a : BitVec 7) : RoundTrip.Statement (.qcmt g a) := by
  intro _ (h : (even a) = true)
  refine (decode_at_34 (mk_major _ _ _)).trans ?_
  simp (disch := omega) only [decode34, mk_guard, mk_payload, pay_7_7_7_at_3_4, pay_7_7_7_at_14_7, pay_7_7_7_at_0_3, pay_7_7_7_at_7_7, BitVec.reduceBEq, BitVec.reduceExtractLsb', ↓reduceIte, Bool.false_eq_true, Bool.false_and, Bool.true_and]
  simp only [need, BitVec.reduceBEq, Bool.and_true, Bool.true_and, Bool.and_eq_true, h, and_self, ↓reduceIte]

theorem RoundTrip.qdrop (g : Guard) (a : BitVec 7) : RoundTrip.Statement (.qdrop g a) := by
  intro _ (h : (even a) = true)
  refine (decode_at_34 (mk_major _ _ _)).trans ?_
  simp (disch := omega) only [decode34, mk_guard, mk_payload, pay_7_7_7_at_3_4, pay_7_7_7_at_14_7, pay_7_7_7_at_0_3, pay_7_7_7_at_7_7, BitVec.reduceBEq, BitVec.reduceExtractLsb', ↓reduceIte, Bool.false_eq_true, Bool.false_and, Bool.true_and]
  simp only [need, BitVec.reduceBEq, Bool.and_true, Bool.true_and, Bool.and_eq_true, h, and_self, ↓reduceIte]

theorem RoundTrip.qfree (g : Guard) (a : BitVec 7) : RoundTrip.Statement (.qfree g a) := by
  intro _ (h : (even a) = true)
  refine (decode_at_34 (mk_major _ _ _)).trans ?_
  simp (disch := omega) only [decode34, mk_guard, mk_payload, pay_7_7_7_at_3_4, pay_7_7_7_at_14_7, pay_7_7_7_at_0_3, pay_7_7_7_at_7_7, BitVec.reduceBEq, BitVec.reduceExtractLsb', ↓reduceIte, Bool.false_eq_true, Bool.false_and, Bool.true_and]
  simp only [need, BitVec.reduceBEq, Bool.and_true, Bool.true_and, Bool.and_eq_true, h, and_self, ↓reduceIte]

theorem RoundTrip.qstat (g : Guard) (d : BitVec 7) (a : BitVec 7) : RoundTrip.Statement (.qstat g d a) := by
  intro _ (h : (below 64 a) = true)
  refine (decode_at_34 (mk_major _ _ _)).trans ?_
  simp (disch := omega) only [decode34, mk_guard, mk_payload, pay_7_7_7_at_3_4, pay_7_7_7_at_0_3, pay_7_7_7_at_7_7, pay_7_7_7_at_14_7, BitVec.reduceBEq, BitVec.reduceExtractLsb', ↓reduceIte, Bool.false_eq_true, Bool.false_and, Bool.true_and]
  simp only [need, BitVec.reduceBEq, Bool.and_true, Bool.true_and, Bool.and_eq_true, h, and_self, ↓reduceIte]

theorem RoundTrip.batt (g : Guard) (d : BitVec 7) : RoundTrip.Statement (.batt g d) := by
  intro _ _
  refine (decode_at_34 (mk_major _ _ _)).trans ?_
  simp (disch := omega) only [decode34, mk_guard, mk_payload, pay_7_14_at_3_4, pay_7_14_at_7_7, pay_7_14_at_0_3, pay_7_14_at_14_7, BitVec.reduceBEq, BitVec.reduceExtractLsb', ↓reduceIte, Bool.false_eq_true, Bool.false_and, Bool.true_and]
  simp only [need, BitVec.reduceBEq, Bool.and_true, Bool.true_and, Bool.and_eq_true, and_self, ↓reduceIte]

theorem RoundTrip.knnew (g : Guard) (d : BitVec 7) (x : BitVec 3) : RoundTrip.Statement (.knnew g d x) := by
  intro _ _
  refine (decode_at_34 (mk_major _ _ _)).trans ?_
  simp (disch := omega) only [decode34, mk_guard, mk_payload, pay_7_11_3_at_3_4, pay_7_11_3_at_7_7, pay_7_11_3_at_14_7, pay_7_11_3_at_0_3, BitVec.reduceBEq, BitVec.reduceExtractLsb', ↓reduceIte, Bool.false_eq_true, Bool.false_and, Bool.true_and]
  simp only [need, BitVec.reduceBEq, Bool.and_true, Bool.true_and, Bool.and_eq_true, and_self, ↓reduceIte]

theorem RoundTrip.knset (g : Guard) (d : BitVec 7) (a : BitVec 7) : RoundTrip.Statement (.knset g d a) := by
  intro _ (h : (even d) = true)
  refine (decode_at_34 (mk_major _ _ _)).trans ?_
  simp (disch := omega) only [decode34, mk_guard, mk_payload, pay_7_7_7_at_3_4, pay_7_7_7_at_0_3, pay_7_7_7_at_14_7, pay_7_7_7_at_7_7, BitVec.reduceBEq, BitVec.reduceExtractLsb', ↓reduceIte, Bool.false_eq_true, Bool.false_and, Bool.true_and]
  simp only [need, BitVec.reduceBEq, Bool.and_true, Bool.true_and, Bool.and_eq_true, h, and_self, ↓reduceIte]

theorem RoundTrip.knadd (g : Guard) (d : BitVec 7) (a : BitVec 7) : RoundTrip.Statement (.knadd g d a) := by
  intro _ (h : (even d) = true)
  refine (decode_at_34 (mk_major _ _ _)).trans ?_
  simp (disch := omega) only [decode34, mk_guard, mk_payload, pay_7_7_7_at_3_4, pay_7_7_7_at_0_3, pay_7_7_7_at_14_7, pay_7_7_7_at_7_7, BitVec.reduceBEq, BitVec.reduceExtractLsb', ↓reduceIte, Bool.false_eq_true, Bool.false_and, Bool.true_and]
  simp only [need, BitVec.reduceBEq, Bool.and_true, Bool.true_and, Bool.and_eq_true, h, and_self, ↓reduceIte]

theorem RoundTrip.knget (g : Guard) (d : BitVec 7) (a : BitVec 7) (x : BitVec 3) : RoundTrip.Statement (.knget g d a x) := by
  intro _ (h : (even d) = true)
  refine (decode_at_34 (mk_major _ _ _)).trans ?_
  simp (disch := omega) only [decode34, mk_guard, mk_payload, pay_7_7_4_3_at_3_4, pay_7_7_4_3_at_14_7, pay_7_7_4_3_at_7_7, pay_7_7_4_3_at_0_3, BitVec.reduceBEq, BitVec.reduceExtractLsb', ↓reduceIte, Bool.false_eq_true, Bool.false_and, Bool.true_and]
  simp only [need, BitVec.reduceBEq, Bool.and_true, Bool.true_and, Bool.and_eq_true, h, and_self, ↓reduceIte]

theorem RoundTrip.knwait (g : Guard) (d : BitVec 7) (a : BitVec 7) : RoundTrip.Statement (.knwait g d a) := by
  intro _ (h : (even d) = true)
  refine (decode_at_34 (mk_major _ _ _)).trans ?_
  simp (disch := omega) only [decode34, mk_guard, mk_payload, pay_7_7_7_at_3_4, pay_7_7_7_at_0_3, pay_7_7_7_at_14_7, pay_7_7_7_at_7_7, BitVec.reduceBEq, BitVec.reduceExtractLsb', ↓reduceIte, Bool.false_eq_true, Bool.false_and, Bool.true_and]
  simp only [need, BitVec.reduceBEq, Bool.and_true, Bool.true_and, Bool.and_eq_true, h, and_self, ↓reduceIte]

theorem RoundTrip.knpoll (g : Guard) (a : BitVec 7) (x : BitVec 3) : RoundTrip.Statement (.knpoll g a x) := by
  intro _ _
  refine (decode_at_34 (mk_major _ _ _)).trans ?_
  simp (disch := omega) only [decode34, mk_guard, mk_payload, pay_7_7_4_3_at_3_4, pay_7_7_4_3_at_14_7, pay_7_7_4_3_at_7_7, pay_7_7_4_3_at_0_3, BitVec.reduceBEq, BitVec.reduceExtractLsb', ↓reduceIte, Bool.false_eq_true, Bool.false_and, Bool.true_and]
  simp only [need, BitVec.reduceBEq, Bool.and_true, Bool.true_and, Bool.and_eq_true, and_self, ↓reduceIte]

theorem RoundTrip.knfree (g : Guard) (a : BitVec 7) : RoundTrip.Statement (.knfree g a) := by
  intro _ _
  refine (decode_at_34 (mk_major _ _ _)).trans ?_
  simp (disch := omega) only [decode34, mk_guard, mk_payload, pay_7_7_7_at_3_4, pay_7_7_7_at_14_7, pay_7_7_7_at_0_3, pay_7_7_7_at_7_7, BitVec.reduceBEq, BitVec.reduceExtractLsb', ↓reduceIte, Bool.false_eq_true, Bool.false_and, Bool.true_and]
  simp only [need, BitVec.reduceBEq, Bool.and_true, Bool.true_and, Bool.and_eq_true, and_self, ↓reduceIte]

theorem RoundTrip.knbrk (g : Guard) (a : BitVec 7) : RoundTrip.Statement (.knbrk g a) := by
  intro _ _
  refine (decode_at_34 (mk_major _ _ _)).trans ?_
  simp (disch := omega) only [decode34, mk_guard, mk_payload, pay_7_7_7_at_3_4, pay_7_7_7_at_14_7, pay_7_7_7_at_0_3, pay_7_7_7_at_7_7, BitVec.reduceBEq, BitVec.reduceExtractLsb', ↓reduceIte, Bool.false_eq_true, Bool.false_and, Bool.true_and]
  simp only [need, BitVec.reduceBEq, Bool.and_true, Bool.true_and, Bool.and_eq_true, and_self, ↓reduceIte]

theorem RoundTrip.hzrd (g : Guard) (d : BitVec 7) : RoundTrip.Statement (.hzrd g d) := by
  intro _ _
  refine (decode_at_35 (mk_major _ _ _)).trans ?_
  simp (disch := omega) only [decode35, mk_guard, mk_payload, pay_7_14_at_0_7, pay_7_14_at_7_7, pay_7_14_at_14_7, BitVec.reduceBEq, BitVec.reduceExtractLsb', ↓reduceIte, Bool.false_eq_true, Bool.false_and, Bool.true_and]
  simp only [need, BitVec.reduceBEq, Bool.and_true, Bool.true_and, Bool.and_eq_true, and_self, ↓reduceIte]

theorem RoundTrip.hzseq (g : Guard) (d : BitVec 7) : RoundTrip.Statement (.hzseq g d) := by
  intro _ _
  refine (decode_at_35 (mk_major _ _ _)).trans ?_
  simp (disch := omega) only [decode35, mk_guard, mk_payload, pay_7_14_at_0_7, pay_7_14_at_7_7, pay_7_14_at_14_7, BitVec.reduceBEq, BitVec.reduceExtractLsb', ↓reduceIte, Bool.false_eq_true, Bool.false_and, Bool.true_and]
  simp only [need, BitVec.reduceBEq, Bool.and_true, Bool.true_and, Bool.and_eq_true, and_self, ↓reduceIte]

theorem RoundTrip.hzwait (g : Guard) (a : BitVec 7) : RoundTrip.Statement (.hzwait g a) := by
  intro _ _
  refine (decode_at_35 (mk_major _ _ _)).trans ?_
  simp (disch := omega) only [decode35, mk_guard, mk_payload, pay_7_7_7_at_0_7, pay_7_7_7_at_14_7, pay_7_7_7_at_7_7, BitVec.reduceBEq, BitVec.reduceExtractLsb', ↓reduceIte, Bool.false_eq_true, Bool.false_and, Bool.true_and]
  simp only [need, BitVec.reduceBEq, Bool.and_true, Bool.true_and, Bool.and_eq_true, and_self, ↓reduceIte]

theorem RoundTrip.hzbrClr (g : Guard) (i : BitVec 14) : RoundTrip.Statement (.hzbrClr g i) := by
  intro _ _
  refine (decode_at_36 (mk_major _ _ _)).trans ?_
  simp (disch := omega) only [decode36, mk_guard, mk_payload, pay_7_14_at_14_7, pay_7_14_at_0_14, BitVec.reduceBEq, BitVec.reduceExtractLsb', ↓reduceIte, Bool.false_eq_true, Bool.false_and, Bool.true_and]

theorem RoundTrip.hzbrNclr (g : Guard) (i : BitVec 14) : RoundTrip.Statement (.hzbrNclr g i) := by
  intro _ _
  refine (decode_at_36 (mk_major _ _ _)).trans ?_
  simp (disch := omega) only [decode36, mk_guard, mk_payload, pay_7_14_at_14_7, pay_7_14_at_0_14, BitVec.reduceBEq, BitVec.reduceExtractLsb', ↓reduceIte, Bool.false_eq_true, Bool.false_and, Bool.true_and]

theorem RoundTrip.tdef (g : Guard) (d : BitVec 7) (a : BitVec 7) : RoundTrip.Statement (.tdef g d a) := by
  intro _ (h : (below 16 d && below 49 a) = true)
  simp only [Bool.and_eq_true] at h
  refine (decode_at_38 (mk_major _ _ _)).trans ?_
  simp (disch := omega) only [decode38, mk_guard, mk_payload, pay_7_7_7_at_5_2, pay_7_7_7_at_0_5, pay_7_7_7_at_14_7, pay_7_7_7_at_7_7, BitVec.reduceBEq, BitVec.reduceExtractLsb', ↓reduceIte, Bool.false_eq_true, Bool.false_and, Bool.true_and]
  simp only [need, BitVec.reduceBEq, Bool.and_true, Bool.true_and, Bool.and_eq_true, h, and_self, ↓reduceIte]

theorem RoundTrip.tld (g : Guard) (d : BitVec 7) (a : BitVec 7) (m : BitVec 5) : RoundTrip.Statement (.tld g d a m) := by
  intro _ (h : (below 16 d && below 64 a) = true)
  simp only [Bool.and_eq_true] at h
  refine (decode_at_38 (mk_major _ _ _)).trans ?_
  simp (disch := omega) only [decode38, mk_guard, mk_payload, pay_7_7_2_5_at_5_2, pay_7_7_2_5_at_14_7, pay_7_7_2_5_at_7_7, pay_7_7_2_5_at_0_5, BitVec.reduceBEq, BitVec.reduceExtractLsb', ↓reduceIte, Bool.false_eq_true, Bool.false_and, Bool.true_and]
  simp only [need, BitVec.reduceBEq, Bool.and_true, Bool.true_and, Bool.and_eq_true, h, and_self, ↓reduceIte]

theorem RoundTrip.tst (g : Guard) (d : BitVec 7) (a : BitVec 7) : RoundTrip.Statement (.tst g d a) := by
  intro _ (h : (below 16 d && below 64 a) = true)
  simp only [Bool.and_eq_true] at h
  refine (decode_at_38 (mk_major _ _ _)).trans ?_
  simp (disch := omega) only [decode38, mk_guard, mk_payload, pay_7_7_7_at_5_2, pay_7_7_7_at_0_5, pay_7_7_7_at_14_7, pay_7_7_7_at_7_7, BitVec.reduceBEq, BitVec.reduceExtractLsb', ↓reduceIte, Bool.false_eq_true, Bool.false_and, Bool.true_and]
  simp only [need, BitVec.reduceBEq, Bool.and_true, Bool.true_and, Bool.and_eq_true, h, and_self, ↓reduceIte]

theorem RoundTrip.tcopy (g : Guard) (a : BitVec 7) : RoundTrip.Statement (.tcopy g a) := by
  intro _ (h : (below 49 a) = true)
  refine (decode_at_38 (mk_major _ _ _)).trans ?_
  simp (disch := omega) only [decode38, mk_guard, mk_payload, pay_7_7_7_at_5_2, pay_7_7_7_at_14_7, pay_7_7_7_at_0_5, pay_7_7_7_at_7_7, BitVec.reduceBEq, BitVec.reduceExtractLsb', ↓reduceIte, Bool.false_eq_true, Bool.false_and, Bool.true_and]
  simp only [need, BitVec.reduceBEq, Bool.and_true, Bool.true_and, Bool.and_eq_true, h, and_self, ↓reduceIte]

theorem RoundTrip.swinit (g : Guard) (d : BitVec 7) (a : BitVec 7) : RoundTrip.Statement (.swinit g d a) := by
  intro _ _
  refine (decode_at_39 (mk_major _ _ _)).trans ?_
  simp (disch := omega) only [decode39, mk_guard, mk_payload, pay_7_7_7_at_4_3, pay_7_7_7_at_0_4, pay_7_7_7_at_14_7, pay_7_7_7_at_7_7, BitVec.reduceBEq, BitVec.reduceExtractLsb', ↓reduceIte, Bool.false_eq_true, Bool.false_and, Bool.true_and]
  simp only [need, BitVec.reduceBEq, Bool.and_true, Bool.true_and, Bool.and_eq_true, and_self, ↓reduceIte]

theorem RoundTrip.swait (g : Guard) (d : BitVec 7) (a : BitVec 7) : RoundTrip.Statement (.swait g d a) := by
  intro _ _
  refine (decode_at_39 (mk_major _ _ _)).trans ?_
  simp (disch := omega) only [decode39, mk_guard, mk_payload, pay_7_7_7_at_4_3, pay_7_7_7_at_0_4, pay_7_7_7_at_14_7, pay_7_7_7_at_7_7, BitVec.reduceBEq, BitVec.reduceExtractLsb', ↓reduceIte, Bool.false_eq_true, Bool.false_and, Bool.true_and]
  simp only [need, BitVec.reduceBEq, Bool.and_true, Bool.true_and, Bool.and_eq_true, and_self, ↓reduceIte]

theorem RoundTrip.swadd (g : Guard) (d : BitVec 7) (a : BitVec 7) : RoundTrip.Statement (.swadd g d a) := by
  intro _ _
  refine (decode_at_39 (mk_major _ _ _)).trans ?_
  simp (disch := omega) only [decode39, mk_guard, mk_payload, pay_7_7_7_at_4_3, pay_7_7_7_at_0_4, pay_7_7_7_at_14_7, pay_7_7_7_at_7_7, BitVec.reduceBEq, BitVec.reduceExtractLsb', ↓reduceIte, Bool.false_eq_true, Bool.false_and, Bool.true_and]
  simp only [need, BitVec.reduceBEq, Bool.and_true, Bool.true_and, Bool.and_eq_true, and_self, ↓reduceIte]

theorem RoundTrip.waito (g : Guard) (n : BitVec 7) (c : BitVec 2) : RoundTrip.Statement (.waito g n c) := by
  intro _ _
  refine (decode_at_39 (mk_major _ _ _)).trans ?_
  simp (disch := omega) only [decode39, mk_guard, mk_payload, pay_7_7_3_2_2_at_4_3, pay_7_7_3_2_2_at_14_7, pay_7_7_3_2_2_at_0_2, pay_7_7_3_2_2_at_7_7, pay_7_7_3_2_2_at_2_2, BitVec.reduceBEq, BitVec.reduceExtractLsb', ↓reduceIte, Bool.false_eq_true, Bool.false_and, Bool.true_and]
  simp only [need, BitVec.reduceBEq, Bool.and_true, Bool.true_and, Bool.and_eq_true, and_self, ↓reduceIte]

theorem RoundTrip.press (g : Guard) (d : BitVec 7) (m : BitVec 3) : RoundTrip.Statement (.press g d m) := by
  intro _ (h : (below 16 d) = true)
  refine (decode_at_3A (mk_major _ _ _)).trans ?_
  simp (disch := omega) only [decode3A, mk_guard, mk_payload, pay_7_8_3_3_at_6_1, pay_7_8_3_3_at_7_7, pay_7_8_3_3_at_0_3, pay_7_8_3_3_at_14_7, pay_7_8_3_3_at_3_3, BitVec.reduceBEq, BitVec.reduceExtractLsb', ↓reduceIte, Bool.false_eq_true, Bool.false_and, Bool.true_and]
  simp only [need, BitVec.reduceBEq, Bool.and_true, Bool.true_and, Bool.and_eq_true, h, and_self, ↓reduceIte]

theorem RoundTrip.pressw (g : Guard) (d : BitVec 7) (a : BitVec 7) (m : BitVec 3) : RoundTrip.Statement (.pressw g d a m) := by
  intro _ (h : (below 16 d && below 64 a) = true)
  simp only [Bool.and_eq_true] at h
  refine (decode_at_3A (mk_major _ _ _)).trans ?_
  simp (disch := omega) only [decode3A, mk_guard, mk_payload, pay_7_7_1_3_3_at_6_1, pay_7_7_1_3_3_at_0_3, pay_7_7_1_3_3_at_14_7, pay_7_7_1_3_3_at_7_7, pay_7_7_1_3_3_at_3_3, BitVec.reduceBEq, BitVec.reduceExtractLsb', ↓reduceIte, Bool.false_eq_true, Bool.false_and, Bool.true_and]
  simp only [need, BitVec.reduceBEq, Bool.and_true, Bool.true_and, Bool.and_eq_true, h, and_self, ↓reduceIte]

theorem RoundTrip.mma (g : Guard) (d : BitVec 7) (a : BitVec 7) (m : BitVec 3) (j : BitVec 3) : RoundTrip.Statement (.mma g d a m j) := by
  intro _ (h : (vacc d && below 16 a) = true)
  simp only [Bool.and_eq_true] at h
  refine (decode_at_3B (mk_major _ _ _)).trans ?_
  simp (disch := omega) only [mk_guard, mk_payload, pay_7_7_3_3_1_at_0_1, pay_7_7_3_3_1_at_14_7, pay_7_7_3_3_1_at_7_7, pay_7_7_3_3_1_at_4_3, pay_7_7_3_3_1_at_1_3]
  simp only [need, BitVec.reduceBEq, Bool.and_true, Bool.true_and, Bool.and_eq_true, h, and_self, ↓reduceIte]

theorem RoundTrip.skadd (g : Guard) (d : BitVec 7) (a : BitVec 7) (r : BitVec 1) : RoundTrip.Statement (.skadd g d a r) := by
  intro _ (h : (below 32 d && below 32 a) = true)
  simp only [Bool.and_eq_true] at h
  refine (decode_at_3C (mk_major _ _ _)).trans ?_
  simp (disch := omega) only [decode3C, mk_guard, mk_payload, pay_7_7_3_1_3_at_4_3, pay_7_7_3_1_3_at_0_3, pay_7_7_3_1_3_at_14_7, pay_7_7_3_1_3_at_7_7, pay_7_7_3_1_3_at_3_1, BitVec.reduceBEq, BitVec.reduceExtractLsb', ↓reduceIte, Bool.false_eq_true, Bool.false_and, Bool.true_and]
  simp only [need, BitVec.reduceBEq, Bool.and_true, Bool.true_and, Bool.and_eq_true, h, and_self, ↓reduceIte]

theorem RoundTrip.sksub (g : Guard) (d : BitVec 7) (a : BitVec 7) (r : BitVec 1) : RoundTrip.Statement (.sksub g d a r) := by
  intro _ (h : (below 32 d && below 32 a) = true)
  simp only [Bool.and_eq_true] at h
  refine (decode_at_3C (mk_major _ _ _)).trans ?_
  simp (disch := omega) only [decode3C, mk_guard, mk_payload, pay_7_7_3_1_3_at_4_3, pay_7_7_3_1_3_at_0_3, pay_7_7_3_1_3_at_14_7, pay_7_7_3_1_3_at_7_7, pay_7_7_3_1_3_at_3_1, BitVec.reduceBEq, BitVec.reduceExtractLsb', ↓reduceIte, Bool.false_eq_true, Bool.false_and, Bool.true_and]
  simp only [need, BitVec.reduceBEq, Bool.and_true, Bool.true_and, Bool.and_eq_true, h, and_self, ↓reduceIte]

theorem RoundTrip.skmax (g : Guard) (d : BitVec 7) (a : BitVec 7) (r : BitVec 1) : RoundTrip.Statement (.skmax g d a r) := by
  intro _ (h : (below 32 d && below 32 a) = true)
  simp only [Bool.and_eq_true] at h
  refine (decode_at_3C (mk_major _ _ _)).trans ?_
  simp (disch := omega) only [decode3C, mk_guard, mk_payload, pay_7_7_3_1_3_at_4_3, pay_7_7_3_1_3_at_0_3, pay_7_7_3_1_3_at_14_7, pay_7_7_3_1_3_at_7_7, pay_7_7_3_1_3_at_3_1, BitVec.reduceBEq, BitVec.reduceExtractLsb', ↓reduceIte, Bool.false_eq_true, Bool.false_and, Bool.true_and]
  simp only [need, BitVec.reduceBEq, Bool.and_true, Bool.true_and, Bool.and_eq_true, h, and_self, ↓reduceIte]

theorem RoundTrip.skmin (g : Guard) (d : BitVec 7) (a : BitVec 7) (r : BitVec 1) : RoundTrip.Statement (.skmin g d a r) := by
  intro _ (h : (below 32 d && below 32 a) = true)
  simp only [Bool.and_eq_true] at h
  refine (decode_at_3C (mk_major _ _ _)).trans ?_
  simp (disch := omega) only [decode3C, mk_guard, mk_payload, pay_7_7_3_1_3_at_4_3, pay_7_7_3_1_3_at_0_3, pay_7_7_3_1_3_at_14_7, pay_7_7_3_1_3_at_7_7, pay_7_7_3_1_3_at_3_1, BitVec.reduceBEq, BitVec.reduceExtractLsb', ↓reduceIte, Bool.false_eq_true, Bool.false_and, Bool.true_and]
  simp only [need, BitVec.reduceBEq, Bool.and_true, Bool.true_and, Bool.and_eq_true, h, and_self, ↓reduceIte]

theorem RoundTrip.skset (g : Guard) (d : BitVec 7) (a : BitVec 7) (r : BitVec 1) : RoundTrip.Statement (.skset g d a r) := by
  intro _ (h : (below 32 d && below 64 a) = true)
  simp only [Bool.and_eq_true] at h
  refine (decode_at_3C (mk_major _ _ _)).trans ?_
  simp (disch := omega) only [decode3C, mk_guard, mk_payload, pay_7_7_3_1_3_at_4_3, pay_7_7_3_1_3_at_0_3, pay_7_7_3_1_3_at_14_7, pay_7_7_3_1_3_at_7_7, pay_7_7_3_1_3_at_3_1, BitVec.reduceBEq, BitVec.reduceExtractLsb', ↓reduceIte, Bool.false_eq_true, Bool.false_and, Bool.true_and]
  simp only [need, BitVec.reduceBEq, Bool.and_true, Bool.true_and, Bool.and_eq_true, h, and_self, ↓reduceIte]

theorem RoundTrip.skmov (g : Guard) (d : BitVec 7) (a : BitVec 7) (r : BitVec 1) : RoundTrip.Statement (.skmov g d a r) := by
  intro _ (h : (below 32 d && below 32 a) = true)
  simp only [Bool.and_eq_true] at h
  refine (decode_at_3C (mk_major _ _ _)).trans ?_
  simp (disch := omega) only [decode3C, mk_guard, mk_payload, pay_7_7_3_1_3_at_4_3, pay_7_7_3_1_3_at_0_3, pay_7_7_3_1_3_at_14_7, pay_7_7_3_1_3_at_7_7, pay_7_7_3_1_3_at_3_1, BitVec.reduceBEq, BitVec.reduceExtractLsb', ↓reduceIte, Bool.false_eq_true, Bool.false_and, Bool.true_and]
  simp only [need, BitVec.reduceBEq, Bool.and_true, Bool.true_and, Bool.and_eq_true, h, and_self, ↓reduceIte]

theorem RoundTrip.skext (g : Guard) (d : BitVec 7) (a : BitVec 7) : RoundTrip.Statement (.skext g d a) := by
  intro _ (h : (below 32 a) = true)
  refine (decode_at_3C (mk_major _ _ _)).trans ?_
  simp (disch := omega) only [decode3C, mk_guard, mk_payload, pay_7_7_7_at_4_3, pay_7_7_7_at_0_4, pay_7_7_7_at_7_7, pay_7_7_7_at_14_7, BitVec.reduceBEq, BitVec.reduceExtractLsb', ↓reduceIte, Bool.false_eq_true, Bool.false_and, Bool.true_and]
  simp only [need, BitVec.reduceBEq, Bool.and_true, Bool.true_and, Bool.and_eq_true, h, and_self, ↓reduceIte]

theorem RoundTrip.skins (g : Guard) (d : BitVec 7) (a : BitVec 7) (r : BitVec 1) : RoundTrip.Statement (.skins g d a r) := by
  intro _ (h : (below 32 d) = true)
  refine (decode_at_3C (mk_major _ _ _)).trans ?_
  simp (disch := omega) only [decode3C, mk_guard, mk_payload, pay_7_7_3_1_3_at_4_3, pay_7_7_3_1_3_at_0_3, pay_7_7_3_1_3_at_14_7, pay_7_7_3_1_3_at_7_7, pay_7_7_3_1_3_at_3_1, BitVec.reduceBEq, BitVec.reduceExtractLsb', ↓reduceIte, Bool.false_eq_true, Bool.false_and, Bool.true_and]
  simp only [need, BitVec.reduceBEq, Bool.and_true, Bool.true_and, Bool.and_eq_true, h, and_self, ↓reduceIte]

theorem RoundTrip.skbind (g : Guard) (d : BitVec 7) (a : BitVec 7) : RoundTrip.Statement (.skbind g d a) := by
  intro _ (h : (below 16 d && below 32 a) = true)
  simp only [Bool.and_eq_true] at h
  refine (decode_at_3D (mk_major _ _ _)).trans ?_
  simp (disch := omega) only [decode3D, mk_guard, mk_payload, pay_7_7_7_at_0_7, pay_7_7_7_at_14_7, pay_7_7_7_at_7_7, BitVec.reduceBEq, BitVec.reduceExtractLsb', ↓reduceIte, Bool.false_eq_true, Bool.false_and, Bool.true_and]
  simp only [need, BitVec.reduceBEq, Bool.and_true, Bool.true_and, Bool.and_eq_true, h, and_self, ↓reduceIte]

theorem RoundTrip.cmpr (g : Guard) (d : BitVec 7) (a : BitVec 7) : RoundTrip.Statement (.cmpr g d a) := by
  intro _ (h : (below 16 d && below 16 a) = true)
  simp only [Bool.and_eq_true] at h
  refine (decode_at_3D (mk_major _ _ _)).trans ?_
  simp (disch := omega) only [decode3D, mk_guard, mk_payload, pay_7_7_7_at_0_7, pay_7_7_7_at_14_7, pay_7_7_7_at_7_7, BitVec.reduceBEq, BitVec.reduceExtractLsb', ↓reduceIte, Bool.false_eq_true, Bool.false_and, Bool.true_and]
  simp only [need, BitVec.reduceBEq, Bool.and_true, Bool.true_and, Bool.and_eq_true, h, and_self, ↓reduceIte]

theorem RoundTrip.sbmap (g : Guard) (d : BitVec 7) (a : BitVec 7) : RoundTrip.Statement (.sbmap g d a) := by
  intro _ (h : (below 16 d && below 16 a) = true)
  simp only [Bool.and_eq_true] at h
  refine (decode_at_3D (mk_major _ _ _)).trans ?_
  simp (disch := omega) only [decode3D, mk_guard, mk_payload, pay_7_7_7_at_0_7, pay_7_7_7_at_14_7, pay_7_7_7_at_7_7, BitVec.reduceBEq, BitVec.reduceExtractLsb', ↓reduceIte, Bool.false_eq_true, Bool.false_and, Bool.true_and]
  simp only [need, BitVec.reduceBEq, Bool.and_true, Bool.true_and, Bool.and_eq_true, h, and_self, ↓reduceIte]

theorem RoundTrip.cbld (g : Guard) (a : BitVec 7) : RoundTrip.Statement (.cbld g a) := by
  intro _ (h : (below 64 a) = true)
  refine (decode_at_3D (mk_major _ _ _)).trans ?_
  simp (disch := omega) only [decode3D, mk_guard, mk_payload, pay_7_7_7_at_0_7, pay_7_7_7_at_14_7, pay_7_7_7_at_7_7, BitVec.reduceBEq, BitVec.reduceExtractLsb', ↓reduceIte, Bool.false_eq_true, Bool.false_and, Bool.true_and]
  simp only [need, BitVec.reduceBEq, Bool.and_true, Bool.true_and, Bool.and_eq_true, h, and_self, ↓reduceIte]

theorem RoundTrip.cbldDef (g : Guard) : RoundTrip.Statement (.cbldDef g) := by
  intro _ _
  refine (decode_at_3D (mk_major _ _ _)).trans ?_
  simp (disch := omega) only [decode3D, mk_guard, mk_payload, BitVec.reduceBEq, BitVec.reduceExtractLsb', ↓reduceIte, Bool.false_eq_true, Bool.false_and, Bool.true_and]
  simp only [need, BitVec.reduceBEq, Bool.and_true, Bool.true_and, Bool.and_eq_true, and_self, ↓reduceIte]

theorem RoundTrip.cbdec (g : Guard) (d : BitVec 7) (a : BitVec 7) : RoundTrip.Statement (.cbdec g d a) := by
  intro _ _
  refine (decode_at_3D (mk_major _ _ _)).trans ?_
  simp (disch := omega) only [decode3D, mk_guard, mk_payload, pay_7_7_7_at_0_7, pay_7_7_7_at_14_7, pay_7_7_7_at_7_7, BitVec.reduceBEq, BitVec.reduceExtractLsb', ↓reduceIte, Bool.false_eq_true, Bool.false_and, Bool.true_and]

theorem RoundTrip.rsend (g : Guard) (a : BitVec 7) : RoundTrip.Statement (.rsend g a) := by
  intro _ (h : (below 62 a) = true)
  refine (decode_at_3E (mk_major _ _ _)).trans ?_
  simp (disch := omega) only [decode3E, mk_guard, mk_payload, pay_7_7_7_at_0_7, pay_7_7_7_at_7_7, pay_7_7_7_at_14_7, BitVec.reduceBEq, BitVec.reduceExtractLsb', ↓reduceIte, Bool.false_eq_true, Bool.false_and, Bool.true_and]
  simp only [need, BitVec.reduceBEq, Bool.and_true, Bool.true_and, Bool.and_eq_true, h, and_self, ↓reduceIte]

theorem RoundTrip.rsendAdd (g : Guard) (a : BitVec 7) : RoundTrip.Statement (.rsendAdd g a) := by
  intro _ (h : (below 62 a) = true)
  refine (decode_at_3E (mk_major _ _ _)).trans ?_
  simp (disch := omega) only [decode3E, mk_guard, mk_payload, pay_7_7_7_at_0_7, pay_7_7_7_at_7_7, pay_7_7_7_at_14_7, BitVec.reduceBEq, BitVec.reduceExtractLsb', ↓reduceIte, Bool.false_eq_true, Bool.false_and, Bool.true_and]
  simp only [need, BitVec.reduceBEq, Bool.and_true, Bool.true_and, Bool.and_eq_true, h, and_self, ↓reduceIte]

theorem RoundTrip.tsend (g : Guard) (d : BitVec 7) (a : BitVec 7) : RoundTrip.Statement (.tsend g d a) := by
  intro _ (h : (below 61 a && below 64 d) = true)
  simp only [Bool.and_eq_true] at h
  refine (decode_at_3E (mk_major _ _ _)).trans ?_
  simp (disch := omega) only [decode3E, mk_guard, mk_payload, pay_7_7_7_at_0_7, pay_7_7_7_at_7_7, pay_7_7_7_at_14_7, BitVec.reduceBEq, BitVec.reduceExtractLsb', ↓reduceIte, Bool.false_eq_true, Bool.false_and, Bool.true_and]
  simp only [need, BitVec.reduceBEq, Bool.and_true, Bool.true_and, Bool.and_eq_true, h, and_self, ↓reduceIte]

theorem RoundTrip.tscncl (g : Guard) (a : BitVec 7) : RoundTrip.Statement (.tscncl g a) := by
  intro _ (h : (below 64 a) = true)
  refine (decode_at_3E (mk_major _ _ _)).trans ?_
  simp (disch := omega) only [decode3E, mk_guard, mk_payload, pay_7_7_7_at_0_7, pay_7_7_7_at_14_7, pay_7_7_7_at_7_7, BitVec.reduceBEq, BitVec.reduceExtractLsb', ↓reduceIte, Bool.false_eq_true, Bool.false_and, Bool.true_and]
  simp only [need, BitVec.reduceBEq, Bool.and_true, Bool.true_and, Bool.and_eq_true, h, and_self, ↓reduceIte]

theorem RoundTrip.esend (g : Guard) (a : BitVec 7) : RoundTrip.Statement (.esend g a) := by
  intro _ (h : (below 61 a) = true)
  refine (decode_at_3E (mk_major _ _ _)).trans ?_
  simp (disch := omega) only [decode3E, mk_guard, mk_payload, pay_7_7_7_at_0_7, pay_7_7_7_at_7_7, pay_7_7_7_at_14_7, BitVec.reduceBEq, BitVec.reduceExtractLsb', ↓reduceIte, Bool.false_eq_true, Bool.false_and, Bool.true_and]
  simp only [need, BitVec.reduceBEq, Bool.and_true, Bool.true_and, Bool.and_eq_true, h, and_self, ↓reduceIte]

theorem RoundTrip.erecv (g : Guard) (a : BitVec 7) : RoundTrip.Statement (.erecv g a) := by
  intro _ (h : (below 62 a) = true)
  refine (decode_at_3E (mk_major _ _ _)).trans ?_
  simp (disch := omega) only [decode3E, mk_guard, mk_payload, pay_7_7_7_at_0_7, pay_7_7_7_at_7_7, pay_7_7_7_at_14_7, BitVec.reduceBEq, BitVec.reduceExtractLsb', ↓reduceIte, Bool.false_eq_true, Bool.false_and, Bool.true_and]
  simp only [need, BitVec.reduceBEq, Bool.and_true, Bool.true_and, Bool.and_eq_true, h, and_self, ↓reduceIte]

theorem RoundTrip.illegalInstruction (w : BitVec 32) : RoundTrip.Statement (.illegalInstruction w) := nofun

theorem RoundTrip.instructionFill (c : CoreId) (va : BitVec 64) (ctx : Nat) : RoundTrip.Statement (.instructionFill c va ctx) := nofun

theorem RoundTrip.divideResult (c l : Nat) : RoundTrip.Statement (.divideResult c l) := nofun

theorem RoundTrip.phaseEnd (c : Nat) : RoundTrip.Statement (.phaseEnd c) := nofun

theorem RoundTrip.battTimerExpiry (ctx graph node dev die : Nat) : RoundTrip.Statement (.battTimerExpiry ctx graph node dev die) := nofun

theorem RoundTrip.remoteKnotEvent (k : Nat) : RoundTrip.Statement (.remoteKnotEvent k) := nofun

theorem RoundTrip.waiterWake (ctx dev slot : Nat) : RoundTrip.Statement (.waiterWake ctx dev slot) := nofun

theorem RoundTrip.bindRecord (c : CoreId) (entry : Nat) (b : BindRec) : RoundTrip.Statement (.bindRecord c entry b) := nofun

theorem RoundTrip.launch (c : CoreId) (entry : Nat) : RoundTrip.Statement (.launch c entry) := nofun

theorem RoundTrip.l1Read (c l u : Nat) : RoundTrip.Statement (.l1Read c l u) := nofun

theorem RoundTrip.send (c l u : Nat) : RoundTrip.Statement (.send c l u) := nofun

theorem RoundTrip.perform (r : Nat) : RoundTrip.Statement (.perform r) := nofun

theorem RoundTrip.fill (c l u : Nat) : RoundTrip.Statement (.fill c l u) := nofun

theorem RoundTrip.release (c l u : Nat) : RoundTrip.Statement (.release c l u) := nofun

theorem RoundTrip.acquire (c l u : Nat) : RoundTrip.Statement (.acquire c l u) := nofun

theorem RoundTrip.drop (c l u : Nat) : RoundTrip.Statement (.drop c l u) := nofun

theorem RoundTrip.evict (c : CoreId) (word : Nat) : RoundTrip.Statement (.evict c word) := nofun

theorem RoundTrip.settle (c l u : Nat) : RoundTrip.Statement (.settle c l u) := nofun

theorem RoundTrip.tableWalk (c : CoreId) (ctx : Nat) (va : BitVec 64) : RoundTrip.Statement (.tableWalk c ctx va) := nofun

theorem RoundTrip.tlbShootdown (ctx : Nat) : RoundTrip.Statement (.tlbShootdown ctx) := nofun

theorem RoundTrip.migration (ctx : Nat) (va : BitVec 64) (frame : Nat) : RoundTrip.Statement (.migration ctx va frame) := nofun

theorem RoundTrip.readPacket (p : PortId) (tag : Nat) : RoundTrip.Statement (.readPacket p tag) := nofun

theorem RoundTrip.writePacket (p : PortId) (tag : Nat) : RoundTrip.Statement (.writePacket p tag) := nofun

theorem RoundTrip.portReply (p : PortId) (tag : Nat) : RoundTrip.Statement (.portReply p tag) := nofun

theorem RoundTrip.refreshWindowStart (dev die grp : Nat) : RoundTrip.Statement (.refreshWindowStart dev die grp) := nofun

theorem RoundTrip.refreshWindowEnd (dev die grp : Nat) : RoundTrip.Statement (.refreshWindowEnd dev die grp) := nofun

theorem RoundTrip.writeWindowOpens (dev win : Nat) : RoundTrip.Statement (.writeWindowOpens dev win) := nofun

theorem RoundTrip.engineStart (c u : Nat) : RoundTrip.Statement (.engineStart c u) := nofun

theorem RoundTrip.chunkCredit (c u k : Nat) : RoundTrip.Statement (.chunkCredit c u k) := nofun

theorem RoundTrip.pressComplete (c u : Nat) : RoundTrip.Statement (.pressComplete c u) := nofun

theorem RoundTrip.cbldComplete (c u : Nat) : RoundTrip.Statement (.cbldComplete c u) := nofun

theorem RoundTrip.passStart (c u : Nat) : RoundTrip.Statement (.passStart c u) := nofun

theorem RoundTrip.passWriteback (c u : Nat) : RoundTrip.Statement (.passWriteback c u) := nofun

theorem RoundTrip.engineRetire (c : Nat) (cls : EngClass) : RoundTrip.Statement (.engineRetire c cls) := nofun

theorem RoundTrip.failure (c l : Nat) : RoundTrip.Statement (.failure c l) := nofun

theorem RoundTrip.trapEntry (c : Nat) : RoundTrip.Statement (.trapEntry c) := nofun

theorem RoundTrip.preempt (c : Nat) : RoundTrip.Statement (.preempt c) := nofun

theorem RoundTrip.drainLimitExpiry (c : Nat) : RoundTrip.Statement (.drainLimitExpiry c) := nofun

theorem RoundTrip.flush (c : Nat) : RoundTrip.Statement (.flush c) := nofun

theorem RoundTrip.save (c : Nat) : RoundTrip.Statement (.save c) := nofun

theorem RoundTrip.restore (c : CoreId) (entry : Nat) (b : BindRec) : RoundTrip.Statement (.restore c entry b) := nofun

theorem RoundTrip.remoteRequest (pkt : Nat) : RoundTrip.Statement (.remoteRequest pkt) := nofun

theorem RoundTrip.acknowledgement (pkt : Nat) : RoundTrip.Statement (.acknowledgement pkt) := nofun

theorem RoundTrip.endToEndTimeout (pkt : Nat) : RoundTrip.Statement (.endToEndTimeout pkt) := nofun

theorem RoundTrip.stompedPacket (pkt : Nat) : RoundTrip.Statement (.stompedPacket pkt) := nofun

theorem RoundTrip.linkRetrain (dev st : Nat) : RoundTrip.Statement (.linkRetrain dev st) := nofun

theorem RoundTrip.linkReturn (dev st : Nat) : RoundTrip.Statement (.linkReturn dev st) := nofun

theorem RoundTrip.linkDownDeclared (dev st : Nat) : RoundTrip.Statement (.linkDownDeclared dev st) := nofun

theorem RoundTrip.planeRetire (dev plane : Nat) : RoundTrip.Statement (.planeRetire dev plane) := nofun

theorem RoundTrip.fabricArrival (pkt : Nat) : RoundTrip.Statement (.fabricArrival pkt) := nofun

theorem RoundTrip.ethernetPacket (pkt : Nat) : RoundTrip.Statement (.ethernetPacket pkt) := nofun

theorem RoundTrip.sprayPacketSend (c u : Nat) : RoundTrip.Statement (.sprayPacketSend c u) := nofun

theorem RoundTrip.esendRetryLimit (c u : Nat) : RoundTrip.Statement (.esendRetryLimit c u) := nofun

theorem RoundTrip.clockStep (dev die : Nat) (x : Sensors) : RoundTrip.Statement (.clockStep dev die x) := nofun

theorem RoundTrip.coldStart (dev : Nat) (fail : Option Nat) : RoundTrip.Statement (.coldStart dev fail) := nofun

theorem RoundTrip.warmStart (dev : Nat) : RoundTrip.Statement (.warmStart dev) := nofun

theorem RoundTrip.mapReq (q : RingId) : RoundTrip.Statement (.mapReq q) := nofun

theorem RoundTrip.unmapReq (q : RingId) : RoundTrip.Statement (.unmapReq q) := nofun

theorem RoundTrip.protectReq (q : RingId) : RoundTrip.Statement (.protectReq q) := nofun

theorem RoundTrip.exportFrame (q : RingId) : RoundTrip.Statement (.exportFrame q) := nofun

theorem RoundTrip.graphLoad (q : RingId) : RoundTrip.Statement (.graphLoad q) := nofun

theorem RoundTrip.graphSeed (q : RingId) : RoundTrip.Statement (.graphSeed q) := nofun

theorem RoundTrip.graphClose (q : RingId) : RoundTrip.Statement (.graphClose q) := nofun

theorem RoundTrip.windowOpen (q : RingId) : RoundTrip.Statement (.windowOpen q) := nofun

theorem RoundTrip.windowClose (q : RingId) : RoundTrip.Statement (.windowClose q) := nofun

theorem RoundTrip.peerSet (q : RingId) : RoundTrip.Statement (.peerSet q) := nofun

theorem RoundTrip.setReq (q : RingId) : RoundTrip.Statement (.setReq q) := nofun

theorem RoundTrip.logRead (q : RingId) : RoundTrip.Statement (.logRead q) := nofun

theorem RoundTrip.healthReq (q : RingId) : RoundTrip.Statement (.healthReq q) := nofun

theorem RoundTrip.resetReq (q : RingId) : RoundTrip.Statement (.resetReq q) := nofun

theorem RoundTrip.malformedRequest (q : RingId) : RoundTrip.Statement (.malformedRequest q) := nofun

theorem RoundTrip.contextCreation (x : CtxSpec) : RoundTrip.Statement (.contextCreation x) := nofun

theorem RoundTrip.transportRetransmission (pkt : Nat) : RoundTrip.Statement (.transportRetransmission pkt) := nofun

theorem RoundTrip.transportAcknowledgement (pkt cwnd srtt : Nat) : RoundTrip.Statement (.transportAcknowledgement pkt cwnd srtt) := nofun

theorem RoundTrip.linkLevelReplay (dev st : Nat) : RoundTrip.Statement (.linkLevelReplay dev st) := nofun

theorem RoundTrip.linkCreditReturn (dev st ctx : Nat) : RoundTrip.Statement (.linkCreditReturn dev st ctx) := nofun

end Sys2Proof.Laws
end

