-- ==== Sys2Proof/Safety.lean ====
section
/-!
DEFINITION. The terms claims are made in: what counts as a safe run, when a word issues and what its issue leaves, what a word
may change, and the invariant every step keeps.
-/
namespace Sys2Proof.Safety
open Sys2Proof.Machine

/-- A run is safe as long as its steps answer a next state: no fault and no refusal. -/
def SafeRun (n : Nat) (s : State) : Prop := ∃ t, Host.Core.run Sys2Proof.core n s = .next t

/-- The invariant every step keeps: the byte memory has its canonical form. -/
abbrev Inv (s : State) : Prop := Memory.wf s.mem

/-- The current strand h issues a word of guard g whose registers and waits are sp: it is selected and able, and not in a wait of the word
already (R56, R65), its guard is true and neither held nor too close (R59, R60, R63), every register lies in the node's counts (R157),
nothing holds the issue (R60, R61, R347), what the word waits for is there, and no source is closer than its latency under the stall check
(R59). -/
abbrev Issues (s : State) (h : Here) (g : Guard) (sp : WSpec) : Prop :=
  here s = some h ∧ ableStrand h.cord h.st h.now = true ∧ polling h.st = false ∧ (guardRegs g).any (isHeld h) = false ∧
  stallFault h (guardRegs g) = false ∧ rdP h.st g.pred = true ∧ boundFault h sp = false ∧ issueHeld h sp = false ∧
  sp.hold = false ∧ stallFault h sp.reads = false

/-- The current strand h waits in a polling word whose spec is sp, and what it waits for is there: it is selected and able, and nothing
holds the word's results. -/
abbrev Polled (s : State) (h : Here) (sp : WSpec) : Prop :=
  here s = some h ∧ ableStrand h.cord h.st h.now = true ∧ polling h.st = true ∧ boundFault h { sp with reads := [] } = false ∧
  issueHeld h { sp with reads := [] } = false ∧ sp.hold = false

/-- The state a word leaves whose effect gave s': the strand goes on by leaveWord, and the next selected strand is current. -/
def left (s' : State) (h : Here) (g : Guard) (sp : WSpec) (lv : Leave) : State :=
  popTodo (modHere s' h (leaveWord h.now g sp lv false))

/-- The word i completes with the effect that gives s' from s. -/
abbrev Completes (i : Instr) (s s' : State) (h : Here) (g : Guard) (sp : WSpec) (lv : Leave) : Prop :=
  Issues s h g sp → exec i s = .next (left s' h g sp lv)

/-- A word that only computes registers: its results become visible lat cycles after its issue (R57, R58). -/
abbrev Computes (i : Instr) (s : State) (h : Here) (g : Guard) (reads writes : List Reg) (lat : Nat)
    (ws : List (Reg × BitVec 64)) : Prop :=
  Completes i s (writeRegs s h ws (h.now + lat) false) h g { reads := reads, writes := writes, lat := lat } {}

/-- What a strand's registers read at a cycle, every result visible by then in its place (R58). -/
def seenV (now : Nat) (st : Strand) (n : BitVec 7) : BitVec 32 := rdV (commitStrand now st) n

/-- The strand of a cord, where there is one. -/
def strandAt (s : State) (k l : Nat) : Option Strand := (mget s.cords k).bind (fun c => mget c.strands l)

/-- The word changed nothing but its own strand, and of that strand nothing but its issue bookkeeping, with the registers of rs
among the pending results: every register keeps its value, as do the return stack, %csp, %stat, %fpf, the operations and the
synchronisation counts. -/
def OnlyWrites (s t : State) (h : Here) (rs : List Reg) : Prop :=
  ∃ st : Strand, t = popTodo (modHere s h (fun _ => st)) ∧
    st.v = h.st.v ∧ st.preds = h.st.preds ∧ st.rs = h.st.rs ∧ st.csp = h.st.csp ∧ st.stat = h.st.stat ∧
    st.fpf = h.st.fpf ∧ st.ops = h.st.ops ∧ st.next = h.st.next ∧ st.sync = h.st.sync ∧ st.held = h.st.held ∧
    st.divs = h.st.divs ∧ st.mode = h.st.mode ∧ st.trap = h.st.trap ∧
    ∃ new : List Pend, st.pend = h.st.pend ++ new ∧ ∀ p ∈ new, p.reg ∈ rs

/-- The words with the branch timing of R65 (R65, R145, R371). -/
def branchWord (i : Instr) : Bool :=
  match i with
  | .bra _ _ | .brp _ _ _ | .bdec _ _ _ | .call _ _ | .callv _ _ | .jmpv _ _ | .ret _ | .hzbrClr _ _ | .hzbrNclr _ _ => true
  | _ => false

/-- The destination registers of a word that only computes registers of its strand (R127 to R136, R139, R143, R144); none for any
other word. -/
def destRegs (i : Instr) : Option (List Reg) :=
  match i with
  | .iadd _ d _ _ | .isub _ d _ _ | .imul _ d _ _ | .imad _ d _ _ | .and _ d _ _ | .or _ d _ _ | .xor _ d _ _ | .shl _ d _ _
  | .shr _ d _ _ | .sel _ d _ _ | .bfi _ d _ _ | .idp4 _ d _ _ => some [.v d]
  | .imulh _ d _ | .imulhUns _ d _ | .imin _ d _ | .iminUns _ d _ | .imax _ d _ | .imaxUns _ d _ | .andn _ d _ | .sar _ d _
  | .rotl _ d _ | .bfx _ d _ | .bfxUns _ d _ => some [.v d]
  | .mov _ d _ | .iabs _ d _ | .ineg _ d _ | .not _ d _ | .popc _ d _ | .clz _ d _ | .ctz _ d _ | .brev _ d _ | .popcD _ d _
  | .clzD _ d _ | .ctzD _ d _ | .fclass _ d _ | .mvs _ d _ => some [.v d]
  | .iaddImm _ d _ _ | .shlImm _ d _ _ | .shrImm _ d _ _ | .sarImm _ d _ _ | .rotlImm _ d _ _ | .movi _ d _ | .movhi _ d _ =>
    some [.v d]
  | .lea _ d _ _ | .iaddD _ d _ | .isubD _ d _ | .imulD _ d _ | .andD _ d _ | .orD _ d _ | .xorD _ d _ | .andnD _ d _ | .iminD _ d _
  | .iminDUns _ d _ | .imaxD _ d _ | .imaxDUns _ d _ | .shlD _ d _ | .shrD _ d _ | .sarD _ d _ | .rotlD _ d _ | .movD _ d _
  | .iabsD _ d _ | .inegD _ d _ | .notD _ d _ | .brevD _ d _ | .mvsD _ d _ => some (pair d)
  | .icmp _ _ q _ _ | .pand _ q _ _ | .por _ q _ _ | .pxor _ q _ _ | .pnot _ q _ => some [.p q]
  | .mfs _ d r => some (specialRegs r d)
  | _ => none

/-- The destination register of a word that can raise flags or goes through the divide unit (R129, R137 to R142). -/
def flagDest (i : Instr) : Option Reg :=
  match i with
  | .fadd _ d _ _ | .fsub _ d _ _ | .fmul _ d _ _ | .ffma _ d _ _ | .hfma2Hf _ d _ _ | .hfma2Bf _ d _ _ | .cvt _ d _ _ _ => some (.v d)
  | .fmin _ d _ | .fmax _ d _ | .hadd2Hf _ d _ | .hadd2Bf _ d _ | .hmul2Hf _ d _ | .hmul2Bf _ d _ | .frcp _ d _ | .frsq _ d _
  | .fsqrt _ d _ | .fexp2 _ d _ | .flog2 _ d _ | .fdiv _ d _ | .idiv _ d _ | .idivUns _ d _ | .irem _ d _ | .iremUns _ d _ =>
    some (.v d)
  | .fcmp _ _ q _ _ => some (.p q)
  | _ => none

/-- The word changed nothing but its own strand and the next operation name, and of that strand nothing but its issue bookkeeping,
the sticky flags of %fpf, results on the way to the destination r, and one operation that can fail by a flag: every register keeps
its value, as do the return stack, %csp, %stat, the other bits of %fpf and the synchronisation counts. -/
def OnlyFlags (s t : State) (h : Here) (r : Reg) : Prop :=
  ∃ (u : Nat) (st : Strand), s.uid ≤ u ∧ t = popTodo (modHere { s with uid := u } h (fun _ => st)) ∧
    st.v = h.st.v ∧ st.preds = h.st.preds ∧ st.rs = h.st.rs ∧ st.csp = h.st.csp ∧ st.stat = h.st.stat ∧
    st.fpf.extractLsb' 5 27 = h.st.fpf.extractLsb' 5 27 ∧ st.sync = h.st.sync ∧ st.mode = h.st.mode ∧ st.trap = h.st.trap ∧
    (∃ new : List Pend, st.pend = h.st.pend ++ new ∧ ∀ p ∈ new, p.reg = r) ∧
    (∃ new : List Held, st.held = h.st.held ++ new ∧ ∀ x ∈ new, x.reg = r) ∧
    ∀ o ∈ st.ops, o ∈ h.st.ops ∨ (o.uid = s.uid ∧ o.kind = .flag)

/-- Every byte of memory reads as before, and its token and poison records are unchanged. -/
def SameMemory (s t : State) : Prop :=
  (∀ a, readCell t.mem a = readCell s.mem a) ∧ t.tokens = s.tokens ∧ t.poison = s.poison

end Sys2Proof.Safety
end

