-- ==== Sys2Proof/Certificates/Slice0/Obligations.lean ====
section
/-!
DEFINITION. The statements for the provers. Every word statement is made for a word that issues (Safety.Issues) and gives the
whole next state its rules leave; the frames say what it leaves unchanged.
-/
open Sys2Proof Sys2Proof.Machine Sys2Proof.Safety

/-- R127, R125, and for bfi, lea and sel R130, R133 and R136: the integer words of three fields. d, a, b are vector registers; sg is the saturation a pending hint mod asks
for; the result is visible after 1 cycle, or 4 for the multiplies. -/
def Obligations.IntegerThreeFieldResults : Prop :=
  ∀ (s : State) (h : Here) (g : Guard) (d a b : BitVec 7),
    let x := rdV h.st a; let y := rdV h.st b; let z := rdV h.st d; let sg := hintSat h.st.hint
    Computes (.iadd g d a b) s h g [.v a, .v b] [.v d] 1 (toV d (intRes 32 sg (x.toInt + y.toInt))) ∧
    Computes (.isub g d a b) s h g [.v a, .v b] [.v d] 1 (toV d (intRes 32 sg (x.toInt - y.toInt))) ∧
    Computes (.imul g d a b) s h g [.v a, .v b] [.v d] 4 (toV d (intRes 32 sg (x.toInt * y.toInt))) ∧
    Computes (.imad g d a b) s h g [.v a, .v b, .v d] [.v d] 4 (toV d (intRes 32 sg (z.toInt + x.toInt * y.toInt))) ∧
    Computes (.and g d a b) s h g [.v a, .v b] [.v d] 1 (toV d (x &&& y)) ∧
    Computes (.or g d a b) s h g [.v a, .v b] [.v d] 1 (toV d (x ||| y)) ∧
    Computes (.xor g d a b) s h g [.v a, .v b] [.v d] 1 (toV d (x ^^^ y)) ∧
    Computes (.shl g d a b) s h g [.v a, .v b] [.v d] 1 (toV d (if 32 ≤ y.toNat then 0 else x <<< y.toNat)) ∧
    Computes (.shr g d a b) s h g [.v a, .v b] [.v d] 1 (toV d (if 32 ≤ y.toNat then 0 else x >>> y.toNat)) ∧
    Computes (.idp4 g d a b) s h g [.v a, .v b, .v d] [.v d] 4 (toV d (intRes 32 sg (z.toInt + ((List.range 4).map (fun k => (x.extractLsb' (8 * k) 8).toInt * (y.extractLsb' (8 * k) 8).toInt)).sum))) ∧
    Computes (.sel g d a b) s h g [.v a, .v b, .v d] [.v d] 1 (toV d (if z != 0#32 then x else y)) ∧
    Computes (.bfi g d a b) s h g [.v a, .v b, .v d] [.v d] 1 (toV d (bitInsert z x y)) ∧
    Computes (.lea g d a b) s h g (pair a ++ [.v b]) (pair d) 1 (toV2 d (rdV2 h.st a + y.signExtend 64))

/-- R128, R130: the integer words of two addresses, d := op(d, a). -/
def Obligations.IntegerTwoAddressResults : Prop :=
  ∀ (s : State) (h : Here) (g : Guard) (d a : BitVec 7),
    let x := rdV h.st d; let y := rdV h.st a
    Computes (.imulh g d a) s h g [.v d, .v a] [.v d] 4 (toV d ((BitVec.ofInt 64 (x.toInt * y.toInt)).extractLsb' 32 32)) ∧
    Computes (.imulhUns g d a) s h g [.v d, .v a] [.v d] 4 (toV d ((BitVec.ofNat 64 (x.toNat * y.toNat)).extractLsb' 32 32)) ∧
    Computes (.imin g d a) s h g [.v d, .v a] [.v d] 1 (toV d (if y.toInt < x.toInt then y else x)) ∧
    Computes (.iminUns g d a) s h g [.v d, .v a] [.v d] 1 (toV d (if y.toNat < x.toNat then y else x)) ∧
    Computes (.imax g d a) s h g [.v d, .v a] [.v d] 1 (toV d (if x.toInt < y.toInt then y else x)) ∧
    Computes (.imaxUns g d a) s h g [.v d, .v a] [.v d] 1 (toV d (if x.toNat < y.toNat then y else x)) ∧
    Computes (.andn g d a) s h g [.v d, .v a] [.v d] 1 (toV d (x &&& ~~~y)) ∧
    Computes (.sar g d a) s h g [.v d, .v a] [.v d] 1 (toV d (BitVec.ofInt 32 (x.toInt / 2 ^ min y.toNat 31))) ∧
    Computes (.rotl g d a) s h g [.v d, .v a] [.v d] 1 (toV d (x.rotateLeft (y.toNat % 32))) ∧
    Computes (.bfx g d a) s h g [.v d, .v a] [.v d] 1 (toV d (bitExtract true x y)) ∧
    Computes (.bfxUns g d a) s h g [.v d, .v a] [.v d] 1 (toV d (bitExtract false x y))

/-- R128, R131: the integer words on pairs. -/
def Obligations.IntegerPairResults : Prop :=
  ∀ (s : State) (h : Here) (g : Guard) (d a : BitVec 7),
    let x := rdV2 h.st d; let y := rdV2 h.st a; let n := (rdV h.st a).toNat; let sg := hintSat h.st.hint
    Computes (.iaddD g d a) s h g (pair d ++ pair a) (pair d) 1 (toV2 d (intRes 64 sg (x.toInt + y.toInt))) ∧
    Computes (.isubD g d a) s h g (pair d ++ pair a) (pair d) 1 (toV2 d (intRes 64 sg (x.toInt - y.toInt))) ∧
    Computes (.imulD g d a) s h g (pair d ++ pair a) (pair d) 4 (toV2 d (intRes 64 sg (x.toInt * y.toInt))) ∧
    Computes (.andD g d a) s h g (pair d ++ pair a) (pair d) 1 (toV2 d (x &&& y)) ∧
    Computes (.orD g d a) s h g (pair d ++ pair a) (pair d) 1 (toV2 d (x ||| y)) ∧
    Computes (.xorD g d a) s h g (pair d ++ pair a) (pair d) 1 (toV2 d (x ^^^ y)) ∧
    Computes (.andnD g d a) s h g (pair d ++ pair a) (pair d) 1 (toV2 d (x &&& ~~~y)) ∧
    Computes (.iminD g d a) s h g (pair d ++ pair a) (pair d) 1 (toV2 d (if y.toInt < x.toInt then y else x)) ∧
    Computes (.iminDUns g d a) s h g (pair d ++ pair a) (pair d) 1 (toV2 d (if y.toNat < x.toNat then y else x)) ∧
    Computes (.imaxD g d a) s h g (pair d ++ pair a) (pair d) 1 (toV2 d (if x.toInt < y.toInt then y else x)) ∧
    Computes (.imaxDUns g d a) s h g (pair d ++ pair a) (pair d) 1 (toV2 d (if x.toNat < y.toNat then y else x)) ∧
    Computes (.shlD g d a) s h g (pair d ++ [.v a]) (pair d) 1 (toV2 d (if 64 ≤ n then 0 else x <<< n)) ∧
    Computes (.shrD g d a) s h g (pair d ++ [.v a]) (pair d) 1 (toV2 d (if 64 ≤ n then 0 else x >>> n)) ∧
    Computes (.sarD g d a) s h g (pair d ++ [.v a]) (pair d) 1 (toV2 d (BitVec.ofInt 64 (x.toInt / 2 ^ min n 63))) ∧
    Computes (.rotlD g d a) s h g (pair d ++ [.v a]) (pair d) 1 (toV2 d (x.rotateLeft (n % 64))) ∧
    Computes (.movD g d a) s h g (pair a) (pair d) 1 (toV2 d (y)) ∧
    Computes (.iabsD g d a) s h g (pair a) (pair d) 1 (toV2 d (BitVec.ofInt 64 y.toInt.natAbs)) ∧
    Computes (.inegD g d a) s h g (pair a) (pair d) 1 (toV2 d (-y)) ∧
    Computes (.notD g d a) s h g (pair a) (pair d) 1 (toV2 d (~~~y)) ∧
    Computes (.brevD g d a) s h g (pair a) (pair d) 1 (toV2 d (y.reverse)) ∧
    Computes (.popcD g d a) s h g (pair a) [.v d] 1 (toV d (BitVec.ofNat 32 (popCount y))) ∧
    Computes (.clzD g d a) s h g (pair a) [.v d] 1 (toV d (BitVec.ofNat 32 (leadZeros y))) ∧
    Computes (.ctzD g d a) s h g (pair a) [.v d] 1 (toV d (BitVec.ofNat 32 (trailZeros y)))

/-- R131, R132: the unary integer words and those with an immediate; a pending hint ext widens the immediates of iadd and movi
(R123). -/
def Obligations.IntegerUnaryAndImmediateResults : Prop :=
  ∀ (s : State) (h : Here) (g : Guard) (d a i : BitVec 7) (n : BitVec 5) (m : BitVec 14),
    let x := rdV h.st a
    Computes (.mov g d a) s h g [.v a] [.v d] 1 (toV d (x)) ∧
    Computes (.iabs g d a) s h g [.v a] [.v d] 1 (toV d (BitVec.ofInt 32 x.toInt.natAbs)) ∧
    Computes (.ineg g d a) s h g [.v a] [.v d] 1 (toV d (-x)) ∧
    Computes (.not g d a) s h g [.v a] [.v d] 1 (toV d (~~~x)) ∧
    Computes (.popc g d a) s h g [.v a] [.v d] 1 (toV d (BitVec.ofNat 32 (popCount x))) ∧
    Computes (.clz g d a) s h g [.v a] [.v d] 1 (toV d (BitVec.ofNat 32 (leadZeros x))) ∧
    Computes (.ctz g d a) s h g [.v a] [.v d] 1 (toV d (BitVec.ofNat 32 (trailZeros x))) ∧
    Computes (.brev g d a) s h g [.v a] [.v d] 1 (toV d (x.reverse)) ∧
    Computes (.shlImm g d a n) s h g [.v a] [.v d] 1 (toV d (x <<< n.toNat)) ∧
    Computes (.shrImm g d a n) s h g [.v a] [.v d] 1 (toV d (x >>> n.toNat)) ∧
    Computes (.sarImm g d a n) s h g [.v a] [.v d] 1 (toV d (BitVec.ofInt 32 (x.toInt / 2 ^ n.toNat))) ∧
    Computes (.rotlImm g d a n) s h g [.v a] [.v d] 1 (toV d (x.rotateLeft n.toNat)) ∧
    Computes (.iaddImm g d a i) s h g [.v a] [.v d] 1
      (toV d (intRes 32 (hintSat h.st.hint) (x.toInt + immFI h.st.hint i))) ∧
    Computes (.movi g d m) s h g [] [.v d] 1 (toV d (BitVec.ofInt 32 (immFL h.st.hint m))) ∧
    Computes (.movhi g d m) s h g [.v d] [.v d] 1 (toV d (m ++ (rdV h.st d).extractLsb' 0 18))

/-- R134, R135: comparison and predicate logic. A result for p7 is discarded by writeRegs (R50). -/
def Obligations.PredicateResults : Prop :=
  ∀ (s : State) (h : Here) (g : Guard) (c : BitVec 4) (q : BitVec 3) (a b : BitVec 7),
    let x := rdP h.st (pReg a); let y := rdP h.st (pReg b)
    Computes (.icmp g c q a b) s h g (if c.toNat < 10 then [.v a, .v b] else pair a ++ pair b) [.p q] 1
      (toP q (icmpCond h.st c a b)) ∧
    Computes (.pand g q a b) s h g [.p (pReg a), .p (pReg b)] [.p q] 1 (toP q (x && y)) ∧
    Computes (.por g q a b) s h g [.p (pReg a), .p (pReg b)] [.p q] 1 (toP q (x || y)) ∧
    Computes (.pxor g q a b) s h g [.p (pReg a), .p (pReg b)] [.p q] 1 (toP q (x != y)) ∧
    Computes (.pnot g q a) s h g [.p (pReg a)] [.p q] 1 (toP q (!x))

/-- R129, R57: integer division through the divide unit: the quotient or remainder stands in the unit until DIVIDE_RESULT
delivers it; division by 0 gives all ones, and its remainder the dividend. -/
def Obligations.IntegerDivisionResults : Prop :=
  ∀ (s : State) (h : Here) (g : Guard) (d a : BitVec 7),
    let x := rdV h.st d; let y := rdV h.st a; let sp : WSpec := { reads := [.v d, .v a], writes := [.v d], lat := 0 }
    let unit (r : BitVec 32) : State :=
      { holdRegs (modHere s h (fun st => { st with divs := st.divs ++ [⟨s.uid, d, r⟩] })) h s.uid [.v d] with uid := s.uid + 1 }
    Completes (.idiv g d a) s (unit (if y == 0 then 0xFFFFFFFF else BitVec.ofInt 32 (x.toInt.tdiv y.toInt))) h g sp {} ∧
    Completes (.idivUns g d a) s (unit (if y == 0 then 0xFFFFFFFF else BitVec.ofNat 32 (x.toNat / y.toNat))) h g sp {} ∧
    Completes (.irem g d a) s (unit (if y == 0 then x else BitVec.ofInt 32 (x.toInt.tmod y.toInt))) h g sp {} ∧
    Completes (.iremUns g d a) s (unit (if y == 0 then x else BitVec.ofNat 32 (x.toNat % y.toNat))) h g sp {}

/-- R143, R144: moves between vector, uniform and special registers; mts is visible to the next word, and mfs and mts of %fpf and
mts of %stat wait until no older word can still raise a flag or read FTZ (R62). -/
def Obligations.MoveResults : Prop :=
  ∀ (s : State) (h : Here) (g : Guard) (d a : BitVec 7) (r : BitVec 6),
    Computes (.mvs g d a) s h g [.s (sReg a)] [.v d] 1 (toV d ((rdS h.cord (sReg a)).extractLsb' 0 32)) ∧
    Computes (.mvsD g d a) s h g [.s (sReg a)] (pair d) 1 (toV2 d (rdS h.cord (sReg a))) ∧
    Computes (.movs g d a) s h g [.v a] [.s (sReg d)] 1 (toS (sReg d) ((rdV h.st a).zeroExtend 64)) ∧
    Computes (.movsD g d a) s h g (pair a) [.s (sReg d)] 1 (toS (sReg d) (rdV2 h.st a)) ∧
    Completes (.mfs g d r) s
      (writeRegs s h (if spWide r then toV2 d (special64 h s r) else toV d (special32 h r)) (h.now + 2) false) h g
      { writes := specialRegs r d, lat := 2, hold := r == 9#6 && !flagsQuiet h } {} ∧
    Completes (.mts g a r) s
      (modHere s h (writeSpecial r (if spWide r then rdV2 h.st a else (rdV h.st a).zeroExtend 64))) h g
      { reads := specialRegs r a, hold := (r == 8#6 || r == 9#6) && !flagsQuiet h } {}

/-- R137 to R142, R32 to R34: the floating-point words of fixed latency. res is the value and the flags by the arithmetic of R35
to R46; the flags become sticky; when an enabled flag was raised the destination keeps its value and the operation fails. can
lists what the word can raise, the values of fexp2 and flog2 are one correctly rounded result each, and fmin or fmax of a signalling NaN
and a number is the number: these are the model's choices (logs 12, 9 and 87). -/
def Obligations.FloatResults : Prop :=
  ∀ (s : State) (h : Here) (g : Guard) (c q : BitVec 3) (d a b : BitVec 7) (u : BitVec 4),
    let x := (rdV h.st a).toNat; let y := (rdV h.st b).toNat; let z := (rdV h.st d).toNat; let md := rmode fp32 h
    let fl (i : Instr) (reads writes : List Reg) (lat : Nat) (can : Flags) (res : List (Reg × BitVec 64) × Flags) : Prop :=
      Completes i s (flagWrite i lat can res h s) h g
        { reads := reads, writes := writes, lat := lat, fallible := flagFallible h can } {}
    let nf : Flags := NV ||| OF ||| UF ||| NX
    let pk (f : Fmt) (o : RMode → Nat → Nat → Nat → Nat × Flags) (w : BitVec 32) : List (Reg × BitVec 64) × Flags :=
      flagV d (packed2 (o { rmode f h with ftz := false }) (rdV h.st d) (rdV h.st a) w)
    fl (.fadd g d a b) [.v a, .v b] [.v d] 4 nf (flagV d (fAdd md x y)) ∧
    fl (.fsub g d a b) [.v a, .v b] [.v d] 4 nf (flagV d (fSub md x y)) ∧
    fl (.fmul g d a b) [.v a, .v b] [.v d] 4 nf (flagV d (fMul md x y)) ∧
    fl (.ffma g d a b) [.v d, .v a, .v b] [.v d] 4 nf (flagV d (fFma md x y z)) ∧
    fl (.fcmp g c q a b) [.v a, .v b] [.p q] 4 NV (toP q (fCmp (ftzOf h.st) c x y).1, (fCmp (ftzOf h.st) c x y).2) ∧
    fl (.fmin g d a) [.v d, .v a] [.v d] 4 NV (flagV d (fMinMax md false z x)) ∧
    fl (.fmax g d a) [.v d, .v a] [.v d] 4 NV (flagV d (fMinMax md true z x)) ∧
    fl (.hadd2Hf g d a) [.v d, .v a] [.v d] 4 (NV ||| OF ||| NX) (pk fp16 (fun r p w _ => fAdd r p w) (rdV h.st a)) ∧
    fl (.hmul2Hf g d a) [.v d, .v a] [.v d] 4 nf (pk fp16 (fun r p w _ => fMul r p w) (rdV h.st a)) ∧
    fl (.hfma2Hf g d a b) [.v d, .v a, .v b] [.v d] 4 nf (pk fp16 (fun r p w k => fFma r w k p) (rdV h.st b)) ∧
    fl (.hadd2Bf g d a) [.v d, .v a] [.v d] 4 (NV ||| OF ||| NX) (pk bf16 (fun r p w _ => fAdd r p w) (rdV h.st a)) ∧
    fl (.hmul2Bf g d a) [.v d, .v a] [.v d] 4 nf (pk bf16 (fun r p w _ => fMul r p w) (rdV h.st a)) ∧
    fl (.hfma2Bf g d a b) [.v d, .v a, .v b] [.v d] 4 nf (pk bf16 (fun r p w k => fFma r w k p) (rdV h.st b)) ∧
    fl (.frcp g d a) [.v a] [.v d] 8 (NV ||| DZ ||| OF ||| UF ||| NX) (flagV d (fRcp md x)) ∧
    fl (.frsq g d a) [.v a] [.v d] 8 (NV ||| DZ ||| NX) (flagV d (fRsq md x)) ∧
    fl (.fexp2 g d a) [.v a] [.v d] 8 nf (flagV d (fExp2 md x)) ∧
    fl (.flog2 g d a) [.v a] [.v d] 8 (NV ||| DZ ||| NX) (flagV d (fLog2 md x)) ∧
    Computes (.fclass g d a) s h g [.v a] [.v d] 4 (toV d (BitVec.ofNat 32 (2 ^ fClassBit x))) ∧
    fl (.cvt g d a c u) [.v a] [.v d] 4 (convertCan c.toNat u.toNat)
      (toV d (convert c.toNat u.toNat (hintRnd h.st.hint) (ftzOf h.st) (rdV h.st a)).1,
        (convert c.toNat u.toNat (hintRnd h.st.hint) (ftzOf h.st) (rdV h.st a)).2) ∧
    Completes (.fdiv g d a) s (divWrite (.fdiv g d a) d (NV ||| DZ ||| OF ||| UF ||| NX)
      (BitVec.ofNat 32 (fDiv md z x).1, (fDiv md z x).2) h s) h g
      { reads := [.v d, .v a], writes := [.v d], lat := 0, fallible := flagFallible h (NV ||| DZ ||| OF ||| UF ||| NX) } {} ∧
    Completes (.fsqrt g d a) s (divWrite (.fsqrt g d a) d (NV ||| NX) (BitVec.ofNat 32 (fSqrt md x).1, (fSqrt md x).2) h s) h g
      { reads := [.v a], writes := [.v d], lat := 0, fallible := flagFallible h (NV ||| NX) } {}

/-- R145, R65, and for hzbr.clr and hzbr.nclr R371, which read the horizon as hzrd does (R369): the branches. The target is taken from the word's own address; the word after a branch issues at least three
cycles later, which leaveWord gives. -/
def Obligations.BranchResults : Prop :=
  ∀ (s : State) (h : Here) (g : Guard) (d a : BitVec 7) (n : BitVec 3) (f : BitVec 21) (i : BitVec 14),
    let x := rdV h.st d - 1
    let br (reads writes : List Reg) : WSpec := { reads := reads, writes := writes, branch := true }
    let go (taken : Bool) (pc : BitVec 64) : Leave := { target := if taken then some pc else none }
    let at14 := h.st.pc + BitVec.ofInt 64 (4 * immFL h.st.hint i)
    Completes (.bra g f) s s h g (br [] []) (go true (h.st.pc + BitVec.ofInt 64 (4 * immFB h.st.hint f))) ∧
    Completes (.brp g n i) s s h g (br (if n == 7#3 then [] else [.p n]) []) (go (!rdP h.st n) at14) ∧
    Completes (.bdec g d i) s (writeRegs s h (toV d x) (h.now + 1) false) h g (br [.v d] [.v d]) (go (x != 0#32) at14) ∧
    Completes (.jmpv g a) s s h g (br (pair a) []) (go true (rdV2 h.st a &&& ~~~3#64)) ∧
    Completes (.hzbrClr g i) s s h g (br [] []) (go (hzClear h.now (beforeCycle h.now h.st)) at14) ∧
    Completes (.hzbrNclr g i) s s h g (br [] []) (go (!hzClear h.now (beforeCycle h.now h.st)) at14)

/-- R145, R68, R148, R257, R347: calls and returns outside a rerun sequence, and the spill of a call re-executed in one. A call pushes the address after it; a push of a fifth entry spills the oldest one by a
fallible 8-byte store at %csp, and a return from an empty stack refills one entry by a fallible load at %csp + 8 and waits; outside the
leases of the node these accesses end the cord. A re-executed spill repeats its store alone, from the slot and the data of the record
(R358; the data kept beside the record is the model's choice, log 11). -/
def Obligations.CallAndReturnResults : Prop :=
  (∀ (s : State) (h : Here) (g : Guard) (a : BitVec 7) (f : BitVec 21), h.st.rerun = [] →
    let back := h.st.pc + 4
    let sp (reads : List Reg) : WSpec := { reads := reads, branch := true, fallible := h.st.rs.length == 4 }
    let push (i : Instr) : State :=
      if h.st.rs.length == 4 then
        match leaseBad s h.sel.cord h.cord h.st.csp 8 true with
        | some b => fatalEnd s h.sel.cord h.sel.lane 1 h.st.pc b 0
        | none =>
          modHere (pushOp s h i true { blankOp with
              kind := .spill, va := h.st.csp, size := 8, data := leBytes 8 (h.st.rs.headD 0).toNat }) h
            (fun st => { st with rs := st.rs.tail ++ [back], csp := st.csp - 8 })
      else modHere s h (fun st => { st with rs := st.rs ++ [back] })
    Completes (.call g f) s (push (.call g f)) h g (sp []) { target := some (h.st.pc + BitVec.ofInt 64 (4 * immFB h.st.hint f)) } ∧
    Completes (.callv g a) s (push (.callv g a)) h g (sp (pair a)) { target := some (rdV2 h.st a &&& ~~~3#64) } ∧
    (∀ x, h.st.rs.getLast? = some x →
      Completes (.ret g) s (modHere s h (fun st => { st with rs := st.rs.dropLast })) h g { branch := true }
        { target := some (x &&& ~~~3#64) }) ∧
    (h.st.rs = [] →
      Completes (.ret g) s
        (match leaseBad s h.sel.cord h.cord (h.st.csp + 8) 8 false with
         | some b => fatalEnd s h.sel.cord h.sel.lane 0 h.st.pc b 0
         | none => modHere (pushOp s h (.ret g) true { blankOp with kind := .refill, va := h.st.csp + 8, size := 8 }) h
            (fun st => { st with wait := .answer })) h g { branch := true, fallible := true } { target := some h.st.pc })) ∧
  (∀ (s : State) (h : Here) (g : Guard) (a : BitVec 7) (f : BitVec 21) (r : Rerun) (rs : List Rerun) (slot data : BitVec 64),
    h.st.rerun = r :: rs → r.spill = some (slot, data) →
    let again (i : Instr) : State :=
      match leaseBad s h.sel.cord h.cord slot 8 true with
      | some b => fatalEnd s h.sel.cord h.sel.lane 1 r.pc b 0
      | none => pushOp s h i true { blankOp with kind := .spill, va := slot, size := 8, data := leBytes 8 data.toNat }
    Completes (.call g f) s (again (.call g f)) h g { branch := true, fallible := true } {} ∧
    Completes (.callv g a) s (again (.callv g a)) h g { branch := true, fallible := true } {})

/-- R145, R120 to R124, R116 to R118, R67: nop, the hints and rep. hint wait delays the next word; hint ext, mod and cache stay
pending for it; hint fetch.i asks for a span, which INSTRUCTION_FILL brings in, and hint fetch.d for one that TranslationEvents serves, unless a byte of it
lies outside the cord's leases (R242, R257); rep makes the next word issue n + 1 times with stepped fields. That a fetch.d with a base register outside the file is dropped with no fault, and is
never stall-checked, is the model's choice (log 33). -/
def Obligations.HintAndRepResults : Prop :=
  ∀ (s : State) (h : Here) (g : Guard) (w e : BitVec 17) (x : BitVec 1) (r l c : BitVec 2) (o : BitVec 16) (p : BitVec 9)
    (a : BitVec 7) (n : BitVec 6) (sd sa sb : BitVec 3),
    let fi := ((pcOf h.st &&& ~~~63#64) + BitVec.ofInt 64 (64 * o.toInt)).toNat
    let fd := ((rdV2 h.st a &&& ~~~63#64) + BitVec.ofInt 64 (64 * p.toInt)).toNat
    let dropped := a.toNat % 2 = 1 ∨ h.cord.hdr.vregs ≤ a.toNat + 1 ∨
      leaseMiss s h.sel.cord h.cord ((List.range 64).map (fd + ·)) false ≠ none
    Completes (.nop g) s s h g {} {} ∧
    Completes (.hintWait g w) s s h g {} { wait := w.toNat } ∧
    Completes (.hintExt g e) s s h g {} { hint := encode (.hintExt g e) } ∧
    Completes (.hintMod g x r) s s h g {} { hint := encode (.hintMod g x r) } ∧
    Completes (.hintCache g l c) s s h g {} { hint := encode (.hintCache g l c) } ∧
    Completes (.hintFetchI g o) s
      (modHereCore s h (fun co => { co with
        asks := if co.asks.contains (h.cord.ctx, fi) then co.asks else co.asks ++ [(h.cord.ctx, fi)] })) h g {} {} ∧
    (dropped → Completes (.hintFetchD g a p) s s h g {} {}) ∧
    (¬ dropped → Completes (.hintFetchD g a p) s
      (modHereCore s h (fun co => { co with
        dasks := if co.dasks.contains (h.cord.ctx, fd) then co.dasks else co.dasks ++ [(h.cord.ctx, fd)] })) h g {} {}) ∧
    (∀ word, cachedWord (coreOfCord s h.cord) h.cord.ctx (h.st.pc + 4) = some word → repPairs word sa sb = true →
      Completes (.rep g n sd sa sb) s s h g {} { rep := some ⟨n.toNat + 1, 0, sd, sa, sb⟩ })

/-- R369: hzrd writes hz and hzseq NEXT − 1, as they stand at issue, visible 2 cycles later; hzwait completes once the operations
up to V[a] have settled by the cases of R370 (horizonPast). -/
def Obligations.HorizonReadResults : Prop :=
  ∀ (s : State) (h : Here) (g : Guard) (d a : BitVec 7),
    let b := beforeCycle h.now h.st; let n := (rdV h.st a).setWidth 16
    Computes (.hzrd g d) s h g [] [.v d] 2 (toV d (hzOf h.now b)) ∧
    Computes (.hzseq g d) s h g [] [.v d] 2 (toV d ((b.next - 1).zeroExtend 32)) ∧
    (horizonPast h.now h.st n b.next = true → Completes (.hzwait g a) s s h g { reads := [.v a], polls := .horizon n b.next } {}) ∧
    (∀ n next, h.st.wait = .horizon n next → horizonPast h.now h.st n next = true → Polled s h { reads := [.v a] } →
      exec (.hzwait g a) s = .next (left s h { g with pred := 7 } {} {}))

/-- R372, R373, R114, R355: trap, bkpt and a word that is no instruction stop their strand with the precise fault the rule names,
with its cause of R355; RESUME of trap and bkpt names the word after. -/
def Obligations.TrapWordResults : Prop :=
  ∀ (s : State) (h : Here) (g : Guard) (n : BitVec 7) (w : BitVec 32),
    (Issues s h g {} →
      exec (.trap g n) s = .next (stopHere s h { faultHere s h (.trap g n) 22 0 (n.zeroExtend 64) with after := true })) ∧
    (Issues s h g {} →
      exec (.bkpt g n) s = .next (stopHere s h { faultHere s h (.bkpt g n) 23 0 (n.zeroExtend 64) with after := true })) ∧
    (Issues s h (guardOf w) {} →
      exec (.illegalInstruction w) s = .next (stopHere s h (faultHere s h (.illegalInstruction w) 1 0 0)))

/-- R374, R358: rte and rte.rerun in handler mode, with every operation of the handler settled: the word issues and its strand
leaves the handler; under the compatible handler the cord's faulted strands all do (R360). Outside handler mode they raise
the illegal-instruction fault. -/
def Obligations.ReturnResults : Prop :=
  ∀ (s : State) (h : Here) (g : Guard),
    let ret (rerun : Bool) : State := modCord (left s h g {} {}) h.sel.cord (returnStrands rerun h.sel.lane h.now)
    (h.st.stat.getLsbD 3 = true → hzClear h.now h.st = true → Issues s h g {} →
      exec (.rte g) s = .next (ret false) ∧ exec (.rteRerun g) s = .next (ret true)) ∧
    (h.st.stat.getLsbD 3 = false → Issues s h g {} →
      exec (.rte g) s = .next (stopHere s h (faultHere s h (.rte g) 1 0 0)) ∧
      exec (.rteRerun g) s = .next (stopHere s h (faultHere s h (.rteRerun g) 1 0 0)))

/-- R375 to R377: trrec completes for every selector (in the compatible handler, for every lane, whether it holds a strand or not). A read selector writes V[d]: a word of the strand's own record (class 0), of a faulted
strand's record (class 1) or a register of a faulted or frozen strand (class 2), the last two only in the compatible handler, else 0. A
write selector (WR, or class 3) leaves V[d]: in handler mode it replaces one half of RESUME, with no repetition and no hint pending
any more, or in the compatible handler it writes a register; with reserved bits or in any other case it changes nothing. -/
def Obligations.TrapRecordWordResults : Prop :=
  ∀ (s : State) (h : Here) (g : Guard) (d a : BitVec 7), here s = some h →
    let x := rdV h.st a; let y := rdV h.st d
    let cls := x.toNat / 2 ^ 30; let lane := x.toNat / 2 ^ 16 % 64; let item := x.toNat / 2 ^ 8 % 256
    let clean := x.toNat / 2 ^ 22 % 2 ^ 7 = 0 ∧ x.toNat % 2 ^ 8 = 0
    let p2 := laneP2 h.cord h.sel.lane = true
    let faulted (st : Strand) := st.mode = .masked ∨ st.mode = .handler
    let reads (v : BitVec 32) : Prop := cls < 3 → x.getLsbD 29 = false →
      Completes (.trrec g d a) s (writeVar s h (toV d v)) h g { reads := [.v a], writes := [.v d], lat := 0 } {}
    let writes (t : State) : Prop := cls = 3 ∨ x.getLsbD 29 = true →
      Completes (.trrec g d a) s t h g { reads := [.v a, .v d], writes := [.v d], lat := 0 } {}
    let resume (l : Nat) : State := modStrand s h.sel.cord l (fun st => { st with trap := st.trap.map (fun r => { r with
      resume := (if item = 4 then r.resume.extractLsb' 32 32 ++ y else y ++ r.resume.extractLsb' 0 32) &&& ~~~3#64
      repleft := 0, rep := none, hint := 0 }) })
    let word (t : Option TrapRec) : BitVec 32 := match t with | some r => (recordWords r).getD item 0 | none => 0
    (¬ clean → reads 0 ∧ writes s) ∧
    (clean → cls = 0 → reads (word h.st.trap) ∧
      (h.st.mode = .handler → item = 4 ∨ item = 5 → writes (resume h.sel.lane)) ∧
      (h.st.mode ≠ .handler ∨ (item ≠ 4 ∧ item ≠ 5) → writes s)) ∧
    (clean → 1 ≤ cls → ¬ p2 → reads 0 ∧ writes s) ∧
    (clean → 1 ≤ cls → mget h.cord.strands lane = none → reads 0 ∧ writes s) ∧
    (clean → p2 → ∀ st, mget h.cord.strands lane = some st →
      (cls = 1 → faulted st → reads (word st.trap) ∧ (item = 4 ∨ item = 5 → writes (resume lane)) ∧
        (item ≠ 4 → item ≠ 5 → writes s)) ∧
      (cls = 1 → ¬ faulted st → reads 0 ∧ writes s) ∧
      (cls = 2 → writes s) ∧
      (2 ≤ cls → ¬ faulted st → st.mode ≠ .frozen → reads 0 ∧ writes s) ∧
      (cls = 2 → faulted st ∨ st.mode = .frozen →
        (item < 128 → reads (if item < h.cord.hdr.vregs then rdV st (BitVec.ofNat 7 item) else 0)) ∧
        (∀ n < 7, item = 128 + n → reads (if rdP st (BitVec.ofNat 3 n) then 1 else 0)) ∧
        (item = 135 → reads st.fpf) ∧ (item = 136 → reads st.stat) ∧ (136 < item → reads 0)) ∧
      (cls = 3 → faulted st ∨ st.mode = .frozen →
        (item < 128 → h.cord.hdr.vregs ≤ item → writes s) ∧ (136 < item → writes s) ∧
        (item < 128 → item < h.cord.hdr.vregs →
          writes (modStrand s h.sel.cord lane (fun st => { st with v := st.v.setIfInBounds item y }))) ∧
        (∀ n < 7, item = 128 + n → writes (modStrand s h.sel.cord lane (fun st => { st with
          preds := if y.getLsbD 0 then st.preds ||| (1#7 <<< n) else st.preds &&& ~~~(1#7 <<< n) }))) ∧
        (item = 135 → writes (modStrand s h.sel.cord lane (fun st => { st with
          fpf := (st.fpf &&& ~~~0x1F1F#32) ||| (y &&& 0x1F1F#32) }))) ∧
        (item = 136 → writes (modStrand s h.sel.cord lane (fun st => { st with
          stat := (st.stat &&& ~~~7#32) ||| (y &&& 7#32) })))))

/-- R378: yieldp completes once every operation has settled and the counters are 0, or at once in handler mode; a cord being
drained stops its strand there. R147, R274: exit, with everything older done: a release of the strand's writes, and the
strand ends. -/
def Obligations.YieldAndExitResults : Prop :=
  (∀ (s : State) (h : Here) (g : Guard),
    (h.st.mode = .handler → Completes (.yieldp g) s s h g {} {}) ∧
    (hzClear h.now h.st = true → countersZero h.cord = true → h.cord.preempt ≠ some .drain → Completes (.yieldp g) s s h g {} {}) ∧
    (hzClear h.now h.st = true → countersZero h.cord = true → h.cord.preempt = some .drain → h.st.mode = .running →
      Completes (.yieldp g) s (modHere s h (fun st => { st with stopped := true })) h g {} {})) ∧
  (∀ (s : State) (h : Here) (g : Guard), drainedStrand h = true → endWaits h.cord h.now h.sel.lane = false →
    Completes (.exit g) s (endStrand (releaseStep s (partyOf h.cord h.sel.lane)) h.sel.cord h.sel.lane) h g
      { signs := exitSigns h } {})

/-- R149, R150, R278, R280, R281: the words that read global memory, where the leases allow the access. The access joins the
strand's pending sequence with its destination held; a plain load that misses in the L1 joins its miss-status entries (R248;
that an entry is named by its context and 256-byte region, and counts loads alone, is the model's choice, log 18).
An acquire load must be aligned to its size. -/
def Obligations.LoadIssueResults : Prop :=
  ∀ (s : State) (h : Here) (g : Guard) (d a o : BitVec 7) (z k : BitVec 3),
    let va := rdV2 h.st a
    let off := va + BitVec.ofInt 64 (immFM h.st o)
    let free (va : BitVec 64) (size : Nat) : Prop := leaseBad s h.sel.cord h.cord va size false = none
    let sp (dst : List Reg) : WSpec := { reads := pair a, writes := dst, lat := 0, fallible := true }
    let op (kind : OpKind) (z k : BitVec 3) (va : BitVec 64) : Op := { blankOp with
      kind := kind, size := sizeBytes z, scope := k.toNat, dst := d, szc := z, na := hintNoL1 h.st.hint, va := va }
    let queued (i : Instr) (dst : List Reg) (x : Op) : State := holdRegs (pushOp s h i true x) h s.uid dst
    (free off 4 → mshrFull s h off 4 = false →
      Completes (.ldW g d a o) s (mshrJoin (queued (.ldW g d a o) [.v d] (op .load 4 0 off)) h s.uid off 4) h g (sp [.v d]) {}) ∧
    (free va (sizeBytes z) → mshrFull s h va (sizeBytes z) = false →
      Completes (.ld g d a z) s (mshrJoin (queued (.ld g d a z) (sizeRegs z d) (op .load z 0 va)) h s.uid va (sizeBytes z)) h g
        (sp (sizeRegs z d)) {}) ∧
    (free va (sizeBytes z) → Completes (.ldo g d a z) s (queued (.ldo g d a z) (sizeRegs z d) (op .obs z 0 va)) h g (sp (sizeRegs z d)) {}) ∧
    (free va (sizeBytes z) → va.toNat % sizeBytes z = 0 →
      Completes (.ldAcq g d a z k) s (queued (.ldAcq g d a z k) (sizeRegs z d) (op .acqLoad z k va)) h g (sp (sizeRegs z d)) {} ∧
      Completes (.ldoAcq g d a z k) s (queued (.ldoAcq g d a z k) (sizeRegs z d) (op .acqLoad z k va)) h g (sp (sizeRegs z d)) {})

/-- R149, R150, R278, R281: the stores, where the leases allow the access: the data is read at issue and the access joins the
pending sequence; no byte of memory changes before it is performed (R263). -/
def Obligations.StoreIssueResults : Prop :=
  ∀ (s : State) (h : Here) (g : Guard) (d a o : BitVec 7) (z k : BitVec 3),
    let va := rdV2 h.st a
    let off := va + BitVec.ofInt 64 (immFM h.st o)
    let free (va : BitVec 64) (size : Nat) : Prop := leaseBad s h.sel.cord h.cord va size true = none
    let sp (src : List Reg) : WSpec := { reads := pair a ++ src, writes := [], lat := 0, fallible := true }
    let op (kind : OpKind) (z k : BitVec 3) (va : BitVec 64) : Op := { blankOp with
      kind := kind, size := sizeBytes z, scope := k.toNat, szc := z, data := storeBytes h.st z d, va := va }
    (free off 4 → Completes (.stW g d a o) s (pushOp s h (.stW g d a o) true (op .store 4 0 off)) h g (sp [.v d]) {}) ∧
    (free va (sizeBytes z) → Completes (.st g d a z) s (pushOp s h (.st g d a z) true (op .store z 0 va)) h g (sp (sizeRegs z d)) {}) ∧
    (free va (sizeBytes z) → va.toNat % sizeBytes z = 0 →
      Completes (.stRel g d a z k) s (pushOp s h (.stRel g d a z k) true (op .relStore z k va)) h g (sp (sizeRegs z d)) {})

/-- R282 to R284, R107: the atomics on global memory, aligned and where the leases allow the access: the operands, %stat.FTZ and
the enable bits are taken at issue, and the access joins the pending sequence with its destination held. The table gives each
word its operation number, width and operands. -/
def Obligations.AtomicIssueResults : Prop :=
  ∀ (s : State) (h : Here) (g : Guard) (d a : BitVec 7) (k : BitVec 3),
    let va := rdV2 h.st a
    let x := (rdV h.st d).zeroExtend 64; let xx := rdV2 h.st d
    let joins (i : Instr) (n w : Nat) (src dst : List Reg) (x y : BitVec 64) : Prop :=
      leaseBad s h.sel.cord h.cord va w true = none → va.toNat % w = 0 →
      Completes i s
        (holdRegs (pushOp s h i true { blankOp with
          kind := .atomic, size := w, scope := k.toNat, dst := d, szc := if w == 8 then 5 else 4,
          atom := some ⟨n, x, y, ftzOf h.st, enables h.st⟩, va := va }) h s.uid dst) h g
        { reads := pair a ++ src, writes := dst, lat := 0, fallible := true } {}
    joins (.amoAdd g d a k) 0 4 [.v d] [.v d] x 0 ∧
    joins (.amoSub g d a k) 1 4 [.v d] [.v d] x 0 ∧
    joins (.amoMin g d a k) 2 4 [.v d] [.v d] x 0 ∧
    joins (.amoMax g d a k) 3 4 [.v d] [.v d] x 0 ∧
    joins (.amoMinUns g d a k) 4 4 [.v d] [.v d] x 0 ∧
    joins (.amoMaxUns g d a k) 5 4 [.v d] [.v d] x 0 ∧
    joins (.amoAnd g d a k) 6 4 [.v d] [.v d] x 0 ∧
    joins (.amoOr g d a k) 7 4 [.v d] [.v d] x 0 ∧
    joins (.amoXor g d a k) 8 4 [.v d] [.v d] x 0 ∧
    joins (.amoSwp g d a k) 9 4 [.v d] [.v d] x 0 ∧
    joins (.amoAddF g d a k) 10 4 [.v d] [.v d] x 0 ∧
    joins (.acas g d a k) 11 4 (pair d) [.v d] x ((rdV h.st (d + 1)).zeroExtend 64) ∧
    joins (.amoAddD g d a k) 12 8 (pair d) (pair d) xx 0 ∧
    joins (.amoSwpD g d a k) 13 8 (pair d) (pair d) xx 0 ∧
    joins (.acasD g d a k) 14 8 (quadruple d) (pair d) xx (rdV2 h.st (d + 2))

/-- R279, R273: scratchpad loads and stores within the cord's scratchpad take effect as they issue. R285, R282: the scratchpad
atomics, at an aligned offset within the cord's scratchpad: V[d] receives the old word, and the word becomes new old. -/
def Obligations.ScratchpadResults : Prop :=
  (∀ (s : State) (h : Here) (g : Guard) (d a : BitVec 7) (z : BitVec 3),
    let off := (rdV h.st a).toNat
    let m := (coreOfCord s h.cord).scratch
    scratchOk h.cord off (sizeBytes z) = true →
    Completes (.lds g d a z) s
      (writeVar s h (loadWrites z d (getBytes m (scrBase h.cord + off) (sizeBytes z)))) h g
      { reads := [.v a], writes := sizeRegs z d, lat := 0 } {} ∧
    Completes (.sts g d a z) s
      (modHereCore s h (fun co => { co with scratch := putBytes co.scratch (scrBase h.cord + off) (storeBytes h.st z d) })) h g
      { reads := [.v a] ++ sizeRegs z d, writes := [], lat := 0 } {}) ∧
  (∀ (s : State) (h : Here) (g : Guard) (d a : BitVec 7),
    let off := (rdV h.st a).toNat
    let old := leNat (getBytes (coreOfCord s h.cord).scratch (scrBase h.cord + off) 4)
    let x := (rdV h.st d).toNat
    let does (i : Instr) (src : List Reg) (new : Nat) : Prop :=
      Completes i s
        (writeVar (modHereCore s h (fun co => { co with scratch := putBytes co.scratch (scrBase h.cord + off) (leBytes 4 new) })) h
          (toV d (BitVec.ofNat 32 old))) h g
        { reads := [.v a] ++ src, writes := [.v d], lat := 0 } {}
    scratchOk h.cord off 4 = true → off % 4 = 0 →
    does (.amosAdd g d a) [.v d] ((old + x) % 2 ^ 32) ∧
    does (.amosSub g d a) [.v d] ((old + 2 ^ 32 - x) % 2 ^ 32) ∧
    does (.amosMin g d a) [.v d] (if (rdV h.st d).toInt < (BitVec.ofNat 32 old).toInt then x else old) ∧
    does (.amosMax g d a) [.v d] (if (BitVec.ofNat 32 old).toInt < (rdV h.st d).toInt then x else old) ∧
    does (.amosMinUns g d a) [.v d] (min old x) ∧
    does (.amosMaxUns g d a) [.v d] (max old x) ∧
    does (.amosAnd g d a) [.v d] (old &&& x) ∧
    does (.amosOr g d a) [.v d] (old ||| x) ∧
    does (.amosXor g d a) [.v d] (old ^^^ x) ∧
    does (.amosSwp g d a) [.v d] (x) ∧
    does (.amosCas g d a) (pair d) (if old = x then (rdV h.st (d + 1)).toNat else old))

/-- R286 to R288: the fences, the L1 drops and tkrel join the strand's pending sequence; a fence and tkrel take a sequence
number. -/
def Obligations.FenceAndDropIssueResults : Prop :=
  ∀ (s : State) (h : Here) (g : Guard) (a : BitVec 7) (k : BitVec 3),
    let op (kind : OpKind) (n : Nat) (va : BitVec 64) : Op := { blankOp with kind := kind, scope := n, va := va }
    Completes (.fenceAcq g k) s (pushOp s h (.fenceAcq g k) true (op .fenceAcq k.toNat 0)) h g { fallible := true } {} ∧
    Completes (.fenceRel g k) s (pushOp s h (.fenceRel g k) true (op .fenceRel k.toNat 0)) h g { fallible := true } {} ∧
    Completes (.fence g k) s (pushOp s h (.fence g k) true (op .fence k.toNat 0)) h g { fallible := true } {} ∧
    Completes (.invl1 g a) s (pushOp s h (.invl1 g a) false (op .invl1 0 (rdV2 h.st a))) h g { reads := pair a } {} ∧
    Completes (.invl1All g) s (pushOp s h (.invl1All g) false (op .invl1All 0 0)) h g {} {} ∧
    Completes (.tkrel g a) s (pushOp s h (.tkrel g a) true (op .tkrel 0 (rdV2 h.st a))) h g { reads := pair a, fallible := true } {}

/-- R169, R170, R184 to R192: a cross-lane word whose membership checks hold arrives at its instance with its inputs, and holds
its destination until the instance completes. A floating-point reduction is fallible while a flag it can raise is enabled
(R187); which flags each form can raise is the model's choice (redCan, log 12). -/
def Obligations.CrossLaneArrivals : Prop :=
  ∀ (s : State) (h : Here) (g : Guard) (d a : BitVec 7) (m o : BitVec 5) (x : BitVec 3),
    let fp (i : Instr) (can : Flags) : State :=
      if flagFallible h can then pushOp s h i true { blankOp with kind := .flag, state := .sent } else { s with uid := s.uid + 1 }
    let joins (i : Instr) (mask : BitVec 64) (reads writes : List Reg) (can : Flags) (mine : List Nat) (r : Arrival) : Prop :=
      arriveFault i 0 (fun _ => mask) h s = none →
      Completes i s (arrive i 0 mask { r with uid := s.uid } h (holdRegs (fp i can) h s.uid writes)) h g
        { reads := reads, writes := writes, lat := 0, fallible := flagFallible h can, mine := mine } {}
    let xm := rdS h.cord (m.zeroExtend 6); let am := rdS h.cord (sReg a); let mine := arrivedNames h 0
    let bare (i : Instr) : Arrival := bareArrival i h s
    let xlm (i : Instr) : Prop :=
      joins i xm [.v a, .v d, .s (m.zeroExtend 6)] (xlmRegs h d) 0 []
        { bare i with x := rdV h.st a, y := rdV h.st d, d := d, pd := xlmPred h.st.hint }
    let red (i : Instr) : Prop :=
      joins i am [.v d, .s (sReg a)] [.v d] (redCan o) mine { bare i with x := redInput o h d, d := d }
    let vote (i : Instr) (dst : Reg) : Prop :=
      joins i am ((if x == 7#3 then [] else [.p x]) ++ [.s (sReg a)]) [dst] 0 mine { bare i with pr := rdP h.st x, d := d }
    xlm (.xlmIdx g d a m) ∧ xlm (.xlmXor g d a m) ∧ xlm (.xlmUp g d a m) ∧ xlm (.xlmDn g d a m) ∧
    red (.red g d a o) ∧ red (.scan g d a o) ∧ red (.scanExcl g d a o) ∧
    joins (.elect g d a) am [.s (sReg a)] [.p (pReg d)] 0 mine { bare (.elect g d a) with d := d } ∧
    vote (.voteAny g d a x) (.p (pReg d)) ∧ vote (.voteAll g d a x) (.p (pReg d)) ∧ vote (.voteBallot g d a x) (.s (sReg d))

/-- R188 to R192: what a completed cross-lane instance writes in each arrived member. w is bits 26:0 of the word. -/
def Obligations.CrossLaneResults : Prop :=
  ∀ (c : Cord) (x : Inst) (a b : Arrival) (g : Guard) (d r : BitVec 7) (m o : BitVec 5) (p : BitVec 3),
    let is (i : Instr) : Prop := x.word = (encode i).extractLsb' 0 27
    let from_ (i : Instr) (src : Option Nat) : Prop := is i →
      (∀ l, src = some l → l ≤ 63 → laneIn (members c x) l = true → arrivalOf x l = some b →
        crossResult c x a = (toV a.d b.x ++ a.pd.elim [] (fun p => toP p true), 0)) ∧
      ((∀ l, src = some l → 63 < l ∨ laneIn (members c x) l = false ∨ arrivalOf x l = none) →
        crossResult c x a = (toV a.d 0 ++ a.pd.elim [] (fun p => toP p false), 0))
    let lead := (arrivalOf x (lowestArrived x)).getD a
    let md : RMode := ⟨fp32, lead.mod_.extractLsb' 0 2, lead.mod_.getLsbD 2, lead.ftz⟩
    let red (below : Nat) := (toV a.d (BitVec.ofNat 32 (reduceBelow c x o.toNat md below).1), (reduceBelow c x o.toNat md below).2)
    from_ (.xlmIdx g d r m) (some a.y.toNat) ∧
    from_ (.xlmXor g d r m) (some (BitVec.ofNat 32 a.lane ^^^ a.y).toNat) ∧
    from_ (.xlmUp g d r m) (if a.y.toNat ≤ a.lane then some (a.lane - a.y.toNat) else none) ∧
    from_ (.xlmDn g d r m) (some (a.lane + a.y.toNat)) ∧
    (is (.red g d r o) → crossResult c x a = red 64) ∧
    (is (.scan g d r o) → crossResult c x a = red (a.lane + 1)) ∧
    (is (.scanExcl g d r o) → crossResult c x a = red a.lane) ∧
    (is (.elect g d r) → crossResult c x a = (toP (pReg a.d) (a.lane == lowestArrived x), 0)) ∧
    (is (.voteAny g d r p) → crossResult c x a = (toP (pReg a.d) (ballot x != 0), 0)) ∧
    (is (.voteAll g d r p) → crossResult c x a = (toP (pReg a.d) (ballot x == members c x), 0)) ∧
    (is (.voteBallot g d r p) → crossResult c x a = (toS (sReg a.d) (ballot x), 0))

/-- R170, R354: a strand whose lane its mask does not name, or whose mask or word differs from the first arriver's, stops with
cause 4 and, in DETAIL, 64 plus its lane or the first arriver's lane. R171: an instance completes exactly when every
effective member has arrived or ended; an instance that is not complete has no effect yet. R193: at a complete bar.core every arrived strand goes
on. R195: a complete bar of wider scope is one arrival at the cord's barrier group; COUNT arrivals, ended cords counted, release every arrived
cord and begin the next generation; COUNT 0, or another COUNT than the generation's first, is cause 4 on each arrived strand, which does
not arrive. The order of the checks, masks compared as
whole 64-bit words, and which instance a count names (joined) are the model's choices (logs 28 and 60). -/
def Obligations.InstanceRules : Prop :=
  (∀ (s : State) (h : Here) (i : Instr) (kind : Nat) (mask : Here → BitVec 64) (x : Inst),
    (laneIn (mask h) h.sel.lane = false →
      arriveFault i kind mask h s = some (faultHere s h i 4 0 (BitVec.ofNat 64 (64 + h.sel.lane)))) ∧
    (laneIn (mask h) h.sel.lane = true → joined h kind = some x → (x.mask ≠ mask h ∨ x.word ≠ (wordOf s h i).extractLsb' 0 27) →
      arriveFault i kind mask h s = some (faultHere s h i 4 0 (BitVec.ofNat 64 x.first))) ∧
    (laneIn (mask h) h.sel.lane = true → (∀ x, joined h kind = some x → x.mask = mask h ∧ x.word = (wordOf s h i).extractLsb' 0 27) →
      arriveFault i kind mask h s = none)) ∧
  (∀ (s : State) (k : Nat) (c : Cord) (x : Inst), mget s.cords k = some c →
    (instComplete c x = true ↔ ∀ l < 64, laneIn (members c x) l = true → (∃ a, arrivalOf x l = some a) ∨ laneEnded c l = true) ∧
    (instComplete c x = false → finishInst s k x = s) ∧
    (instComplete c x = true → x.kind = 0 →
      finishInst s k x = x.arr.foldl (fun s a => crossDeliver s k x c a)
        (modCord s k (fun c => clearSign { c with insts := c.insts.filter (·.uid != x.uid) })))) ∧
  (∀ (kind : Nat) (lanes : BitVec 64) (c : Cord) (l : Nat) (st : Strand), mget c.strands l = some st →
    mget (releaseBar kind lanes c).strands l = some (if st.wait = .bar kind ∧ laneIn lanes l = true then { st with wait := .none } else st)) ∧
  (∀ (s : State) (k : Nat) (c : Cord) (x : Inst), mget s.cords k = some c → instComplete c x = true →
    let s' := modCord s k (fun c => clearSign { c with insts := c.insts.filter (·.uid != x.uid) })
    (x.kind = 1 → finishInst s k x = modCord s' k (releaseBar 1 (arrivedLanes x))) ∧
    (2 ≤ x.kind → x.kind ≤ 5 → (mget s.contexts c.ctx).isSome = true →
      let v := c.barcfg[x.kind - 1]?.getD 0
      let named (b : BarGroup) : Bool := b.scope == x.kind && b.inst == scopeInst c x.kind && b.group == cfgGroup v
      let g := ((ctxOf s c.ctx).bars.find? named).getD ⟨x.kind, scopeInst c x.kind, cfgGroup v, 0, 0, [], []⟩
      let bad := cfgCount v = 0 ∨ g.arr ≠ [] ∧ g.count ≠ cfgCount v
      let arr := g.arr ++ [(k, arrivedLanes x)]
      let all := arr.length + (g.ended.filter (fun e => !arr.any (·.1 == e))).length
      let put (g : BarGroup) : State := modCtx s' c.ctx (fun y => { y with bars := (ctxOf s c.ctx).bars.filter (fun b => !named b) ++ [g] })
      (bad → (ctxOf (finishInst s k x) c.ctx).bars = (ctxOf s c.ctx).bars ∧ ∀ a ∈ x.arr, ∀ st, strandOf s k a.lane = some st →
        ∃ t f, strandOf (finishInst s k x) k a.lane = some t ∧ t.wait = .none ∧ t.fault = some f ∧ f.cause = 4 ∧
          f.detail = BitVec.ofNat 64 (64 + a.lane)) ∧
      (¬ bad → all < cfgCount v → finishInst s k x = put { g with count := cfgCount v, arr := arr }) ∧
      (¬ bad → cfgCount v ≤ all → finishInst s k x = arr.foldl (fun s a => modCord s a.1 (releaseBar x.kind a.2))
        (put { g with count := 0, arr := [], gen := g.gen + 1 }))))

/-- R169, R193 to R196, R174, R159: bar and phase arrive and wait; barcfg and cvset write their setting once by R159, barcfg of
scope core and a cvset with the signers the register has while it is being signed nothing. -/
def Obligations.SynchronisationWordResults : Prop :=
  ∀ (s : State) (h : Here) (g : Guard) (d a : BitVec 7) (k : BitVec 3),
    let u := rdS h.cord (sReg a); let n := d.toNat % 8; let v := convOf h.cord n
    let sp : WSpec := { reads := [.s (sReg a)], lat := 0 }
    let waits (i : Instr) (kind : Nat) (w : Wait) : State :=
      let t := modHere s h (fun st => { st with wait := w })
      arrive i kind u (bareArrival i h t) h t
    (arriveFault (.bar g a k) k.toNat (fun _ => u) h s = none → Completes (.bar g a k) s (waits (.bar g a k) k.toNat (.bar k.toNat)) h g sp {}) ∧
    (arriveFault (.phase g a) 6 (fun _ => u) h s = none → h.st.stat.getLsbD 3 = false → u = h.cord.lanes →
      Completes (.phase g a) s (waits (.phase g a) 6 .phase) h g sp {}) ∧
    (k = 1#3 → Completes (.barcfg g a k) s s h g { reads := [.s (sReg a)] } {}) ∧
    (k ≠ 1#3 → bitsOf u 12 4 = 0 → bitsOf u 32 32 = 0 →
      Completes (.barcfg g a k) s (onceWrite h k.toNat (setBarcfg k.toNat u) s) h g { reads := [.s (sReg a)] } {}) ∧
    (v.signed = 0 → Completes (.cvset g d a) s (onceWrite h (8 + n)
        (fun c => { c with conv := c.conv.setIfInBounds n { v with signers := u &&& h.cord.lanes, round := 0 } }) s) h g
        { reads := [.s (sReg a)] } {}) ∧
    (v.signed ≠ 0 → u &&& h.cord.lanes = v.signers → Completes (.cvset g d a) s s h g { reads := [.s (sReg a)] } {}) ∧
    (v.signed ≠ 0 → u &&& h.cord.lanes ≠ v.signers → Issues s h g { reads := [.s (sReg a)] } →
      exec (.cvset g d a) s = .next (stopHere s h (faultHere s h (.cvset g d a) 5 0 (BitVec.ofNat 64 (64 + h.sel.lane)))))

/-- R224 to R229, R203, R212: the task words on slots. qrsv answers 4 for no such node, 3 for a closed graph, 2 beyond the depth
limit, 1 for no free slot or four slots reserved already, and otherwise reserves the free slot of the lowest address; the
strand waits for its answer. -/
def Obligations.SlotWordResults : Prop :=
  ∀ (s : State) (h : Here) (g : Guard) (d a : BitVec 7) (p : BitVec 3) (q : Slot),
    let x := ctxOf s h.cord.ctx
    let n := (rdS h.cord (sReg a)).toNat
    let late : Leave := { late := Config.delay s.choices }
    let s' : State := { s with choices := s.choices + 1 }
    let sp : WSpec := { reads := [.s (sReg a)], writes := pair d ++ [.p p] }
    let depth := if n ≤ h.cord.node then h.st.depth + 1 else h.st.depth
    let refuses (v : Nat) : Prop :=
      Completes (.qrsv g d a p) s (writeRegs s' h (toV2 d (BitVec.ofNat 64 v) ++ toP p false) (h.now + 1) false) h g sp late
    let change (f : Slot → Slot) : State := modCtx s' h.cord.ctx (fun x => setSlot x q.dev q.addr f)
    let mine := namedSlot a h s = some q ∧ q.state = .reserved ∧ q.cord = h.sel.cord ∧ q.lane = some h.sel.lane
    (nodeOf x h.cord.graph n = none → refuses 4) ∧
    (∀ gr nd, graphOf x h.cord.graph = some gr → gr.nodes[n]? = some nd →
      (gr.closed = true → refuses 3) ∧
      (gr.closed = false → nd.limit < depth → refuses 2) ∧
      (gr.closed = false → depth ≤ nd.limit → (4 ≤ reservedBy x h.sel.cord h.sel.lane ∨ lowestFree x h.cord.graph n h.cord.dev h.cord.die = none) →
        refuses 1) ∧
      (gr.closed = false → depth ≤ nd.limit → reservedBy x h.sel.cord h.sel.lane < 4 →
        lowestFree x h.cord.graph n h.cord.dev h.cord.die = some q →
        Completes (.qrsv g d a p) s
          (writeRegs (change (fun q => { q with state := .reserved, cord := h.sel.cord, lane := some h.sel.lane, depth := depth })) h
            (toV2 d (BitVec.ofNat 64 q.addr) ++ toP p true) (h.now + 1) false) h g sp late)) ∧
    (mine → hzClear h.now h.st = true → storesPerformed h = true →
      Completes (.qcmt g a) s (commitHere h q s') h g { reads := pair a } late) ∧
    (mine → storesPerformed h = true → Completes (.qdrop g a) s (change freeSlot) h g { reads := pair a } late) ∧
    (namedSlot a h s = some q → storesPerformed h = true → loadsReturned h = true →
      Completes (.qfree g a) s (if q.state == .held && q.cord == h.sel.cord then change freeSlot else s') h g { reads := pair a } late) ∧
    Completes (.qstat g d a) s (writeRegs s' h (toV d (nodeStatus x h.cord n)) (h.now + 1) false) h g
      { reads := [.s (sReg a)], writes := [.v d] } late ∧
    Computes (.batt g d) s h g [.v d] [.v d] 2 (toV d (battInfo h (rdV h.st d).toNat))

/-- R217 to R219, R231 to R234: what a knot's arbiter does with each event: a value is taken only by a pending knot, which
resolves and wakes every sleeper with it; breaking one wakes them with breakage; a stale handle is cause 16 and a wait on a
broken knot cause 17. -/
def Obligations.KnotEvents : Prop :=
  ∀ (k : Knot) (v : BitVec 64),
    let pending := k.state = .pending
    let knset := knotAct 0 v true k; let knadd := knotAct 1 v true k
    (pending → knset = (wakeAll (some v) { k with value := v, state := .resolved }, {})) ∧
    (pending → k.expect = 0 → knadd = ({ k with value := k.value + v }, {})) ∧
    (pending → k.expect = 1 → knadd = (wakeAll (some (k.value + v)) { k with value := k.value + v, expect := 0, state := .resolved }, {})) ∧
    (pending → 1 < k.expect → knadd = ({ k with value := k.value + v, expect := k.expect - 1 }, {})) ∧
    (¬ pending → knset = (k, {}) ∧ knadd = (k, {}) ∧ knotAct 2 v true k = (k, {})) ∧
    (pending → knotAct 2 v true k = (wakeAll none { k with state := .broken }, {})) ∧
    (knotAct 3 v true k = ({ breakKnot k with state := .free, gen := nextGen k.gen }, {})) ∧
    (k.state = .resolved → knotAct 5 v true k = (k, { val := some k.value, p := some true, acq := true })) ∧
    (k.state ≠ .resolved → knotAct 5 v true k = (k, { p := some false })) ∧ (knotAct 5 v false k = (k, { p := some false })) ∧
    (∀ live, knotAct 6 v live k = (k, { p := some (!(live && k.state == .pending)) })) ∧
    (k.state = .resolved → knotAct 7 v true k = (k, { val := some k.value, acq := true })) ∧
    (k.state = .broken → knotAct 7 v true k = (k, { fault := 17 })) ∧
    (k.state ≠ .resolved → k.state ≠ .broken → knotAct 7 v true k = (k, { sleep := true })) ∧
    (∀ op, op = 0 ∨ op = 1 ∨ op = 2 ∨ op = 3 ∨ op = 7 → knotAct op v false k = (k, { fault := 16 }))

/-- R224, R226, R231 to R234: the knot words. On a knot of the strand's own die the arbiter answers at once; an event for another
die travels there, and the strand waits for its answer. knset and knadd are a release, and wait until every older operation
has settled and every older store is performed; that the release is made only where the knot is live and pending, at its arbiter, and that a
knwait stalls at its issue while the pool of the knot's die is full, are the model's choices (logs 34 and 57). R231, R217: knnew takes the lowest free entry of the die's quarter of the
knot table and answers its handle, or with none free or a count beyond 65,535 the handle 0. -/
def Obligations.KnotWordResults : Prop :=
  (∀ (s : State) (h : Here) (g : Guard) (d a : BitVec 7) (p : BitVec 3),
    let w := rdV h.st a; let ctx := h.cord.ctx; let dev := h.cord.dev
    let key := knotKey dev w; let late : Leave := { late := Config.delay s.choices }
    let s' : State := { s with choices := s.choices + 1 }
    let ans (op : Nat) (dst : BitVec 7) := knotAnswer s' ctx dev op w (rdV2 h.st dst)
    let here (i : Instr) (op : Nat) (dst : BitVec 7) (pd : BitVec 3) : State :=
      let t := if op ≤ 1 ∧ knotLive (knotOf (ctxOf s ctx) key) w = true ∧ (knotOf (ctxOf s ctx) key).state = .pending then
        releaseStep s' (partyOf h.cord h.sel.lane) else s'
      let k := (ans op dst).1
      let t := setKnot t ctx key (if (ans op dst).2.sleep then
        { k with waiters := k.waiters ++ [⟨h.sel.cord, h.sel.lane, dst, pcOf h.st, wordOf t h i, h.st.hint, none⟩] } else k)
      let t := if (ans op dst).2.sleep then modHere t h (fun st => { st with wait := .knot dev (key % 2 ^ 20) }) else t
      let t := if (ans op dst).2.acq then acquireStep t (coreIdOf h.cord) 4 else t
      writeRegs t h (knotWrites dst pd (ans op dst).2) (h.now + 1) false
    let away (i : Instr) (op : Nat) (dst : BitVec 7) (pd : BitVec 3) : State :=
      modHere { s' with uid := s.uid + 1, knotEvs := s.knotEvs ++ [⟨s.uid, h.sel.cord, h.sel.lane, op, w,
        rdV2 h.st dst, dst, pd, pcOf h.st, wordOf s h i, h.st.hint, h.now, h.sel.br⟩] } h
        (fun st => { st with wait := .answer })
    let does (i : Instr) (op : Nat) (dst : BitVec 7) (pd : BitVec 3) (reads writes : List Reg) : Prop :=
      (knotDie (knotKey 0 w) = h.cord.die → (ans op dst).2.fault = 0 →
        ((ans op dst).2.sleep = true → poolFree s' ctx dev h.cord.die = true) →
        Completes i s (here i op dst pd) h g { reads := reads, writes := writes } late) ∧
      (knotDie (knotKey 0 w) ≠ h.cord.die →
        ((ans op dst).2.sleep = true → poolFree s' ctx dev (knotDie key) = true) → Completes i s (away i op dst pd) h g { reads := reads, writes := writes } late)
    let done := hzClear h.now h.st = true ∧ storesPerformed h = true
    (done → does (.knset g d a) 0 d 7 (pair d ++ [.v a]) []) ∧
    (done → does (.knadd g d a) 1 d 7 (pair d ++ [.v a]) []) ∧
    does (.knget g d a p) 5 d p [.v a] (pair d ++ [.p p]) ∧
    does (.knwait g d a) 7 d 7 [.v a] (pair d) ∧
    does (.knpoll g a p) 6 0 p [.v a] [.p p] ∧
    (storesPerformed h = true → loadsReturned h = true → does (.knfree g a) 3 0 7 [.v a] []) ∧
    does (.knbrk g a) 2 0 7 [.v a] []) ∧
  (∀ (s : State) (h : Here) (g : Guard) (d : BitVec 7) (p : BitVec 3) (slot : Nat),
    let n := (rdV h.st d).toNat; let x := ctxOf s h.cord.ctx; let key := h.cord.dev * 2 ^ 20 + slot; let k := knotOf x key
    let sp : WSpec := { reads := [.v d], writes := [.v d, .p p] }
    let s' : State := { s with choices := s.choices + 1 }
    let late : Leave := { late := Config.delay s.choices }
    ((65535 < n ∨ lowestKnot x h.cord.dev h.cord.die = none) →
      Completes (.knnew g d p) s (writeRegs s' h (toV d 0 ++ toP p false) (h.now + 1) false) h g sp late) ∧
    (n ≤ 65535 → lowestKnot x h.cord.dev h.cord.die = some slot →
      Completes (.knnew g d p) s
        (writeRegs (setKnot s' h.cord.ctx key { k with
            value := 0, state := .pending, expect := n, owner := if n == 0 then BitVec.ofNat 32 (h.sel.cord % 2 ^ 30) else 0xFFFFFFFF, graph := h.cord.graph })
          h (toV d (BitVec.ofNat 32 (slot * 4096 + k.gen.toNat)) ++ toP p true) (h.now + 1) false) h g sp late))

/-- R206, R220, R224, R225, R233: an event from another die is answered by the arbiter of the knot's die once it is this event's turn
there, and the answer ends the strand's wait, sleeps as a waiter, or is the strand's fault; a woken waiter receives its value with an
acquire step, one of a knot in a cycle, or breakage as cause 17. A knwait that finds the pool full goes back to its issue. The release at the arbiter, the
order of the events there and the way back are the model's choices (logs 34 and 57). -/
def Obligations.RemoteKnotResults : Prop :=
  ∀ (s : State) (e : KnotEv) (c : Cord) (ctx dev slot : Nat) (w : Waiter) (ws : List Waiter) (x : BitVec 64),
    let r := knotAnswer s c.ctx c.dev e.op e.handle e.val
    let at_ := knotKey c.dev e.handle; let d := dieOf s c.dev (knotDie at_)
    let turn := knotBehind s c e = false ∧ (d.arbAt = d.cyc → d.arbKey ≤ knotOrder c e)
    let u := modDie s c.dev (knotDie at_) (fun d => { d with arbAt := d.cyc, arbKey := knotOrder c e })
    let t := knotRelease { u with knotEvs := u.knotEvs.filter (·.id != e.id) } (partyOf c e.lane) c.ctx c.dev e.op e.handle
    let key := dev * 2 ^ 20 + slot; let k := knotOf (ctxOf s ctx) key; let now := cycOf s dev (knotDie key)
    (s.knotEvs.find? (·.id == e.id) = some e → mget s.cords e.cord = some c → turn → r.2.sleep = false → r.2.fault = 0 →
      exec (.remoteKnotEvent e.id) s =
        let t := setKnot t c.ctx at_ r.1
        let t := if r.2.acq then acquireStep t (coreIdOf c) 4 else t
        .next (deliver (modStrand t e.cord e.lane (fun st => { st with wait := .none })) e.cord e.lane e.id
          (knotWrites e.d e.x r.2))) ∧
    (s.knotEvs.find? (·.id == e.id) = some e → mget s.cords e.cord = some c → turn → poolWaits s c e = true →
      exec (.remoteKnotEvent e.id) s = .next (sendBack s e)) ∧
    (s.knotEvs.find? (·.id == e.id) = some e → mget s.cords e.cord = some c → turn → r.2.sleep = true → poolWaits s c e = false →
      (exec (.remoteKnotEvent e.id) s =
        let u := modStrand (setKnot t c.ctx at_ { r.1 with waiters := r.1.waiters ++ [⟨e.cord, e.lane, e.d, e.pc, e.word, e.hint, none⟩] })
          e.cord e.lane (fun st => { st with wait := .knot c.dev (at_ % 2 ^ 20) })
        .next (abandonWait u e.cord e.lane)) ∧
      (∀ st, strandOf s e.cord e.lane = some st → st.fault = none → (∀ o ∈ st.ops, o.state ≠ .failed) → ∃ v st',
        exec (.remoteKnotEvent e.id) s = .next v ∧ strandOf v e.cord e.lane = some st' ∧ st'.wait = .knot c.dev (at_ % 2 ^ 20))) ∧
    (s.knotEvs.find? (·.id == e.id) = some e → mget s.cords e.cord = some c → turn → r.2.sleep = false → r.2.fault ≠ 0 →
      exec (.remoteKnotEvent e.id) s = .next (faultLeft (setKnot t c.ctx at_ r.1) e.cord e.lane r.2.fault e.pc e.word e.hint 0)) ∧
    (s.knotEvs.find? (·.id == e.id) = some e → mget s.cords e.cord = some c → ¬ turn → exec (.remoteKnotEvent e.id) s = .next s) ∧
    (k.waiters = w :: ws → w.woken = some (some x) → k.wokeAt < now → mget s.cords w.cord = some c →
      exec (.waiterWake ctx dev slot) s =
        let t := acquireStep (setKnot s ctx key { k with waiters := ws, wokeAt := now }) (coreIdOf c) 4
        .next (deliver (modStrand t w.cord w.lane (fun st => { st with wait := .none })) w.cord w.lane t.uid (toV2 w.d x))) ∧
    (k.waiters = w :: ws → w.woken = some none → k.wokeAt < now → mget s.cords w.cord = some c →
      exec (.waiterWake ctx dev slot) s =
        .next (faultLeft (setKnot s ctx key { k with waiters := ws, wokeAt := now }) w.cord w.lane 17 w.pc w.word w.hint 0))

/-- R323, R320, R321, R249: tdef writes the tile register the shape block in s[a] to s[a+15] describes, with binding 0; a shape
that breaks R323 is cause 19, and a tile that leaves the cord's scratchpad cause 8. -/
def Obligations.TileDefinitionResults : Prop :=
  ∀ (s : State) (h : Here) (g : Guard) (d a : BitVec 7),
    let t := shapeTile (sRegs h.cord a 16)
    let sp : WSpec := { reads := descRegs a 16 }
    let stops (cause : Nat) (x : BitVec 64) : Prop :=
      Issues s h g sp → exec (.tdef g d a) s = .next (stopHere s h (faultHere s h (.tdef g d a) cause x 0))
    (shapeOk t = true → scratchOk h.cord (tileEnd t) 0 = true →
      Completes (.tdef g d a) s (modHereCord { s with uid := s.uid + 1 } h (newTile d.toNat s.uid t)) h g sp {}) ∧
    (shapeOk t = false → stops 19 0) ∧
    (shapeOk t = true → scratchOk h.cord (tileEnd t) 0 = false → stops 8 (BitVec.ofNat 64 t.base))

/-- R318, R325 to R328, R295, R312: the copies, their descriptor checked and their leases kept, join their class as outstanding
fallible operations; tld also stamps its scale registers and its tile with one new tag. -/
def Obligations.CopyIssueResults : Prop :=
  ∀ (s : State) (h : Here) (g : Guard) (d a : BitVec 7) (m : BitVec 5),
    let box := sRegs h.cord a 16; let ds := sRegs h.cord a 3; let t := tileOf h.cord d.toNat
    let src := bitsOf (dreg box 2) 0 2; let dst := bitsOf (dreg box 2) 2 2
    let plane := if memFmt ds = t.fmt.toNat then planeBytes t else 0
    let inBounds (o : Option Nat) : Prop := ∀ x, o = some x → x % 16 = 0 ∧ scratchOk h.cord x 16 = true
    let x := (issueTag s h.sel.cord).1
    let stamped := modHereCore (issueTag s h.sel.cord).2 h (fun co =>
      let co := modScale h.cord m.toNat (fun y => { y with crown := x }) co
      if twoScales t then modScale h.cord (m.toNat + 1) (fun y => { y with crown := x }) co else co)
    let t' : Tile := { t with state := 2, bk := m.toNat, btag := x }
    let sp (n : Nat) (ks : List Nat) : WSpec := { reads := descRegs a n, kregs := ks, fallible := true }
    (boxOk box = true → inBounds (if (dreg box 2).getLsbD 7 then some (bitsOf (dreg box 2) 8 19) else none) →
      boxBeyond h.cord box src 0 6 = none → boxBeyond h.cord box dst 1 11 = none →
      boxLease s h.sel.cord h.cord box src 0 6 false = none → boxLease s h.sel.cord h.cord box dst 1 11 true = none →
      counterFull h .copy = false →
      Completes (.tcopy g a) s (issueEngine (.tcopy g a) h { blankEOp with kind := .tcopy, desc := box } s) h g (sp 16 []) {}) ∧
    (a.toNat ≤ 61 → t.state ≠ 0 → t.sparse = false → loadPair (memFmt ds) t.fmt.toNat = true → loadDescOk ds = true →
      (twoScales t = true → m.toNat + 1 < h.cord.hdr.kregs) → inBounds (loadSync ds) →
      tileLease s h.sel.cord h.cord ds (tileLines t) (memLine t (memFmt ds)) plane false = none → counterFull h .copy = false →
      scaleBusy h.cord (m.toNat :: (if twoScales t then [m.toNat + 1] else [])) = false →
      Completes (.tld g d a m) s
        (issueEngine (.tld g d a m) h { blankEOp with kind := .tld, desc := ds, tile := t', tileNo := d.toNat, kreg := m.toNat }
          (modHereCord stamped h (newTile d.toNat stamped.uid t'))) h g (sp 3 [m.toNat]) {}) ∧
    (a.toNat ≤ 61 → t.state ≠ 0 → t.sparse = false → storePair t.fmt.toNat (memFmt ds) = true → loadDescOk ds = true →
      (twoScales t = true → t.bk + 1 < h.cord.hdr.kregs) → (blocked t.fmt = true → t.btag = (scaleOf (coreOfCord s h.cord) h.cord t.bk).crown) →
      inBounds (loadSync ds) →
      tileLease s h.sel.cord h.cord ds (tileLines t) (memLine t (memFmt ds)) (planeBytes t) true = none → counterFull h .copy = false →
      scaleBusy h.cord (if blocked t.fmt then t.bk :: (if twoScales t then [t.bk + 1] else []) else []) = false →
      Completes (.tst g d a) s
        (issueEngine (.tst g d a) h { blankEOp with
          kind := .tst, desc := ds, tile := t, tileNo := d.toNat, sb := readPlane (coreOfCord s h.cord) h.cord t } s) h g (sp 3 []) {})

/-- R331 to R334, R305: press and pressw, their checks passed, mark the macro as pressing with the tile's format, shape and tags
and join the press class; cbld joins it, and is illegal (R8) at an address that is not aligned to 16 bytes; cbldDef gives the codebook up once the cord's press class is idle; cbdec decodes an
index. -/
def Obligations.PressIssueResults : Prop :=
  ∀ (s : State) (h : Here) (g : Guard) (d a : BitVec 7) (m : BitVec 3),
    let t := tileOf h.cord d.toNat; let va := rdS h.cord (sReg a); let co := coreOfCord s h.cord
    let e : EOp := { blankEOp with kind := .pressw, tile := t, tileNo := d.toNat, desc := [va] }
    let marked := modHereCore s h (modMac h.cord m.toNat (pressMac co h.cord t))
    (pressFault h s m.toNat 2 t = 0 → counterFull h .press = false →
      Completes (.press g d m) s
        (issueEngine (.press g d m) h { blankEOp with kind := .press, tile := t, tileNo := d.toNat, mac := m.toNat } marked) h g
        { fallible := true } {}) ∧
    (pressFault h s m.toNat 1 t = 0 → counterFull h .press = false →
      (∀ r < tileLines t, leaseMiss s h.sel.cord h.cord ((List.range (lineBytes t)).map (presswAddr e r)) false = none) →
      Completes (.pressw g d a m) s (issueEngine (.pressw g d a m) h { e with mac := m.toNat } marked) h g
        { reads := [.s (sReg a)], fallible := true } {}) ∧
    (va.toNat % 16 = 0 → counterFull h .press = false → leaseMiss s h.sel.cord h.cord (upFrom va 1024) false = none →
      Completes (.cbld g a) s (issueEngine (.cbld g a) h { blankEOp with kind := .cbld, desc := [va] } s) h g
        { reads := [.s (sReg a)], fallible := true } {}) ∧
    (va.toNat % 16 ≠ 0 → counterFull h .press = false → Issues s h g { reads := [.s (sReg a)], fallible := true } →
      exec (.cbld g a) s = .next (stopHere s h (faultHere s h (.cbld g a) 1 0 0))) ∧
    (h.cord.eops.all (fun e => !(e.cls == .press && eopLive e)) = true →
      Completes (.cbldDef g) s (modHereCore s h (fun co => { co with owner := none })) h g {} {}) ∧
    Computes (.cbdec g d a) s h g [.v a] [.v d] 4
      (toV d (BitVec.ofNat 32 (decodeIndex (codeEntry co h.cord.ctx) ((rdV h.st a).toNat % 65536)))) ∧
    (∀ f, pressFault h s m.toNat 2 t = f → f ≠ 0 → counterFull h .press = false → Issues s h g { fallible := true } →
      exec (.press g d m) s = .next (stopHere s h (faultHere s h (.press g d m) f 0 0)))

/-- R336 to R338, R312: the scale words, while no engine operation still has to use their registers. Each that writes a scale
register stamps it with a new tag, and in the .rb form every tile that names it. -/
def Obligations.ScaleWordResults : Prop :=
  ∀ (s : State) (h : Here) (g : Guard) (d a : BitVec 7) (r : BitVec 1),
    let co := coreOfCord s h.cord; let D := d.toNat; let A := a.toNat; let n := (rdV h.st d).toNat; let x := rdV h.st a
    let nan (f : Nat → Nat → Nat) (x y : Nat) : Nat := if x = 255 ∨ y = 255 then 255 else f x y
    let clamp (v : Int) : Nat := if v < 0 then 0 else if 254 < v then 254 else v.toNat
    let each (f : Nat → Nat → Nat) : State :=
      stampScale (modHereCore s h (modScale h.cord D (fun y => { y with
        bytes := (List.range 1024).map (fun i =>
          (i, BitVec.ofNat 8 (f (byteAt y.bytes i).toNat (byteAt (scaleOf co h.cord A).bytes i).toNat))) }))) h.sel.cord D (r == 1#1)
    let sp : WSpec := { kregs := [D, A] }
    let t := tileOf h.cord D
    (scaleBusy h.cord [D, A] = false →
      Completes (.skadd g d a r) s (each (nan (fun x y => clamp ((x : Int) + y - 127)))) h g sp {} ∧
      Completes (.sksub g d a r) s (each (nan (fun x y => clamp ((x : Int) - y + 127)))) h g sp {} ∧
      Completes (.skmax g d a r) s (each (nan max)) h g sp {} ∧
      Completes (.skmin g d a r) s (each (nan min)) h g sp {} ∧
      Completes (.skmov g d a r) s (each (fun _ y => y)) h g sp {}) ∧
    (scaleBusy h.cord [D] = false →
      Completes (.skset g d a r) s
        (stampScale (modHereCore s h (modScale h.cord D (fun y => { y with
          bytes := (List.range 1024).map (fun i => (i, BitVec.ofNat 8 ((rdS h.cord (sReg a)).toNat % 256))) }))) h.sel.cord D (r == 1#1))
        h g { reads := [.s (sReg a)], kregs := [D] } {} ∧
      Completes (.skins g d a r) s
        (stampScale (modHereCore s h (modScale h.cord D (fun y => { y with
          bytes := mset y.bytes (x.toNat / 65536 % 1024) (x.extractLsb' 0 8) }))) h.sel.cord D (r == 1#1))
        h g { reads := [.v a], kregs := [D] } {}) ∧
    (scaleBusy h.cord [A] = false →
      Completes (.skext g d a) s
        (writeRegs s h (toV d (if n ≤ 1023 then (byteAt (scaleOf co h.cord A).bytes n).setWidth 32 else 0)) (h.now + 4) false) h g
        { reads := [.v d], writes := [.v d], lat := 4, kregs := [A] } {}) ∧
    (scaleBusy h.cord [A] = false → t.state ≠ 0 →
      Completes (.skbind g d a) s
        (modHereCord s h (setTile D { t with bk := A, btag := (scaleOf co h.cord A).crown, state := 2 })) h g { kregs := [A] } {}) ∧
    (scaleBusy h.cord [A] = false → t.state = 0 → Issues s h g { kregs := [A] } →
      exec (.skbind g d a) s = .next (stopHere s h (faultHere s h (.skbind g d a) 19 0 0)))

/-- R339, R340, R324: cmpr compacts a dense tile into the two-level form and sbmap clears the bitmap bits of vectors of zeros; the
destination takes the source's binding, and the strand issues nothing until every byte is written. The bytes are written in one event of a
free later cycle, once the tile interlock lets them: that cycle is the model's choice (log 40). -/
def Obligations.SparseFormResults : Prop :=
  (∀ (s : State) (h : Here) (g : Guard) (d a : BitVec 7),
    let ts := tileOf h.cord a.toNat; let td := tileOf h.cord d.toNat
    let starts (prune : Bool) : State :=
      modHere { s with uid := s.uid + 1 } h (fun st => { st with tiling := some ⟨s.uid, prune, ts, a.toNat, td, d.toNat⟩ })
    let same := td.state ≠ 0 ∧ td.sparse = true ∧ td.fmt = ts.fmt ∧ td.rows = ts.rows ∧ td.cols = ts.cols ∧ tilesOverlap td ts = false
    (ts.state = 2 → ts.sparse = false → (ts.fmt = 10#4 ∨ ts.fmt = 11#4) → ts.rows = 256 → same →
      Completes (.cmpr g d a) s (starts false) h g {} {}) ∧
    (ts.state = 2 → ts.sparse = true → (d = a ∨ same) → Completes (.sbmap g d a) s (starts true) h g {} {})) ∧
  (∀ (s : State) (k l : Nat) (c : Cord) (st : Strand) (t : Tiling),
    mget s.cords k = some c → mget c.strands l = some st → st.tiling = some t →
    (∀ now, ableStrand c st now = false) ∧
    (c.life ≠ .running ∨ tilingReady c t = false → execTileWrite k l s = .next s) ∧
    (c.life = .running → tilingReady c t = true → execTileWrite k l s =
      let b := scrBase c
      let rs (m : SMap (BitVec 8)) := if t.prune then (List.range t.src.cols).map (fun n =>
          prunedRecord (if t.src.fmt = 10#4 then 8 else 4) (getBytes m (b + t.src.base + n * t.src.pitch) (lineBytes t.src)))
        else compactTile m b t.src
      let s := modCoreOf s c (fun co => { co with scratch := putRecords t.dst b (rs co.scratch) co.scratch })
      let s := modCord s k (setTile t.dstNo { tileOf c t.dstNo with state := 2, bk := t.src.bk, btag := t.src.btag })
      .next (modStrand s k l (fun st => { st with tiling := none, ready := max st.ready (cycOf s c.dev c.die + 1) }))))

/-- R301 to R303, R329, R298: the sync-word words, at an aligned offset within the cord's scratchpad: swinit arms a word for a
new generation, swait passes once GEN is not older than V[d] and acquires at die scope, swadd releases at die scope and
credits. R302: the credit rule of a sync word: a finished generation starts again from 0; a count above TARGET, or a word not
set up, only sets OVR; reaching TARGET makes the next generation. R297, R330, R397: waito passes once at most n operations of
its class are outstanding, at once for an n of 64 or more, and acquires at die scope, for the fabric class at pod scope. -/
def Obligations.SyncWordResults : Prop :=
  (∀ (s : State) (h : Here) (g : Guard) (d a : BitVec 7),
    let m := (coreOfCord s h.cord).scratch; let off := (rdV h.st a).toNat; let o := scrBase h.cord + off
    let gen := word32 m (o + 8)
    let m1 := putBytes m o (leBytes 4 (rdV h.st d).toNat ++ leBytes 4 0)
    let rel := releaseStep s (partyOf h.cord h.sel.lane)
    let after := creditAt rel h.sel.cord off (rdV h.st d).toNat
    off % 16 = 0 → scratchOk h.cord off 16 = true →
    Completes (.swinit g d a) s
      (writeVar (modHereCore s h (fun co => { co with scratch := putBytes m1 (o + 12) [byteAt m1 (o + 12) &&& ~~~1#8] })) h
        (toV d (BitVec.ofNat 32 (gen + 1)))) h g { reads := [.v d, .v a], writes := [.v d], lat := 0 } {} ∧
    (older (BitVec.ofNat 32 gen) (rdV h.st d) = false →
      Completes (.swait g d a) s (writeVar (acquireStep s (coreIdOf h.cord) 3) h (toV d (BitVec.ofNat 32 gen))) h g
        { reads := [.v d, .v a], writes := [.v d], lat := 0, polls := .poll (rdV h.st a) (rdV h.st d) } {}) ∧
    (accessesDone h = true → after.2 = true → Completes (.swadd g d a) s after.1 h g { reads := [.v d, .v a], lat := 1 } {}) ∧
    (accessesDone h = true → after.2 = false →
      Completes (.swadd g d a) s
        (modHere after.1 h (fun st => { st with
          fault := some ⟨14, pcOf h.st, wordOf after.1 h (.swadd g d a), 0, BitVec.ofNat 64 off, 0, false, false, h.st.hint, false, true⟩ })) h g
        { reads := [.v d, .v a], lat := 1 } {})) ∧
  (∀ (m : SMap (BitVec 8)) (a n : Nat),
    let target := word32 m a
    let m' := if target ≠ 0 ∧ word32 m (a + 4) = target then putBytes m (a + 4) (leBytes 4 0) else m
    let run := word32 m' (a + 4)
    ((target = 0 ∨ target < run + n) → credit m a n = (putBytes m' (a + 12) [byteAt m' (a + 12) ||| 1], false)) ∧
    (target ≠ 0 → run + n < target → credit m a n = (putBytes m' (a + 4) (leBytes 4 (run + n)), true)) ∧
    (target ≠ 0 → run + n = target → credit m a n =
      let m := putBytes m' (a + 4) (leBytes 4 target)
      (putBytes m (a + 8) (leBytes 4 (word32 m (a + 8) + 1)), true))) ∧
  (∀ (s : State) (h : Here) (g : Guard) (n : BitVec 7) (c : BitVec 2),
    let k : EngClass := if c = 0#2 then .copy else if c = 1#2 then .press else if c = 2#2 then .matrix else .fabric
    (64 ≤ n.toNat ∨ counter h.cord k ≤ n.toNat) →
    Completes (.waito g n c) s (acquireStep s (coreIdOf h.cord) (if c = 3#2 then 5 else 3)) h g { polls := .poll 0 0 } {})

/-- R175, R309, R313, R335: mma signs its convergence register: the lane joins SIGNED, its accumulators are held, and the last
signer's test issues the product (accumulators that are waited for but not stall-checked, and a word that names no accumulator rows, are the
model's choices, logs 29 and 21). A macro beyond the cord's is cause 18, a lane outside SIGNERS or another word than the
round's cause 5. -/
def Obligations.SignatureResults : Prop :=
  ∀ (s : State) (h : Here) (g : Guard) (d a : BitVec 7) (m j : BitVec 3),
    let v := convOf h.cord j.toNat; let accs := wordAccs h s d a m; let bit := laneBit h.sel.lane; let i : Instr := .mma g d a m j
    let first := v.signed = 0
    let w := (wordOf s h i).extractLsb' 0 27
    let s1 : State := if v.signed == 0 then { s with uid := s.uid + 1 } else s
    let v' : Conv := { v with
      signed := v.signed ||| bit
      word := if v.signed == 0 then w else v.word
      first := if v.signed == 0 then h.sel.lane else v.first
      uid := if v.signed == 0 then s.uid else v.uid
      fzs := (if v.signed == 0 then 0 else v.fzs) ||| (if ftzOf h.st then bit else 0)
      sigs := (if v.signed == 0 then [] else v.sigs) ++ [(h.sel.lane, pcOf h.st, wordOf s h i, !h.st.rerun.isEmpty)] }
    let sp : WSpec := { writes := [.v d], lat := 0, signs := accs.any (heldBySync h) }
    let stops (cause : Nat) (x : Nat) : Prop := Issues s h g sp → exec i s = .next (stopHere s h (faultHere s h i cause 0 (BitVec.ofNat 64 x)))
    laneIn v.signed h.sel.lane = false → accs.any (isHeld h) = false → roundWaits h v = false →
    scaleLoads h.cord (wordScales h s a m) = false →
    (m.toNat < h.cord.hdr.macros → laneIn v.signers h.sel.lane = true → (first ∨ v.word = w) →
      Completes i s (signRound (holdRegs (modHereCord s1 h (fun c => { c with conv := c.conv.setIfInBounds j.toNat v' })) h v'.uid accs)
        h.sel.cord j.toNat) h g sp {}) ∧
    (h.cord.hdr.macros ≤ m.toNat → stops 18 0) ∧
    (m.toNat < h.cord.hdr.macros → laneIn v.signers h.sel.lane = false → stops 5 (64 + h.sel.lane)) ∧
    (m.toNat < h.cord.hdr.macros → laneIn v.signers h.sel.lane = true → ¬ first → v.word ≠ w → stops 5 v.first)

/-- R406 to R415: the fabric words, with their descriptor checked and within the leases: rsend, rsendAdd, esend and erecv join
the fabric class; tsend arms a free trigger entry and answers its handle, or 0 with all sixteen armed; tscncl cancels the
armed send it names (a value with bits 63:16 set names none: the model's choice, log 36). -/
def Obligations.FabricIssueResults : Prop :=
  ∀ (s : State) (h : Here) (g : Guard) (d a : BitVec 7),
    let ds := sRegs h.cord a 3; let qs := sRegs h.cord a 4; let m := (coreOfCord s h.cord).scratch; let b := scrBase h.cord
    let sp (n : Nat) : WSpec := { reads := descRegs a n, fallible := true }
    let send (i : Instr) (add : Bool) : Prop :=
      let f := (accessFate s (coreIdOf h.cord) h.cord.ctx (sendNeed add) (dreg ds 1) (sendLen ds)).getD (0, 0)
      sendFault h.cord add ds = none → sendLease s h.sel.cord h.cord ds true = none → counterFull h .fabric = false →
      Completes i s (issueEngine i h { blankEOp with
        kind := if add then .rsendAdd else .rsend, desc := ds, cause := f.1, addr := BitVec.ofNat 64 f.2 } s) h g (sp 3) {}
    let armable := bitsOf (dreg qs 3) 20 12 = 0 ∧ sendFault h.cord (trigAdd qs) qs = none ∧ trigOff qs % 16 = 0 ∧
      scratchOk h.cord (trigOff qs) 16 = true ∧ (word32 m (b + trigOff qs) = 0 ∨ trigThresh qs ≤ word32 m (b + trigOff qs)) ∧
      sendLease s h.sel.cord h.cord qs true = none
    let tsp : WSpec := { reads := descRegs a 4, writes := [.s (sReg d)] }
    send (.rsend g a) false ∧ send (.rsendAdd g a) true ∧
    (armable → freeTrig h.cord = none →
      Completes (.tsend g d a) s (writeRegs s h (toS (sReg d) 0) (h.now + 1) false) h g tsp {}) ∧
    (armable → ∀ n, freeTrig h.cord = some n →
      Completes (.tsend g d a) s
        (writeRegs (armEntry (.tsend g d a) n qs h s) h
          (toS (sReg d) (BitVec.ofNat 64 (n + 16 * (nextArming (h.cord.trig[n]?.getD blankTrig).count).toNat))) (h.now + 1) false) h g tsp {}) ∧
    Completes (.tscncl g a) s
      (cancelSends s h.sel.cord (fun n t => n + 16 * t.count.toNat == (rdS h.cord (sReg a)).toNat)) h g { reads := [.s (sReg a)] } {} ∧
    (bitsOf (dreg qs 2) 55 9 = 0 → bitsOf (dreg qs 3) 35 29 = 0 → 0 < sendLen qs → sendLen qs ≤ 2 ^ 24 →
      (mget (ctxOf s h.cord.ctx).peers (esendPeer qs)).isSome = true → esendOff qs % 2 = 0 →
      scratchOk h.cord (esendOff qs) (2 * esendSet qs) = true →
      ((dreg qs 2).getLsbD 48 = true → scratchOk h.cord (dreg qs 0).toNat (sendLen qs) = true) →
      ((dreg qs 2).getLsbD 48 = false → leaseMiss s h.sel.cord h.cord (upFrom (dreg qs 0) (sendLen qs)) false = none) →
      counterFull h .fabric = false →
      Completes (.esend g a) s (issueEngine (.esend g a) h { blankEOp with
        kind := .esend
        desc := qs
        spray := (List.range (esendSet qs)).map (fun i => BitVec.ofNat 16 (leNat (getBytes m (b + esendOff qs + 2 * i) 2))) } s) h g (sp 4) {}) ∧
    (bitsOf (dreg ds 1) 49 15 = 0 → bitsOf (dreg ds 2) 19 45 = 0 → bitsOf (dreg ds 2) 0 19 % 16 = 0 →
      scratchOk h.cord (bitsOf (dreg ds 2) 0 19) 16 = true → counterFull h .fabric = false →
      Completes (.erecv g a) s (issueEngine (.erecv g a) h { blankEOp with kind := .erecv, desc := ds } s) h g (sp 3) {})

/-- R157, R355: a word whose guard is true and that names a vector register at or beyond .vregs, or a scale register at or beyond .kregs, stops
its strand with cause 3 before any effect. R59: with %stat.CHK set, a word that reads its guard or a register closer than its producer's
latency stops its strand with cause 2 before any effect (of the guard also when it is false: log 54). R278, R281, R282, R249, R285: every acquire load, release store and atomic whose address is not a multiple of its size, and every
lds, sts and scratchpad atomic beyond the cord's grant, stops the strand with its precise fault, the address in ADDR. R225: qcmt or qdrop
of a slot that its strand does not hold RESERVED, and qfree of an address that is no slot, are the queue-misuse fault, cause
15. R406 to R410, R412, R415: a send of no bytes, of more than 2^24, or of part of an element stops with cause 19; an rsend.add
destination that is not a multiple of its element size with cause 7; a scratchpad source, spray list or sync word beyond the grant with
cause 8. The fault of an amos that breaks both of its rules is the model's choice (log 94). -/
def Obligations.PreciseFaults : Prop :=
  (∀ (h : Here) (sp : WSpec) (rs : List Reg),
    (boundFault h sp = true ↔ (∃ n : BitVec 7, .v n ∈ sp.reads ++ sp.writes ∧ h.cord.hdr.vregs ≤ n.toNat) ∨
      ∃ n ∈ sp.kregs, h.cord.hdr.kregs ≤ n) ∧
    (stallFault h rs = true ↔ h.st.stat.getLsbD 0 = true ∧ ∃ r ∈ rs, ∃ x ∈ h.st.chk, x.reg = r ∧ x.dist < x.lat)) ∧
  (∀ (i : Instr) (g : Guard) (spec : Here → State → WSpec) (check : Here → State → Option PFault) (leave : Here → State → Leave)
      (effect : Here → State → State) (s : State) (h : Here),
    here s = some h → ableStrand h.cord h.st h.now = true → (guardRegs (issueGuard h g)).any (isHeld h) = false →
    let sp := issueSpec h (spec h s)
    let stops (cause : Nat) : Prop := runWord i g spec check leave effect s = .next (stopHere s h (faultHere s h i cause 0 0))
    (stallFault h (guardRegs (issueGuard h g)) = true → stops 2) ∧
    (stallFault h (guardRegs (issueGuard h g)) = false → rdP h.st (issueGuard h g).pred = true →
      (boundFault h sp = true → stops 3) ∧
      (boundFault h sp = false → issueHeld h sp = false → sp.hold = false → stallFault h sp.reads = true → stops 2))) ∧
  (∀ (s : State) (h : Here) (g : Guard) (d a b : BitVec 7) (m : BitVec 5),
    here s = some h → ableStrand h.cord h.st h.now = true → polling h.st = false → (guardRegs g).any (isHeld h) = false →
    stallFault h (guardRegs g) = false → rdP h.st g.pred = true →
    let stops (i : Instr) (cause : Nat) : Prop := exec i s = .next (stopHere s h (faultHere s h i cause 0 0))
    (h.cord.hdr.vregs ≤ d.toNat ∨ h.cord.hdr.vregs ≤ a.toNat ∨ h.cord.hdr.vregs ≤ b.toNat → stops (.iadd g d a b) 3) ∧
    (h.cord.hdr.vregs ≤ a.toNat ∨ h.cord.hdr.vregs ≤ (a + 1).toNat ∨ h.cord.hdr.vregs ≤ d.toNat →
      stops (.ld g d a 2) 3 ∧ stops (.st g d a 2) 3) ∧
    (h.cord.hdr.kregs ≤ m.toNat → stops (.tld g d a m) 3) ∧ (h.cord.hdr.kregs ≤ a.toNat → stops (.skbind g d a) 3) ∧
    (boundFault h { reads := [.v a, .v b], writes := [.v d], lat := 1 } = false →
      issueHeld h { reads := [.v a, .v b], writes := [.v d], lat := 1 } = false → stallFault h [.v a, .v b] = true →
      stops (.iadd g d a b) 2)) ∧
  (∀ (s : State) (h : Here) (g : Guard) (d a : BitVec 7) (z k : BitVec 3),
    let va := rdV2 h.st a; let off := (rdV h.st a).toNat
    let sp (r w : List Reg) : WSpec := { reads := r, writes := w, lat := 0, fallible := true }
    let stops (i : Instr) (sp : WSpec) (cause : Nat) (x : BitVec 64) : Prop :=
      Issues s h g sp → exec i s = .next (stopHere s h (faultHere s h i cause x 0))
    let atom (i : Instr) (src dst : List Reg) : Prop := stops i (sp (pair a ++ src) dst) 7 va
    let scr (i : Instr) (r : List Reg) (cause : Nat) : Prop :=
      stops i { reads := [.v a] ++ r, writes := [.v d], lat := 0 } cause (BitVec.ofNat 64 off)
    let amos (cause : Nat) : Prop :=
      scr (.amosAdd g d a) [.v d] cause ∧ scr (.amosSub g d a) [.v d] cause ∧ scr (.amosMin g d a) [.v d] cause ∧
      scr (.amosMax g d a) [.v d] cause ∧ scr (.amosMinUns g d a) [.v d] cause ∧ scr (.amosMaxUns g d a) [.v d] cause ∧
      scr (.amosAnd g d a) [.v d] cause ∧ scr (.amosOr g d a) [.v d] cause ∧ scr (.amosXor g d a) [.v d] cause ∧
      scr (.amosSwp g d a) [.v d] cause ∧ scr (.amosCas g d a) (pair d) cause
    (va.toNat % sizeBytes z ≠ 0 → stops (.ldAcq g d a z k) (sp (pair a) (sizeRegs z d)) 7 va ∧
      stops (.ldoAcq g d a z k) (sp (pair a) (sizeRegs z d)) 7 va ∧
      stops (.stRel g d a z k) (sp (pair a ++ sizeRegs z d) []) 7 va) ∧
    (va.toNat % 4 ≠ 0 →
      atom (.amoAdd g d a k) [.v d] [.v d] ∧ atom (.amoSub g d a k) [.v d] [.v d] ∧ atom (.amoMin g d a k) [.v d] [.v d] ∧
      atom (.amoMax g d a k) [.v d] [.v d] ∧ atom (.amoMinUns g d a k) [.v d] [.v d] ∧ atom (.amoMaxUns g d a k) [.v d] [.v d] ∧
      atom (.amoAnd g d a k) [.v d] [.v d] ∧ atom (.amoOr g d a k) [.v d] [.v d] ∧ atom (.amoXor g d a k) [.v d] [.v d] ∧
      atom (.amoSwp g d a k) [.v d] [.v d] ∧ atom (.amoAddF g d a k) [.v d] [.v d] ∧ atom (.acas g d a k) (pair d) [.v d]) ∧
    (va.toNat % 8 ≠ 0 →
      atom (.amoAddD g d a k) (pair d) (pair d) ∧ atom (.amoSwpD g d a k) (pair d) (pair d) ∧ atom (.acasD g d a k) (quadruple d) (pair d)) ∧
    (scratchOk h.cord off (sizeBytes z) = false →
      stops (.lds g d a z) { reads := [.v a], writes := sizeRegs z d, lat := 0 } 8 (BitVec.ofNat 64 off) ∧
      stops (.sts g d a z) { reads := [.v a] ++ sizeRegs z d, writes := [], lat := 0 } 8 (BitVec.ofNat 64 off)) ∧
    (off % 4 ≠ 0 → amos 7) ∧ (off % 4 = 0 → scratchOk h.cord off 4 = false → amos 8)) ∧
  (∀ (s : State) (h : Here) (g : Guard) (a : BitVec 7),
    let other := ∀ q, namedSlot a h s = some q → q.state ≠ .reserved ∨ q.cord ≠ h.sel.cord ∨ q.lane ≠ some h.sel.lane
    let stops (i : Instr) : Prop := Issues s h g { reads := pair a } → exec i s = .next (stopHere s h (faultHere s h i 15 0 0))
    (other → hzClear h.now h.st = true → storesPerformed h = true → stops (.qcmt g a)) ∧
    (other → storesPerformed h = true → stops (.qdrop g a)) ∧
    (namedSlot a h s = none → storesPerformed h = true → loadsReturned h = true → stops (.qfree g a))) ∧
  (∀ (s : State) (h : Here) (g : Guard) (d a : BitVec 7),
    let ds := sRegs h.cord a 3; let n := sendLen ds; let e := addSize (sendType ds); let qs := sRegs h.cord a 4
    let stops (i : Instr) (k : Nat) (cause : Nat) (x : BitVec 64) : Prop :=
      counterFull h .fabric = false → Issues s h g { reads := descRegs a k, fallible := true } →
      exec i s = .next (stopHere s h (faultHere s h i cause x 0))
    let arms (cause : Nat) (x : BitVec 64) : Prop := Issues s h g { reads := descRegs a 4, writes := [.s (sReg d)] } →
      exec (.tsend g d a) s = .next (stopHere s h (faultHere s h (.tsend g d a) cause x 0))
    let out (xs : List (BitVec 64)) : Prop := scratchOk h.cord (dreg xs 0).toNat (sendLen xs) = false
    let sync := bitsOf (dreg ds 2) 0 19
    ((n = 0 ∨ 2 ^ 24 < n) → stops (.rsend g a) 3 19 0 ∧ stops (.rsendAdd g a) 3 19 0) ∧
    ((sendLen qs = 0 ∨ 2 ^ 24 < sendLen qs) → stops (.esend g a) 4 19 0 ∧ arms 19 0) ∧
    (0 < n → n ≤ 2 ^ 24 → n % e ≠ 0 → stops (.rsendAdd g a) 3 19 0) ∧
    (0 < sendLen qs → sendLen qs ≤ 2 ^ 24 → trigAdd qs = true → sendLen qs % addSize (sendType qs) ≠ 0 → arms 19 0) ∧
    (bitsOf (dreg ds 2) 52 12 = 0 → 0 < n → n ≤ 2 ^ 24 →
      (sendSsp ds = true → out ds → stops (.rsend g a) 3 8 (dreg ds 0)) ∧
      (sendType ds ≠ 3 → n % e = 0 →
        ((dreg ds 1).toNat % e ≠ 0 → stops (.rsendAdd g a) 3 7 (dreg ds 1)) ∧
        ((dreg ds 1).toNat % e = 0 → sendSsp ds = true → out ds → stops (.rsendAdd g a) 3 8 (dreg ds 0)))) ∧
    (bitsOf (dreg qs 3) 20 12 = 0 →
      (∀ f, sendFault h.cord (trigAdd qs) qs = some f → arms f.1 f.2) ∧
      (sendFault h.cord (trigAdd qs) qs = none →
        (trigOff qs % 16 ≠ 0 → arms 7 (BitVec.ofNat 64 (trigOff qs))) ∧
        (trigOff qs % 16 = 0 → scratchOk h.cord (trigOff qs) 16 = false → arms 8 (BitVec.ofNat 64 (trigOff qs))))) ∧
    (bitsOf (dreg qs 2) 55 9 = 0 → bitsOf (dreg qs 3) 35 29 = 0 → 0 < sendLen qs → sendLen qs ≤ 2 ^ 24 →
      (mget (ctxOf s h.cord.ctx).peers (esendPeer qs)).isSome = true →
      (esendOff qs % 2 ≠ 0 → stops (.esend g a) 4 7 (BitVec.ofNat 64 (esendOff qs))) ∧
      (esendOff qs % 2 = 0 → scratchOk h.cord (esendOff qs) (2 * esendSet qs) = false →
        stops (.esend g a) 4 8 (BitVec.ofNat 64 (esendOff qs))) ∧
      (esendOff qs % 2 = 0 → scratchOk h.cord (esendOff qs) (2 * esendSet qs) = true → (dreg qs 2).getLsbD 48 = true → out qs →
        stops (.esend g a) 4 8 (dreg qs 0))) ∧
    (bitsOf (dreg ds 1) 49 15 = 0 → bitsOf (dreg ds 2) 19 45 = 0 →
      (sync % 16 ≠ 0 → stops (.erecv g a) 3 7 (BitVec.ofNat 64 sync)) ∧
      (sync % 16 = 0 → scratchOk h.cord sync 16 = false → stops (.erecv g a) 3 8 (BitVec.ofNat 64 sync))))

/-- R68, R148, R241, R263, R264, R269, R281 to R288, R292, R348: the transitions of an issued access. a is the access; held back by R264 it
does not move; otherwise L1-READ, SEND, FILL, RELEASE, ACQUIRE, DROP and SETTLE do what their rules say. A refill that settles
sends its strand to the loaded address with bits 1:0 cleared, %csp rises by 8 and the wait of its ret ends; a fence or tkrel settles
once its steps are taken, and not before. What R350 holds of the release kinds (log 10), which words a FILL makes valid and that it need not
happen (log 16), the strands of one braid (log 17), what an acquire takes from a later FILL (log 71) and a load that was sent before an
older one (log 74) are the model's choices. -/
def Obligations.AccessTransitions : Prop :=
  ∀ (s : State) (k l u : Nat) (a : Acc), accOf s k l u = some a →
    let o := a.op; let c := a.cord; let core := coreIdOf c
    let plain := o.kind = .load ∨ o.kind = .refill
    let fate := accessFate s core c.ctx (needOf o.kind) o.va o.size
    let set (f : Op → Op) (s : State) : State := modOp s k l u f
    let settled := set (fun o => { o with state := .settled }) s
    let took (bs : List (BitVec 8)) : State :=
      let p := shareLoad s o.grp (opKeys s c o) bs
      mshrLeave (modOp p.2 k l u (fun o => { o with state := .performed, due := a.now, filled := true, got := (List.range o.size).zip p.1 })) c u
    let filled := set (fun o => { o with filled := true }) s
    (o.state = .unsent → kindSent o.kind = true → heldBack s l a = true →
      exec (.l1Read k l u) s = .next s ∧ exec (.send k l u) s = .next s) ∧
    (o.state = .unsent → plain → heldBack s l a = false → groupHeld s l a = false → dropBefore a = false →
      (∀ b ∈ matesOf s l a, dropBefore b = true → behindFailure b = true) → fate = none → tlbReady s c o = true →
      ∀ bs, l1Bytes (coreOfCord s c) (opKeys s c o) = some bs → exec (.l1Read k l u) s = .next (took bs)) ∧
    (o.state = .unsent → plain → (dropBefore a = true ∨ ∃ b ∈ matesOf s l a, dropBefore b = true ∧ behindFailure b = false) →
      exec (.l1Read k l u) s = .next s) ∧
    (o.state = .unsent → (loadTurn s a = true ∨ groupHeld s l a = true) → exec (.send k l u) s = .next s) ∧
    (o.state = .unsent → kindSent o.kind = true → heldBack s l a = false → groupHeld s l a = false → atomHeld s a = false →
      loadTurn s a = false → (o.kind = .atomic → o.rel = true) →
      (fate = none → tlbReady s c o = true → (plain → hitsL1 s c o.va o.size = false) →
        ((opKeys s c o).any (planeRetiring s c.dev) = false →
          exec (.send k l u) s = .next ((opPieces o).foldl (sendPiece k l a (wholeWords (opKeys s c o)))
            (modOp s k l u (fun o => { o with state := .sent, left := (opPieces o).length }))))) ∧
      (∀ f b, fate = some (f, b) → exec (.send k l u) s = .next (failOp (walkAccess s c o.va o.size) k l a f (BitVec.ofNat 64 b) 0))) ∧
    (o.state = .performed → plain → o.filled = false → o.na = false → behindFailure a = false →
      (unreadBefore s a ≠ [] → exec (.fill k l u) s = .next ((readPassed k l ((unreadBefore s a).map (·.uid))
        (l1Take filled c (hintEarly o.hint) o.line)).getD s))) ∧
    (o.state = .performed → plain → o.filled = false → o.na = false → behindFailure a = false → unreadBefore s a = [] →
      exec (.fill k l u) s = .next (l1Take filled c (hintEarly o.hint) o.line) ∧
      (∀ w, o.line = [w] → (coreOfCord s c).l1.length < 32768 →
        exec (.fill k l u) s = .next (modCoreOf filled c (fun co => { co with
          l1 := mset co.l1 w.1 w.2, early := co.early.filter (· != w.1) ++ (if hintEarly o.hint then [w.1] else []) })))) ∧
    (o.state = .unsent → kindReleases o.kind = true → o.kind ≠ .relStore → o.rel = false → heldBack s l a = false →
      (o.kind ≠ .tkrel → exec (.release k l u) s = .next (set (fun o => { o with rel := true }) (releaseStep s (partyOf c l)))) ∧
      (o.kind = .tkrel → let s' := walkFor (releaseStep s (partyOf c l)) core c.ctx o.va.toNat
        ∀ e, transOf s' core c.ctx o.va.toNat = some e →
        exec (.release k l u) s = .next (set (fun o => { o with rel := true })
          (giveUp s' (partyOf c l) (regionOf (entryKey e o.va.toNat)))))) ∧
    (mayAcquire a = true →
      exec (.acquire k l u) s = .next (set (fun o => { o with acq := true })
        (if 2 ≤ o.scope then forgetLines (dropL1 s core) core else s))) ∧
    (o.state = .unsent → heldBack s l a = false →
      (o.kind = .invl1All → exec (.drop k l u) s = .next (dropL1 settled core)) ∧
      (o.kind = .invl1 → let s' := walkFor settled core c.ctx o.va.toNat
        ∀ e, transOf s' core c.ctx o.va.toNat = some e →
        exec (.drop k l u) s = .next (dropRegion s' core (regionOf (entryKey e o.va.toNat))))) ∧
    (o.state = .performed → (o.kind = .store ∨ o.kind = .relStore ∨ o.kind = .spill) →
      exec (.settle k l u) s = .next (mshrLeave settled c u)) ∧
    (o.state = .performed → (loadSent o = true → unreadBefore s a = []) →
      (((o.kind = .load ∨ o.kind = .obs) ∧ arrivedLoad a = true ∨ o.kind = .acqLoad ∧ o.acq = true ∧ arrivedLoad a = true ∨
          o.kind = .atomic ∧ o.acq = true) →
        exec (.settle k l u) s = .next (mshrLeave (deliver settled k l o.uid (loadWrites o.szc o.dst (gotBytes o))) c u)) ∧
      (o.kind = .refill → arrivedLoad a = true →
        exec (.settle k l u) s = .next (mshrLeave (modStrand settled k l (fun st => { st with
          pc := wordAlign (BitVec.ofNat 64 (leNat (gotBytes o))), csp := st.csp + 8, wait := .none, ready := max st.ready (a.now + 1) })) c u) ∧
        ∃ t st, exec (.settle k l u) s = .next t ∧ strandOf t k l = some st ∧ st.wait = .none ∧ st.csp = a.st.csp + 8 ∧
          st.pc = (BitVec.ofNat 64 (leNat (gotBytes o))) &&& ~~~3#64)) ∧
    (o.state = .performed → loadSent o = true → unreadBefore s a ≠ [] → (plain ∨ o.kind = .obs) → arrivedLoad a = true →
      ∃ t st o', exec (.settle k l u) s = .next t ∧ t.mem = s.mem ∧ strandOf t k l = some st ∧ opOf st u = some o' ∧
        o' = { o with state := .unsent, left := 0, got := [], line := [], home := [] }) ∧
    (o.state = .unsent → (o.kind = .fenceAcq ∨ o.kind = .fenceRel ∨ o.kind = .fence ∨ o.kind = .tkrel) →
      let taken := (o.kind = .fenceAcq ∨ o.rel = true) ∧ (o.kind = .fenceRel ∨ o.kind = .tkrel ∨ o.acq = true)
      (taken → exec (.settle k l u) s = .next (mshrLeave settled c u)) ∧ (¬ taken → exec (.settle k l u) s = .next s))

/-- R239, R262, R263, R265, R267, R281 to R285, R388: the home performs the request at the head of its party's queue, with the other atomics
of its word, once every older request of a holder is done; one for another module leaves in a packet; and there is a fault where there
is no storage. A race joins the arbiter order, changes no byte and answers cause 12; a read answers the bytes at the home and changes none; a store
changes its own bytes, records its party as their holder and no other byte; an atomic answers the old bytes, and writes the
new ones unless an enabled flag is raised or its comparison fails. A load or store of one piece whose words the LLC holds is
performed, and its operation with it. The stop without storage (log 51), the strands of one braid (log 17), which stores a
release store marks (log 25), what a drain waits for (log 38) and how much of a split access one race refuses (log 97) are the model's choices. -/
def Obligations.HomePerforms : Prop :=
  ∀ (s : State) (r : Req),
    let free := (requestRace s r).1 = none
    let t := (performBytes s r).1; let y := (performBytes s r).2
    let old := r.addrs.map (readCell s.mem)
    let stored (bs : List (BitVec 8)) : Prop :=
      (∀ b, b ∉ r.addrs → readCell t.mem b = readCell s.mem b) ∧ ∀ i < r.addrs.length, ∀ b, r.addrs[i]? = some b → readCell t.mem b = bs.getD i 0
    let near := (∀ a ∈ r.addrs, keyDev a = r.core.dev) ∨ kindLoads r.kind = true ∧ ∀ a ∈ r.addrs, holderHas s r.core a = true
    let waits := s.arrivals.find? (·.uid == r.uid) = some r ∧ (∀ a ∈ r.addrs, (homeDie a).isSome = true) ∧ packetOf s r = none
    let ready := waits ∧ near ∧ (∀ q ∈ atomGroup s r, requestReady s q = true) ∧ drained s r = [] ∧ drainDone s r = true
    (s.arrivals.find? (·.uid == r.uid) = some r → (∃ a ∈ r.addrs, homeDie a = none) → exec (.perform r.uid) s = .fault .noStorage) ∧
    (ready → exec (.perform r.uid) s = .next (decideGroup s (atomGroup s r))) ∧
    (waits → near → (∃ q ∈ atomGroup s r, requestReady s q = false) → exec (.perform r.uid) s = .next s) ∧
    (waits → ¬ near → exec (.perform r.uid) s = .next (sendReq s r)) ∧
    (∀ q, raceOf s q = (q.addrs.zip q.offs).findSome? (fun p => (raceAt (tokenOf s p.1) q.kind q.party q.grp).map (fun d => (p.2, d)))) ∧
    (besideOf s r = [] → requestRace s r = (raceOf s r, s)) ∧
    (besideOf s r ≠ [] → (requestRace s r).2 = { s with choices := s.choices + 1 } ∧
      ((requestRace s r).1 = raceOf s r ∨ (requestRace s r).1 = (r :: besideOf s r).findSome? (raceOf s))) ∧
    (∀ o d, (requestRace s r).1 = some (o, d) →
      performBytes s r = (arbitrate (requestRace s r).2 r.kind (some r.party) r.addrs, ⟨12, o, d, [], 0, []⟩) ∧ t.mem = s.mem ∧ t.tokens = s.tokens) ∧
    (free → kindReads r.kind = true → r.kind ≠ .atomic → t.mem = s.mem ∧ t.tokens = s.tokens ∧
      ((∀ a ∈ r.addrs, poisoned t a = false) → y.cause = 0 ∧ ((∀ a ∈ r.addrs, loadSeen s r.grp a = none) → y.bytes = old))) ∧
    (Memory.wf s.mem → r.addrs.Nodup → free →
      ((r.kind = .store ∨ r.kind = .relStore ∨ r.kind = .spill) → r.data.length = r.addrs.length → stored r.data ∧
        ∀ a ∈ r.addrs, tokenOf t a = if r.kind = .relStore then ⟨none, .none, 0⟩ else ⟨some r.party, .unrel, r.grp⟩) ∧
      (∀ x, r.kind = .atomic → r.atom = some x → y.cause ≠ 11 →
        let n := atomNew x r.addrs.length (leNat old)
        (n.2 &&& x.en ≠ 0#5 → y.cause = 13 ∧ y.flags = n.2 ∧ t.mem = s.mem) ∧
        (n.2 &&& x.en = 0#5 → y.cause = 0 ∧ y.bytes = old ∧ y.flags = n.2 ∧
          (atomWrites x r.addrs.length (leNat old) n.2 = true → stored (leBytes r.addrs.length n.1)) ∧
          (atomWrites x r.addrs.length (leNat old) n.2 = false → t.mem = s.mem)))) ∧
    (∀ st o, ready → free → strandOf s r.cord r.lane = some st → opOf st r.op = some o → o.left = 1 → o.cause = 0 →
      frameFate s r.gen r.addrs = .perform → (∀ a ∈ r.addrs, llcHolds s a = true ∧ poisoned s a = false ∧ loadSeen s r.grp a = none) →
      let performed (u : State) (got : List (Nat × BitVec 8)) : Prop :=
        (∀ q ∈ u.arrivals, q.uid ≠ r.uid) ∧
        ∃ st' o', strandOf u r.cord r.lane = some st' ∧ opOf st' r.op = some o' ∧ o'.state = .performed ∧ o'.got = o.got ++ got
      ((r.kind = .load ∨ r.kind = .obs ∨ r.kind = .acqLoad ∨ r.kind = .refill) →
        ∃ u, exec (.perform r.uid) s = .next u ∧ u.mem = s.mem ∧ performed u (r.offs.zip old)) ∧
      ((r.kind = .store ∨ r.kind = .spill ∨ r.kind = .relStore) →
        ∃ u, exec (.perform r.uid) s = .next u ∧ u.mem = writeCells s.mem r.addrs r.data ∧ performed u []))

/-- R66, R67, R241, R243 to R245, R263, R275, R383, R388: a needed or asked-for instruction span is filled with the sixteen words at its
home, or asked for of another module; a data span a hint asked for goes into the LLC, or is dropped where it cannot be read; a TLB
miss takes the walk's translation; a shootdown leaves no translation of its context on any core; a migration marks the old
frame as moving once the requests to it are drained, copies the page, rewrites its leaf with the new generation and frees the old frame; an
L1 word may be evicted at any time. A walk or a fetch that meets a poisoned word (log 23), when a frame moved away becomes FREE (log 39) and the span a full
instruction cache gives up (log 88) are the model's choices. -/
def Obligations.TranslationEvents : Prop :=
  ∀ (s : State) (c : CoreId) (ctx : Nat) (va : BitVec 64) (m : Migration) (w : Nat),
    let base := va.toNat / 64 * 64
    let fresh := freshTrans s c ctx base
    let as := spanKeys fresh c ctx base
    let g := (frameOf s (m.old * 2 ^ 16)).gen
    let up (t : State) : State := { t with moves := t.moves.map (fun x => if x == m then { x with step := x.step + 1 } else x) }
    let held := frameMoving s c ctx base = true ∨ refreshing s (spanKeys s c ctx base) = true
    let wanted := spanNeeds s c ctx base ≠ [] ∨ spanAsked s c ctx base = true
    (held ∨ ¬ wanted → exec (.instructionFill c va ctx) s = .next s) ∧
    (¬ held → wanted →
      (∀ f, fetchFate fresh c ctx base = some f → exec (.instructionFill c va ctx) s = .next (fetchFails fresh c ctx base f 0)) ∧
      (∀ e, fetchFate fresh c ctx base = none → liveTrans fresh c ctx base = some e →
        ((∃ a ∈ as, nearByte fresh c e.gen a = false) → exec (.instructionFill c va ctx) s = .next (askSpan fresh c ctx base false)) ∧
        ((∀ a ∈ as, nearByte fresh c e.gen a = true) → exec (.instructionFill c va ctx) s =
          .next (fillSpan (readTouch (askDone fresh c ctx base) c 0 as) c ctx base (as.map (readCell s.mem)))) ∧
        ((mget s.modules c.dev).isSome = true → c.die < 4 → (∀ a ∈ as, nearByte fresh c e.gen a = true) →
          ∃ t, exec (.instructionFill c va ctx) s = .next t ∧ t.mem = s.mem ∧ t.cords = s.cords ∧
            ∀ i < 16, cachedWord (coreOf t c.dev c.die c.core) ctx (BitVec.ofNat 64 (base + 4 * i)) =
              some (BitVec.ofNat 32 (leNat (readMem s.mem (entryKey e base + 4 * i) 4)))))) ∧
    ((held → serveData c ctx base s = .next s) ∧
      (¬ held → (∀ e, liveTrans fresh c ctx base = some e → e.r = false) → serveData c ctx base s = .next (dataDone fresh c ctx base)) ∧
      (¬ held → ∀ e, liveTrans fresh c ctx base = some e → e.r = true →
        ((∃ a ∈ as, nearByte fresh c e.gen a = false) → serveData c ctx base s = .next (askSpan fresh c ctx base true)) ∧
        ((∀ a ∈ as, nearByte fresh c e.gen a = true) → serveData c ctx base s = .next (readTouch (dataDone fresh c ctx base) c 0 as)))) ∧
    (tlbFind (coreOf s c.dev c.die c.core) ctx va.toNat = none →
      (∀ e, walk s ctx c.dev va.toNat = some e →
        exec (.tableWalk c ctx va) s = .next (modCore (walkTouch s c ctx va.toNat) c.dev c.die c.core (tlbFill e))) ∧
      (walk s ctx c.dev va.toNat = none → exec (.tableWalk c ctx va) s = .next (walkTouch s c ctx va.toNat))) ∧
    (∃ t, exec (.tlbShootdown ctx) s = .next t ∧ t.mem = s.mem ∧
      ∀ x ∈ t.modules, ∀ d ∈ x.2.dies.toList, ∀ q ∈ d.cores, ∀ e ∈ q.2.tlb, e.ctx ≠ ctx) ∧
    (∀ old at_ e, s.moves = [] → leafOf s m.ctx (moveDev m.new_) m.va.toNat = some (at_, e, false) →
      old = byteKey (bitsOf e 46 10) (bitsOf e 22 24 * 2 ^ 16) / 2 ^ 16 → mayMove s m.ctx (moveDev m.new_) m.va.toNat old m.new_ e false = true →
      let first : Migration := ⟨m.ctx, m.va, old, m.new_, 0⟩
      exec (.migration m.ctx m.va m.new_) s = .next (moveHold first { s with moves := [first] }) ∧
      (s.arrivals = [] → exec (.migration m.ctx m.va m.new_) s =
        .next { modFrames s [old] (fun f => { f with state := .moving }) with moves := [{ first with step := 1 }] })) ∧
    (s.moves.find? (fun x => x.ctx == m.ctx && x.va == m.va && x.step < 4) = some m →
      (m.step = 0 → exec (.migration m.ctx m.va m.new_) s = .next (moveHold m s)) ∧
      (m.step = 1 → exec (.migration m.ctx m.va m.new_) s =
        .next (up (modFrames (copyFrame s m.old m.new_) [m.new_] (fun _ => ⟨g + 1, .valid, true⟩)))) ∧
      (m.step = 2 → ∀ at_ e big, leafOf s m.ctx (moveDev m.new_) m.va.toNat = some (at_, e, big) →
        exec (.migration m.ctx m.va m.new_) s = .next (up (setEntry s (moveDev m.new_) at_
          ((e &&& 0x00FFC000003FFFFF#64) ||| BitVec.ofNat 64 (m.new_ % 2 ^ 24 * 2 ^ 22) ||| (BitVec.ofNat 64 ((g + 1).toNat) <<< 56))))) ∧
      (m.step = 3 →
        let moved := up (modFrames s [m.old] (fun f => { f with gen := f.gen + 1, state := .moved }))
        exec (.migration m.ctx m.va m.new_) s = .next (advanced moved m.ctx [m.old]) ∧
        ((g + 1).toNat % 128 ≠ 0 → exec (.migration m.ctx m.va m.new_) s = .next moved))) ∧
    exec (.evict c w) s = .next (modCore s c.dev c.die c.core (fun x => { x with l1 := mdel x.l1 w }))

/-- R252 to R256, R425, R430: the base die serves the packets of a port, a WRITE after the older ones of its words, and a reply
frees its tag; a bank group enters its refresh window for 64 cycles, or 128 above 85 degrees, and leaves it when they are
over; a write window opens once no cord of its module leasing its pages is bound (log 93: the model's choice); a die's clock follows its sensors, and past the last row the module is
shut down at once, which is the model's choice (log 46). -/
def Obligations.DieEvents : Prop :=
  ∀ (s : State) (p : PortId) (tag dev die g win : Nat) (q : PPkt) (w : Window) (x : Sensors),
    let served (ws : List Nat) : State := modPort s p (fun x => { x with sent := x.sent.map (fun y =>
      if y.tag == tag then { y with served := true, poison := ws.any s.poison.contains } else y) })
    let d := dieOf s dev die; let bit : BitVec 8 := BitVec.ofNat 8 (2 ^ g); let part := (packetWords q).filter (fun w => !(wholeWords (q.bytes.map (·.1))).contains w)
    (portPacket s p tag = some q → q.read = true → q.served = false →
      exec (.readPacket p tag) s = .next (served (packetWords q))) ∧
    (portPacket s p tag = some q → q.read = false → q.served = false → olderWrite s p q = false →
      exec (.writePacket p tag) s = .next (served part)) ∧
    (portPacket s p tag = some q → q.served = true →
      exec (.portReply p tag) s = .next (modPort s p (fun x => portSend { x with sent := x.sent.filter (fun y => y.tag != tag) }))) ∧
    (g < 8 → d.refAct.getLsbD g = false → d.cyc % 4096 = 512 * g →
      exec (.refreshWindowStart dev die g) s = .next (modDie s dev die (fun d => { d with
        refAct := d.refAct ||| bit
        refLong := if 85 < d.sensors.baseT then d.refLong ||| bit else d.refLong &&& ~~~bit
        refEnd := d.refEnd.setIfInBounds g (d.cyc + if 85 < d.sensors.baseT then 128 else 64) }))) ∧
    (g < 8 → d.refAct.getLsbD g = true → d.refEnd[g]?.getD 0 ≤ d.cyc →
      exec (.refreshWindowEnd dev die g) s = .next (modDie s dev die (fun d => { d with refAct := d.refAct &&& ~~~bit }))) ∧
    ((mget s.modules dev).bind (fun m => m.windows.find? (fun w => w.id == win)) = some w → w.open_ = false → windowBusy s dev w = false →
      exec (.writeWindowOpens dev win) s = .next { s with modules := mmod s.modules dev (fun m =>
        { m with windows := m.windows.map (fun v => if v.id == win then { v with open_ := true } else v) }) }) ∧
    (x.macroT ≤ 115 → x.baseT ≤ 105 → d.clockAt = none →
      exec (.clockStep dev die x) s = .next (modDie s dev die (fun e => { e with
        sensors := x
        clock := clockNext d.clock x
        clockAt := if clockNext d.clock x == e.clock then e.clockAt else some s.wall }))) ∧
    ((115 < x.macroT ∨ 105 < x.baseT) → exec (.clockStep dev die x) s =
      .next (modModule (stopModule s dev) dev (fun m => { m with powered := false })) ∧
      ∀ m, mget s.modules dev = some m → ∃ t m', exec (.clockStep dev die x) s = .next t ∧ t.mem = s.mem ∧ mget t.modules dev = some m' ∧
        m'.started = false ∧ m'.powered = false ∧ m'.trained = m.trained ∧ ∀ p ∈ t.cords, p.2.dev ≠ dev)

/-- R296 to R300, R302, R306, R307, R309, R331 to R333, R388, R413: an engine operation whose turn has come starts with its strand's
release step, once the bytes it reads of other modules are fetched; a chunk of a copy moves its bytes, fetched in the same way, and credits
its sync word once its writes are acknowledged; a press or pressw fills its macro, or empties it where a read fails, and a cbld its table; a
pass starts with its staged rows and the scale bytes of its tile and macro, or joins the pass it is part of, and writes every
signer's accumulators when its rows have been broadcast; the oldest operation of a class retires once it has ended. That a chunk with a
failing byte writes nothing (log 19), when each byte is touched (log 95) and cause 12 of a cbld (log 96) are the model's choices. -/
def Obligations.EngineEvents : Prop :=
  ∀ (s : State) (k u n : Nat) (c : Cord) (e : EOp), mget s.cords k = some c → eopOf c u = some e →
    let now := cycOf s c.dev c.die; let co := coreOfCord s c
    let onCore := (mget s.modules c.dev).isSome = true ∧ c.die < 4
    let ends (t : State) (p : EOp → Prop) : Prop := ∃ c' e', mget t.cords k = some c' ∧ eopOf c' u = some e' ∧ p e'
    let turn := c.life = .running ∧ e.state = .waiting ∧ e.numbered = true ∧ strandReady c now e = true ∧ startTurn c e = true
    let begun := c.life = .running ∧ e.state = .reading
    let free := pieceBusy s k u 0 = false ∧ sendHeld s c e = false ∧ (startTouches e).any (fun va => engineWaits s c va true) = false
    let released := if e.after = u ∧ e.chunks = [] then releaseStep s (partyOf c e.lane) else s
    let starts (t : State) : Prop :=
      let t := engineTrans t c (startTouches e); let ms := missingBytes t c e (startTouches e)
      exec (.engineStart k u) s = .next (if ms = [] then startKind t k c e
        else askBytes (modEop t k u (fun e => { e with state := .reading })) k c e 0 ms)
    let is := chunkBytes e n; let srcs := chunkSources e is
    let trans := engineTrans (engineTrans s c srcs) c (chunkTargets e is)
    let read := engineTouch trans c e.hint srcs
    let moved := moveChunk read k c e n is
    let src (i : Nat) : BitVec 8 := match (copyByte e i).1 with
      | .scr o => byteAt co.scratch (scrBase c + o) | .lit b => b | .glob _ => 0
    let rows := (List.range (tileLines e.tile)).map (fun r => getBytes co.scratch (scrBase c + e.tile.base + r * e.tile.pitch) (lineBytes e.tile))
    let loads (t : State) (lines : List (List (BitVec 8))) : State := finishEop (modCoreOf t c (modMac c e.mac (fun y =>
      { y with cells := pressCells e.tile (pressTable e) lines, pos := pressPos e.tile lines, state := if youngerPress c e then y.state else 2 }))) k u
    let wide := (List.range (tileLines e.tile)).flatMap (fun r => (List.range (lineBytes e.tile)).map (presswAddr e r))
    let quiet (t : State) (vas : List Nat) := pieceBusy t k u 0 = false ∧ vas.any (fun va => engineWaits t c va true) = false
    (free → (turn → starts released) ∧ (begun → starts s)) ∧
    (turn → pieceBusy s k u 0 = false →
      (e.kind = .tcopy → e.chunks = [] → exec (.engineStart k u) s = .next (modEop released k u (fun _ =>
        { e with state := .started, chunks := List.replicate (chunkCount (copyBytes e)) 0 }))) ∧
      (e.kind = .press → e.tile.fmt ≠ 12#4 →
        exec (.engineStart k u) s = .next (modEop released k u (fun e => { e with state := .started, sa := [] })))) ∧
    (e.cls = .copy → e.state = .started → c.life = .running → pieceBusy s k u n = false →
      (e.chunks[n]? = some 3 → exec (.chunkCredit k u n) s = .next (creditChunk s k u n e is)) ∧
      (e.chunks[n]? = some 0 → chunkWaits s c e is = false → chunkPlanes s c e is = false →
        (missingBytes trans c e srcs ≠ [] → exec (.chunkCredit k u n) s = .next (askBytes trans k c e n (missingBytes trans c e srcs))) ∧
        (missingBytes trans c e srcs = [] →
          (∀ f, chunkFate read c e is = some f →
            exec (.chunkCredit k u n) s = .next (landPiece (dropGot read k u srcs) k u n f.1 f.2.1 f.2.2)) ∧
          (chunkFate read c e is = none →
            let t := dropGot moved.1 k u srcs
            (∀ a, moved.2 = some a → exec (.chunkCredit k u n) s = .next (landPiece t k u n 11 (chunkAddr t c e is a) 0)) ∧
            (moved.2 = none → exec (.chunkCredit k u n) s = .next (if pieceBusy t k u n then
                modEop t k u (fun e => { e with chunks := e.chunks.set n 3 }) else creditChunk t k u n e is)))) ∧
        (srcs = [] → chunkTargets e is = [] → e.bad = [] → copySync e = none → onCore →
          ∃ t, exec (.chunkCredit k u n) s = .next t ∧ t.mem = s.mem ∧ ends t (fun e' => e'.chunks = e.chunks.set n 1) ∧
            (coreOfCord t c).scratch = is.foldl (fun m i => match (copyByte e i).2 with
              | .scr o => mset m (scrBase c + o) (src i) | .glob _ | .lit _ => m) co.scratch))) ∧
    (∀ t : State, is.findSome? (fun i => (e.bad.find? (·.1 == i)).map (·.2)) = none → (copySync e = none → creditChunk t k u n e is = landPiece t k u n 0 0 0) ∧
      ∀ sw, copySync e = some sw → creditChunk t k u n e is =
        landPiece (creditAt t k sw is.length).1 k u n (if (creditAt t k sw is.length).2 then 0 else 14)
          (if (creditAt t k sw is.length).2 then 0 else BitVec.ofNat 64 sw) 0) ∧
    (∀ (t : State) f, is.findSome? (fun i => (e.bad.find? (·.1 == i)).map (·.2)) = some f →
      creditChunk t k u n e is = landPiece t k u n f.1 f.2.1 f.2.2) ∧
    (e.kind = .press → e.state = .started → pieceBusy s k u 0 = false →
      let st := if youngerPress c e then (macOf co c e.mac).state else 2
      exec (.pressComplete k u) s = .next (loads s rows) ∧
      (onCore → coreMac c e.mac < 8 → e.cause = 0 → e.bad = [] → ∃ t, exec (.pressComplete k u) s = .next t ∧ t.mem = s.mem ∧
        macOf (coreOfCord t c) c e.mac =
          { macOf co c e.mac with cells := pressCells e.tile (pressTable e) rows, pos := pressPos e.tile rows, state := st } ∧
        ends t (fun e' => e'.state = .complete))) ∧
    (e.kind = .pressw → e.state = .started → quiet (engineTrans s c wide) wide →
      let t := engineTrans s c wide; let ms := pressMissing t c e wide; let y := pressTouch t c wide
      (ms ≠ [] → exec (.pressComplete k u) s = .next (askBytes t k c e 0 ms)) ∧
      (ms = [] → pressFate y c e wide = none → exec (.pressComplete k u) s = .next (loads y ((List.range (tileLines e.tile)).map (fun r =>
        (List.range (lineBytes e.tile)).map (fun j => pressByte y c e (presswAddr e r j)))))) ∧
      (ms = [] → ∀ f, pressFate y c e wide = some f → exec (.pressComplete k u) s = .next (failEop (spoilProducts (modCoreOf y c
        (modMac c e.mac (fun m => { m with cells := [], pos := [], state := if youngerPress c e then m.state else 0 }))) k c e) k u f.1 f.2.1 f.2.2))) ∧
    (e.kind = .cbld → e.state = .started → quiet s (cbldAddrs e) →
      let t := engineTrans s c (cbldAddrs e); let ms := pressMissing t c e (cbldAddrs e); let y := engineTouch t c e.hint (cbldAddrs e)
      let words := (List.range 512).map (fun j => (j, BitVec.ofNat 16 (elemAt 16 ((cbldAddrs e).map (pressByte y c e)) j)))
      (ms ≠ [] → exec (.cbldComplete k u) s = .next (askBytes t k c e 0 ms)) ∧
      (ms = [] → ∀ f, pressFate y c e (cbldAddrs e) = some f → exec (.cbldComplete k u) s = .next (failEop y k u f.1 f.2.1 f.2.2)) ∧
      (ms = [] → pressFate y c e (cbldAddrs e) = none →
        exec (.cbldComplete k u) s = .next (finishEop (modCoreOf y c (fun co => { co with owner := some c.ctx, codebook := words })) k u) ∧
        (onCore → e.cause = 0 → e.bad = [] → ∃ t, exec (.cbldComplete k u) s = .next t ∧ (coreOfCord t c).owner = some c.ctx ∧
          (coreOfCord t c).codebook = words ∧ ends t (fun e' => e'.state = .complete)))) ∧
    (e.kind = .mma → e.state = .waiting → c.life = .running → strandReady c now e = true → productReady c e = true → e.cause = 0 →
      let scales (e : EOp) : EOp := { e with
        state := .started
        sa := getBytes (scaleOf co c e.tile.bk).bytes 0 (8 * e.rows)
        sb := getBytes (scaleOf co c e.kreg).bytes 0 1024 ++ getBytes (scaleOf co c (e.kreg + 1)).bytes 0 1024 }
      (passJoined s k c e = none → runningPasses s c now = [] → olderProduct s c e = false →
        exec (.passStart k u) s = .next (modEop
          (modCoreOf (releaseStep s (partyOf c e.lane)) c (fun x => { x with rowBuf := stageRows e c co.scratch })) k u
          (fun e' => { scales e' with sent := now, arow := stageRows e c co.scratch }))) ∧
      (∀ p, passJoined s k c e = some p → ∃ t, exec (.passStart k u) s = .next t ∧ t.mem = s.mem ∧
        ends t (fun e' => e' = { scales e with sent := p.sent, arow := p.arow }))) ∧
    (e.kind = .mma → e.state = .started → e.sent + passCycles e ≤ now → accPending c e = false → joinerWaits s k c now e = false →
      exec (.passWriteback k u) s = .next (modEop
        ((List.range 64).foldl (fun s l => if laneIn e.signers l then passDeliver s k c e l else s) s) k u
        (fun e => { e with state := .complete })) ∧
      ∃ t, exec (.passWriteback k u) s = .next t ∧ t.mem = s.mem ∧ ends t (fun e' => e'.state = .complete) ∧
        ∀ l < 64, ∀ st, laneIn e.signers l = true → mget c.strands l = some st → (passLane e c co st l).2 &&& enables st = 0#5 →
          ∃ st', strandOf t k l = some st' ∧ (∀ w ∈ (passLane e c co st l).1, ∃ q ∈ st'.pend, q.reg = w.1 ∧ q.val = w.2) ∧
            ∀ h ∈ st'.held, h.uid ≠ u) ∧
    (∀ cls, c.eops.find? (·.cls == cls) = some e → (e.state = .complete ∨ e.state = .failed) →
      exec (.engineRetire k cls) s = .next (modCord s k (fun c => { c with eops := c.eops.filter (·.uid != u) })))

/-- R352, R353, R356, R357, R359, R360: a failure or fault is recorded once the operations R352 and R353 wait for have settled,
and masks its strand off; in handler mode it is a context error. When every strand is masked off, blocked or ended, the
masked ones enter handler mode together, at the trap vector with HM set; under P2 the lowest runs and the others freeze;
without a vector the cord ends. -/
def Obligations.TrapEvents : Prop :=
  ∀ (s : State) (k l : Nat) (c : Cord) (st : Strand), mget s.cords k = some c →
    let now := cycOf s c.dev c.die
    let lead := (maskedLanes c).headD (0, startStrand 0 0 0 0)
    let pc := (lead.2.trap.map (·.pc)).getD 0
    let masked (t : State) (p : TrapRec → Prop) : Prop := ∃ st' r, strandOf t k l = some st' ∧ st'.mode = .masked ∧ st'.v = st.v ∧
      st'.preds = st.preds ∧ st'.fpf = st.fpf ∧ st'.trap = some r ∧ p r
    (mget c.strands l = some st → c.life = .running → recordWaits s k l c st = false →
      (∀ o os, failedOp now st = some (o, os) → failureSettled c now os = true →
        (st.mode = .running → exec (.failure k l) s = .next (recordFailure (abandonWaits s k l) k l) ∧
          ∃ t, exec (.failure k l) s = .next t ∧ t.mem = s.mem ∧ masked t (fun r => r.cause = BitVec.ofNat 32 o.cause ∧ r.pc = o.pc ∧
            r.word = o.word ∧ r.addr = o.addr ∧ r.detail = o.detail)) ∧
        (st.mode = .handler → exec (.failure k l) s = .next (contextError s c.ctx l c.node o.pc o.cause (coreIdOf c)))) ∧
      (∀ f, failedOp now st = none → st.fault = some f → hzClear now st = true →
        (st.mode = .running → exec (.failure k l) s = .next (recordFault (abandonWaits s k l) k l f) ∧
          ∃ t, exec (.failure k l) s = .next t ∧ t.mem = s.mem ∧ masked t (fun r => r.cause = BitVec.ofNat 32 f.cause ∧ r.pc = f.pc ∧
            r.word = f.word ∧ r.addr = f.addr ∧ r.detail = f.detail)) ∧
        (st.mode = .handler → exec (.failure k l) s = .next (contextError s c.ctx l c.node f.pc f.cause (coreIdOf c))))) ∧
    (takesTrap c = true → c.debug = false →
      (∀ v, (ctxOf s c.ctx).vector = some v → (maskedLanes c).all (fun p => !p.2.stat.getLsbD 2) = true →
        exec (.trapEntry k) s = .next (modCord s k (enterAll v now)) ∧
        ∃ t, exec (.trapEntry k) s = .next t ∧ t.mem = s.mem ∧ ∀ j x, mget c.strands j = some x → x.mode = .masked →
          ∃ x', strandOf t k j = some x' ∧ x'.mode = .handler ∧ x'.pc = v ∧ x'.stat = x.stat ||| 8#32 ∧ x'.v = x.v ∧ x'.trap = x.trap) ∧
      (∀ v, (ctxOf s c.ctx).vector = some v → (maskedLanes c).all (fun p => p.2.stat.getLsbD 2) = true →
        exec (.trapEntry k) s = .next (modCord s k (enterP2 v now lead.1))) ∧
      ((ctxOf s c.ctx).vector = none →
        exec (.trapEntry k) s = .next (fatalEnd s k lead.1 4 pc 0 ((lead.2.trap.map (·.cause.toNat)).getD 0))))

/-- R352, R354, R357, R358, R374: what taking a trap and returning from it leave of a strand: the record names the failed or
faulting word and where to resume; entering sets only the program counter, HM and what was pending; a return clears HM and
resumes at RESUME, and a rerun runs the listed words first. That the repetition to resume is kept beside REPLEFT is the model's choice
(log 11). -/
def Obligations.TrapAndReturnStrand : Prop :=
  ∀ (st : Strand) (c : Cord) (now : Nat) (v : BitVec 64) (f : PFault) (o : Op) (os : List Op) (r : TrapRec),
    let m := maskOff r st; let e := enterHandler v now false st
    let same (x : Strand) : Prop := x.v = st.v ∧ x.preds = st.preds ∧ x.rs = st.rs ∧ x.csp = st.csp ∧ x.fpf = st.fpf ∧ x.sync = st.sync ∧ x.next = st.next
    (same m ∧ m.mode = .masked ∧ m.trap = some r ∧ m.stat = st.stat ∧ hzClear now m = true) ∧
    (same e ∧ e.mode = .handler ∧ e.pc = v ∧ e.stat = st.stat ||| 8#32 ∧ e.trap = st.trap) ∧
    ((failureRecord c st now o os).cause = BitVec.ofNat 32 o.cause ∧ (failureRecord c st now o os).pc = o.pc ∧
      (failureRecord c st now o os).word = o.word ∧ (failureRecord c st now o os).addr = o.addr ∧
      (failureRecord c st now o os).detail = o.detail ∧ (st.resume = none → (failureRecord c st now o os).resume = st.pc)) ∧
    ((faultRecord st f).cause = BitVec.ofNat 32 f.cause ∧ (faultRecord st f).pc = f.pc ∧ (faultRecord st f).word = f.word ∧
      (faultRecord st f).addr = f.addr ∧ (faultRecord st f).detail = f.detail) ∧
    (st.trap = some r → ∀ b, (b = false ∨ rerunSeq r = []) →
      same (leaveHandler b now st) ∧ (leaveHandler b now st).mode = .running ∧ (leaveHandler b now st).pc = r.resume ∧
      (leaveHandler b now st).stat = st.stat &&& ~~~8#32 ∧ (leaveHandler b now st).hint = r.hint ∧
      (leaveHandler b now st).rep = r.rep) ∧
    (st.trap = some r → ∀ x xs, rerunSeq r = x :: xs →
      same (leaveHandler true now st) ∧ (leaveHandler true now st).rerun = x :: xs ∧
      (leaveHandler true now st).resume = some ⟨r.resume, r.rep, r.hint⟩)

/-- R57, R203, R207 to R215, R228, R252: a commit puts the record into its node's open batt, which closes at the batt size and is
READY from the threshold on; an expired timer closes it as a partial batt; a bind record is accepted or refused and reported;
a bound entry launches its batt or resumes its cord; a divide unit delivers its result. The code of a refusal (log 61), the name of a READY
batt and the slice a cord takes (log 14), and that a launch waits for a serial in use (log 83) and for a seed of a running graph (log 92) are the model's choices. -/
def Obligations.BindingEvents : Prop :=
  ∀ (s : State) (c : CoreId) (entry id now k l ctx graph node dev die : Nat) (b : BindRec) (q : Slot) (x : Context) (nd : NodeHdr) (w : Work)
    (ob : OpenBatt) (bt : Batt),
    let old := ((openOf x q.graph q.node q.dev q.die).map (·.slots)).getD []
    let n := old.length + 1
    let y := commitSlot id now q x
    let entryOf (t : State) : Option SlotEntry := (coreOf t c.dev c.die c.core).slots[entry]?
    let onCore := (mget s.modules c.dev).isSome = true ∧ c.die < 4
    let runs (t : State) (k : Nat) (p : Cord → Prop) : Prop := entryOf t = some (.running k) ∧ ∃ d, mget t.cords k = some d ∧ d.life = .running ∧ p d
    (nodeOf x q.graph q.node = some nd →
      (nd.batt ≤ n → y.batts = x.batts ++ [⟨id, q.graph, q.node, q.dev, q.die, old ++ [q.addr], now, false⟩] ∧
        openOf y q.graph q.node q.dev q.die = none) ∧
      (n < nd.batt → y.batts = x.batts ∧ ∃ o, openOf y q.graph q.node q.dev q.die = some o ∧ o.slots = old ++ [q.addr] ∧
        (nd.thresh ≤ n → o.ready.isSome = true))) ∧
    (openOf (ctxOf s ctx) graph node dev die = some ob → timerDue s ob (ctxOf s ctx) = true →
      exec (.battTimerExpiry ctx graph node dev die) s =
        .next (modCtx { s with uid := s.uid + 1 } ctx (closeBatt s.uid (cycOf s dev die) ob)) ∧
      ∃ t, exec (.battTimerExpiry ctx graph node dev die) s = .next t ∧ openOf (ctxOf t ctx) graph node dev die = none ∧
        (ctxOf t ctx).batts = (ctxOf s ctx).batts ++ [⟨s.uid, graph, node, dev, die, ob.slots, cycOf s dev die, false⟩]) ∧
    (bindReason s c entry b = 0 → workOf s c b = some w →
      exec (.bindRecord c entry b) s = .next (bindWork s c entry b w) ∧
      (onCore → ∃ t, exec (.bindRecord c entry b) s = .next t ∧ t.mem = s.mem ∧
        (∀ p, w.cord = some p → entryOf t = some (.bound b none (some p.1))) ∧
        (∀ z, w.cord = none → w.batt = some z → entryOf t = some (.bound b (some z.id) none)) ∧
        (w.cord = none → w.batt = none → entryOf t = some (.bound b (some s.uid) none)))) ∧
    (bindReason s c entry b ≠ 0 → exec (.bindRecord c entry b) s = .next (modDie s c.dev c.die (fun d =>
      { d with reports := d.reports ++ [(32 * c.core + entry, bindReason s c entry b)] }))) ∧
    (entryOf s = some (.bound b none (some k)) →
      exec (.launch c entry) s = .next (resumeCord s c entry b k) ∧
      ∀ p, mget s.cords k = some p → resident s p.ctx c.dev p.hdr.leases = true → seedsWait s p.ctx p.graph = false → p.life ≠ .saved →
        ∃ t, exec (.launch c entry) s = .next t ∧ t.mem = s.mem ∧
          runs t k (fun d => d.phase = p.phase ∧ d.core = c.core ∧ d.entry = entry ∧ d.bind = b ∧ d.lanes = p.lanes)) ∧
    (entryOf s = some (.bound b (some id) none) → (ctxOf s b.ctx.toNat).batts.find? (·.id == id) = some bt →
      exec (.launch c entry) s = .next (launchBatt s c entry b bt) ∧
      ∀ g h, graphOf (ctxOf s b.ctx.toNat) bt.graph = some g → battNode s b.ctx.toNat bt = some h → flushedFrom s b.ctx.toNat bt = none →
        let serial := (dieOf s c.dev c.die).serial
        resident s b.ctx.toNat c.dev h.leases = true → freeSlice s b.ctx.toNat bt.graph c.dev c.die < (allocOn g c.die).slices →
        seedsWait s b.ctx.toNat bt.graph = false → serialBusy s c.dev c.die serial = false →
        ∃ t, exec (.launch c entry) s = .next t ∧ runs t (cordKey c.dev c.die serial) (fun d => d.lanes = b.lanes ∧ d.hdr = h ∧ d.phase = 0 ∧
          d.batt.id = bt.id ∧ d.batt.slots = bt.slots ∧ ∀ p ∈ d.strands, p.2.pc = wordAlign h.entry ∧ p.2.mode = .running)) ∧
    (∀ st z zs, strandOf s k l = some st → st.divs = z :: zs → divTurn s k l z.uid = true →
      ((opOf st z.uid).all (fun o => o.flags == 0#5) = true → ∃ t st', exec (.divideResult k l) s = .next t ∧ t.mem = s.mem ∧
        strandOf t k l = some st' ∧ st'.divs = zs ∧ (∃ p ∈ st'.pend, p.reg = .v z.d ∧ p.val = z.val.zeroExtend 64) ∧
        ∀ r ∈ st'.held, r.uid ≠ z.uid) ∧
      (∀ o, opOf st z.uid = some o → o.flags ≠ 0#5 → ∃ t st' o', exec (.divideResult k l) s = .next t ∧ t.mem = s.mem ∧
        strandOf t k l = some st' ∧ st'.divs = zs ∧ st'.pend = st.pend ∧ opOf st' z.uid = some o' ∧ o'.state = .failed))

/-- R176 to R178, R361 to R365, R373, R424: a phase whose members have all arrived and whose operations are done writes its phase
record and queues the next phase; a pre-emption picks its method, a drain past its limit becomes a save, a flush gives the
phase up, a save writes the save area, and a restore binds a saved cord and resumes it. The place of the record and the save area
(log 13), the layout of macros in a save area (log 22), the copies a save quiesces (log 42), the L1 of the new core (log 84), the time of a flushed phase
(log 90) and what waits for a seed of a running graph (log 92) are the model's choices. -/
def Obligations.CordEvents : Prop :=
  ∀ (s : State) (k : Nat) (c : Cord), mget s.cords k = some c →
    let im := imageOf s c
    (phaseDone s c = true → ∃ t d, exec (.phaseEnd k) s = .next t ∧ mget t.cords k = some d ∧ d.phase = c.phase + 1 ∧ d.life = .queued ∧
      d.insts = [] ∧ d.preempt = none ∧
      t.mem = writeMem s.mem (byteKey c.dev (recordAddr c)) (phaseRecord { c with phase := c.phase + 1 })) ∧
    (c.life = .running → c.preempt = none → exec (.preempt k) s = .next (modCord s k (fun c =>
      { c with preempt := some (preemptMethod c), drainAt := s.wall }))) ∧
    (c.preempt = some .drain → c.drainAt + ((mget s.modules c.dev).map (·.drainLimit)).getD 0 ≤ s.wall →
      exec (.drainLimitExpiry k) s = .next (modCord s k (fun c => { c with preempt := some .save }))) ∧
    (flushable s k c = true → ∃ t d, exec (.flush k) s = .next t ∧ mget t.cords k = some d ∧ d.life = .flushed ∧ d.preempt = none ∧
      d.eops = [] ∧ d.insts = [] ∧ t.mem = s.mem ∧ ∀ p ∈ d.strands, p.2.ops = [] ∧ p.2.held = [] ∧ p.2.pend = []) ∧
    (savable s k c = true → ∃ t d, exec (.save k) s = .next t ∧ mget t.cords k = some d ∧ d.life = .saved ∧ d.image = some im ∧
      t.mem = writeMem s.mem (byteKey c.dev (saveAddr c)) (saveArea s c im)) ∧
    (∀ (core : CoreId) (entry : Nat) (b : BindRec) (w : Work), bindReason s core entry b = 0 → workOf s core b = some w →
      w.cord = some (k, c) → c.life = .saved →
      exec (.restore core entry b) s = .next (resumeCord (bindWork s core entry b w) core entry b k) ∧
      ((mget s.modules core.dev).isSome = true → core.die < 4 → resident s c.ctx core.dev c.hdr.leases = true → seedsWait s c.ctx c.graph = false → c.debug = false →
        (ctxOf s c.ctx).landings.filter (fun l => l.cord == k) = [] → armedSends c = [] →
        ∃ t d, exec (.restore core entry b) s = .next t ∧ t.mem = s.mem ∧
          (coreOf t core.dev core.die core.core).slots[entry]? = some (.running k) ∧ mget t.cords k = some d ∧ d.life = .running ∧
          d.strands = c.strands ∧ d.u = c.u ∧ d.tiles = c.tiles ∧ d.conv = c.conv ∧ d.eops = c.eops ∧ d.trig = c.trig ∧
          d.phase = c.phase ∧ d.image = none))

/-- R66, R67, R298, R384, R388, R391 to R396, R398, R402, R403, R408 to R411, R415: packets. A request, an engine request, a span's request
or an arrival that may be delivered stands at its target station; there it is performed and answered, or waits, and an export violation is a
fatal miss; the answer settles its operation, or brings it its bytes. A stomped packet places
nothing; one unanswered at its timeout is resent once and then fails with cause 21. An esend packet is placed once and credited, and
its acknowledgement updates its path. The right a landing needs (log 43), when the timer of a packet fires beyond its limit (log 37), what a drain
waits for (log 38), a lost request of a span (log 70), what a fatal miss of an ended cord names (log 76) and which cause an old frame of an Ethernet landing
gives (log 99) are the model's choices. -/
def Obligations.PacketEvents : Prop :=
  ∀ (s : State) (n : Nat) (p : Packet), packetAt s n = some p →
    let answered (t : State) (y : Reply) : Prop := ∃ p', packetAt t n = some p' ∧ p'.reached = true ∧ p'.answer = some y
    let opEnds (t : State) (r : Req) (q : Op → Prop) : Prop :=
      ∃ st' o', strandOf t r.cord r.lane = some st' ∧ opOf st' r.op = some o' ∧ q o'
    let s' := reachStation s p
    (deliverable s p = false → exec (.remoteRequest n) s = .next s) ∧
    (∀ q r, p.payload = .req q → s'.arrivals.find? (·.uid == q.uid) = some r → deliverable s p = true →
      (missAt s' p (needOf r.kind) r.addrs = none →
        exec (.remoteRequest n) s = .next (performGroup s' r) ∧
        (r.kind ≠ .atomic → (packetOf s' r).map (·.id) = some n → requestReady s' r = true → drained s' r = [] → drainDone s' r = true →
          frameFate s' r.gen r.addrs = .perform → p.id = n → s'.arrivals ≠ [] →
          let x := performBytes { s' with arrivals := s'.arrivals.filter (·.uid != r.uid) } r
          ∃ t, exec (.remoteRequest n) s = .next t ∧ t.mem = x.1.mem ∧ t.tokens = x.1.tokens ∧ answered t x.2)) ∧
      (∀ a, missAt s' p (needOf r.kind) r.addrs = some a → queueHead s' r = true → groupMissing s' r = false →
        exec (.remoteRequest n) s = .next (fatalMiss s' p p.pc a))) ∧
    (∀ vas as data write g got c, p.payload = .engine vas as data write g got → mget s.cords p.cord = some c → deliverable s p = true →
      let hint := (eopOf c p.op).elim 0 (·.hint)
      let waits := arrivalTurn s' p as = false ∨ write = false ∧ refreshing s' as = true ∨ write = true ∧ holderHangs s' p.src as = true
      (waits → exec (.remoteRequest n) s = .next s') ∧
      (¬ waits → ∀ a, missAt s' p (engineNeed write) as = some a →
        exec (.remoteRequest n) s = .next (fatalMiss s' p p.pc a)) ∧
      (¬ waits → missAt s' p (engineNeed write) as = none → frameFate s' g as = .perform →
        (write = true → let x := engineWrite s' p.src hint (as.zip data)
          exec (.remoteRequest n) s = .next (answerPacket x.1 p
            (match x.2 with | none => okReply [] | some a => failReply 11 ((as.idxOf? a).getD 0) 0))) ∧
        (write = false → let x := readFor s' p ((eopOf c p.op).any (·.kind == .pressw)) hint vas as
          exec (.remoteRequest n) s = .next (answerPacket
            (modPacket x.1 p.id (fun p => { p with payload := .engine vas as data write g x.2 })) p (okReply []))))) ∧
    (∀ base as g data, p.payload = .fetch base as g data → deliverable s p = true →
      missAt s' p (if data then { r := true } else { x := true }) as = none → frameFate s' g as = .perform → refreshing s' as = false →
      exec (.remoteRequest n) s = .next (answerPacket (readTouch s' p.src 0 as) p (okReply (as.map (readCell s'.mem))))) ∧
    (∀ as data va g tag ty ftz en c, p.payload = .arrival as data va g tag ty ftz en → mget s.cords p.cord = some c →
      deliverable s p = true →
      (arrivalTurn s' p as = false ∨ holderHangs s' p.src as = true → exec (.fabricArrival n) s = .next s') ∧
      (arrivalTurn s' p as = true → holderHangs s' p.src as = false →
        (∀ a, missAt s' p (sendNeed ty.isSome) as = some a →
          exec (.fabricArrival n) s = .next (fatalMiss s' p p.pc a)) ∧
        (missAt s' p (sendNeed ty.isSome) as = none → frameFate s' g as = .perform →
          let x := performArrival s' p.src ((eopOf c p.op).elim 0 (·.hint)) as data ty ftz en
          (∀ t, tag = some t → landingTakes s' p.ctx p.dst t false as = false →
            exec (.fabricArrival n) s = .next (answerPacket s' p (failReply 21 0 (deliveryDetail p.dst false false true)))) ∧
          ((∀ t, tag = some t → landingTakes s' p.ctx p.dst t false as = true) →
            exec (.fabricArrival n) s =
              let y := creditArrival x.1 p.ctx p.dst tag as.length x.2
              .next (answerPacket y.1 p y.2)) ∧
          (tag = none → p.id = n → ∃ t, exec (.fabricArrival n) s = .next t ∧ t.mem = x.1.mem ∧ t.tokens = x.1.tokens ∧ answered t x.2)))) ∧
    (∀ y, p.answer = some y → pathUp s p = true →
      (∀ r, p.payload = .req r →
        exec (.acknowledgement n) s = .next (applyReply (dropPacket s p) r y) ∧
        (∀ st o, strandOf s r.cord r.lane = some st → opOf st r.op = some o → o.left = 1 → o.cause = 0 →
          ∃ t, exec (.acknowledgement n) s = .next t ∧ t.mem = s.mem ∧ packetAt t n = none ∧
            (y.cause = 0 → opEnds t r (fun o' => o'.state = .performed ∧ o'.got = o.got ++ r.offs.zip y.bytes)) ∧
            (y.cause ≠ 0 → opEnds t r (fun o' => o'.state = .failed ∧ o'.cause = y.cause ∧ o'.detail = y.detail)))) ∧
      (∀ vas as data write g got, p.payload = .engine vas as data write g got →
        exec (.acknowledgement n) s = .next (noteEngine (dropPacket s p) p write [vas.getD y.off 0] got y.cause y.detail)) ∧
      (∀ base as g data, p.payload = .fetch base as g data → exec (.acknowledgement n) s = .next (
        if data then dataDone (dropPacket s p) p.src p.ctx base
        else fillSpan (askDone (dropPacket s p) p.src p.ctx base) p.src p.ctx base y.bytes)) ∧
      (∀ as data va g tag ty ftz en, p.payload = .arrival as data va g tag ty ftz en →
        exec (.acknowledgement n) s = .next (settlePiece (dropPacket s p) p y (arrivalAddr va y)) ∧
        (∀ c e, mget s.cords p.cord = some c → eopOf c p.op = some e → ∃ t c' e', exec (.acknowledgement n) s = .next t ∧
          packetAt t n = none ∧ mget t.cords p.cord = some c' ∧ eopOf c' p.op = some e' ∧
          e'.chunks = e.chunks.set p.chunk (if y.cause = 0 then 1 else 2)))) ∧
    (remotePkt p = true → (∀ d o t e x, p.payload ≠ .ether d o t e x) →
      (timedOut s p = false → exec (.endToEndTimeout n) s = .next s) ∧
      (timedOut s p = true → p.resent = false → exec (.endToEndTimeout n) s =
        .next (modPacket s n (fun p => { p with resent := true, stomped := false, since := s.wall, spent := 0 }))) ∧
      (timedOut s p = true → p.resent = true →
        (p.reached = false → exec (.endToEndTimeout n) s = .next ((p :: waitingBehind s p).foldl (fun s q => failPacket s false q) s)) ∧
        (p.reached = true → exec (.endToEndTimeout n) s = .next (failPacket s false p) ∧
          ∀ r st o, p.payload = .req r → strandOf s r.cord r.lane = some st → opOf st r.op = some o → o.left = 1 → o.cause = 0 →
            ∃ t, exec (.endToEndTimeout n) s = .next t ∧ t.mem = s.mem ∧ packetAt t n = none ∧
              opEnds t r (fun o' => o'.state = .failed ∧ o'.cause = 21 ∧ o'.detail = deliveryDetail p.dst true false false)))) ∧
    exec (.stompedPacket n) s = .next (modPacket s n (fun p => if remotePkt p && !p.reached then { p with stomped := true } else p)) ∧
    (∀ data off tag ent peer, p.payload = .ether data off tag ent peer →
      (p.reached = false → etherUp s p.src.dev p.src.die = true → etherUp s p.dst p.dstDie = true →
        (∀ l ks, landingOf (ctxOf s p.ctx) p.dst tag = some l → etherKeys s p.ctx p.dst l off data.length = some ks →
          let as := ks.map (·.1)
          as.any (fun a => (frameOf s a).state == .moving) = false → holderHangs s ⟨p.dst, p.dstDie, 0⟩ as = false →
          landingTakes s p.ctx p.dst tag true as = true →
          (ks.all (·.2) = true → etherOld s p.ctx p.dst l off data.length = none → exec (.ethernetPacket n) s =
            let x := performArrival s ⟨p.dst, p.dstDie, 0⟩ 0 as data none false 0
            let y := creditArrival x.1 p.ctx p.dst (some tag) data.length (etherReply l off x.2)
            .next (modPacket y.1 n (fun p => { p with reached := true, answer := some y.2 }))) ∧
          (∀ i, ks.findIdx? (!·.2) = some i → ∃ t, exec (.ethernetPacket n) s = .next t ∧ t.mem = s.mem ∧
            answered t (etherReply l off (failReply 10 i 0))) ∧
          (∀ i, ks.all (·.2) = true → etherOld s p.ctx p.dst l off data.length = some i → ∃ t, exec (.ethernetPacket n) s = .next t ∧
            t.mem = s.mem ∧ answered t (etherReply l off (failReply 9 i 0)))) ∧
        (landingOf (ctxOf s p.ctx) p.dst tag = none → ∃ t, exec (.ethernetPacket n) s = .next t ∧ t.mem = s.mem ∧
          answered t (failReply 21 0 (deliveryDetail p.dst false false true)))) ∧
      (∀ a, pathKey s p.ctx p.src.dev p.src.die ent = some a →
        exec (.transportRetransmission n) s =
          .next (modPacket (setPath s a 3 ((pathField s a 3 + 1) % 2 ^ 32)) n (fun p => { p with resent := true })) ∧
        (∀ y cwnd srtt, p.answer = some y →
          exec (.transportAcknowledgement n cwnd srtt) s =
            .next (settlePiece (dropPacket (setPath (setPath s a 1 (cwnd % 2 ^ 32)) a 2 (srtt % 2 ^ 32)) p) p y
              (if y.cause == 14 || (9 ≤ y.cause && y.cause ≤ 12) then BitVec.ofNat 64 y.off else 0)) ∧
          (∀ c e, mget s.cords p.cord = some c → eopOf c p.op = some e → ∃ t c' e',
            exec (.transportAcknowledgement n cwnd srtt) s = .next t ∧ packetAt t n = none ∧
            t.mem = writeMem (writeMem s.mem (a + 4) (leBytes 4 (cwnd % 2 ^ 32))) (a + 8) (leBytes 4 (srtt % 2 ^ 32)) ∧
            mget t.cords p.cord = some c' ∧ eopOf c' p.op = some e' ∧ e'.chunks = e.chunks.set p.chunk (if y.cause = 0 then 1 else 2)))))

/-- R385, R391 to R393, R395, R402, R415: links and endpoints. A station retrains, returns, or is declared down at the limit,
which fails its unacknowledged operations with cause 21 and cuts off the holders beyond it; a plane first takes no new request and is
retired once its requests have settled; a replay drops what has arrived, and a credit frees a receive slot; an esend takes the first
path with room, or fails at the retry limit. A link whose module has not started does not return (log 46), and a packet counts as one flit
of a replay buffer (log 66): both are the model's choices. -/
def Obligations.LinkEvents : Prop :=
  ∀ (s : State) (dev st ctx plane k u i j : Nat) (c : Cord) (e : EOp) (peer : Peer) (m : Module),
    let t := stationOf s dev st
    let here := mget s.modules dev = some m ∧ st < 16
    let down : State := modStation s dev st (fun t => { t with link := .down })
    let lost := s.packets.filter (fun p => remotePkt p && p.plane == st && (p.src.dev == dev || p.dst == dev) && !etherPkt p)
    let used := (mget t.inUse ctx).getD 0; let busy := slotsHeld s dev st ctx
    let bit : BitVec 16 := BitVec.ofNat 16 (2 ^ plane)
    let data := (e.sa.drop (4096 * i)).take 4096
    let spot := (e.sprayK + j) % e.spray.length; let x := e.spray.getD spot 0
    let mine := s.packets.filter (fun p => p.cord == k && p.op == u)
    exec (.linkRetrain dev st) s =
      .next (retime s (modStation s dev st (fun t => if t.link == .up then { t with link := .retrain, leftAt := s.wall } else t))) ∧
    (here → t.link = .up → ∃ y, exec (.linkRetrain dev st) s = .next y ∧ y.mem = s.mem ∧ (stationOf y dev st).link = .retrain ∧
      (stationOf y dev st).leftAt = s.wall) ∧
    (here → (m.started = true → exec (.linkReturn dev st) s = .next (retime s (modStation s dev st (fun t => { t with link := .up }))) ∧
        ∃ y, exec (.linkReturn dev st) s = .next y ∧ y.mem = s.mem ∧ (stationOf y dev st).link = .up) ∧
      (m.started = false → exec (.linkReturn dev st) s = .next s)) ∧
    (t.link ≠ .up → t.leftAt + ((mget s.modules dev).map (·.linkLimit)).getD 0 ≤ s.wall →
      exec (.linkDownDeclared dev st) s = .next (lost.foldl (fun s p => failPacket s true p)
        { down with directory := down.directory.filter (fun d => !holderOn down dev st d) }) ∧
      (here → ∃ y, exec (.linkDownDeclared dev st) s = .next y ∧ y.mem = s.mem ∧ (stationOf y dev st).link = .down ∧
        ∀ p ∈ y.packets, ∀ q ∈ lost, p.id ≠ q.id)) ∧
    (mget s.modules dev = some m → plane < 16 →
      (m.retiring.getLsbD plane = false → exec (.planeRetire dev plane) s =
        .next { s with modules := mmod s.modules dev (fun m => { m with retiring := m.retiring ||| bit }) }) ∧
      (m.retiring.getLsbD plane = true → planeBusy s dev plane = true → exec (.planeRetire dev plane) s = .next s) ∧
      (m.retiring.getLsbD plane = true → planeBusy s dev plane = false →
        exec (.planeRetire dev plane) s = .next { s with modules := mmod s.modules dev (fun m =>
          { m with planes := m.planes.map (fun q => if q == plane then nextPlane m plane else q), retiring := m.retiring &&& ~~~bit }) })) ∧
    exec (.linkLevelReplay dev st) s = .next (retime s (fillReplay
      (modStation s dev st (fun t => { t with replay := t.replay.filter (fun n => (packetAt s n).any (fun p => !p.reached)) })) dev st)) ∧
    (∃ y, exec (.linkLevelReplay dev st) s = .next y ∧ y.mem = s.mem ∧ (stationOf y dev st).link = t.link ∧
      ∀ n ∈ (stationOf y dev st).replay, ∃ p ∈ s.packets, p.id = n ∧ p.reached = false) ∧
    (used ≤ busy → exec (.linkCreditReturn dev st ctx) s = .next s) ∧
    (busy < used → exec (.linkCreditReturn dev st ctx) s = .next (retime s (modStation s dev st (fun t => { t with inUse := mmod t.inUse ctx (· - 1) })))) ∧
    (∀ v, here → mget t.inUse ctx = some v → busy < v → ∃ y, exec (.linkCreditReturn dev st ctx) s = .next y ∧ y.mem = s.mem ∧
      mget (stationOf y dev st).inUse ctx = some (v - 1)) ∧
    (mget s.cords k = some c → eopOf c u = some e → e.kind = .esend → e.state = .started →
      (etherUp s c.dev c.die = true → e.chunks.idxOf? 3 = some i → sprayStep s c e data.length = some j →
        mget (ctxOf s c.ctx).peers (esendPeer e.desc) = some peer →
        ∃ t' p, exec (.sprayPacketSend k u) s = .next t' ∧ t'.packets = s.packets ++ [p] ∧ p.dst = peer.dev ∧ p.dstDie = peer.die ∧
          p.chunk = i ∧ p.payload = .ether data ((dreg e.desc 1).toNat + 4096 * i) (bitsOf (dreg e.desc 2) 32 16) x (esendPeer e.desc)) ∧
      (mine ≠ [] → exec (.esendRetryLimit k u) s = .next (failEop (mine.foldl dropPacket s) k u 21 0
          (deliveryDetail ((mine.map (·.dst)).headD 0) (mine.any (·.reached)) false false)) ∧
        ∃ y c' e', exec (.esendRetryLimit k u) s = .next y ∧ y.mem = s.mem ∧ mget y.cords k = some c' ∧ eopOf c' u = some e' ∧
          e'.state = .failed ∧ e'.cause = 21))

/-- R17, R421 to R423, R239, R382, R403: a cold start runs its steps in order and stops at one that fails, with nothing of the module left;
a warm start keeps the weight store, the link training and the settings, and without power, training or a number the start runs cold; a module
with no number keeps its count of failed starts and joins the pod as one succeeds; a new context gets empty tables and its path page, read-only and pinned. What reads as 0 and the registers no rule resets (logs 1, 5, 6), the
first window and the tables' place (logs 11, 15), what a stop ends (log 46) and the number a module has (log 63) are the model's choices. -/
def Obligations.StartEvents : Prop :=
  (∀ (s : State) (dev : Nat) (fail : Option Nat), 1024 ≤ dev → exec (.coldStart dev fail) s = .next s) ∧
  ∀ (s : State) (dev : Nat) (fail : Option Nat) (x : CtxSpec), dev < 1024 →
    let m : Module := (mget s.modules dev).getD { Module.reset dev with
      joined := false, started := false, stations := Vector.replicate 16 ⟨.down, 0, [], []⟩ }
    let held : Module := { m with
      started := false
      dies := Vector.replicate 4 Die.reset
      stations := m.stations.map (fun t => if t.link == .up then ⟨.retrain, s.wall, [], []⟩ else ⟨t.link, t.leftAt, [], []⟩)
      ether := Vector.replicate 4 .retrain
      retiring := 0
      exports := []
      windows := [] }
    let gone (b : Nat) : Bool := keyDev b == dev && (!isWeight b || fail.all (fun k => decide (4 < k)))
    (∃ t, exec (.coldStart dev fail) s = .next t ∧
      (∀ b, readCell t.mem b = if gone b then 0#8 else readCell s.mem b) ∧
      (fail = none → mget t.modules dev = some { Module.reset m.dev with image := if 3 ≤ m.fails then 2 else 1 }) ∧
      (∀ k, fail = some k → mget t.modules dev = some { held with
        powered := true
        image := if 3 ≤ m.fails then 2 else 1
        trained := decide (6 < k)
        cleared := decide (4 < k)
        fails := min 3 (m.fails + 1) }) ∧
      t.pod = (if fail = none ∧ m.joined = false then s.pod + 1 else s.pod) ∧
      (∀ p ∈ s.packets, p.dst = dev → p.src.dev ≠ dev → p.answer = none → ∃ q ∈ t.packets, q.id = p.id ∧ q.reached = false ∧ q.been = p.been) ∧
      (∀ r ∈ s.arrivals, r.core.dev ≠ dev → r ∈ t.arrivals) ∧
      (∀ p ∈ t.cords, p.2.dev ≠ dev) ∧ (∀ r ∈ t.rings, r.id.dev ≠ dev) ∧ ∀ p ∈ t.packets, p.src.dev ≠ dev) ∧
    ((mget s.modules dev).isSome = true → (m.powered = false ∨ m.trained = false ∨ m.joined = false) →
      exec (.warmStart dev) s = exec (.coldStart dev none) s) ∧
    ((mget s.modules dev).isSome = true → m.powered = true → m.trained = true → m.joined = true → ∃ t, exec (.warmStart dev) s = .next t ∧
      (∀ b, readCell t.mem b = if keyDev b == dev && !isWeight b then 0#8 else readCell s.mem b) ∧
      mget t.modules dev = some { held with
        started := true
        image := if 3 ≤ m.fails then 2 else 1
        fails := 0
        stations := Vector.replicate 16 ⟨.up, 0, [], []⟩
        ether := Vector.replicate 4 .up } ∧
      ∀ p ∈ t.cords, p.2.dev ≠ dev) ∧
    (x.num < 65536 → mget s.contexts x.num = none → x.mods.all (specOk s x) = true →
      let new : Context := { blankCtx with
        num := x.num
        roots := x.mods
        room := x.room.foldl (fun m r => mset m r.1 r.2) []
        pathVa := x.path
        owned := x.owned
        grant := x.grant }
      exec (.contextCreation x) s = .next (x.mods.foldl (fun s m =>
        let f := byteKey m.1 m.2.2 / 2 ^ 16
        let g := (frameOf s (f * 2 ^ 16)).gen
        let s := validate (clearFrame (clearFrame s (byteKey m.1 m.2.1 / 2 ^ 16)) f) [f] g
        (putLeaf s x.num m.1 (x.path.toNat % 2 ^ 48 / 2 ^ 16 * 2 ^ 16) false
          (BitVec.ofNat 64 (m.1 * 2 ^ 46 + m.2.2 / 2 ^ 16 * 2 ^ 22 + 0x107) + (g.zeroExtend 64 <<< 56))).getD s)
        { s with contexts := mset s.contexts x.num new }) ∧
      ∃ t cx, exec (.contextCreation x) s = .next t ∧ mget t.contexts x.num = some cx ∧ cx = { new with tables := cx.tables } ∧
        t.cords = s.cords ∧ t.rings = s.rings ∧
        ∀ m, x.mods = [m] → frameOf t (byteKey m.1 m.2.2 / 2 ^ 16 * 2 ^ 16) = ⟨(frameOf s (byteKey m.1 m.2.2 / 2 ^ 16 * 2 ^ 16)).gen, .valid, true⟩)

/-- R85, R198, R200, R202, R222, R235, R252, R258, R366, R387, R389, R415, R424, R427 to R432: the record at the head of a live ring is
served by the event of its code. A record that is not well-formed completes with STATUS 3, one of a context the ring does not hold, or
of a context on a ring of the module, with STATUS 4; a served one completes with its own STATUS and RESULT. The layouts of what a request names (log 4),
where tables lie (log 15), the rings a setting comes on (log 48), where slabs lie (log 62), the refusals of a load and a seed that the
manual does not name (logs 79, 81), the generation of a 32 MiB page (log 82), the steward's own pages (log 85) and a leaf of another module's frame
(log 98) are the model's choices. -/
def Obligations.RequestServing : Prop :=
  ∀ (s : State) (q : RingId) (r : ReqRec) (ring : Ring) (ctx : Nat) (m : Module),
    headReq s q = some r → ringOf s q = some ring → ringLive s q = true → mget s.modules q.dev = some m →
    let i (n : Nat) : Instr := [.mapReq q, .unmapReq q, .protectReq q, .exportFrame q, .graphLoad q, .graphSeed q, .graphClose q,
      .windowOpen q, .windowClose q, .peerSet q, .setReq q, .logRead q, .healthReq q, .resetReq q].getD (n - 1) (.malformedRequest q)
    let n := r.code.toNat; let ok := wellFormedReq r = true ∧ ctxKnown s q r = true
    let own := ok ∧ q.ctx = some ctx
    let x := ctxOf s ctx; let rs := (x.log.drop (x.log.length - x.unread)).take r.arg1.toNat
    let fin (j : Instr) (status result : Nat) (p : State → Prop) : Prop := ∃ t g, exec j s = .next t ∧ ringOf t q = some g ∧
      g.pending = ring.pending.tail ∧ g.done_ = ring.done_ ++ [{ r with status := BitVec.ofNat 32 status, result := BitVec.ofNat 32 result }] ∧ p t
    let same (t : State) : Prop := t.mem = s.mem ∧ t.contexts = s.contexts ∧ t.modules = s.modules ∧ t.frames = s.frames ∧ t.cords = s.cords
    let page := r.arg0.toNat / 2 ^ 16
    let quiet := s.moves = [] ∧ s.arrivals = [] ∧ r.arg0.toNat % 2 ^ 16 = 0 ∧ r.arg1 = 0x10000#64
    let v := r.arg1.toNat
    (wellFormedReq r = false → fin (.malformedRequest q) 3 0 same) ∧
    (wellFormedReq r = true → ctxKnown s q r = false → fin (i n) 4 0 same) ∧
    (ok → q.ctx = none → n ∈ [1, 2, 3, 5, 6, 7, 10, 12, 14] → fin (i n) 4 0 same) ∧
    (own → n = 1 → exec (.mapReq q) s = .next (serveMap q ctx r s) ∧
      (mapTemplateOk r = false → fin (.mapReq q) 2 0xFFFFFFFF same) ∧
      (∀ root a e0, quiet → mapTemplateOk r = true → r.arg2.getLsbD 5 = false → bitsOf r.arg2 46 10 = q.dev →
        mapPageOk s ctx q.dev r 0 = true → rootOf s ctx q.dev = some root → walkTo s.mem q.dev root r.arg0.toNat = some (a, e0, false) →
        let f := byteKey q.dev (bitsOf r.arg2 22 24 * 2 ^ 16) / 2 ^ 16; let fr := frameOf s (f * 2 ^ 16)
        fr.seen = true → fin (.mapReq q) 1 0 (fun t => frameOf t (f * 2 ^ 16) = { fr with state := .valid } ∧
          t.mem = writeMem s.mem (byteKey q.dev a) (leBytes 8 ((r.arg2 ||| 3) + (fr.gen.zeroExtend 64 <<< 56)).toNat)))) ∧
    (own → n = 2 → exec (.unmapReq q) s = .next (serveUnmap q ctx r s) ∧
      (r.arg2 ≠ 0 → fin (.unmapReq q) 2 0xFFFFFFFF same) ∧
      (∀ a e, quiet → r.arg2 = 0 → validLeaf s ctx q.dev page = some (a, e, false) → bitsOf e 46 10 = q.dev →
        stewardPage s ctx q.dev page = false → pageLeased s ctx q.dev page = false → importsOf s q.dev (leafFrames e) = [] →
        let f := (leafFrames e).headD 0; let fr := frameOf s (f * 2 ^ 16)
        fin (.unmapReq q) 1 0 (fun t => frameOf t (f * 2 ^ 16) = { gen := fr.gen + 1, state := .free, seen := false } ∧
          t.mem = writeMem (discardUnrel s [f]).mem (byteKey q.dev a) (leBytes 8 0) ∧ ∀ p ∈ t.tokens, p.1 / 2 ^ 16 ≠ f))) ∧
    (own → n = 3 → exec (.protectReq q) s = .next (serveProtect q ctx r s) ∧
      (r.arg2 &&& ~~~0x1C#64 ≠ 0 → fin (.protectReq q) 2 0xFFFFFFFF same) ∧
      (∀ a e, quiet → r.arg2 &&& ~~~0x1C#64 = 0 → validLeaf s ctx q.dev page = some (a, e, false) → bitsOf e 46 10 = q.dev →
        stewardPage s ctx q.dev page = false → importsOf s q.dev (leafFrames e) = [] →
        let f := (leafFrames e).headD 0; let fr := frameOf s (f * 2 ^ 16)
        fin (.protectReq q) 1 0 (fun t => frameOf t (f * 2 ^ 16) = { fr with gen := fr.gen + 1 } ∧
          t.mem = writeMem s.mem (byteKey q.dev a) (leBytes 8 (withRights r.arg2 (fr.gen + 1) e).toNat)))) ∧
    (ok → n = 4 →
      let frame := r.arg0.toNat % 2 ^ 40 / 2 ^ 16
      let pinned := framePinned s q.dev (byteKey q.dev (frame * 2 ^ 16) / 2 ^ 16) = true ∧ r.arg0.toNat < 2 ^ 40
      let moving := movingFrames s [byteKey q.dev (frame * 2 ^ 16) / 2 ^ 16]
      (moving = true → exec (.exportFrame q) s = .next s) ∧
      (moving = false → ¬pinned → fin (.exportFrame q) 2 0 same) ∧
      (moving = false → pinned → fin (.exportFrame q) 1 0 (fun t => t.mem = s.mem ∧ mget t.modules q.dev = some { m with
        exports := m.exports.filter (fun e => !(e.ctx == r.arg2.toNat && e.frame == frame)) ++ [⟨r.arg2.toNat, frame, r.arg1.extractLsb' 0 3, []⟩] }))) ∧
    (own → n = 5 → exec (.graphLoad q) s = .next (serveLoad q ctx r s) ∧ (r.image = none → fin (.graphLoad q) 2 0 same) ∧
      ∀ im, r.image = some im →
        let als := (maskDies r.arg1).filterMap (fun d => im.allocs.find? (·.die == d))
        maskDies r.arg1 ≠ [] → r.arg1.toNat < 16 → als.length = (maskDies r.arg1).length → imageOk s ctx q.dev im = true →
        allocsOk s ctx q.dev im.nodes als = true → (mapQueuePages ctx q.dev (als.flatMap (·.pages)) s).isSome = true →
        fin (.graphLoad q) 1 s.uid (fun t => (ctxOf t ctx).graphs = x.graphs ++ [⟨s.uid, q.dev, imageNodes im, false, als⟩] ∧
          (ctxOf t ctx).slots = x.slots ++ als.flatMap (fun al => slabSlots s.uid q.dev al.die al.slab 0 im.nodes))) ∧
    (own → n = 6 → exec (.graphSeed q) s = .next (serveSeed q ctx r s) ∧
      let graph := r.arg0.toNat / 2 ^ 32; let node := r.arg0.toNat % 2 ^ 32
      ((nodeOf x graph node = none ∨ (graphOf x graph).any (·.closed) = true) → fin (.graphSeed q) 2 1 same) ∧
      (∀ g h, graphOf x graph = some g → nodeOf x graph node = some h → g.closed = false →
        (g.dev ≠ q.dev ∨ g.allocs.any (·.die == v) = false) → fin (.graphSeed q) 2 3 same) ∧
      ∀ g h, graphOf x graph = some g → nodeOf x graph node = some h → g.closed = false → g.dev = q.dev → g.allocs.any (·.die == v) = true →
        (lowestFree x graph node q.dev v = none → fin (.graphSeed q) 2 2 same) ∧
        (∀ z, lowestFree x graph node q.dev v = some z → s.todo = [] → timersDue s q.dev v = false →
          fin (.graphSeed q) 1 0 (fun t =>
            t.mem = (writeVa s ctx q.dev z.addr ((List.range h.recSize).map (fun i => r.bytes.getD i 0))).mem ∧
            ctxOf t ctx = commitSlot s.uid (cycOf s q.dev v + 1) z x))) ∧
    (own → n = 7 → exec (.graphClose q) s = .next (completeReq (closeGraph s ctx r.arg0.toNat) q 1 0) ∧
      fin (.graphClose q) 1 0 (fun t => (∀ g ∈ (ctxOf t ctx).graphs, g.id = r.arg0.toNat → g.closed = true) ∧
        (∀ b ∈ (ctxOf t ctx).opens, b.graph ≠ r.arg0.toNat) ∧
        ∀ z ∈ (ctxOf t ctx).slots, z.graph = r.arg0.toNat → z.state ≠ .committed ∧ z.state ≠ .batted)) ∧
    (ok → n = 8 →
      (∀ w, r.result ≠ 0 → m.windows.find? (fun w => w.id == r.result.toNat) = some w →
        (w.open_ = true → fin (.windowOpen q) 1 w.id same) ∧ (w.open_ = false → exec (.windowOpen q) s = .next s)) ∧
      (r.result = 0 → ∃ t, exec (.windowOpen q) s = .next t ∧ t.mem = s.mem ∧
        headReq t q = some { r with result := BitVec.ofNat 32 (s.uid + 1) } ∧
        mget t.modules q.dev = some { m with windows := m.windows ++ [⟨s.uid + 1, max (2 ^ 39) (r.arg0.toNat / 2 ^ 16 * 2 ^ 16),
          (r.arg0.toNat + r.arg1.toNat + 65535) / 2 ^ 16 * 2 ^ 16, windowCtxs r.arg2, false⟩] })) ∧
    (ok → n = 9 → exec (.windowClose q) s = .next (completeReq (modModule s q.dev (fun m =>
        { m with windows := m.windows.filter (fun w => w.id != r.arg0.toNat) })) q 1 0) ∧
      fin (.windowClose q) 1 0 (fun t => mget t.modules q.dev = some { m with windows := m.windows.filter (fun w => w.id != r.arg0.toNat) })) ∧
    (own → n = 10 → exec (.peerSet q) s = .next (completeReq (modCtx s ctx (fun x =>
        { x with peers := mset x.peers (r.arg0.toNat % 65536) ⟨r.arg1.toNat % 1024, r.arg2.toNat % 4⟩ })) q 1 0) ∧
      fin (.peerSet q) 1 0 (fun t => mget (ctxOf t ctx).peers (r.arg0.toNat % 65536) = some ⟨r.arg1.toNat % 1024, r.arg2.toNat % 4⟩)) ∧
    (ok → n = 11 → exec (.setReq q) s = .next (serveSet q r s) ∧
      let module (lo hi : Nat) (set : Module → Module) : Prop :=
        (lo ≤ v ∧ v ≤ hi → fin (.setReq q) 1 0 (fun t => mget t.modules q.dev = some (set m))) ∧ (v < lo ∨ hi < v → fin (.setReq q) 2 0 same)
      let context (good : Prop) (set : Context → Context) : Prop := q.ctx = some ctx →
        (good → fin (.setReq q) 1 0 (fun t => ctxOf t ctx = set x)) ∧ (¬good → fin (.setReq q) 2 0 same)
      (r.arg0 = 1 → module 10000 10000000 (fun m => { m with drainLimit := v })) ∧
      (r.arg0 = 2 → module 100000 100000000 (fun m => { m with linkLimit := v })) ∧
      (r.arg0 = 3 → module 5000 1000000 (fun m => { m with e2eLimit := v })) ∧
      (r.arg0 = 4 → context (reservedBeside s ctx + v ≤ 768) (fun x => { x with stSlots := v })) ∧
      (r.arg0 = 5 → context (v ≤ 4096) (fun x => { x with waiters := v })) ∧
      (r.arg0 = 6 → context (1 ≤ v ∧ v ≤ 255) (fun x => { x with weight := v })) ∧
      (r.arg0 = 7 → context (r.arg1 = BitVec.allOnes 64 ∨ v % 4 = 0)
        (fun x => { x with vector := if r.arg1 = BitVec.allOnes 64 then none else some r.arg1 })) ∧
      (r.arg0 = 8 → context (v ≤ 1) (fun x => { x with debug := v == 1 })) ∧
      ((r.arg0 = 0 ∨ 8 < r.arg0.toNat) → fin (.setReq q) 2 0 same)) ∧
    (own → n = 12 → exec (.logRead q) s = .next (completeReq
        (modCtx (sendOut s q (rs.flatMap logBytes)) ctx (fun x => { x with unread := x.unread - rs.length })) q 1 x.lost.toNat) ∧
      fin (.logRead q) 1 x.lost.toNat (fun t => (ctxOf t ctx).unread = x.unread - rs.length ∧
        (ringOf t q).map (·.out) = some (ring.out ++ rs.flatMap logBytes))) ∧
    (ok → n = 13 → exec (.healthReq q) s = .next (completeReq (sendOut s q ((List.range 4).flatMap (healthBytes s m))) q 1 0) ∧
      fin (.healthReq q) 1 0 (fun t => (ringOf t q).map (·.out) = some (ring.out ++ (List.range 4).flatMap (healthBytes s m)))) ∧
    (own → n = 14 → exec (.resetReq q) s = .next (completeReq (contextError s ctx 0 0 0 0 ⟨q.dev, 0, 63⟩) q 1 0) ∧
      fin (.resetReq q) 1 0 (fun t => (ctxOf t ctx).opens = [] ∧ (ctxOf t ctx).batts = [] ∧ (ctxOf t ctx).queued = [] ∧
        (ctxOf t ctx).bars = [] ∧ (ctxOf t ctx).landings = [] ∧ ∀ g ∈ (ctxOf t ctx).graphs, g.closed = true))

/-- R52, R53, R421 to R424, R239: the machine right after reset: no byte of memory listed, every die at cycle 0 with no refresh
window, every core with its slot table FREE and its caches and TLB empty, and the settings at their defaults; the invariant
holds. A strand at its start has every register 0, p0 to p6 false, %fpf and %stat 0, an empty return stack and a clear
horizon. The values no rule gives are those logs 1, 5 and 6 name. -/
def Obligations.ResetState : Prop :=
  let s := State.reset
  Inv s ∧ (∀ a, readCell s.mem a = 0#8) ∧ s.tokens = [] ∧ s.poison = [] ∧ s.contexts = [] ∧ s.cords = [] ∧ s.todo = [] ∧
  (∀ d : Fin 4, cycOf s 0 d.val = 0 ∧ (dieOf s 0 d.val).clock = 0 ∧ (dieOf s 0 d.val).refAct = 0 ∧ (dieOf s 0 d.val).serial = 0) ∧
  (∀ (d : Fin 4) (c : Nat), coreOf s 0 d.val c = Core.reset) ∧ Core.reset.slots = Vector.replicate 32 .free ∧
  Core.reset.tlb = [] ∧ Core.reset.icache = [] ∧ Core.reset.l1 = [] ∧ Core.reset.owner = none ∧
  (∀ m, mget s.modules 0 = some m → m.started = true ∧ m.drainLimit = 200000 ∧ m.linkLimit = 1000000 ∧ m.e2eLimit = 25000) ∧
  ∀ (pc csp record : BitVec 64) (depth now : Nat) (c : Cord), let st := startStrand pc csp depth record
    st.pc = pc ∧ st.csp = csp ∧ (∀ n, rdV st n = 0#32) ∧ (∀ q, rdP st q = (q == 7#3)) ∧ st.fpf = 0#32 ∧ st.stat = 0#32 ∧
    st.rs = [] ∧ hzOf now st = 0x80000000#32 ∧ st.record = record ∧ st.depth = depth ∧ (freshPhase c).eops = [] ∧ (freshPhase c).tagctr = 0#12 ∧
    (freshPhase c).tiles = Vector.replicate 16 blankTile ∧ (freshPhase c).conv = Vector.replicate 8 blankConv

/-- R66, R113, R114, R117, R163: a step runs the selected strand's word as its decoding says. A word of the instruction cache
that decodes to an instruction is executed as that instruction, in a repetition with its fields stepped; one that decodes to
none, or whose stepped field leaves its range, as an illegal instruction; without a cached word the strand is passed over.
With no strand selected, time passes and one of the moves at hand is made, if there is one (logs 2 and 7). -/
def Obligations.StepRunsDecodedWord : Prop :=
  ∀ (s : State),
    (∀ h : Here, here s = some h →
      (rawWord (coreOfCord s h.cord) h.cord h.st = none → step s = .next (popTodo s)) ∧
      ∀ w, rawWord (coreOfCord s h.cord) h.cord h.st = some w →
        (h.st.rep = none → ∀ i, decode w = .ok i → step s = exec i s) ∧
        (h.st.rep = none → ∀ e, decode w = .error e → step s = exec (.illegalInstruction w) s) ∧
        ∀ r, h.st.rep = some r →
          (∀ v i, stepWord w r = some v → decode v = .ok i → step s = exec i s) ∧
          (∀ v e, stepWord w r = some v → decode v = .error e → step s = exec (.illegalInstruction w) s) ∧
          (stepWord w r = none → step s = exec (.illegalInstruction w) s)) ∧
    (s.todo = [] → ∃ (t u : Nat), s.wall ≤ t ∧
      ((moves { s with wall := t, choices := s.choices + 1 } = [] ∧ step s = .next { s with wall := t, choices := u }) ∨
       ∃ m ∈ moves { s with wall := t, choices := s.choices + 1 }, step s = m { s with wall := t, choices := u }))

/-- The invariant of the byte memory, its canonical form, is kept by every step (R239, R261; log 5). -/
def Obligations.StepKeepsInv : Prop :=
  ∀ s t : State, Inv s → step s = .next t → Inv t

/-- R99 to R114: decoding and encoding agree. Every well-formed instruction word decodes from its encoding, with every operand at
every value the encoding admits; and a word that decodes to an instruction is the encoding of that well-formed instruction.
-/
def Obligations.DecodeEncode : Prop :=
  (∀ i : Instr, i.isWord = true → WF i → decode (encode i) = .ok i) ∧
  ∀ (w : BitVec 32) (i : Instr), decode w = .ok i → i.isWord = true ∧ WF i ∧ encode i = w

/-- R99 to R112, R277, R316, R317, R404: words of the families written out field by field, as predicate, stall, major and
payload, with the instructions they stand for. -/
def Obligations.DecodeSamples : Prop :=
  decode 0b010_01_000001_0001100_0001000_0010100#32 = .ok (.iadd ⟨2, 1⟩ 12 8 20) ∧
  decode 0b010_01_001010_0110_011_0010100_0000100#32 = .ok (.icmp ⟨2, 1⟩ 6 3 20 4) ∧
  decode 0b010_01_001111_0001100_0001000_0000010#32 = .ok (.idiv ⟨2, 1⟩ 12 8) ∧
  decode 0b010_01_010011_0001100_10110011100101#32 = .ok (.movi ⟨2, 1⟩ 12 11493) ∧
  decode 0b010_01_011011_0001100_0001000_0010100#32 = .ok (.ffma ⟨2, 1⟩ 12 8 20) ∧
  decode 0b010_01_011111_0001100_0001000_001_0110#32 = .ok (.cvt ⟨2, 1⟩ 12 8 1 6) ∧
  decode 0b010_01_010110_0000000_0001100_1_001001#32 = .ok (.mts ⟨2, 1⟩ 12 9) ∧
  decode 0b010_01_101110_0000000_0001100_0000011#32 = .ok (.callv ⟨2, 1⟩ 12) ∧
  decode 0b010_01_100100_0001100_0001000_100_0000#32 = .ok (.ld ⟨2, 1⟩ 12 8 4) ∧
  decode 0b010_01_101000_0001100_0001000_0000_010#32 = .ok (.amoAdd ⟨2, 1⟩ 12 8 2) ∧
  decode 0b010_01_101001_000000000000000010_010#32 = .ok (.fence ⟨2, 1⟩ 2) ∧
  decode 0b010_01_110001_0001100_0001000_00_00111#32 = .ok (.xlmIdx ⟨2, 1⟩ 12 8 7) ∧
  decode 0b010_01_110011_0000000_0001100_0011_010#32 = .ok (.bar ⟨2, 1⟩ 12 2) ∧
  decode 0b010_01_110100_0000000_0001100_0001000#32 = .ok (.qcmt ⟨2, 1⟩ 12) ∧
  decode 0b010_01_110100_0001100_0001000_0111000#32 = .ok (.knset ⟨2, 1⟩ 12 8) ∧
  decode 0b010_01_101111_001001_011_110_100_000000#32 = .ok (.rep ⟨2, 1⟩ 9 3 6 4) ∧
  decode 0b010_01_110000_0001_10000111101100011#32 = .ok (.hintExt ⟨2, 1⟩ 69475) ∧
  decode 0b010_01_111000_0000000_0001100_1100000#32 = .ok (.tcopy ⟨2, 1⟩ 12) ∧
  decode 0b010_01_111011_0001100_0001000_110_101_0#32 = .ok (.mma ⟨2, 1⟩ 12 8 6 5) ∧
  decode 0b010_01_111100_0001100_0001000_1100000#32 = .ok (.skext ⟨2, 1⟩ 12 8) ∧
  decode 0b010_01_101110_000000000000000010000#32 = .ok (.rte ⟨2, 1⟩) ∧
  decode 0b010_01_111110_0000000_0001100_0000000#32 = .ok (.rsend ⟨2, 1⟩ 12)

/-- R63, R65: an instruction whose predicate is false has no effect: the strand only spends its issue cycle and its stall count,
with the timing of R65 for a branch, call or return, and goes on to the next word; a word that is no instruction raises no
fault either. -/
def Obligations.SkippedWords : Prop :=
  ∀ (s : State) (h : Here) (g : Guard), here s = some h → ableStrand h.cord h.st h.now = true →
    polling h.st = false → (guardRegs g).any (isHeld h) = false → stallFault h (guardRegs g) = false → rdP h.st g.pred = false →
    let skip (branch : Bool) : State := popTodo (modHere s h (leaveWord h.now g { branch := branch } {} true))
    (∀ i : Instr, i.isWord = true → guardOf (encode i) = g → exec i s = .next (skip (branchWord i))) ∧
    ∀ w : BitVec 32, guardOf w = g → exec (.illegalInstruction w) s = .next (skip false)

/-- R57, R58, R63, R125 to R136, R139, R143, R144: what a word that only computes registers of its strand leaves unchanged:
whatever it does, and whatever its guard, nothing but its strand changes, and of its strand no register, stack, status word
or operation; the results on the way are for its destination alone. -/
def Obligations.RegisterWordFrames : Prop :=
  ∀ (i : Instr) (s t : State) (h : Here), here s = some h → exec i s = .next t →
    (∀ rs, destRegs i = some rs → OnlyWrites s t h rs) ∧ (∀ r, flagDest i = some r → OnlyFlags s t h r)

/-- R263, R265, R295, R299: no word writes memory when it issues: a store, an atomic or an engine word leaves every byte as it
is, to be written later by the events of its operation. A cord that declares leases can break one at issue and end, and an
exit can end its cord, whose page tables then change (R222, R257). -/
def Obligations.WordsLeaveMemory : Prop :=
  ∀ (i : Instr) (s t : State) (h : Here), here s = some h → i.isWord = true → (∀ g, i ≠ .exit g) → h.cord.hdr.leases = [] →
    exec i s = .next t → ∀ a, readCell t.mem a = readCell s.mem a

/-- Every instruction and every event answers a next state in every state, but for a PERFORM of an access to an address no
storage has. R239 gives no effect there: that the machine stops is the model's choice (log 51). -/
def Obligations.ExecAnswers : Prop :=
  ∀ (i : Instr) (s : State),
    (∃ t, exec i s = .next t) ∨
    (exec i s = .fault .noStorage ∧ ∃ u r, i = .perform u ∧ s.arrivals.find? (·.uid == u) = some r ∧
      r.addrs.any (fun a => (homeDie a).isNone) = true)
end

