-- ==== Sys2Proof/Laws/Memory.lean ====
section
/-!
SUPPORT. Sparse maps and the byte memory: a read after a write, what a write leaves alone, and the canonical form, which every memory
operation keeps.
-/
namespace Sys2Proof.Laws
open Sys2Proof.Machine

/-! ### Sparse maps -/

/-- A key just set reads as what was set. -/
@[simp] theorem mget_mset_same {α : Type} (m : SMap α) (k : Nat) (v : α) : mget (mset m k v) k = some v := by
  induction m with
  | nil => simp [mset, mget]
  | cons p m ih =>
    obtain ⟨k', v'⟩ := p
    unfold mset
    split
    · simp [mget]
    · split
      · simp [mget]
      · rename_i h _
        simp [mget, h, ih]

/-- Setting one key leaves the others. -/
theorem mget_mset_other {α : Type} (m : SMap α) {k j : Nat} (v : α) (h : k ≠ j) : mget (mset m k v) j = mget m j := by
  induction m with
  | nil => simp [mset, mget, h]
  | cons p m ih =>
    obtain ⟨k', v'⟩ := p
    unfold mset
    split
    · rename_i hk
      subst hk
      simp [mget, h]
    · split
      · simp [mget, h]
      · simp [mget, ih]

/-- Changing a key changes its entry. -/
@[simp] theorem mget_mmod_same {α : Type} (m : SMap α) (k : Nat) (f : α → α) : mget (mmod m k f) k = (mget m k).map f := by
  induction m with
  | nil => rfl
  | cons p m ih =>
    obtain ⟨k', v'⟩ := p
    unfold mmod
    split
    · rename_i h
      simp [mget, h]
    · rename_i h
      simp [mget, h, ih]

/-- Changing one key leaves the others. -/
theorem mget_mmod_other {α : Type} (m : SMap α) {k j : Nat} (f : α → α) (h : k ≠ j) : mget (mmod m k f) j = mget m j := by
  induction m with
  | nil => rfl
  | cons p m ih =>
    obtain ⟨k', v'⟩ := p
    unfold mmod
    split
    · rename_i hk
      simp [mget, hk, h]
    · simp [mget, ih]

/-- A change that depends on the entry there is the same as one that puts its result. -/
theorem mmod_const {α : Type} (m : SMap α) (k : Nat) (f : α → α) {v : α} (h : mget m k = some v) :
    mmod m k f = mmod m k (fun _ => f v) := by
  induction m with
  | nil => rfl
  | cons p m ih =>
    obtain ⟨k', v'⟩ := p
    unfold mmod
    unfold mget at h
    split
    · rename_i hk
      rw [if_pos hk] at h
      obtain rfl := Option.some.inj h
      rfl
    · rename_i hk
      rw [if_neg hk] at h
      rw [ih h]

/-- Putting back what is there changes nothing. -/
theorem mmod_id {α : Type} (m : SMap α) (k : Nat) {v : α} (h : mget m k = some v) : mmod m k (fun _ => v) = m := by
  induction m with
  | nil => rfl
  | cons p m ih =>
    obtain ⟨k', v'⟩ := p
    unfold mmod
    unfold mget at h
    split
    · rename_i hk
      rw [if_pos hk] at h
      obtain rfl := Option.some.inj h
      rfl
    · rename_i hk
      rw [if_neg hk] at h
      rw [ih h]

/-- Two changes of one key are one. -/
theorem mmod_mmod {α : Type} (m : SMap α) (k : Nat) (f g : α → α) : mmod (mmod m k f) k g = mmod m k (fun v => g (f v)) := by
  induction m with
  | nil => rfl
  | cons p m ih =>
    obtain ⟨k', v'⟩ := p
    by_cases h : k' = k
    · simp [mmod, h]
    · simp [mmod, h, ih]

/-! ### Bytes -/

/-- A byte just written reads as written. -/
@[simp] theorem readCell_writeCell_same (m : List Host.Cell) (hm : Memory.wf m) (a : Nat) (b : BitVec 8) :
    readCell (writeCell m a b) a = b := by
  have above : ∀ (m : List Host.Cell) (l : Nat), cellsAbove (some l) m = true → ∀ a, a ≤ l → readCell m a = unlisted := by
    intro m
    induction m with
    | nil => intros; rfl
    | cons p m ih =>
      obtain ⟨k, c⟩ := p
      intro l h a ha
      simp only [cellsAbove, Bool.and_eq_true, decide_eq_true_eq] at h
      have : k ≠ a := by omega
      simp only [readCell, if_neg this]
      exact ih k h.2 a (by omega)
  have main : ∀ (m : List Host.Cell) (lo : Option Nat), cellsAbove lo m = true → readCell (writeCell m a b) a = b := by
    intro m
    induction m with
    | nil =>
      intro lo _
      unfold writeCell
      split
      · rename_i h; simp [readCell, h]
      · simp [readCell]
    | cons p m ih =>
      obtain ⟨k, c⟩ := p
      intro lo h
      simp only [cellsAbove, Bool.and_eq_true] at h
      unfold writeCell
      split
      · rename_i hk
        split
        · rename_i hb
          rw [hb]
          exact above m k h.2 a (by omega)
        · simp [readCell]
      · rename_i hk
        split
        · rename_i hlt
          split
          · rename_i hb
            rw [hb]
            simp only [readCell, if_neg hk]
            exact above m k h.2 a (by omega)
          · simp [readCell]
        · simp only [readCell, if_neg hk]
          exact ih (some k) h.2
  exact main m none hm

/-- Writing one byte leaves every other byte. -/
theorem readCell_writeCell_other (m : List Host.Cell) {a j : Nat} (b : BitVec 8) (h : a ≠ j) :
    readCell (writeCell m a b) j = readCell m j := by
  induction m with
  | nil =>
    unfold writeCell
    split <;> simp [readCell, h]
  | cons p m ih =>
    obtain ⟨k, c⟩ := p
    unfold writeCell
    split
    · rename_i hk
      subst hk
      split <;> simp [readCell, h]
    · split
      · split <;> simp [readCell, h]
      · simp [readCell, ih]

/-- Cells that lie above a bound lie above a lower one. -/
theorem cellsAbove_weaken {m : List Host.Cell} {l : Nat} (h : cellsAbove (some l) m = true) {lo : Option Nat}
    (hl : ∀ k, lo = some k → k ≤ l) : cellsAbove lo m = true := by
  cases m with
  | nil => rfl
  | cons p m =>
    obtain ⟨k, c⟩ := p
    simp only [cellsAbove, Bool.and_eq_true, decide_eq_true_eq] at h ⊢
    refine ⟨⟨?_, h.1.2⟩, h.2⟩
    cases lo with
    | none => rfl
    | some x => simp only [decide_eq_true_eq]; have := hl x rfl; omega

/-- A write keeps the canonical form. -/
theorem writeCell_wf (m : List Host.Cell) (hm : Memory.wf m) (a : Nat) (b : BitVec 8) : Memory.wf (writeCell m a b) := by
  have main : ∀ (m : List Host.Cell) (lo : Option Nat), cellsAbove lo m = true → (∀ k, lo = some k → k < a) →
      cellsAbove lo (writeCell m a b) = true := by
    intro m
    induction m with
    | nil =>
      intro lo _ hl
      unfold writeCell
      split
      · rfl
      · rename_i hb
        cases lo with
        | none => simp [cellsAbove, hb]
        | some x => simp [cellsAbove, hb, hl x rfl]
    | cons p m ih =>
      obtain ⟨k, c⟩ := p
      intro lo h hl
      have h' := h
      simp only [cellsAbove, Bool.and_eq_true] at h
      unfold writeCell
      split
      · rename_i hk
        subst hk
        split
        · exact cellsAbove_weaken h.2 (fun x hx => Nat.le_of_lt (hl x hx))
        · rename_i hb
          simp [cellsAbove, h.1.1, h.2, hb]
      · rename_i hk
        split
        · rename_i hlt
          split
          · exact h'
          · rename_i hb
            have h2 : cellsAbove (some a) ((k, c) :: m) = true := by
              simp only [cellsAbove, Bool.and_eq_true, decide_eq_true_eq]
              exact ⟨⟨hlt, h.1.2⟩, h.2⟩
            cases lo with
            | none => simp [cellsAbove, hb] ; simp only [cellsAbove, Bool.and_eq_true, decide_eq_true_eq, bne_iff_ne] at h2; exact h2
            | some x => simp [cellsAbove, hb, hl x rfl]; simp only [cellsAbove, Bool.and_eq_true, decide_eq_true_eq, bne_iff_ne] at h2; exact h2
        · simp only [cellsAbove, Bool.and_eq_true]
          refine ⟨h.1, ih (some k) h.2 ?_⟩
          rintro x hx
          obtain rfl := Option.some.inj hx
          omega
  exact main m none hm (by simp)

/-- Writing bytes at a list of addresses keeps the canonical form. -/
theorem writeCells_wf (m : List Host.Cell) (hm : Memory.wf m) (as : List Nat) (bs : List (BitVec 8)) : Memory.wf (writeCells m as bs) := by
  unfold writeCells
  generalize as.zip bs = l
  induction l generalizing m with
  | nil => exact hm
  | cons p l ih => exact ih _ (writeCell_wf m hm p.1 p.2)

/-- Writing bytes upward from an address keeps the canonical form. -/
theorem writeMem_wf (m : List Host.Cell) (hm : Memory.wf m) (a : Nat) (bs : List (BitVec 8)) : Memory.wf (writeMem m a bs) := by
  unfold writeMem
  exact writeCells_wf m hm _ _

/-- Dropping cells keeps the canonical form. -/
theorem filter_wf (m : List Host.Cell) (hm : Memory.wf m) (p : Host.Cell → Bool) : Memory.wf (m.filter p) := by
  have main : ∀ (m : List Host.Cell) (lo : Option Nat), cellsAbove lo m = true → cellsAbove lo (m.filter p) = true := by
    intro m
    induction m with
    | nil => intros; rfl
    | cons q m ih =>
      obtain ⟨k, c⟩ := q
      intro lo h
      have h' := h
      simp only [cellsAbove, Bool.and_eq_true] at h
      have hk := ih (some k) h.2
      by_cases hp : p (k, c) = true
      · simp only [List.filter_cons, hp, if_true, cellsAbove, Bool.and_eq_true]
        exact ⟨h.1, hk⟩
      · simp only [List.filter_cons, hp]
        cases lo with
        | none => exact cellsAbove_weaken hk (by simp)
        | some x =>
          have h3 : x < k := by simpa using h.1.1
          exact cellsAbove_weaken hk (fun y hy => by obtain rfl := Option.some.inj hy; omega)
  exact main m none hm

/-- What a byte reads as after cells are dropped: as before where they stay, as unlisted where they go. -/
theorem readCell_filter (m : List Host.Cell) (p : Nat → Bool) (a : Nat) :
    readCell (m.filter (fun c => p c.1)) a = if p a then readCell m a else unlisted := by
  induction m with
  | nil => simp [readCell]
  | cons q m ih =>
    obtain ⟨k, c⟩ := q
    by_cases hk : k = a
    · subst hk
      by_cases hp : p k = true
      · simp [readCell, hp]
      · simp [hp, ih]
    · by_cases hp : p k = true
      · simp [readCell, hp, hk, ih]
      · simp [readCell, hp, hk, ih]

end Sys2Proof.Laws
end

