-- ==== Sys2Proof/Laws/State.lean ====
section
/-!
SUPPORT. What each update of the state leaves as it is: one lemma per field and update, true by unfolding, so that no later proof
unfolds a record update.
-/
namespace Sys2Proof.Laws
open Sys2Proof.Machine Sys2Proof.Safety
set_option Elab.async false

@[simp] theorem modDie_pod (s : State) (dev die : Nat) (f : Die → Die) : (modDie s dev die f).pod = s.pod := rfl
@[simp] theorem modDie_contexts (s : State) (dev die : Nat) (f : Die → Die) : (modDie s dev die f).contexts = s.contexts := rfl
@[simp] theorem modDie_cords (s : State) (dev die : Nat) (f : Die → Die) : (modDie s dev die f).cords = s.cords := rfl
@[simp] theorem modDie_mem (s : State) (dev die : Nat) (f : Die → Die) : (modDie s dev die f).mem = s.mem := rfl
@[simp] theorem modDie_tokens (s : State) (dev die : Nat) (f : Die → Die) : (modDie s dev die f).tokens = s.tokens := rfl
@[simp] theorem modDie_poison (s : State) (dev die : Nat) (f : Die → Die) : (modDie s dev die f).poison = s.poison := rfl
@[simp] theorem modDie_frames (s : State) (dev die : Nat) (f : Die → Die) : (modDie s dev die f).frames = s.frames := rfl
@[simp] theorem modDie_moves (s : State) (dev die : Nat) (f : Die → Die) : (modDie s dev die f).moves = s.moves := rfl
@[simp] theorem modDie_arrivals (s : State) (dev die : Nat) (f : Die → Die) : (modDie s dev die f).arrivals = s.arrivals := rfl
@[simp] theorem modDie_order (s : State) (dev die : Nat) (f : Die → Die) : (modDie s dev die f).order = s.order := rfl
@[simp] theorem modDie_loads (s : State) (dev die : Nat) (f : Die → Die) : (modDie s dev die f).loads = s.loads := rfl
@[simp] theorem modDie_directory (s : State) (dev die : Nat) (f : Die → Die) : (modDie s dev die f).directory = s.directory := rfl
@[simp] theorem modDie_recalls (s : State) (dev die : Nat) (f : Die → Die) : (modDie s dev die f).recalls = s.recalls := rfl
@[simp] theorem modDie_packets (s : State) (dev die : Nat) (f : Die → Die) : (modDie s dev die f).packets = s.packets := rfl
@[simp] theorem modDie_knotEvs (s : State) (dev die : Nat) (f : Die → Die) : (modDie s dev die f).knotEvs = s.knotEvs := rfl
@[simp] theorem modDie_rings (s : State) (dev die : Nat) (f : Die → Die) : (modDie s dev die f).rings = s.rings := rfl
@[simp] theorem modDie_wall (s : State) (dev die : Nat) (f : Die → Die) : (modDie s dev die f).wall = s.wall := rfl
@[simp] theorem modDie_todo (s : State) (dev die : Nat) (f : Die → Die) : (modDie s dev die f).todo = s.todo := rfl
@[simp] theorem modDie_inputs (s : State) (dev die : Nat) (f : Die → Die) : (modDie s dev die f).inputs = s.inputs := rfl
@[simp] theorem modDie_choices (s : State) (dev die : Nat) (f : Die → Die) : (modDie s dev die f).choices = s.choices := rfl
@[simp] theorem modDie_uid (s : State) (dev die : Nat) (f : Die → Die) : (modDie s dev die f).uid = s.uid := rfl
@[simp] theorem modCore_pod (s : State) (dev die core : Nat) (f : Core → Core) : (modCore s dev die core f).pod = s.pod := rfl
@[simp] theorem modCore_contexts (s : State) (dev die core : Nat) (f : Core → Core) : (modCore s dev die core f).contexts = s.contexts := rfl
@[simp] theorem modCore_cords (s : State) (dev die core : Nat) (f : Core → Core) : (modCore s dev die core f).cords = s.cords := rfl
@[simp] theorem modCore_mem (s : State) (dev die core : Nat) (f : Core → Core) : (modCore s dev die core f).mem = s.mem := rfl
@[simp] theorem modCore_tokens (s : State) (dev die core : Nat) (f : Core → Core) : (modCore s dev die core f).tokens = s.tokens := rfl
@[simp] theorem modCore_poison (s : State) (dev die core : Nat) (f : Core → Core) : (modCore s dev die core f).poison = s.poison := rfl
@[simp] theorem modCore_frames (s : State) (dev die core : Nat) (f : Core → Core) : (modCore s dev die core f).frames = s.frames := rfl
@[simp] theorem modCore_moves (s : State) (dev die core : Nat) (f : Core → Core) : (modCore s dev die core f).moves = s.moves := rfl
@[simp] theorem modCore_arrivals (s : State) (dev die core : Nat) (f : Core → Core) : (modCore s dev die core f).arrivals = s.arrivals := rfl
@[simp] theorem modCore_order (s : State) (dev die core : Nat) (f : Core → Core) : (modCore s dev die core f).order = s.order := rfl
@[simp] theorem modCore_loads (s : State) (dev die core : Nat) (f : Core → Core) : (modCore s dev die core f).loads = s.loads := rfl
@[simp] theorem modCore_directory (s : State) (dev die core : Nat) (f : Core → Core) : (modCore s dev die core f).directory = s.directory := rfl
@[simp] theorem modCore_recalls (s : State) (dev die core : Nat) (f : Core → Core) : (modCore s dev die core f).recalls = s.recalls := rfl
@[simp] theorem modCore_packets (s : State) (dev die core : Nat) (f : Core → Core) : (modCore s dev die core f).packets = s.packets := rfl
@[simp] theorem modCore_knotEvs (s : State) (dev die core : Nat) (f : Core → Core) : (modCore s dev die core f).knotEvs = s.knotEvs := rfl
@[simp] theorem modCore_rings (s : State) (dev die core : Nat) (f : Core → Core) : (modCore s dev die core f).rings = s.rings := rfl
@[simp] theorem modCore_wall (s : State) (dev die core : Nat) (f : Core → Core) : (modCore s dev die core f).wall = s.wall := rfl
@[simp] theorem modCore_todo (s : State) (dev die core : Nat) (f : Core → Core) : (modCore s dev die core f).todo = s.todo := rfl
@[simp] theorem modCore_inputs (s : State) (dev die core : Nat) (f : Core → Core) : (modCore s dev die core f).inputs = s.inputs := rfl
@[simp] theorem modCore_choices (s : State) (dev die core : Nat) (f : Core → Core) : (modCore s dev die core f).choices = s.choices := rfl
@[simp] theorem modCore_uid (s : State) (dev die core : Nat) (f : Core → Core) : (modCore s dev die core f).uid = s.uid := rfl
@[simp] theorem modCord_modules (s : State) (k : Nat) (f : Cord → Cord) : (modCord s k f).modules = s.modules := rfl
@[simp] theorem modCord_pod (s : State) (k : Nat) (f : Cord → Cord) : (modCord s k f).pod = s.pod := rfl
@[simp] theorem modCord_contexts (s : State) (k : Nat) (f : Cord → Cord) : (modCord s k f).contexts = s.contexts := rfl
@[simp] theorem modCord_mem (s : State) (k : Nat) (f : Cord → Cord) : (modCord s k f).mem = s.mem := rfl
@[simp] theorem modCord_tokens (s : State) (k : Nat) (f : Cord → Cord) : (modCord s k f).tokens = s.tokens := rfl
@[simp] theorem modCord_poison (s : State) (k : Nat) (f : Cord → Cord) : (modCord s k f).poison = s.poison := rfl
@[simp] theorem modCord_frames (s : State) (k : Nat) (f : Cord → Cord) : (modCord s k f).frames = s.frames := rfl
@[simp] theorem modCord_moves (s : State) (k : Nat) (f : Cord → Cord) : (modCord s k f).moves = s.moves := rfl
@[simp] theorem modCord_arrivals (s : State) (k : Nat) (f : Cord → Cord) : (modCord s k f).arrivals = s.arrivals := rfl
@[simp] theorem modCord_order (s : State) (k : Nat) (f : Cord → Cord) : (modCord s k f).order = s.order := rfl
@[simp] theorem modCord_loads (s : State) (k : Nat) (f : Cord → Cord) : (modCord s k f).loads = s.loads := rfl
@[simp] theorem modCord_directory (s : State) (k : Nat) (f : Cord → Cord) : (modCord s k f).directory = s.directory := rfl
@[simp] theorem modCord_recalls (s : State) (k : Nat) (f : Cord → Cord) : (modCord s k f).recalls = s.recalls := rfl
@[simp] theorem modCord_packets (s : State) (k : Nat) (f : Cord → Cord) : (modCord s k f).packets = s.packets := rfl
@[simp] theorem modCord_knotEvs (s : State) (k : Nat) (f : Cord → Cord) : (modCord s k f).knotEvs = s.knotEvs := rfl
@[simp] theorem modCord_rings (s : State) (k : Nat) (f : Cord → Cord) : (modCord s k f).rings = s.rings := rfl
@[simp] theorem modCord_wall (s : State) (k : Nat) (f : Cord → Cord) : (modCord s k f).wall = s.wall := rfl
@[simp] theorem modCord_todo (s : State) (k : Nat) (f : Cord → Cord) : (modCord s k f).todo = s.todo := rfl
@[simp] theorem modCord_inputs (s : State) (k : Nat) (f : Cord → Cord) : (modCord s k f).inputs = s.inputs := rfl
@[simp] theorem modCord_choices (s : State) (k : Nat) (f : Cord → Cord) : (modCord s k f).choices = s.choices := rfl
@[simp] theorem modCord_uid (s : State) (k : Nat) (f : Cord → Cord) : (modCord s k f).uid = s.uid := rfl
@[simp] theorem modStrand_modules (s : State) (k l : Nat) (f : Strand → Strand) : (modStrand s k l f).modules = s.modules := rfl
@[simp] theorem modStrand_pod (s : State) (k l : Nat) (f : Strand → Strand) : (modStrand s k l f).pod = s.pod := rfl
@[simp] theorem modStrand_contexts (s : State) (k l : Nat) (f : Strand → Strand) : (modStrand s k l f).contexts = s.contexts := rfl
@[simp] theorem modStrand_mem (s : State) (k l : Nat) (f : Strand → Strand) : (modStrand s k l f).mem = s.mem := rfl
@[simp] theorem modStrand_tokens (s : State) (k l : Nat) (f : Strand → Strand) : (modStrand s k l f).tokens = s.tokens := rfl
@[simp] theorem modStrand_poison (s : State) (k l : Nat) (f : Strand → Strand) : (modStrand s k l f).poison = s.poison := rfl
@[simp] theorem modStrand_frames (s : State) (k l : Nat) (f : Strand → Strand) : (modStrand s k l f).frames = s.frames := rfl
@[simp] theorem modStrand_moves (s : State) (k l : Nat) (f : Strand → Strand) : (modStrand s k l f).moves = s.moves := rfl
@[simp] theorem modStrand_arrivals (s : State) (k l : Nat) (f : Strand → Strand) : (modStrand s k l f).arrivals = s.arrivals := rfl
@[simp] theorem modStrand_order (s : State) (k l : Nat) (f : Strand → Strand) : (modStrand s k l f).order = s.order := rfl
@[simp] theorem modStrand_loads (s : State) (k l : Nat) (f : Strand → Strand) : (modStrand s k l f).loads = s.loads := rfl
@[simp] theorem modStrand_directory (s : State) (k l : Nat) (f : Strand → Strand) : (modStrand s k l f).directory = s.directory := rfl
@[simp] theorem modStrand_recalls (s : State) (k l : Nat) (f : Strand → Strand) : (modStrand s k l f).recalls = s.recalls := rfl
@[simp] theorem modStrand_packets (s : State) (k l : Nat) (f : Strand → Strand) : (modStrand s k l f).packets = s.packets := rfl
@[simp] theorem modStrand_knotEvs (s : State) (k l : Nat) (f : Strand → Strand) : (modStrand s k l f).knotEvs = s.knotEvs := rfl
@[simp] theorem modStrand_rings (s : State) (k l : Nat) (f : Strand → Strand) : (modStrand s k l f).rings = s.rings := rfl
@[simp] theorem modStrand_wall (s : State) (k l : Nat) (f : Strand → Strand) : (modStrand s k l f).wall = s.wall := rfl
@[simp] theorem modStrand_todo (s : State) (k l : Nat) (f : Strand → Strand) : (modStrand s k l f).todo = s.todo := rfl
@[simp] theorem modStrand_inputs (s : State) (k l : Nat) (f : Strand → Strand) : (modStrand s k l f).inputs = s.inputs := rfl
@[simp] theorem modStrand_choices (s : State) (k l : Nat) (f : Strand → Strand) : (modStrand s k l f).choices = s.choices := rfl
@[simp] theorem modStrand_uid (s : State) (k l : Nat) (f : Strand → Strand) : (modStrand s k l f).uid = s.uid := rfl
@[simp] theorem modCtx_modules (s : State) (x : Nat) (f : Context → Context) : (modCtx s x f).modules = s.modules := rfl
@[simp] theorem modCtx_pod (s : State) (x : Nat) (f : Context → Context) : (modCtx s x f).pod = s.pod := rfl
@[simp] theorem modCtx_cords (s : State) (x : Nat) (f : Context → Context) : (modCtx s x f).cords = s.cords := rfl
@[simp] theorem modCtx_mem (s : State) (x : Nat) (f : Context → Context) : (modCtx s x f).mem = s.mem := rfl
@[simp] theorem modCtx_tokens (s : State) (x : Nat) (f : Context → Context) : (modCtx s x f).tokens = s.tokens := rfl
@[simp] theorem modCtx_poison (s : State) (x : Nat) (f : Context → Context) : (modCtx s x f).poison = s.poison := rfl
@[simp] theorem modCtx_frames (s : State) (x : Nat) (f : Context → Context) : (modCtx s x f).frames = s.frames := rfl
@[simp] theorem modCtx_moves (s : State) (x : Nat) (f : Context → Context) : (modCtx s x f).moves = s.moves := rfl
@[simp] theorem modCtx_arrivals (s : State) (x : Nat) (f : Context → Context) : (modCtx s x f).arrivals = s.arrivals := rfl
@[simp] theorem modCtx_order (s : State) (x : Nat) (f : Context → Context) : (modCtx s x f).order = s.order := rfl
@[simp] theorem modCtx_loads (s : State) (x : Nat) (f : Context → Context) : (modCtx s x f).loads = s.loads := rfl
@[simp] theorem modCtx_directory (s : State) (x : Nat) (f : Context → Context) : (modCtx s x f).directory = s.directory := rfl
@[simp] theorem modCtx_recalls (s : State) (x : Nat) (f : Context → Context) : (modCtx s x f).recalls = s.recalls := rfl
@[simp] theorem modCtx_packets (s : State) (x : Nat) (f : Context → Context) : (modCtx s x f).packets = s.packets := rfl
@[simp] theorem modCtx_knotEvs (s : State) (x : Nat) (f : Context → Context) : (modCtx s x f).knotEvs = s.knotEvs := rfl
@[simp] theorem modCtx_rings (s : State) (x : Nat) (f : Context → Context) : (modCtx s x f).rings = s.rings := rfl
@[simp] theorem modCtx_wall (s : State) (x : Nat) (f : Context → Context) : (modCtx s x f).wall = s.wall := rfl
@[simp] theorem modCtx_todo (s : State) (x : Nat) (f : Context → Context) : (modCtx s x f).todo = s.todo := rfl
@[simp] theorem modCtx_inputs (s : State) (x : Nat) (f : Context → Context) : (modCtx s x f).inputs = s.inputs := rfl
@[simp] theorem modCtx_choices (s : State) (x : Nat) (f : Context → Context) : (modCtx s x f).choices = s.choices := rfl
@[simp] theorem modCtx_uid (s : State) (x : Nat) (f : Context → Context) : (modCtx s x f).uid = s.uid := rfl
@[simp] theorem modCoreOf_pod (s : State) (c : Cord) (f : Core → Core) : (modCoreOf s c f).pod = s.pod := rfl
@[simp] theorem modCoreOf_contexts (s : State) (c : Cord) (f : Core → Core) : (modCoreOf s c f).contexts = s.contexts := rfl
@[simp] theorem modCoreOf_cords (s : State) (c : Cord) (f : Core → Core) : (modCoreOf s c f).cords = s.cords := rfl
@[simp] theorem modCoreOf_mem (s : State) (c : Cord) (f : Core → Core) : (modCoreOf s c f).mem = s.mem := rfl
@[simp] theorem modCoreOf_tokens (s : State) (c : Cord) (f : Core → Core) : (modCoreOf s c f).tokens = s.tokens := rfl
@[simp] theorem modCoreOf_poison (s : State) (c : Cord) (f : Core → Core) : (modCoreOf s c f).poison = s.poison := rfl
@[simp] theorem modCoreOf_frames (s : State) (c : Cord) (f : Core → Core) : (modCoreOf s c f).frames = s.frames := rfl
@[simp] theorem modCoreOf_moves (s : State) (c : Cord) (f : Core → Core) : (modCoreOf s c f).moves = s.moves := rfl
@[simp] theorem modCoreOf_arrivals (s : State) (c : Cord) (f : Core → Core) : (modCoreOf s c f).arrivals = s.arrivals := rfl
@[simp] theorem modCoreOf_order (s : State) (c : Cord) (f : Core → Core) : (modCoreOf s c f).order = s.order := rfl
@[simp] theorem modCoreOf_loads (s : State) (c : Cord) (f : Core → Core) : (modCoreOf s c f).loads = s.loads := rfl
@[simp] theorem modCoreOf_directory (s : State) (c : Cord) (f : Core → Core) : (modCoreOf s c f).directory = s.directory := rfl
@[simp] theorem modCoreOf_recalls (s : State) (c : Cord) (f : Core → Core) : (modCoreOf s c f).recalls = s.recalls := rfl
@[simp] theorem modCoreOf_packets (s : State) (c : Cord) (f : Core → Core) : (modCoreOf s c f).packets = s.packets := rfl
@[simp] theorem modCoreOf_knotEvs (s : State) (c : Cord) (f : Core → Core) : (modCoreOf s c f).knotEvs = s.knotEvs := rfl
@[simp] theorem modCoreOf_rings (s : State) (c : Cord) (f : Core → Core) : (modCoreOf s c f).rings = s.rings := rfl
@[simp] theorem modCoreOf_wall (s : State) (c : Cord) (f : Core → Core) : (modCoreOf s c f).wall = s.wall := rfl
@[simp] theorem modCoreOf_todo (s : State) (c : Cord) (f : Core → Core) : (modCoreOf s c f).todo = s.todo := rfl
@[simp] theorem modCoreOf_inputs (s : State) (c : Cord) (f : Core → Core) : (modCoreOf s c f).inputs = s.inputs := rfl
@[simp] theorem modCoreOf_choices (s : State) (c : Cord) (f : Core → Core) : (modCoreOf s c f).choices = s.choices := rfl
@[simp] theorem modCoreOf_uid (s : State) (c : Cord) (f : Core → Core) : (modCoreOf s c f).uid = s.uid := rfl
@[simp] theorem modHere_modules (s : State) (h : Here) (f : Strand → Strand) : (modHere s h f).modules = s.modules := rfl
@[simp] theorem modHere_pod (s : State) (h : Here) (f : Strand → Strand) : (modHere s h f).pod = s.pod := rfl
@[simp] theorem modHere_contexts (s : State) (h : Here) (f : Strand → Strand) : (modHere s h f).contexts = s.contexts := rfl
@[simp] theorem modHere_mem (s : State) (h : Here) (f : Strand → Strand) : (modHere s h f).mem = s.mem := rfl
@[simp] theorem modHere_tokens (s : State) (h : Here) (f : Strand → Strand) : (modHere s h f).tokens = s.tokens := rfl
@[simp] theorem modHere_poison (s : State) (h : Here) (f : Strand → Strand) : (modHere s h f).poison = s.poison := rfl
@[simp] theorem modHere_frames (s : State) (h : Here) (f : Strand → Strand) : (modHere s h f).frames = s.frames := rfl
@[simp] theorem modHere_moves (s : State) (h : Here) (f : Strand → Strand) : (modHere s h f).moves = s.moves := rfl
@[simp] theorem modHere_arrivals (s : State) (h : Here) (f : Strand → Strand) : (modHere s h f).arrivals = s.arrivals := rfl
@[simp] theorem modHere_order (s : State) (h : Here) (f : Strand → Strand) : (modHere s h f).order = s.order := rfl
@[simp] theorem modHere_loads (s : State) (h : Here) (f : Strand → Strand) : (modHere s h f).loads = s.loads := rfl
@[simp] theorem modHere_directory (s : State) (h : Here) (f : Strand → Strand) : (modHere s h f).directory = s.directory := rfl
@[simp] theorem modHere_recalls (s : State) (h : Here) (f : Strand → Strand) : (modHere s h f).recalls = s.recalls := rfl
@[simp] theorem modHere_packets (s : State) (h : Here) (f : Strand → Strand) : (modHere s h f).packets = s.packets := rfl
@[simp] theorem modHere_knotEvs (s : State) (h : Here) (f : Strand → Strand) : (modHere s h f).knotEvs = s.knotEvs := rfl
@[simp] theorem modHere_rings (s : State) (h : Here) (f : Strand → Strand) : (modHere s h f).rings = s.rings := rfl
@[simp] theorem modHere_wall (s : State) (h : Here) (f : Strand → Strand) : (modHere s h f).wall = s.wall := rfl
@[simp] theorem modHere_todo (s : State) (h : Here) (f : Strand → Strand) : (modHere s h f).todo = s.todo := rfl
@[simp] theorem modHere_inputs (s : State) (h : Here) (f : Strand → Strand) : (modHere s h f).inputs = s.inputs := rfl
@[simp] theorem modHere_choices (s : State) (h : Here) (f : Strand → Strand) : (modHere s h f).choices = s.choices := rfl
@[simp] theorem modHere_uid (s : State) (h : Here) (f : Strand → Strand) : (modHere s h f).uid = s.uid := rfl
@[simp] theorem modHereCord_modules (s : State) (h : Here) (f : Cord → Cord) : (modHereCord s h f).modules = s.modules := rfl
@[simp] theorem modHereCord_pod (s : State) (h : Here) (f : Cord → Cord) : (modHereCord s h f).pod = s.pod := rfl
@[simp] theorem modHereCord_contexts (s : State) (h : Here) (f : Cord → Cord) : (modHereCord s h f).contexts = s.contexts := rfl
@[simp] theorem modHereCord_mem (s : State) (h : Here) (f : Cord → Cord) : (modHereCord s h f).mem = s.mem := rfl
@[simp] theorem modHereCord_tokens (s : State) (h : Here) (f : Cord → Cord) : (modHereCord s h f).tokens = s.tokens := rfl
@[simp] theorem modHereCord_poison (s : State) (h : Here) (f : Cord → Cord) : (modHereCord s h f).poison = s.poison := rfl
@[simp] theorem modHereCord_frames (s : State) (h : Here) (f : Cord → Cord) : (modHereCord s h f).frames = s.frames := rfl
@[simp] theorem modHereCord_moves (s : State) (h : Here) (f : Cord → Cord) : (modHereCord s h f).moves = s.moves := rfl
@[simp] theorem modHereCord_arrivals (s : State) (h : Here) (f : Cord → Cord) : (modHereCord s h f).arrivals = s.arrivals := rfl
@[simp] theorem modHereCord_order (s : State) (h : Here) (f : Cord → Cord) : (modHereCord s h f).order = s.order := rfl
@[simp] theorem modHereCord_loads (s : State) (h : Here) (f : Cord → Cord) : (modHereCord s h f).loads = s.loads := rfl
@[simp] theorem modHereCord_directory (s : State) (h : Here) (f : Cord → Cord) : (modHereCord s h f).directory = s.directory := rfl
@[simp] theorem modHereCord_recalls (s : State) (h : Here) (f : Cord → Cord) : (modHereCord s h f).recalls = s.recalls := rfl
@[simp] theorem modHereCord_packets (s : State) (h : Here) (f : Cord → Cord) : (modHereCord s h f).packets = s.packets := rfl
@[simp] theorem modHereCord_knotEvs (s : State) (h : Here) (f : Cord → Cord) : (modHereCord s h f).knotEvs = s.knotEvs := rfl
@[simp] theorem modHereCord_rings (s : State) (h : Here) (f : Cord → Cord) : (modHereCord s h f).rings = s.rings := rfl
@[simp] theorem modHereCord_wall (s : State) (h : Here) (f : Cord → Cord) : (modHereCord s h f).wall = s.wall := rfl
@[simp] theorem modHereCord_todo (s : State) (h : Here) (f : Cord → Cord) : (modHereCord s h f).todo = s.todo := rfl
@[simp] theorem modHereCord_inputs (s : State) (h : Here) (f : Cord → Cord) : (modHereCord s h f).inputs = s.inputs := rfl
@[simp] theorem modHereCord_choices (s : State) (h : Here) (f : Cord → Cord) : (modHereCord s h f).choices = s.choices := rfl
@[simp] theorem modHereCord_uid (s : State) (h : Here) (f : Cord → Cord) : (modHereCord s h f).uid = s.uid := rfl
@[simp] theorem modHereCore_pod (s : State) (h : Here) (f : Core → Core) : (modHereCore s h f).pod = s.pod := rfl
@[simp] theorem modHereCore_contexts (s : State) (h : Here) (f : Core → Core) : (modHereCore s h f).contexts = s.contexts := rfl
@[simp] theorem modHereCore_cords (s : State) (h : Here) (f : Core → Core) : (modHereCore s h f).cords = s.cords := rfl
@[simp] theorem modHereCore_mem (s : State) (h : Here) (f : Core → Core) : (modHereCore s h f).mem = s.mem := rfl
@[simp] theorem modHereCore_tokens (s : State) (h : Here) (f : Core → Core) : (modHereCore s h f).tokens = s.tokens := rfl
@[simp] theorem modHereCore_poison (s : State) (h : Here) (f : Core → Core) : (modHereCore s h f).poison = s.poison := rfl
@[simp] theorem modHereCore_frames (s : State) (h : Here) (f : Core → Core) : (modHereCore s h f).frames = s.frames := rfl
@[simp] theorem modHereCore_moves (s : State) (h : Here) (f : Core → Core) : (modHereCore s h f).moves = s.moves := rfl
@[simp] theorem modHereCore_arrivals (s : State) (h : Here) (f : Core → Core) : (modHereCore s h f).arrivals = s.arrivals := rfl
@[simp] theorem modHereCore_order (s : State) (h : Here) (f : Core → Core) : (modHereCore s h f).order = s.order := rfl
@[simp] theorem modHereCore_loads (s : State) (h : Here) (f : Core → Core) : (modHereCore s h f).loads = s.loads := rfl
@[simp] theorem modHereCore_directory (s : State) (h : Here) (f : Core → Core) : (modHereCore s h f).directory = s.directory := rfl
@[simp] theorem modHereCore_recalls (s : State) (h : Here) (f : Core → Core) : (modHereCore s h f).recalls = s.recalls := rfl
@[simp] theorem modHereCore_packets (s : State) (h : Here) (f : Core → Core) : (modHereCore s h f).packets = s.packets := rfl
@[simp] theorem modHereCore_knotEvs (s : State) (h : Here) (f : Core → Core) : (modHereCore s h f).knotEvs = s.knotEvs := rfl
@[simp] theorem modHereCore_rings (s : State) (h : Here) (f : Core → Core) : (modHereCore s h f).rings = s.rings := rfl
@[simp] theorem modHereCore_wall (s : State) (h : Here) (f : Core → Core) : (modHereCore s h f).wall = s.wall := rfl
@[simp] theorem modHereCore_todo (s : State) (h : Here) (f : Core → Core) : (modHereCore s h f).todo = s.todo := rfl
@[simp] theorem modHereCore_inputs (s : State) (h : Here) (f : Core → Core) : (modHereCore s h f).inputs = s.inputs := rfl
@[simp] theorem modHereCore_choices (s : State) (h : Here) (f : Core → Core) : (modHereCore s h f).choices = s.choices := rfl
@[simp] theorem modHereCore_uid (s : State) (h : Here) (f : Core → Core) : (modHereCore s h f).uid = s.uid := rfl
@[simp] theorem modOp_modules (s : State) (k l u : Nat) (f : Op → Op) : (modOp s k l u f).modules = s.modules := rfl
@[simp] theorem modOp_pod (s : State) (k l u : Nat) (f : Op → Op) : (modOp s k l u f).pod = s.pod := rfl
@[simp] theorem modOp_contexts (s : State) (k l u : Nat) (f : Op → Op) : (modOp s k l u f).contexts = s.contexts := rfl
@[simp] theorem modOp_mem (s : State) (k l u : Nat) (f : Op → Op) : (modOp s k l u f).mem = s.mem := rfl
@[simp] theorem modOp_tokens (s : State) (k l u : Nat) (f : Op → Op) : (modOp s k l u f).tokens = s.tokens := rfl
@[simp] theorem modOp_poison (s : State) (k l u : Nat) (f : Op → Op) : (modOp s k l u f).poison = s.poison := rfl
@[simp] theorem modOp_frames (s : State) (k l u : Nat) (f : Op → Op) : (modOp s k l u f).frames = s.frames := rfl
@[simp] theorem modOp_moves (s : State) (k l u : Nat) (f : Op → Op) : (modOp s k l u f).moves = s.moves := rfl
@[simp] theorem modOp_arrivals (s : State) (k l u : Nat) (f : Op → Op) : (modOp s k l u f).arrivals = s.arrivals := rfl
@[simp] theorem modOp_order (s : State) (k l u : Nat) (f : Op → Op) : (modOp s k l u f).order = s.order := rfl
@[simp] theorem modOp_loads (s : State) (k l u : Nat) (f : Op → Op) : (modOp s k l u f).loads = s.loads := rfl
@[simp] theorem modOp_directory (s : State) (k l u : Nat) (f : Op → Op) : (modOp s k l u f).directory = s.directory := rfl
@[simp] theorem modOp_recalls (s : State) (k l u : Nat) (f : Op → Op) : (modOp s k l u f).recalls = s.recalls := rfl
@[simp] theorem modOp_packets (s : State) (k l u : Nat) (f : Op → Op) : (modOp s k l u f).packets = s.packets := rfl
@[simp] theorem modOp_knotEvs (s : State) (k l u : Nat) (f : Op → Op) : (modOp s k l u f).knotEvs = s.knotEvs := rfl
@[simp] theorem modOp_rings (s : State) (k l u : Nat) (f : Op → Op) : (modOp s k l u f).rings = s.rings := rfl
@[simp] theorem modOp_wall (s : State) (k l u : Nat) (f : Op → Op) : (modOp s k l u f).wall = s.wall := rfl
@[simp] theorem modOp_todo (s : State) (k l u : Nat) (f : Op → Op) : (modOp s k l u f).todo = s.todo := rfl
@[simp] theorem modOp_inputs (s : State) (k l u : Nat) (f : Op → Op) : (modOp s k l u f).inputs = s.inputs := rfl
@[simp] theorem modOp_choices (s : State) (k l u : Nat) (f : Op → Op) : (modOp s k l u f).choices = s.choices := rfl
@[simp] theorem modOp_uid (s : State) (k l u : Nat) (f : Op → Op) : (modOp s k l u f).uid = s.uid := rfl
@[simp] theorem releaseHeld_modules (s : State) (k l u : Nat) : (releaseHeld s k l u).modules = s.modules := rfl
@[simp] theorem releaseHeld_pod (s : State) (k l u : Nat) : (releaseHeld s k l u).pod = s.pod := rfl
@[simp] theorem releaseHeld_contexts (s : State) (k l u : Nat) : (releaseHeld s k l u).contexts = s.contexts := rfl
@[simp] theorem releaseHeld_mem (s : State) (k l u : Nat) : (releaseHeld s k l u).mem = s.mem := rfl
@[simp] theorem releaseHeld_tokens (s : State) (k l u : Nat) : (releaseHeld s k l u).tokens = s.tokens := rfl
@[simp] theorem releaseHeld_poison (s : State) (k l u : Nat) : (releaseHeld s k l u).poison = s.poison := rfl
@[simp] theorem releaseHeld_frames (s : State) (k l u : Nat) : (releaseHeld s k l u).frames = s.frames := rfl
@[simp] theorem releaseHeld_moves (s : State) (k l u : Nat) : (releaseHeld s k l u).moves = s.moves := rfl
@[simp] theorem releaseHeld_arrivals (s : State) (k l u : Nat) : (releaseHeld s k l u).arrivals = s.arrivals := rfl
@[simp] theorem releaseHeld_order (s : State) (k l u : Nat) : (releaseHeld s k l u).order = s.order := rfl
@[simp] theorem releaseHeld_loads (s : State) (k l u : Nat) : (releaseHeld s k l u).loads = s.loads := rfl
@[simp] theorem releaseHeld_directory (s : State) (k l u : Nat) : (releaseHeld s k l u).directory = s.directory := rfl
@[simp] theorem releaseHeld_recalls (s : State) (k l u : Nat) : (releaseHeld s k l u).recalls = s.recalls := rfl
@[simp] theorem releaseHeld_packets (s : State) (k l u : Nat) : (releaseHeld s k l u).packets = s.packets := rfl
@[simp] theorem releaseHeld_knotEvs (s : State) (k l u : Nat) : (releaseHeld s k l u).knotEvs = s.knotEvs := rfl
@[simp] theorem releaseHeld_rings (s : State) (k l u : Nat) : (releaseHeld s k l u).rings = s.rings := rfl
@[simp] theorem releaseHeld_wall (s : State) (k l u : Nat) : (releaseHeld s k l u).wall = s.wall := rfl
@[simp] theorem releaseHeld_todo (s : State) (k l u : Nat) : (releaseHeld s k l u).todo = s.todo := rfl
@[simp] theorem releaseHeld_inputs (s : State) (k l u : Nat) : (releaseHeld s k l u).inputs = s.inputs := rfl
@[simp] theorem releaseHeld_choices (s : State) (k l u : Nat) : (releaseHeld s k l u).choices = s.choices := rfl
@[simp] theorem releaseHeld_uid (s : State) (k l u : Nat) : (releaseHeld s k l u).uid = s.uid := rfl
@[simp] theorem deliver_modules (s : State) (k l u : Nat) (ws : List (Reg × BitVec 64)) : (deliver s k l u ws).modules = s.modules := rfl
@[simp] theorem deliver_pod (s : State) (k l u : Nat) (ws : List (Reg × BitVec 64)) : (deliver s k l u ws).pod = s.pod := rfl
@[simp] theorem deliver_contexts (s : State) (k l u : Nat) (ws : List (Reg × BitVec 64)) : (deliver s k l u ws).contexts = s.contexts := rfl
@[simp] theorem deliver_mem (s : State) (k l u : Nat) (ws : List (Reg × BitVec 64)) : (deliver s k l u ws).mem = s.mem := rfl
@[simp] theorem deliver_tokens (s : State) (k l u : Nat) (ws : List (Reg × BitVec 64)) : (deliver s k l u ws).tokens = s.tokens := rfl
@[simp] theorem deliver_poison (s : State) (k l u : Nat) (ws : List (Reg × BitVec 64)) : (deliver s k l u ws).poison = s.poison := rfl
@[simp] theorem deliver_frames (s : State) (k l u : Nat) (ws : List (Reg × BitVec 64)) : (deliver s k l u ws).frames = s.frames := rfl
@[simp] theorem deliver_moves (s : State) (k l u : Nat) (ws : List (Reg × BitVec 64)) : (deliver s k l u ws).moves = s.moves := rfl
@[simp] theorem deliver_arrivals (s : State) (k l u : Nat) (ws : List (Reg × BitVec 64)) : (deliver s k l u ws).arrivals = s.arrivals := rfl
@[simp] theorem deliver_order (s : State) (k l u : Nat) (ws : List (Reg × BitVec 64)) : (deliver s k l u ws).order = s.order := rfl
@[simp] theorem deliver_loads (s : State) (k l u : Nat) (ws : List (Reg × BitVec 64)) : (deliver s k l u ws).loads = s.loads := rfl
@[simp] theorem deliver_directory (s : State) (k l u : Nat) (ws : List (Reg × BitVec 64)) : (deliver s k l u ws).directory = s.directory := rfl
@[simp] theorem deliver_recalls (s : State) (k l u : Nat) (ws : List (Reg × BitVec 64)) : (deliver s k l u ws).recalls = s.recalls := rfl
@[simp] theorem deliver_packets (s : State) (k l u : Nat) (ws : List (Reg × BitVec 64)) : (deliver s k l u ws).packets = s.packets := rfl
@[simp] theorem deliver_knotEvs (s : State) (k l u : Nat) (ws : List (Reg × BitVec 64)) : (deliver s k l u ws).knotEvs = s.knotEvs := rfl
@[simp] theorem deliver_rings (s : State) (k l u : Nat) (ws : List (Reg × BitVec 64)) : (deliver s k l u ws).rings = s.rings := rfl
@[simp] theorem deliver_wall (s : State) (k l u : Nat) (ws : List (Reg × BitVec 64)) : (deliver s k l u ws).wall = s.wall := rfl
@[simp] theorem deliver_todo (s : State) (k l u : Nat) (ws : List (Reg × BitVec 64)) : (deliver s k l u ws).todo = s.todo := rfl
@[simp] theorem deliver_inputs (s : State) (k l u : Nat) (ws : List (Reg × BitVec 64)) : (deliver s k l u ws).inputs = s.inputs := rfl
@[simp] theorem deliver_choices (s : State) (k l u : Nat) (ws : List (Reg × BitVec 64)) : (deliver s k l u ws).choices = s.choices := rfl
@[simp] theorem deliver_uid (s : State) (k l u : Nat) (ws : List (Reg × BitVec 64)) : (deliver s k l u ws).uid = s.uid := rfl
@[simp] theorem popTodo_modules (s : State) : (popTodo s).modules = s.modules := rfl
@[simp] theorem popTodo_pod (s : State) : (popTodo s).pod = s.pod := rfl
@[simp] theorem popTodo_contexts (s : State) : (popTodo s).contexts = s.contexts := rfl
@[simp] theorem popTodo_cords (s : State) : (popTodo s).cords = s.cords := rfl
@[simp] theorem popTodo_mem (s : State) : (popTodo s).mem = s.mem := rfl
@[simp] theorem popTodo_tokens (s : State) : (popTodo s).tokens = s.tokens := rfl
@[simp] theorem popTodo_poison (s : State) : (popTodo s).poison = s.poison := rfl
@[simp] theorem popTodo_frames (s : State) : (popTodo s).frames = s.frames := rfl
@[simp] theorem popTodo_moves (s : State) : (popTodo s).moves = s.moves := rfl
@[simp] theorem popTodo_arrivals (s : State) : (popTodo s).arrivals = s.arrivals := rfl
@[simp] theorem popTodo_order (s : State) : (popTodo s).order = s.order := rfl
@[simp] theorem popTodo_loads (s : State) : (popTodo s).loads = s.loads := rfl
@[simp] theorem popTodo_directory (s : State) : (popTodo s).directory = s.directory := rfl
@[simp] theorem popTodo_recalls (s : State) : (popTodo s).recalls = s.recalls := rfl
@[simp] theorem popTodo_packets (s : State) : (popTodo s).packets = s.packets := rfl
@[simp] theorem popTodo_knotEvs (s : State) : (popTodo s).knotEvs = s.knotEvs := rfl
@[simp] theorem popTodo_rings (s : State) : (popTodo s).rings = s.rings := rfl
@[simp] theorem popTodo_wall (s : State) : (popTodo s).wall = s.wall := rfl
@[simp] theorem popTodo_inputs (s : State) : (popTodo s).inputs = s.inputs := rfl
@[simp] theorem popTodo_choices (s : State) : (popTodo s).choices = s.choices := rfl
@[simp] theorem popTodo_uid (s : State) : (popTodo s).uid = s.uid := rfl
@[simp] theorem stopHere_modules (s : State) (h : Here) (p : PFault) : (stopHere s h p).modules = s.modules := rfl
@[simp] theorem stopHere_pod (s : State) (h : Here) (p : PFault) : (stopHere s h p).pod = s.pod := rfl
@[simp] theorem stopHere_contexts (s : State) (h : Here) (p : PFault) : (stopHere s h p).contexts = s.contexts := rfl
@[simp] theorem stopHere_mem (s : State) (h : Here) (p : PFault) : (stopHere s h p).mem = s.mem := rfl
@[simp] theorem stopHere_tokens (s : State) (h : Here) (p : PFault) : (stopHere s h p).tokens = s.tokens := rfl
@[simp] theorem stopHere_poison (s : State) (h : Here) (p : PFault) : (stopHere s h p).poison = s.poison := rfl
@[simp] theorem stopHere_frames (s : State) (h : Here) (p : PFault) : (stopHere s h p).frames = s.frames := rfl
@[simp] theorem stopHere_moves (s : State) (h : Here) (p : PFault) : (stopHere s h p).moves = s.moves := rfl
@[simp] theorem stopHere_arrivals (s : State) (h : Here) (p : PFault) : (stopHere s h p).arrivals = s.arrivals := rfl
@[simp] theorem stopHere_order (s : State) (h : Here) (p : PFault) : (stopHere s h p).order = s.order := rfl
@[simp] theorem stopHere_loads (s : State) (h : Here) (p : PFault) : (stopHere s h p).loads = s.loads := rfl
@[simp] theorem stopHere_directory (s : State) (h : Here) (p : PFault) : (stopHere s h p).directory = s.directory := rfl
@[simp] theorem stopHere_recalls (s : State) (h : Here) (p : PFault) : (stopHere s h p).recalls = s.recalls := rfl
@[simp] theorem stopHere_packets (s : State) (h : Here) (p : PFault) : (stopHere s h p).packets = s.packets := rfl
@[simp] theorem stopHere_knotEvs (s : State) (h : Here) (p : PFault) : (stopHere s h p).knotEvs = s.knotEvs := rfl
@[simp] theorem stopHere_rings (s : State) (h : Here) (p : PFault) : (stopHere s h p).rings = s.rings := rfl
@[simp] theorem stopHere_wall (s : State) (h : Here) (p : PFault) : (stopHere s h p).wall = s.wall := rfl
@[simp] theorem stopHere_inputs (s : State) (h : Here) (p : PFault) : (stopHere s h p).inputs = s.inputs := rfl
@[simp] theorem stopHere_choices (s : State) (h : Here) (p : PFault) : (stopHere s h p).choices = s.choices := rfl
@[simp] theorem stopHere_uid (s : State) (h : Here) (p : PFault) : (stopHere s h p).uid = s.uid := rfl
@[simp] theorem passHere_modules (s : State) (h : Here) (sp : WSpec) : (passHere s h sp).modules = s.modules := rfl
@[simp] theorem passHere_pod (s : State) (h : Here) (sp : WSpec) : (passHere s h sp).pod = s.pod := rfl
@[simp] theorem passHere_contexts (s : State) (h : Here) (sp : WSpec) : (passHere s h sp).contexts = s.contexts := rfl
@[simp] theorem passHere_mem (s : State) (h : Here) (sp : WSpec) : (passHere s h sp).mem = s.mem := rfl
@[simp] theorem passHere_tokens (s : State) (h : Here) (sp : WSpec) : (passHere s h sp).tokens = s.tokens := rfl
@[simp] theorem passHere_poison (s : State) (h : Here) (sp : WSpec) : (passHere s h sp).poison = s.poison := rfl
@[simp] theorem passHere_frames (s : State) (h : Here) (sp : WSpec) : (passHere s h sp).frames = s.frames := rfl
@[simp] theorem passHere_moves (s : State) (h : Here) (sp : WSpec) : (passHere s h sp).moves = s.moves := rfl
@[simp] theorem passHere_arrivals (s : State) (h : Here) (sp : WSpec) : (passHere s h sp).arrivals = s.arrivals := rfl
@[simp] theorem passHere_order (s : State) (h : Here) (sp : WSpec) : (passHere s h sp).order = s.order := rfl
@[simp] theorem passHere_loads (s : State) (h : Here) (sp : WSpec) : (passHere s h sp).loads = s.loads := rfl
@[simp] theorem passHere_directory (s : State) (h : Here) (sp : WSpec) : (passHere s h sp).directory = s.directory := rfl
@[simp] theorem passHere_recalls (s : State) (h : Here) (sp : WSpec) : (passHere s h sp).recalls = s.recalls := rfl
@[simp] theorem passHere_packets (s : State) (h : Here) (sp : WSpec) : (passHere s h sp).packets = s.packets := rfl
@[simp] theorem passHere_knotEvs (s : State) (h : Here) (sp : WSpec) : (passHere s h sp).knotEvs = s.knotEvs := rfl
@[simp] theorem passHere_rings (s : State) (h : Here) (sp : WSpec) : (passHere s h sp).rings = s.rings := rfl
@[simp] theorem passHere_wall (s : State) (h : Here) (sp : WSpec) : (passHere s h sp).wall = s.wall := rfl
@[simp] theorem passHere_inputs (s : State) (h : Here) (sp : WSpec) : (passHere s h sp).inputs = s.inputs := rfl
@[simp] theorem passHere_choices (s : State) (h : Here) (sp : WSpec) : (passHere s h sp).choices = s.choices := rfl
@[simp] theorem passHere_uid (s : State) (h : Here) (sp : WSpec) : (passHere s h sp).uid = s.uid := rfl
@[simp] theorem pushOp_modules (s : State) (h : Here) (i : Instr) (fb : Bool) (o : Op) : (pushOp s h i fb o).modules = s.modules := rfl
@[simp] theorem pushOp_pod (s : State) (h : Here) (i : Instr) (fb : Bool) (o : Op) : (pushOp s h i fb o).pod = s.pod := rfl
@[simp] theorem pushOp_contexts (s : State) (h : Here) (i : Instr) (fb : Bool) (o : Op) : (pushOp s h i fb o).contexts = s.contexts := rfl
@[simp] theorem pushOp_mem (s : State) (h : Here) (i : Instr) (fb : Bool) (o : Op) : (pushOp s h i fb o).mem = s.mem := rfl
@[simp] theorem pushOp_tokens (s : State) (h : Here) (i : Instr) (fb : Bool) (o : Op) : (pushOp s h i fb o).tokens = s.tokens := rfl
@[simp] theorem pushOp_poison (s : State) (h : Here) (i : Instr) (fb : Bool) (o : Op) : (pushOp s h i fb o).poison = s.poison := rfl
@[simp] theorem pushOp_frames (s : State) (h : Here) (i : Instr) (fb : Bool) (o : Op) : (pushOp s h i fb o).frames = s.frames := rfl
@[simp] theorem pushOp_moves (s : State) (h : Here) (i : Instr) (fb : Bool) (o : Op) : (pushOp s h i fb o).moves = s.moves := rfl
@[simp] theorem pushOp_arrivals (s : State) (h : Here) (i : Instr) (fb : Bool) (o : Op) : (pushOp s h i fb o).arrivals = s.arrivals := rfl
@[simp] theorem pushOp_order (s : State) (h : Here) (i : Instr) (fb : Bool) (o : Op) : (pushOp s h i fb o).order = s.order := rfl
@[simp] theorem pushOp_loads (s : State) (h : Here) (i : Instr) (fb : Bool) (o : Op) : (pushOp s h i fb o).loads = s.loads := rfl
@[simp] theorem pushOp_directory (s : State) (h : Here) (i : Instr) (fb : Bool) (o : Op) : (pushOp s h i fb o).directory = s.directory := rfl
@[simp] theorem pushOp_recalls (s : State) (h : Here) (i : Instr) (fb : Bool) (o : Op) : (pushOp s h i fb o).recalls = s.recalls := rfl
@[simp] theorem pushOp_packets (s : State) (h : Here) (i : Instr) (fb : Bool) (o : Op) : (pushOp s h i fb o).packets = s.packets := rfl
@[simp] theorem pushOp_knotEvs (s : State) (h : Here) (i : Instr) (fb : Bool) (o : Op) : (pushOp s h i fb o).knotEvs = s.knotEvs := rfl
@[simp] theorem pushOp_rings (s : State) (h : Here) (i : Instr) (fb : Bool) (o : Op) : (pushOp s h i fb o).rings = s.rings := rfl
@[simp] theorem pushOp_wall (s : State) (h : Here) (i : Instr) (fb : Bool) (o : Op) : (pushOp s h i fb o).wall = s.wall := rfl
@[simp] theorem pushOp_todo (s : State) (h : Here) (i : Instr) (fb : Bool) (o : Op) : (pushOp s h i fb o).todo = s.todo := rfl
@[simp] theorem pushOp_inputs (s : State) (h : Here) (i : Instr) (fb : Bool) (o : Op) : (pushOp s h i fb o).inputs = s.inputs := rfl
@[simp] theorem pushOp_choices (s : State) (h : Here) (i : Instr) (fb : Bool) (o : Op) : (pushOp s h i fb o).choices = s.choices := rfl
@[simp] theorem popTodo_todo (s : State) : (popTodo s).todo = s.todo.tail := rfl
@[simp] theorem pushOp_uid (s : State) (h : Here) (i : Instr) (fb : Bool) (o : Op) : (pushOp s h i fb o).uid = s.uid + 1 := rfl

@[simp] theorem enterHandler_v (vector : BitVec 64) (now : Nat) (p2 : Bool) (st : Strand) : (enterHandler vector now p2 st).v = st.v := rfl
@[simp] theorem enterHandler_preds (vector : BitVec 64) (now : Nat) (p2 : Bool) (st : Strand) : (enterHandler vector now p2 st).preds = st.preds := rfl
@[simp] theorem enterHandler_rs (vector : BitVec 64) (now : Nat) (p2 : Bool) (st : Strand) : (enterHandler vector now p2 st).rs = st.rs := rfl
@[simp] theorem enterHandler_csp (vector : BitVec 64) (now : Nat) (p2 : Bool) (st : Strand) : (enterHandler vector now p2 st).csp = st.csp := rfl
@[simp] theorem enterHandler_fpf (vector : BitVec 64) (now : Nat) (p2 : Bool) (st : Strand) : (enterHandler vector now p2 st).fpf = st.fpf := rfl
@[simp] theorem enterHandler_pend (vector : BitVec 64) (now : Nat) (p2 : Bool) (st : Strand) : (enterHandler vector now p2 st).pend = st.pend := rfl
@[simp] theorem enterHandler_held (vector : BitVec 64) (now : Nat) (p2 : Bool) (st : Strand) : (enterHandler vector now p2 st).held = st.held := rfl
@[simp] theorem enterHandler_chk (vector : BitVec 64) (now : Nat) (p2 : Bool) (st : Strand) : (enterHandler vector now p2 st).chk = st.chk := rfl
@[simp] theorem enterHandler_divs (vector : BitVec 64) (now : Nat) (p2 : Bool) (st : Strand) : (enterHandler vector now p2 st).divs = st.divs := rfl
@[simp] theorem enterHandler_ops (vector : BitVec 64) (now : Nat) (p2 : Bool) (st : Strand) : (enterHandler vector now p2 st).ops = st.ops := rfl
@[simp] theorem enterHandler_next (vector : BitVec 64) (now : Nat) (p2 : Bool) (st : Strand) : (enterHandler vector now p2 st).next = st.next := rfl
@[simp] theorem enterHandler_sync (vector : BitVec 64) (now : Nat) (p2 : Bool) (st : Strand) : (enterHandler vector now p2 st).sync = st.sync := rfl
@[simp] theorem enterHandler_wait (vector : BitVec 64) (now : Nat) (p2 : Bool) (st : Strand) : (enterHandler vector now p2 st).wait = st.wait := rfl
@[simp] theorem enterHandler_fault (vector : BitVec 64) (now : Nat) (p2 : Bool) (st : Strand) : (enterHandler vector now p2 st).fault = st.fault := rfl
@[simp] theorem enterHandler_rerun (vector : BitVec 64) (now : Nat) (p2 : Bool) (st : Strand) : (enterHandler vector now p2 st).rerun = st.rerun := rfl
@[simp] theorem enterHandler_resume (vector : BitVec 64) (now : Nat) (p2 : Bool) (st : Strand) : (enterHandler vector now p2 st).resume = st.resume := rfl
@[simp] theorem enterHandler_fbusy (vector : BitVec 64) (now : Nat) (p2 : Bool) (st : Strand) : (enterHandler vector now p2 st).fbusy = st.fbusy := rfl
@[simp] theorem enterHandler_tiling (vector : BitVec 64) (now : Nat) (p2 : Bool) (st : Strand) : (enterHandler vector now p2 st).tiling = st.tiling := rfl
@[simp] theorem enterHandler_issued (vector : BitVec 64) (now : Nat) (p2 : Bool) (st : Strand) : (enterHandler vector now p2 st).issued = st.issued := rfl
@[simp] theorem enterHandler_idle (vector : BitVec 64) (now : Nat) (p2 : Bool) (st : Strand) : (enterHandler vector now p2 st).idle = st.idle := rfl
@[simp] theorem enterHandler_stopped (vector : BitVec 64) (now : Nat) (p2 : Bool) (st : Strand) : (enterHandler vector now p2 st).stopped = st.stopped := rfl
@[simp] theorem enterHandler_depth (vector : BitVec 64) (now : Nat) (p2 : Bool) (st : Strand) : (enterHandler vector now p2 st).depth = st.depth := rfl
@[simp] theorem enterHandler_record (vector : BitVec 64) (now : Nat) (p2 : Bool) (st : Strand) : (enterHandler vector now p2 st).record = st.record := rfl
@[simp] theorem enterHandler_spill (vector : BitVec 64) (now : Nat) (p2 : Bool) (st : Strand) : (enterHandler vector now p2 st).spill = st.spill := rfl
@[simp] theorem maskOff_v (r : TrapRec) (st : Strand) : (maskOff r st).v = st.v := rfl
@[simp] theorem maskOff_preds (r : TrapRec) (st : Strand) : (maskOff r st).preds = st.preds := rfl
@[simp] theorem maskOff_pc (r : TrapRec) (st : Strand) : (maskOff r st).pc = st.pc := rfl
@[simp] theorem maskOff_rs (r : TrapRec) (st : Strand) : (maskOff r st).rs = st.rs := rfl
@[simp] theorem maskOff_csp (r : TrapRec) (st : Strand) : (maskOff r st).csp = st.csp := rfl
@[simp] theorem maskOff_fpf (r : TrapRec) (st : Strand) : (maskOff r st).fpf = st.fpf := rfl
@[simp] theorem maskOff_stat (r : TrapRec) (st : Strand) : (maskOff r st).stat = st.stat := rfl
@[simp] theorem maskOff_ready (r : TrapRec) (st : Strand) : (maskOff r st).ready = st.ready := rfl
@[simp] theorem maskOff_pend (r : TrapRec) (st : Strand) : (maskOff r st).pend = st.pend := rfl
@[simp] theorem maskOff_chk (r : TrapRec) (st : Strand) : (maskOff r st).chk = st.chk := rfl
@[simp] theorem maskOff_divs (r : TrapRec) (st : Strand) : (maskOff r st).divs = st.divs := rfl
@[simp] theorem maskOff_hint (r : TrapRec) (st : Strand) : (maskOff r st).hint = st.hint := rfl
@[simp] theorem maskOff_rep (r : TrapRec) (st : Strand) : (maskOff r st).rep = st.rep := rfl
@[simp] theorem maskOff_next (r : TrapRec) (st : Strand) : (maskOff r st).next = st.next := rfl
@[simp] theorem maskOff_sync (r : TrapRec) (st : Strand) : (maskOff r st).sync = st.sync := rfl
@[simp] theorem maskOff_fbusy (r : TrapRec) (st : Strand) : (maskOff r st).fbusy = st.fbusy := rfl
@[simp] theorem maskOff_tiling (r : TrapRec) (st : Strand) : (maskOff r st).tiling = st.tiling := rfl
@[simp] theorem maskOff_issued (r : TrapRec) (st : Strand) : (maskOff r st).issued = st.issued := rfl
@[simp] theorem maskOff_idle (r : TrapRec) (st : Strand) : (maskOff r st).idle = st.idle := rfl
@[simp] theorem maskOff_stopped (r : TrapRec) (st : Strand) : (maskOff r st).stopped = st.stopped := rfl
@[simp] theorem maskOff_depth (r : TrapRec) (st : Strand) : (maskOff r st).depth = st.depth := rfl
@[simp] theorem maskOff_record (r : TrapRec) (st : Strand) : (maskOff r st).record = st.record := rfl
@[simp] theorem maskOff_spill (r : TrapRec) (st : Strand) : (maskOff r st).spill = st.spill := rfl
@[simp] theorem raiseFlags_v (fl : Flags) (st : Strand) : (raiseFlags fl st).v = st.v := rfl
@[simp] theorem raiseFlags_preds (fl : Flags) (st : Strand) : (raiseFlags fl st).preds = st.preds := rfl
@[simp] theorem raiseFlags_pc (fl : Flags) (st : Strand) : (raiseFlags fl st).pc = st.pc := rfl
@[simp] theorem raiseFlags_rs (fl : Flags) (st : Strand) : (raiseFlags fl st).rs = st.rs := rfl
@[simp] theorem raiseFlags_csp (fl : Flags) (st : Strand) : (raiseFlags fl st).csp = st.csp := rfl
@[simp] theorem raiseFlags_stat (fl : Flags) (st : Strand) : (raiseFlags fl st).stat = st.stat := rfl
@[simp] theorem raiseFlags_ready (fl : Flags) (st : Strand) : (raiseFlags fl st).ready = st.ready := rfl
@[simp] theorem raiseFlags_pend (fl : Flags) (st : Strand) : (raiseFlags fl st).pend = st.pend := rfl
@[simp] theorem raiseFlags_held (fl : Flags) (st : Strand) : (raiseFlags fl st).held = st.held := rfl
@[simp] theorem raiseFlags_chk (fl : Flags) (st : Strand) : (raiseFlags fl st).chk = st.chk := rfl
@[simp] theorem raiseFlags_divs (fl : Flags) (st : Strand) : (raiseFlags fl st).divs = st.divs := rfl
@[simp] theorem raiseFlags_hint (fl : Flags) (st : Strand) : (raiseFlags fl st).hint = st.hint := rfl
@[simp] theorem raiseFlags_rep (fl : Flags) (st : Strand) : (raiseFlags fl st).rep = st.rep := rfl
@[simp] theorem raiseFlags_ops (fl : Flags) (st : Strand) : (raiseFlags fl st).ops = st.ops := rfl
@[simp] theorem raiseFlags_next (fl : Flags) (st : Strand) : (raiseFlags fl st).next = st.next := rfl
@[simp] theorem raiseFlags_sync (fl : Flags) (st : Strand) : (raiseFlags fl st).sync = st.sync := rfl
@[simp] theorem raiseFlags_wait (fl : Flags) (st : Strand) : (raiseFlags fl st).wait = st.wait := rfl
@[simp] theorem raiseFlags_mode (fl : Flags) (st : Strand) : (raiseFlags fl st).mode = st.mode := rfl
@[simp] theorem raiseFlags_fault (fl : Flags) (st : Strand) : (raiseFlags fl st).fault = st.fault := rfl
@[simp] theorem raiseFlags_trap (fl : Flags) (st : Strand) : (raiseFlags fl st).trap = st.trap := rfl
@[simp] theorem raiseFlags_rerun (fl : Flags) (st : Strand) : (raiseFlags fl st).rerun = st.rerun := rfl
@[simp] theorem raiseFlags_resume (fl : Flags) (st : Strand) : (raiseFlags fl st).resume = st.resume := rfl
@[simp] theorem raiseFlags_fbusy (fl : Flags) (st : Strand) : (raiseFlags fl st).fbusy = st.fbusy := rfl
@[simp] theorem raiseFlags_tiling (fl : Flags) (st : Strand) : (raiseFlags fl st).tiling = st.tiling := rfl
@[simp] theorem raiseFlags_issued (fl : Flags) (st : Strand) : (raiseFlags fl st).issued = st.issued := rfl
@[simp] theorem raiseFlags_idle (fl : Flags) (st : Strand) : (raiseFlags fl st).idle = st.idle := rfl
@[simp] theorem raiseFlags_stopped (fl : Flags) (st : Strand) : (raiseFlags fl st).stopped = st.stopped := rfl
@[simp] theorem raiseFlags_depth (fl : Flags) (st : Strand) : (raiseFlags fl st).depth = st.depth := rfl
@[simp] theorem raiseFlags_record (fl : Flags) (st : Strand) : (raiseFlags fl st).record = st.record := rfl
@[simp] theorem raiseFlags_spill (fl : Flags) (st : Strand) : (raiseFlags fl st).spill = st.spill := rfl

/-- An issued word leaves every register and every record of its strand but the issue bookkeeping. -/
theorem leaveWord_keeps (now : Nat) (g : Guard) (sp : WSpec) (lv : Leave) (sk : Bool) (st : Strand) :
    let t := leaveWord now g sp lv sk st
    t.v = st.v ∧ t.preds = st.preds ∧ t.rs = st.rs ∧ t.csp = st.csp ∧ t.stat = st.stat ∧ t.fpf = st.fpf ∧ t.pend = st.pend ∧
    t.held = st.held ∧ t.divs = st.divs ∧ t.ops = st.ops ∧ t.next = st.next ∧ t.sync = st.sync ∧ t.mode = st.mode ∧
    t.fault = st.fault ∧ t.trap = st.trap ∧ t.stopped = st.stopped ∧ t.depth = st.depth ∧ t.record = st.record ∧ t.spill = st.spill := by
  unfold leaveWord
  simp only
  split
  · split <;> simp
  · simp
  · split
    · split <;> simp
    · simp

/-- A return from a trap leaves every register, stack and count of the strand but the status word, the program counter and what
resumes with it. -/
theorem leaveHandler_keeps (b : Bool) (now : Nat) (st : Strand) :
    let t := leaveHandler b now st
    t.v = st.v ∧ t.preds = st.preds ∧ t.rs = st.rs ∧ t.csp = st.csp ∧ t.fpf = st.fpf ∧ t.pend = st.pend ∧ t.held = st.held ∧
    t.ops = st.ops ∧ t.next = st.next ∧ t.sync = st.sync ∧ t.trap = st.trap ∧ t.mode = .running ∧ t.stat = st.stat &&& ~~~8#32 := by
  unfold leaveHandler
  split
  · simp
  · simp only
    split <;> simp [*]

/-- A fold whose every step changes the cords alone changes the cords alone. -/
theorem foldl_cords {α : Type} (f : State → α → State) (hf : ∀ s x, ∃ cs, f s x = { s with cords := cs }) (l : List α) (s : State) :
    ∃ cs, l.foldl f s = { s with cords := cs } := by
  induction l generalizing s with
  | nil => exact ⟨s.cords, rfl⟩
  | cons x l ih =>
    obtain ⟨c1, h1⟩ := hf s x
    obtain ⟨c2, h2⟩ := ih (f s x)
    exact ⟨c2, by rw [List.foldl_cons, h2, h1]⟩

/-- Writing results changes the cords alone. -/
theorem writeRegs_only (s : State) (h : Here) (ws : List (Reg × BitVec 64)) (t : Nat) (var : Bool) :
    ∃ cs, writeRegs s h ws t var = { s with cords := cs } :=
  foldl_cords _ (fun s w => by
    split
    · exact ⟨_, rfl⟩
    · split
      · exact ⟨s.cords, rfl⟩
      · exact ⟨_, rfl⟩
    · exact ⟨_, rfl⟩) ws s

/-- Holding registers changes the cords alone. -/
theorem holdRegs_only (s : State) (h : Here) (u : Nat) (rs : List Reg) : ∃ cs, holdRegs s h u rs = { s with cords := cs } :=
  foldl_cords _ (fun s r => by
    split
    · exact ⟨_, rfl⟩
    · split
      · exact ⟨s.cords, rfl⟩
      · exact ⟨_, rfl⟩
    · exact ⟨_, rfl⟩) rs s

@[simp] theorem writeRegs_modules (s : State) (h : Here) (ws : List (Reg × BitVec 64)) (t : Nat) (var : Bool) :
    (writeRegs s h ws t var).modules = s.modules := by
  obtain ⟨cs, hc⟩ := writeRegs_only s h ws t var
  rw [hc]

@[simp] theorem holdRegs_modules (s : State) (h : Here) (u : Nat) (rs : List Reg) : (holdRegs s h u rs).modules = s.modules := by
  obtain ⟨cs, hc⟩ := holdRegs_only s h u rs
  rw [hc]

@[simp] theorem writeRegs_pod (s : State) (h : Here) (ws : List (Reg × BitVec 64)) (t : Nat) (var : Bool) :
    (writeRegs s h ws t var).pod = s.pod := by
  obtain ⟨cs, hc⟩ := writeRegs_only s h ws t var
  rw [hc]

@[simp] theorem holdRegs_pod (s : State) (h : Here) (u : Nat) (rs : List Reg) : (holdRegs s h u rs).pod = s.pod := by
  obtain ⟨cs, hc⟩ := holdRegs_only s h u rs
  rw [hc]

@[simp] theorem writeRegs_contexts (s : State) (h : Here) (ws : List (Reg × BitVec 64)) (t : Nat) (var : Bool) :
    (writeRegs s h ws t var).contexts = s.contexts := by
  obtain ⟨cs, hc⟩ := writeRegs_only s h ws t var
  rw [hc]

@[simp] theorem holdRegs_contexts (s : State) (h : Here) (u : Nat) (rs : List Reg) : (holdRegs s h u rs).contexts = s.contexts := by
  obtain ⟨cs, hc⟩ := holdRegs_only s h u rs
  rw [hc]

@[simp] theorem writeRegs_mem (s : State) (h : Here) (ws : List (Reg × BitVec 64)) (t : Nat) (var : Bool) :
    (writeRegs s h ws t var).mem = s.mem := by
  obtain ⟨cs, hc⟩ := writeRegs_only s h ws t var
  rw [hc]

@[simp] theorem holdRegs_mem (s : State) (h : Here) (u : Nat) (rs : List Reg) : (holdRegs s h u rs).mem = s.mem := by
  obtain ⟨cs, hc⟩ := holdRegs_only s h u rs
  rw [hc]

@[simp] theorem writeRegs_tokens (s : State) (h : Here) (ws : List (Reg × BitVec 64)) (t : Nat) (var : Bool) :
    (writeRegs s h ws t var).tokens = s.tokens := by
  obtain ⟨cs, hc⟩ := writeRegs_only s h ws t var
  rw [hc]

@[simp] theorem holdRegs_tokens (s : State) (h : Here) (u : Nat) (rs : List Reg) : (holdRegs s h u rs).tokens = s.tokens := by
  obtain ⟨cs, hc⟩ := holdRegs_only s h u rs
  rw [hc]

@[simp] theorem writeRegs_poison (s : State) (h : Here) (ws : List (Reg × BitVec 64)) (t : Nat) (var : Bool) :
    (writeRegs s h ws t var).poison = s.poison := by
  obtain ⟨cs, hc⟩ := writeRegs_only s h ws t var
  rw [hc]

@[simp] theorem holdRegs_poison (s : State) (h : Here) (u : Nat) (rs : List Reg) : (holdRegs s h u rs).poison = s.poison := by
  obtain ⟨cs, hc⟩ := holdRegs_only s h u rs
  rw [hc]

@[simp] theorem writeRegs_frames (s : State) (h : Here) (ws : List (Reg × BitVec 64)) (t : Nat) (var : Bool) :
    (writeRegs s h ws t var).frames = s.frames := by
  obtain ⟨cs, hc⟩ := writeRegs_only s h ws t var
  rw [hc]

@[simp] theorem holdRegs_frames (s : State) (h : Here) (u : Nat) (rs : List Reg) : (holdRegs s h u rs).frames = s.frames := by
  obtain ⟨cs, hc⟩ := holdRegs_only s h u rs
  rw [hc]

@[simp] theorem writeRegs_moves (s : State) (h : Here) (ws : List (Reg × BitVec 64)) (t : Nat) (var : Bool) :
    (writeRegs s h ws t var).moves = s.moves := by
  obtain ⟨cs, hc⟩ := writeRegs_only s h ws t var
  rw [hc]

@[simp] theorem holdRegs_moves (s : State) (h : Here) (u : Nat) (rs : List Reg) : (holdRegs s h u rs).moves = s.moves := by
  obtain ⟨cs, hc⟩ := holdRegs_only s h u rs
  rw [hc]

@[simp] theorem writeRegs_arrivals (s : State) (h : Here) (ws : List (Reg × BitVec 64)) (t : Nat) (var : Bool) :
    (writeRegs s h ws t var).arrivals = s.arrivals := by
  obtain ⟨cs, hc⟩ := writeRegs_only s h ws t var
  rw [hc]

@[simp] theorem holdRegs_arrivals (s : State) (h : Here) (u : Nat) (rs : List Reg) : (holdRegs s h u rs).arrivals = s.arrivals := by
  obtain ⟨cs, hc⟩ := holdRegs_only s h u rs
  rw [hc]

@[simp] theorem writeRegs_order (s : State) (h : Here) (ws : List (Reg × BitVec 64)) (t : Nat) (var : Bool) :
    (writeRegs s h ws t var).order = s.order := by
  obtain ⟨cs, hc⟩ := writeRegs_only s h ws t var
  rw [hc]

@[simp] theorem writeRegs_loads (s : State) (h : Here) (ws : List (Reg × BitVec 64)) (t : Nat) (var : Bool) :
    (writeRegs s h ws t var).loads = s.loads := by
  obtain ⟨cs, hc⟩ := writeRegs_only s h ws t var
  rw [hc]

@[simp] theorem holdRegs_order (s : State) (h : Here) (u : Nat) (rs : List Reg) : (holdRegs s h u rs).order = s.order := by
  obtain ⟨cs, hc⟩ := holdRegs_only s h u rs
  rw [hc]

@[simp] theorem holdRegs_loads (s : State) (h : Here) (u : Nat) (rs : List Reg) : (holdRegs s h u rs).loads = s.loads := by
  obtain ⟨cs, hc⟩ := holdRegs_only s h u rs
  rw [hc]

@[simp] theorem writeRegs_directory (s : State) (h : Here) (ws : List (Reg × BitVec 64)) (t : Nat) (var : Bool) :
    (writeRegs s h ws t var).directory = s.directory := by
  obtain ⟨cs, hc⟩ := writeRegs_only s h ws t var
  rw [hc]

@[simp] theorem holdRegs_directory (s : State) (h : Here) (u : Nat) (rs : List Reg) : (holdRegs s h u rs).directory = s.directory := by
  obtain ⟨cs, hc⟩ := holdRegs_only s h u rs
  rw [hc]

@[simp] theorem writeRegs_packets (s : State) (h : Here) (ws : List (Reg × BitVec 64)) (t : Nat) (var : Bool) :
    (writeRegs s h ws t var).packets = s.packets := by
  obtain ⟨cs, hc⟩ := writeRegs_only s h ws t var
  rw [hc]

@[simp] theorem holdRegs_packets (s : State) (h : Here) (u : Nat) (rs : List Reg) : (holdRegs s h u rs).packets = s.packets := by
  obtain ⟨cs, hc⟩ := holdRegs_only s h u rs
  rw [hc]

@[simp] theorem writeRegs_knotEvs (s : State) (h : Here) (ws : List (Reg × BitVec 64)) (t : Nat) (var : Bool) :
    (writeRegs s h ws t var).knotEvs = s.knotEvs := by
  obtain ⟨cs, hc⟩ := writeRegs_only s h ws t var
  rw [hc]

@[simp] theorem holdRegs_knotEvs (s : State) (h : Here) (u : Nat) (rs : List Reg) : (holdRegs s h u rs).knotEvs = s.knotEvs := by
  obtain ⟨cs, hc⟩ := holdRegs_only s h u rs
  rw [hc]

@[simp] theorem writeRegs_rings (s : State) (h : Here) (ws : List (Reg × BitVec 64)) (t : Nat) (var : Bool) :
    (writeRegs s h ws t var).rings = s.rings := by
  obtain ⟨cs, hc⟩ := writeRegs_only s h ws t var
  rw [hc]

@[simp] theorem holdRegs_rings (s : State) (h : Here) (u : Nat) (rs : List Reg) : (holdRegs s h u rs).rings = s.rings := by
  obtain ⟨cs, hc⟩ := holdRegs_only s h u rs
  rw [hc]

@[simp] theorem writeRegs_wall (s : State) (h : Here) (ws : List (Reg × BitVec 64)) (t : Nat) (var : Bool) :
    (writeRegs s h ws t var).wall = s.wall := by
  obtain ⟨cs, hc⟩ := writeRegs_only s h ws t var
  rw [hc]

@[simp] theorem holdRegs_wall (s : State) (h : Here) (u : Nat) (rs : List Reg) : (holdRegs s h u rs).wall = s.wall := by
  obtain ⟨cs, hc⟩ := holdRegs_only s h u rs
  rw [hc]

@[simp] theorem writeRegs_todo (s : State) (h : Here) (ws : List (Reg × BitVec 64)) (t : Nat) (var : Bool) :
    (writeRegs s h ws t var).todo = s.todo := by
  obtain ⟨cs, hc⟩ := writeRegs_only s h ws t var
  rw [hc]

@[simp] theorem holdRegs_todo (s : State) (h : Here) (u : Nat) (rs : List Reg) : (holdRegs s h u rs).todo = s.todo := by
  obtain ⟨cs, hc⟩ := holdRegs_only s h u rs
  rw [hc]

@[simp] theorem writeRegs_recalls (s : State) (h : Here) (ws : List (Reg × BitVec 64)) (t : Nat) (var : Bool) :
    (writeRegs s h ws t var).recalls = s.recalls := by
  obtain ⟨cs, hc⟩ := writeRegs_only s h ws t var
  rw [hc]

@[simp] theorem holdRegs_recalls (s : State) (h : Here) (u : Nat) (rs : List Reg) : (holdRegs s h u rs).recalls = s.recalls := by
  obtain ⟨cs, hc⟩ := holdRegs_only s h u rs
  rw [hc]

@[simp] theorem writeRegs_inputs (s : State) (h : Here) (ws : List (Reg × BitVec 64)) (t : Nat) (var : Bool) :
    (writeRegs s h ws t var).inputs = s.inputs := by
  obtain ⟨cs, hc⟩ := writeRegs_only s h ws t var
  rw [hc]

@[simp] theorem holdRegs_inputs (s : State) (h : Here) (u : Nat) (rs : List Reg) : (holdRegs s h u rs).inputs = s.inputs := by
  obtain ⟨cs, hc⟩ := holdRegs_only s h u rs
  rw [hc]

@[simp] theorem writeRegs_choices (s : State) (h : Here) (ws : List (Reg × BitVec 64)) (t : Nat) (var : Bool) :
    (writeRegs s h ws t var).choices = s.choices := by
  obtain ⟨cs, hc⟩ := writeRegs_only s h ws t var
  rw [hc]

@[simp] theorem holdRegs_choices (s : State) (h : Here) (u : Nat) (rs : List Reg) : (holdRegs s h u rs).choices = s.choices := by
  obtain ⟨cs, hc⟩ := holdRegs_only s h u rs
  rw [hc]

@[simp] theorem writeRegs_uid (s : State) (h : Here) (ws : List (Reg × BitVec 64)) (t : Nat) (var : Bool) :
    (writeRegs s h ws t var).uid = s.uid := by
  obtain ⟨cs, hc⟩ := writeRegs_only s h ws t var
  rw [hc]

@[simp] theorem holdRegs_uid (s : State) (h : Here) (u : Nat) (rs : List Reg) : (holdRegs s h u rs).uid = s.uid := by
  obtain ⟨cs, hc⟩ := holdRegs_only s h u rs
  rw [hc]

/-! The end-to-end timers: nothing but the packets changes. -/

@[simp] theorem retime_pod (s t : State) : (retime s t).pod = t.pod := rfl
@[simp] theorem retime_contexts (s t : State) : (retime s t).contexts = t.contexts := rfl
@[simp] theorem retime_cords (s t : State) : (retime s t).cords = t.cords := rfl
@[simp] theorem retime_mem (s t : State) : (retime s t).mem = t.mem := rfl
@[simp] theorem retime_tokens (s t : State) : (retime s t).tokens = t.tokens := rfl
@[simp] theorem retime_poison (s t : State) : (retime s t).poison = t.poison := rfl
@[simp] theorem retime_frames (s t : State) : (retime s t).frames = t.frames := rfl
@[simp] theorem retime_moves (s t : State) : (retime s t).moves = t.moves := rfl
@[simp] theorem retime_arrivals (s t : State) : (retime s t).arrivals = t.arrivals := rfl
@[simp] theorem retime_order (s t : State) : (retime s t).order = t.order := rfl
@[simp] theorem retime_loads (s t : State) : (retime s t).loads = t.loads := rfl
@[simp] theorem retime_directory (s t : State) : (retime s t).directory = t.directory := rfl
@[simp] theorem retime_recalls (s t : State) : (retime s t).recalls = t.recalls := rfl
@[simp] theorem retime_knotEvs (s t : State) : (retime s t).knotEvs = t.knotEvs := rfl
@[simp] theorem retime_rings (s t : State) : (retime s t).rings = t.rings := rfl
@[simp] theorem retime_wall (s t : State) : (retime s t).wall = t.wall := rfl
@[simp] theorem retime_todo (s t : State) : (retime s t).todo = t.todo := rfl
@[simp] theorem retime_inputs (s t : State) : (retime s t).inputs = t.inputs := rfl
@[simp] theorem retime_choices (s t : State) : (retime s t).choices = t.choices := rfl
@[simp] theorem retime_uid (s t : State) : (retime s t).uid = t.uid := rfl
@[simp] theorem retime_modules (s t : State) : (retime s t).modules = t.modules := rfl

end Sys2Proof.Laws
end

