-- ==== Sys2Proof/Laws/Words.lean ====
section
/-!
SUPPORT. What the shared operation of the words can do.
-/
namespace Sys2Proof.Laws
open Sys2Proof.Machine Sys2Proof.Safety

/-- A word that issues and meets no precise fault of its own has its effect and leaves. -/
theorem runWord_issues {i : Instr} {g : Guard} {spec : Here → State → WSpec} {check : Here → State → Option PFault}
    {leave : Here → State → Leave} {effect : Here → State → State} {s : State} {h : Here}
    (hi : Issues s h g (spec h s)) (hc : check h s = none) :
    runWord i g spec check leave effect s = .next (left (effect h s) h g (spec h s) (leave h s)) := by
  obtain ⟨h1, h2, h3, h4, h5, h6, h7, h8, h9, h10⟩ := hi
  simp [runWord, issueGuard, issueSpec, h1, h2, h3, h4, h5, h6, h7, h8, h9, h10, hc, left]

/-- A word that issues and meets a precise fault of its own stops the strand before it, with nothing else changed. -/
theorem runWord_stops {i : Instr} {g : Guard} {spec : Here → State → WSpec} {check : Here → State → Option PFault}
    {leave : Here → State → Leave} {effect : Here → State → State} {s : State} {h : Here} {f : PFault}
    (hi : Issues s h g (spec h s)) (hc : check h s = some f) :
    runWord i g spec check leave effect s = .next (stopHere s h f) := by
  obtain ⟨h1, h2, h3, h4, h5, h6, h7, h8, h9, h10⟩ := hi
  simp [runWord, issueGuard, issueSpec, h1, h2, h3, h4, h5, h6, h7, h8, h9, h10, hc]

/-- A register word that issues. -/
theorem regWord_issues {i : Instr} {g : Guard} {reads writes : List Reg} {lat : Nat} {f : Here → List (Reg × BitVec 64)}
    {s : State} {h : Here} (hi : Issues s h g { reads := reads, writes := writes, lat := lat }) :
    regWord i g reads writes lat f s =
      .next (left (writeRegs s h (f h) (h.now + lat) false) h g { reads := reads, writes := writes, lat := lat } {}) :=
  runWord_issues (spec := fun _ _ => { reads := reads, writes := writes, lat := lat }) hi rfl

/-- A polling word that has issued and finds what it waits for has its effect and leaves; its guard and its registers are read no more. -/
theorem runWord_polled {i : Instr} {g : Guard} {spec : Here → State → WSpec} {check : Here → State → Option PFault}
    {leave : Here → State → Leave} {effect : Here → State → State} {s : State} {h : Here}
    (hi : Polled s h (spec h s)) (hc : check h s = none) :
    runWord i g spec check leave effect s = .next (left (effect h s) h { g with pred := 7 } { spec h s with reads := [] } (leave h s)) := by
  obtain ⟨h1, h2, h3, h4, h5, h6⟩ := hi
  unfold runWord
  simp [issueGuard, issueSpec, guardRegs, stallFault, rdP, h1, h2, h3, hc, left, -Bool.or_eq_true]
  rw [h4, h5, h6]
  simp

/-- Everything a word can do: it leaves the machine as it is when no strand is current; otherwise it passes the strand over,
holds it, skips the word, stops the strand with a precise fault, or has its effect and leaves. -/
theorem runWord_cases {i : Instr} {g : Guard} {spec : Here → State → WSpec} {check : Here → State → Option PFault}
    {leave : Here → State → Leave} {effect : Here → State → State} {s : State} {h : Here} (hh : here s = some h) :
    runWord i g spec check leave effect s = .next (popTodo s) ∨
    (∃ sp, runWord i g spec check leave effect s = .next (passHere s h sp)) ∨
    runWord i g spec check leave effect s =
      .next (popTodo (modHere s h (leaveWord h.now (issueGuard h g) (issueSpec h (spec h s)) {} true))) ∨
    (∃ f, runWord i g spec check leave effect s = .next (stopHere s h f)) ∨
    (check h s = none ∧ runWord i g spec check leave effect s =
      .next (left (effect h s) h (issueGuard h g) (issueSpec h (spec h s)) (leave h s))) := by
  unfold runWord
  simp only [hh]
  generalize issueGuard h g = g'
  generalize issueSpec h (spec h s) = sp
  generalize (spec h s).reads = rs
  split
  · split
    · exact .inr (.inr (.inr (.inl ⟨_, rfl⟩)))
    · exact .inl rfl
  split
  · exact .inr (.inl ⟨_, rfl⟩)
  split
  · exact .inr (.inr (.inr (.inl ⟨_, rfl⟩)))
  split
  · exact .inr (.inr (.inl rfl))
  split
  · exact .inr (.inr (.inr (.inl ⟨_, rfl⟩)))
  split
  · exact .inr (.inl ⟨_, rfl⟩)
  split
  · split
    · exact .inr (.inr (.inr (.inl ⟨_, rfl⟩)))
    · exact .inr (.inl ⟨_, rfl⟩)
  split
  · exact .inr (.inr (.inr (.inl ⟨_, rfl⟩)))
  split
  · exact .inr (.inr (.inr (.inl ⟨_, rfl⟩)))
  · rename_i hc
    exact .inr (.inr (.inr (.inr ⟨hc, rfl⟩)))

/-- Without a current strand a word does nothing. -/
theorem runWord_none {i : Instr} {g : Guard} {spec : Here → State → WSpec} {check : Here → State → Option PFault}
    {leave : Here → State → Leave} {effect : Here → State → State} {s : State} (hh : here s = none) :
    runWord i g spec check leave effect s = .next s := by simp [runWord, hh]

end Sys2Proof.Laws
end

