-- ==== Sys2Proof/Laws/Frames.lean ====
section
/-!
SUPPORT. Frames of the shared operations: what a word whose effect is known can change.
-/
namespace Sys2Proof.Laws
open Sys2Proof.Machine Sys2Proof.Safety

/-! ### The current strand -/

/-- What here finds: the cord and the strand of the selection at the head, and the die's cycle. -/
theorem here_finds {s : State} {h : Here} (hh : here s = some h) :
    s.todo.head? = some h.sel ∧ mget s.cords h.sel.cord = some h.cord ∧ mget h.cord.strands h.sel.lane = some h.st ∧
    h.now = cycOf s h.cord.dev h.cord.die := by
  unfold here at hh
  split at hh
  · cases hh
  · rename_i sel rest htodo
    split at hh
    · cases hh
    · rename_i c hc
      split at hh
      · cases hh
      · rename_i st hst
        obtain rfl := Option.some.inj hh
        simp [htodo, hc, hst]

/-- A change of the current strand puts what it makes of the strand. -/
theorem modHere_const {s : State} {h : Here} (hh : here s = some h) (f : Strand → Strand) :
    modHere s h f = modHere s h (fun _ => f h.st) := by
  obtain ⟨-, hc, hst, -⟩ := here_finds hh
  unfold modHere modStrand modCord
  rw [mmod_const s.cords h.sel.cord (fun c => { c with strands := mmod c.strands h.sel.lane f }) hc,
    mmod_const s.cords h.sel.cord (fun c => { c with strands := mmod c.strands h.sel.lane (fun _ => f h.st) }) hc,
    mmod_const h.cord.strands h.sel.lane f hst]

/-- Putting the strand back changes nothing. -/
theorem modHere_id {s : State} {h : Here} (hh : here s = some h) : modHere s h (fun _ => h.st) = s := by
  obtain ⟨-, hc, hst, -⟩ := here_finds hh
  unfold modHere modStrand modCord
  rw [mmod_const s.cords h.sel.cord _ hc, mmod_id h.cord.strands h.sel.lane hst, mmod_id s.cords h.sel.cord hc]

/-- Two changes of the current strand are one. -/
theorem modHere_modHere (s : State) (h : Here) (f g : Strand → Strand) :
    modHere (modHere s h f) h g = modHere s h (fun st => g (f st)) := by
  unfold modHere modStrand modCord
  simp only [mmod_mmod]

/-- Writing results to vector and predicate registers adds them to the strand's pending results and changes nothing else. -/
theorem writeRegs_strand (s : State) (h : Here) (ws : List (Reg × BitVec 64)) (t : Nat) (var : Bool) (rs : List Reg)
    (hw : ∀ w ∈ ws, w.1 ∈ rs ∧ ∀ n, w.1 ≠ .s n) (s' : State) (f : Strand → Strand) (hs : s = modHere s' h f) :
    ∃ new : List Pend, (∀ p ∈ new, p.reg ∈ rs) ∧
      writeRegs s h ws t var = modHere s' h (fun st => { f st with pend := (f st).pend ++ new }) := by
  subst hs
  unfold writeRegs
  induction ws generalizing f with
  | nil => exact ⟨[], by simp, by simp⟩
  | cons w ws ih =>
    obtain ⟨hin, hns⟩ := hw w (by simp)
    have hw' : ∀ x ∈ ws, x.1 ∈ rs ∧ ∀ n, x.1 ≠ .s n := fun x hx => hw x (List.mem_cons_of_mem _ hx)
    simp only [List.foldl_cons]
    split
    · rename_i n hn
      exact absurd hn (hns n)
    · split
      · exact ih hw' f
      · rw [modHere_modHere]
        obtain ⟨new, hnew, he⟩ := ih hw' (fun st => { f st with pend := (f st).pend ++ [⟨w.1, w.2, t, var⟩] })
        refine ⟨⟨w.1, w.2, t, var⟩ :: new, ?_, ?_⟩
        · rintro p (_ | ⟨_, hp⟩)
          · exact hin
          · exact hnew p hp
        · rw [he]; simp only [List.append_assoc, List.singleton_append]
    · rw [modHere_modHere]
      obtain ⟨new, hnew, he⟩ := ih hw' (fun st => { f st with pend := (f st).pend ++ [⟨w.1, w.2, t, var⟩] })
      refine ⟨⟨w.1, w.2, t, var⟩ :: new, ?_, ?_⟩
      · rintro p (_ | ⟨_, hp⟩)
        · exact hin
        · exact hnew p hp
      · rw [he]; simp only [List.append_assoc, List.singleton_append]

/-! ### Words -/

/-- A word always answers a next state. -/
theorem runWord_answers (i : Instr) (g : Guard) (spec : Here → State → WSpec) (check : Here → State → Option PFault)
    (leave : Here → State → Leave) (effect : Here → State → State) (s : State) :
    ∃ t, runWord i g spec check leave effect s = .next t := by
  cases hh : here s with
  | none => exact ⟨s, runWord_none hh⟩
  | some h =>
    rcases runWord_cases (i := i) (g := g) (spec := spec) (check := check) (leave := leave) (effect := effect) hh with
      h1 | ⟨_, h1⟩ | h1 | ⟨_, h1⟩ | ⟨_, h1⟩ <;> exact ⟨_, h1⟩

/-- A word whose effect leaves the bytes of memory leaves them whatever it does. -/
theorem runWord_mem {i : Instr} {g : Guard} {spec : Here → State → WSpec} {check : Here → State → Option PFault}
    {leave : Here → State → Leave} {effect : Here → State → State} {s t : State}
    (he : ∀ h, here s = some h → (effect h s).mem = s.mem) (ht : runWord i g spec check leave effect s = .next t) :
    t.mem = s.mem := by
  cases hh : here s with
  | none =>
    rw [runWord_none hh] at ht
    cases ht
    rfl
  | some h =>
    rcases runWord_cases (i := i) (g := g) (spec := spec) (check := check) (leave := leave) (effect := effect) hh with
      h1 | ⟨_, h1⟩ | h1 | ⟨_, h1⟩ | ⟨_, h1⟩ <;> rw [h1] at ht <;> cases ht <;> simp [left, he h hh]

/-- A strand as an issued, skipped, held or faulting word leaves it, but for its pending results. -/
theorem onlyWrites_of {s t : State} {h : Here} {rs : List Reg} (hh : here s = some h) (f : Strand → Strand) (new : List Pend)
    (hnew : ∀ p ∈ new, p.reg ∈ rs) (hp : (f h.st).pend = h.st.pend ++ new)
    (hk : (f h.st).v = h.st.v ∧ (f h.st).preds = h.st.preds ∧ (f h.st).rs = h.st.rs ∧ (f h.st).csp = h.st.csp ∧
      (f h.st).stat = h.st.stat ∧ (f h.st).fpf = h.st.fpf ∧ (f h.st).ops = h.st.ops ∧ (f h.st).next = h.st.next ∧
      (f h.st).sync = h.st.sync ∧ (f h.st).held = h.st.held ∧ (f h.st).divs = h.st.divs ∧ (f h.st).mode = h.st.mode ∧
      (f h.st).trap = h.st.trap)
    (ht : t = popTodo (modHere s h f)) : OnlyWrites s t h rs := by
  obtain ⟨k1, k2, k3, k4, k5, k6, k7, k8, k9, k10, k11, k12, k13⟩ := hk
  exact ⟨f h.st, by rw [ht, modHere_const hh f], k1, k2, k3, k4, k5, k6, k7, k8, k9, k10, k11, k12, k13, new, hp, hnew⟩

/-- The frame of a register word: nothing changes but its strand's issue bookkeeping and the results on the way to its
destinations. -/
theorem regWord_frame {i : Instr} {g : Guard} {reads writes : List Reg} {lat : Nat} {f : Here → List (Reg × BitVec 64)}
    {s t : State} {h : Here} {rs : List Reg} (hh : here s = some h) (hw : ∀ w ∈ f h, w.1 ∈ rs ∧ ∀ n, w.1 ≠ .s n)
    (ht : regWord i g reads writes lat f s = .next t) : OnlyWrites s t h rs := by
  unfold regWord at ht
  rcases runWord_cases (i := i) (g := g) (spec := fun _ _ => { reads := reads, writes := writes, lat := lat })
    (check := fun _ _ => none) (leave := fun _ _ => {})
    (effect := fun h s => writeRegs s h (f h) (h.now + lat) false) hh with h1 | ⟨_, h1⟩ | h1 | ⟨_, h1⟩ | ⟨_, h1⟩ <;>
    rw [h1] at ht <;> cases ht
  · exact onlyWrites_of hh id [] (by simp) (by simp) (by simp) (by rw [modHere_const hh id]; exact congrArg popTodo (modHere_id hh).symm)
  · exact onlyWrites_of hh _ [] (by simp) (by simp) (by simp) rfl
  · obtain ⟨k1, k2, k3, k4, k5, k6, k7, k8, k9, k10, k11, k12, k13, k14, k15, -⟩ :=
      leaveWord_keeps h.now (issueGuard h g) (issueSpec h { reads := reads, writes := writes, lat := lat }) {} true h.st
    exact onlyWrites_of hh _ [] (by simp) (by rw [List.append_nil]; exact k7) ⟨k1, k2, k3, k4, k5, k6, k10, k11, k12, k8, k9, k13, k15⟩ rfl
  · exact onlyWrites_of hh _ [] (by simp) (by simp) (by simp) rfl
  · obtain ⟨new, hnew, he⟩ := writeRegs_strand s h (f h) (h.now + lat) false rs hw s id
      (by rw [modHere_const hh id]; exact (modHere_id hh).symm)
    obtain ⟨k1, k2, k3, k4, k5, k6, k7, k8, k9, k10, k11, k12, k13, k14, k15, -⟩ :=
      leaveWord_keeps h.now (issueGuard h g) (issueSpec h { reads := reads, writes := writes, lat := lat }) {} false { h.st with pend := h.st.pend ++ new }
    refine onlyWrites_of hh (fun st => leaveWord h.now (issueGuard h g) (issueSpec h { reads := reads, writes := writes, lat := lat }) {} false
      { st with pend := st.pend ++ new }) new hnew k7 ⟨k1, k2, k3, k4, k5, k6, k10, k11, k12, k8, k9, k13, k15⟩ ?_
    simp only [left, he, modHere_modHere, id_eq]

end Sys2Proof.Laws
end

