-- ==== Sys2Proof/Laws/Home.lean ====
section
/-!
SUPPORT. What the reading side of the memory system can change: caches, ports, SEC-DED, the arbiters' orders and packets, but no byte of
memory, no token record, no frame, no context, no cord and no request that has been sent.
-/
namespace Sys2Proof.Laws
open Sys2Proof.Machine

/-- Two states with the same bytes, records, frames, contexts, cords and sent requests. -/
structure SameData (s t : State) : Prop where
  mem : t.mem = s.mem
  tokens : t.tokens = s.tokens
  frames : t.frames = s.frames
  contexts : t.contexts = s.contexts
  cords : t.cords = s.cords
  arrivals : t.arrivals = s.arrivals

theorem SameData.refl (s : State) : SameData s s := ⟨rfl, rfl, rfl, rfl, rfl, rfl⟩

theorem SameData.trans {s t u : State} (h : SameData s t) (k : SameData t u) : SameData s u :=
  ⟨k.1.trans h.1, k.2.trans h.2, k.3.trans h.3, k.4.trans h.4, k.5.trans h.5, k.6.trans h.6⟩

theorem SameData.foldl {α : Type} {f : State → α → State} (hf : ∀ s a, SameData s (f s a)) (s : State) (xs : List α) :
    SameData s (xs.foldl f s) := by
  induction xs generalizing s with
  | nil => exact .refl s
  | cons x xs ih => exact (hf s x).trans (ih (f s x))

theorem modDie_same (s : State) (dev die : Nat) (f : Die → Die) : SameData s (modDie s dev die f) := ⟨rfl, rfl, rfl, rfl, rfl, rfl⟩

theorem modCore_same (s : State) (dev die core : Nat) (f : Core → Core) : SameData s (modCore s dev die core f) :=
  ⟨rfl, rfl, rfl, rfl, rfl, rfl⟩

theorem checkWords_same (s : State) (ws : List Nat) : SameData s (checkWords s ws) := by
  refine .foldl (fun s w => ?_) s ws
  simp only
  split
  · exact ⟨rfl, rfl, rfl, rfl, rfl, rfl⟩
  · split <;> exact ⟨rfl, rfl, rfl, rfl, rfl, rfl⟩

theorem portEnqueue_same (s : State) (read : Bool) (bs : List (Nat × BitVec 8)) : SameData s (portEnqueue s read bs) := by
  unfold portEnqueue
  split
  · exact .refl s
  · split
    · exact .refl s
    · exact modDie_same ..

theorem portRegions_same (s : State) (read : Bool) (as : List Nat) : SameData s (portRegions s read as) :=
  .foldl (fun s _ => portEnqueue_same s ..) s _

theorem llcDrop_same (s : State) (dev die r : Nat) : SameData s (llcDrop s dev die r) := by
  unfold llcDrop
  split
  · exact (portEnqueue_same ..).trans (modDie_same ..)
  · exact ⟨rfl, rfl, rfl, rfl, rfl, rfl⟩

theorem llcFit_same (n : Nat) (s : State) (dev die : Nat) : SameData s (llcFit n s dev die) := by
  induction n generalizing s with
  | zero => exact .refl s
  | succ n ih =>
    unfold llcFit
    split
    · exact .refl s
    · split
      · exact (llcDrop_same ..).trans (ih _)
      · exact .refl s

theorem llcPut_same (s : State) (hint : BitVec 32) (as dirty : List Nat) : SameData s (llcPut s hint as dirty) := by
  refine .foldl (fun s r => ?_) s _
  split
  · exact .refl s
  · exact (modDie_same ..).trans (llcFit_same ..)

/-- A home's read. -/
theorem homeRead_same (s : State) (hint : BitVec 32) (as : List Nat) : SameData s (homeRead s hint as) :=
  ((checkWords_same ..).trans (portRegions_same ..)).trans (llcPut_same ..)

theorem arbitrate_same (s : State) (kind : OpKind) (p : Option Party) (as : List Nat) : SameData s (arbitrate s kind p as) :=
  ⟨rfl, rfl, rfl, rfl, rfl, rfl⟩

theorem directoryWrite_same (s : State) (c : CoreId) (as : List Nat) : SameData s (directoryWrite s c as) :=
  ⟨rfl, rfl, rfl, rfl, rfl, rfl⟩

theorem directoryRead_same (s : State) (c : CoreId) (hint : BitVec 32) (as : List Nat) : SameData s (directoryRead s c hint as) := by
  simp only [directoryRead]
  split
  · exact .refl s
  · refine SameData.trans ?_ (llcFit_same ..)
    refine SameData.foldl (fun t r => ?_) s _
    exact ⟨rfl, rfl, rfl, rfl, rfl, rfl⟩

/-- A read that the local LLC or the home serves. -/
theorem readTouch_same (s : State) (c : CoreId) (hint : BitVec 32) (as : List Nat) : SameData s (readTouch s c hint as) := by
  unfold readTouch
  split
  · exact directoryRead_same ..
  · exact (homeRead_same ..).trans (directoryRead_same ..)

/-- A table walk. -/
theorem walkTouch_same (s : State) (c : CoreId) (ctx va : Nat) : SameData s (walkTouch s c ctx va) := by
  unfold walkTouch
  split
  · exact .refl s
  · exact .foldl (fun s _ => readTouch_same s ..) s _

theorem tlbForget_same (s : State) (c : CoreId) (ctx : Nat) (vas : List Nat) : SameData s (tlbForget s c ctx vas) := modCore_same ..

/-- A fresh translation of an address. -/
theorem freshTrans_same (s : State) (c : CoreId) (ctx va : Nat) : SameData s (freshTrans s c ctx va) := by
  have h : ∀ t : State, SameData s t → SameData s (match tlbFind (coreOf t c.dev c.die c.core) ctx va with
      | some _ => t
      | none =>
        match walk (walkTouch t c ctx va) ctx c.dev va with
        | some e => modCore (walkTouch t c ctx va) c.dev c.die c.core (tlbFill e)
        | none => walkTouch t c ctx va) := by
    intro t ht
    split
    · exact ht
    · split
      · exact (ht.trans (walkTouch_same ..)).trans (modCore_same ..)
      · exact ht.trans (walkTouch_same ..)
  unfold freshTrans
  apply h
  split
  · split
    · exact .refl s
    · exact tlbForget_same ..
  · exact .refl s

/-- The translations and the reads of an engine operation. -/
theorem engineTrans_same (s : State) (c : Cord) (vas : List Nat) : SameData s (engineTrans s c vas) :=
  .foldl (fun s _ => freshTrans_same s ..) s _

theorem engineTouch_same (s : State) (c : Cord) (hint : BitVec 32) (vas : List Nat) : SameData s (engineTouch s c hint vas) :=
  (engineTrans_same ..).trans (.foldl (fun s _ => ((arbitrate_same s ..).trans (homeRead_same ..)).trans (directoryRead_same ..)) _ _)

/-- A translation that an access or a step needs. -/
theorem walkFor_same (s : State) (c : CoreId) (ctx va : Nat) : SameData s (walkFor s c ctx va) := by
  unfold walkFor
  split
  · exact .refl s
  · dsimp only
    split
    · exact walkTouch_same ..
    · exact (walkTouch_same ..).trans (modCore_same ..)

/-- A request is refused for a race of its own bytes, or for one of the bytes its access still has to be performed in its region. -/
theorem requestRace_cases (s : State) (r : Req) : SameData s (requestRace s r).2 ∧
    ((requestRace s r).1 = raceOf s r ∨ besideOf s r ≠ [] ∧ (requestRace s r).1 = (r :: besideOf s r).findSome? (raceOf s)) := by
  unfold requestRace
  split
  · exact ⟨.refl s, .inl rfl⟩
  · rename_i h
    refine ⟨⟨rfl, rfl, rfl, rfl, rfl, rfl⟩, ?_⟩
    dsimp only
    split
    · exact .inr ⟨by simpa using h, rfl⟩
    · exact .inl rfl

/-- An abandoned wait changes its strand and its pool entry alone. -/
theorem abandonWait_keeps (s : State) (k l : Nat) : (abandonWait s k l).mem = s.mem ∧ (abandonWait s k l).tokens = s.tokens ∧
    (abandonWait s k l).frames = s.frames ∧ (abandonWait s k l).arrivals = s.arrivals ∧ (abandonWait s k l).packets = s.packets ∧
    (abandonWait s k l).modules = s.modules := by
  unfold abandonWait
  repeat' split
  all_goals simp

end Sys2Proof.Laws
end

