-- ==== Sys2Proof/Tests/Slice0.lean ====
section
/-!
SUPPORT. Tests: ill-formed terms, words written out field by field from the encoding tables of spec/05_formats_and_opcode_map.md and
spec/opcode_table.json, single steps on a small state, and for each statement with hypotheses a state that meets them.
-/
namespace Sys2Proof.Tests
open Sys2Proof.Machine Sys2Proof.Safety
set_option Elab.async false
set_option maxRecDepth 4000

/-! ### Well-formed terms -/

/-- Each check refuses a term (R101 to R112, R276, R277, R317, R404). -/
theorem test_ill_formed_registers :
    [Instr.lea ⟨7, 0⟩ 3 2 1, .popcD ⟨7, 0⟩ 4 9, .shlD ⟨7, 0⟩ 5 2, .acasD ⟨7, 0⟩ 6 2 1, .icmp ⟨7, 0⟩ 10 1 3 2, .mvs ⟨7, 0⟩ 4 64,
      .movs ⟨7, 0⟩ 64 4, .pand ⟨7, 0⟩ 1 8 2, .pnot ⟨7, 0⟩ 1 8, .elect ⟨7, 0⟩ 8 2, .tdef ⟨7, 0⟩ 16 0, .tcopy ⟨7, 0⟩ 49, .press ⟨7, 0⟩ 16 0,
      .mma ⟨7, 0⟩ 97 0 0 0, .mma ⟨7, 0⟩ 98 0 0 0, .skext ⟨7, 0⟩ 4 32, .skbind ⟨7, 0⟩ 16 0, .rsend ⟨7, 0⟩ 62, .esend ⟨7, 0⟩ 61,
      .tsend ⟨7, 0⟩ 64 0, .mfs ⟨7, 0⟩ 3 10, .mts ⟨7, 0⟩ 3 10, .ld ⟨7, 0⟩ 3 2 5, .ld ⟨7, 0⟩ 6 2 6].any Instr.wellFormed = false := by decide

theorem test_ill_formed_functions :
    [Instr.cvt ⟨7, 0⟩ 1 2 1 1, .cvt ⟨7, 0⟩ 1 2 1 10, .ld ⟨7, 0⟩ 4 2 7, .ldAcq ⟨7, 0⟩ 4 2 4 0, .ldAcq ⟨7, 0⟩ 4 2 4 7, .st ⟨7, 0⟩ 4 2 1,
      .lds ⟨7, 0⟩ 4 2 7, .sts ⟨7, 0⟩ 4 2 3, .ldo ⟨7, 0⟩ 4 2 6, .amoAdd ⟨7, 0⟩ 4 2 0, .fence ⟨7, 0⟩ 7, .hintCache ⟨7, 0⟩ 3 0,
      .hintCache ⟨7, 0⟩ 0 3, .red ⟨7, 0⟩ 4 2 11, .bar ⟨7, 0⟩ 2 0, .bar ⟨7, 0⟩ 2 6, .barcfg ⟨7, 0⟩ 2 7, .mfs ⟨7, 0⟩ 4 14,
      .mts ⟨7, 0⟩ 4 11].any Instr.wellFormed = false := by decide

/-! ### Decoding

Every constructor of a word, its word written as predicate, stall, major and payload fields. -/

theorem test_decode_majors_01_0C :
    decode 0b010_01_000001_0001100_0001000_0010100#32 = .ok (.iadd ⟨2, 1⟩ 12 8 20) ∧
    decode 0b010_01_000010_0001100_0001000_0010100#32 = .ok (.isub ⟨2, 1⟩ 12 8 20) ∧
    decode 0b010_01_000011_0001100_0001000_0010100#32 = .ok (.imul ⟨2, 1⟩ 12 8 20) ∧
    decode 0b010_01_000100_0001100_0001000_0010100#32 = .ok (.imad ⟨2, 1⟩ 12 8 20) ∧
    decode 0b010_01_000101_0001100_0001000_0010100#32 = .ok (.and ⟨2, 1⟩ 12 8 20) ∧
    decode 0b010_01_000110_0001100_0001000_0010100#32 = .ok (.or ⟨2, 1⟩ 12 8 20) ∧
    decode 0b010_01_000111_0001100_0001000_0010100#32 = .ok (.xor ⟨2, 1⟩ 12 8 20) ∧
    decode 0b010_01_001000_0001100_0001000_0010100#32 = .ok (.shl ⟨2, 1⟩ 12 8 20) ∧
    decode 0b010_01_001001_0001100_0001000_0010100#32 = .ok (.shr ⟨2, 1⟩ 12 8 20) ∧
    decode 0b010_01_001010_0110_011_0010100_0000100#32 = .ok (.icmp ⟨2, 1⟩ 6 3 20 4) ∧
    decode 0b010_01_001011_0001100_0001000_0010100#32 = .ok (.sel ⟨2, 1⟩ 12 8 20) ∧
    decode 0b010_01_001100_0001100_0001000_0010100#32 = .ok (.lea ⟨2, 1⟩ 12 8 20) := by decide

theorem test_decode_majors_0D_0F_1 :
    decode 0b010_01_001101_0001100_0001000_0010100#32 = .ok (.bfi ⟨2, 1⟩ 12 8 20) ∧
    decode 0b010_01_001110_0001100_0001000_0010100#32 = .ok (.idp4 ⟨2, 1⟩ 12 8 20) ∧
    decode 0b010_01_001111_0001100_0001000_0000000#32 = .ok (.imulh ⟨2, 1⟩ 12 8) ∧
    decode 0b010_01_001111_0001100_0001000_0000001#32 = .ok (.imulhUns ⟨2, 1⟩ 12 8) ∧
    decode 0b010_01_001111_0001100_0001000_0000010#32 = .ok (.idiv ⟨2, 1⟩ 12 8) ∧
    decode 0b010_01_001111_0001100_0001000_0000011#32 = .ok (.idivUns ⟨2, 1⟩ 12 8) ∧
    decode 0b010_01_001111_0001100_0001000_0000100#32 = .ok (.irem ⟨2, 1⟩ 12 8) ∧
    decode 0b010_01_001111_0001100_0001000_0000101#32 = .ok (.iremUns ⟨2, 1⟩ 12 8) ∧
    decode 0b010_01_001111_0001100_0001000_0000110#32 = .ok (.imin ⟨2, 1⟩ 12 8) ∧
    decode 0b010_01_001111_0001100_0001000_0000111#32 = .ok (.iminUns ⟨2, 1⟩ 12 8) ∧
    decode 0b010_01_001111_0001100_0001000_0001000#32 = .ok (.imax ⟨2, 1⟩ 12 8) ∧
    decode 0b010_01_001111_0001100_0001000_0001001#32 = .ok (.imaxUns ⟨2, 1⟩ 12 8) ∧
    decode 0b010_01_001111_0001100_0001000_0001010#32 = .ok (.andn ⟨2, 1⟩ 12 8) ∧
    decode 0b010_01_001111_0001100_0001000_0001011#32 = .ok (.sar ⟨2, 1⟩ 12 8) ∧
    decode 0b010_01_001111_0001100_0001000_0001100#32 = .ok (.rotl ⟨2, 1⟩ 12 8) ∧
    decode 0b010_01_001111_0001100_0001000_0001101#32 = .ok (.bfx ⟨2, 1⟩ 12 8) := by decide

theorem test_decode_majors_0D_0F_2 :
    decode 0b010_01_001111_0001100_0001000_0001110#32 = .ok (.bfxUns ⟨2, 1⟩ 12 8) ∧
    decode 0b010_01_001111_0001100_0001000_0100000#32 = .ok (.iaddD ⟨2, 1⟩ 12 8) ∧
    decode 0b010_01_001111_0001100_0001000_0100001#32 = .ok (.isubD ⟨2, 1⟩ 12 8) ∧
    decode 0b010_01_001111_0001100_0001000_0100010#32 = .ok (.imulD ⟨2, 1⟩ 12 8) ∧
    decode 0b010_01_001111_0001100_0001000_0100011#32 = .ok (.andD ⟨2, 1⟩ 12 8) ∧
    decode 0b010_01_001111_0001100_0001000_0100100#32 = .ok (.orD ⟨2, 1⟩ 12 8) ∧
    decode 0b010_01_001111_0001100_0001000_0100101#32 = .ok (.xorD ⟨2, 1⟩ 12 8) ∧
    decode 0b010_01_001111_0001100_0001000_0100110#32 = .ok (.andnD ⟨2, 1⟩ 12 8) ∧
    decode 0b010_01_001111_0001100_0001000_0100111#32 = .ok (.iminD ⟨2, 1⟩ 12 8) ∧
    decode 0b010_01_001111_0001100_0001000_0101000#32 = .ok (.shlD ⟨2, 1⟩ 12 8) ∧
    decode 0b010_01_001111_0001100_0001000_0101001#32 = .ok (.shrD ⟨2, 1⟩ 12 8) ∧
    decode 0b010_01_001111_0001100_0001000_0101010#32 = .ok (.sarD ⟨2, 1⟩ 12 8) ∧
    decode 0b010_01_001111_0001100_0001000_0101011#32 = .ok (.rotlD ⟨2, 1⟩ 12 8) ∧
    decode 0b010_01_001111_0001100_0001000_0101100#32 = .ok (.iminDUns ⟨2, 1⟩ 12 8) ∧
    decode 0b010_01_001111_0001100_0001000_0101101#32 = .ok (.imaxD ⟨2, 1⟩ 12 8) ∧
    decode 0b010_01_001111_0001100_0001000_0101110#32 = .ok (.imaxDUns ⟨2, 1⟩ 12 8) := by decide

theorem test_decode_major_10 :
    decode 0b010_01_010000_0001100_0001000_0000000#32 = .ok (.mov ⟨2, 1⟩ 12 8) ∧
    decode 0b010_01_010000_0001100_0001000_0000001#32 = .ok (.iabs ⟨2, 1⟩ 12 8) ∧
    decode 0b010_01_010000_0001100_0001000_0000010#32 = .ok (.ineg ⟨2, 1⟩ 12 8) ∧
    decode 0b010_01_010000_0001100_0001000_0000011#32 = .ok (.not ⟨2, 1⟩ 12 8) ∧
    decode 0b010_01_010000_0001100_0001000_0000100#32 = .ok (.popc ⟨2, 1⟩ 12 8) ∧
    decode 0b010_01_010000_0001100_0001000_0000101#32 = .ok (.clz ⟨2, 1⟩ 12 8) ∧
    decode 0b010_01_010000_0001100_0001000_0000110#32 = .ok (.ctz ⟨2, 1⟩ 12 8) ∧
    decode 0b010_01_010000_0001100_0001000_0000111#32 = .ok (.brev ⟨2, 1⟩ 12 8) ∧
    decode 0b010_01_010000_0001100_0001000_0100000#32 = .ok (.movD ⟨2, 1⟩ 12 8) ∧
    decode 0b010_01_010000_0001100_0001000_0100001#32 = .ok (.iabsD ⟨2, 1⟩ 12 8) ∧
    decode 0b010_01_010000_0001100_0001000_0100010#32 = .ok (.inegD ⟨2, 1⟩ 12 8) ∧
    decode 0b010_01_010000_0001100_0001000_0100011#32 = .ok (.notD ⟨2, 1⟩ 12 8) ∧
    decode 0b010_01_010000_0001100_0001000_0100100#32 = .ok (.popcD ⟨2, 1⟩ 12 8) ∧
    decode 0b010_01_010000_0001100_0001000_0100101#32 = .ok (.clzD ⟨2, 1⟩ 12 8) ∧
    decode 0b010_01_010000_0001100_0001000_0100110#32 = .ok (.ctzD ⟨2, 1⟩ 12 8) ∧
    decode 0b010_01_010000_0001100_0001000_0100111#32 = .ok (.brevD ⟨2, 1⟩ 12 8) := by decide

theorem test_decode_majors_11_16 :
    decode 0b010_01_010001_0001100_0001000_0010100#32 = .ok (.iaddImm ⟨2, 1⟩ 12 8 20) ∧
    decode 0b010_01_010010_0001100_0001000_00_00111#32 = .ok (.shlImm ⟨2, 1⟩ 12 8 7) ∧
    decode 0b010_01_010010_0001100_0001000_01_00111#32 = .ok (.shrImm ⟨2, 1⟩ 12 8 7) ∧
    decode 0b010_01_010010_0001100_0001000_10_00111#32 = .ok (.sarImm ⟨2, 1⟩ 12 8 7) ∧
    decode 0b010_01_010010_0001100_0001000_11_00111#32 = .ok (.rotlImm ⟨2, 1⟩ 12 8 7) ∧
    decode 0b010_01_010011_0001100_10110011100101#32 = .ok (.movi ⟨2, 1⟩ 12 11493) ∧
    decode 0b010_01_010100_0001100_10110011100101#32 = .ok (.movhi ⟨2, 1⟩ 12 11493) ∧
    decode 0b010_01_010101_0000_101_0000110_0000100#32 = .ok (.pand ⟨2, 1⟩ 5 6 4) ∧
    decode 0b010_01_010101_0001_101_0000110_0000100#32 = .ok (.por ⟨2, 1⟩ 5 6 4) ∧
    decode 0b010_01_010101_0010_101_0000110_0000100#32 = .ok (.pxor ⟨2, 1⟩ 5 6 4) ∧
    decode 0b010_01_010101_0011_101_0000110_0000000#32 = .ok (.pnot ⟨2, 1⟩ 5 6) ∧
    decode 0b010_01_010110_0001100_00000000_001011#32 = .ok (.mfs ⟨2, 1⟩ 12 11) ∧
    decode 0b010_01_010110_0000000_0001100_1_001001#32 = .ok (.mts ⟨2, 1⟩ 12 9) := by decide

theorem test_decode_majors_17_1D :
    decode 0b010_01_010111_0001100_0001000_0000000#32 = .ok (.mvs ⟨2, 1⟩ 12 8) ∧
    decode 0b010_01_010111_0001100_0001000_0000001#32 = .ok (.mvsD ⟨2, 1⟩ 12 8) ∧
    decode 0b010_01_010111_0001100_0001000_0000010#32 = .ok (.movs ⟨2, 1⟩ 12 8) ∧
    decode 0b010_01_010111_0001100_0001000_0000011#32 = .ok (.movsD ⟨2, 1⟩ 12 8) ∧
    decode 0b010_01_011000_0001100_0001000_0010100#32 = .ok (.fadd ⟨2, 1⟩ 12 8 20) ∧
    decode 0b010_01_011001_0001100_0001000_0010100#32 = .ok (.fsub ⟨2, 1⟩ 12 8 20) ∧
    decode 0b010_01_011010_0001100_0001000_0010100#32 = .ok (.fmul ⟨2, 1⟩ 12 8 20) ∧
    decode 0b010_01_011011_0001100_0001000_0010100#32 = .ok (.ffma ⟨2, 1⟩ 12 8 20) ∧
    decode 0b010_01_011100_0_101_011_0010100_0000100#32 = .ok (.fcmp ⟨2, 1⟩ 5 3 20 4) ∧
    decode 0b010_01_011101_0001100_0001000_0000000#32 = .ok (.fdiv ⟨2, 1⟩ 12 8) ∧
    decode 0b010_01_011101_0001100_0001000_0000001#32 = .ok (.fmin ⟨2, 1⟩ 12 8) ∧
    decode 0b010_01_011101_0001100_0001000_0000010#32 = .ok (.fmax ⟨2, 1⟩ 12 8) ∧
    decode 0b010_01_011101_0001100_0001000_0010000#32 = .ok (.hadd2Hf ⟨2, 1⟩ 12 8) ∧
    decode 0b010_01_011101_0001100_0001000_0010001#32 = .ok (.hadd2Bf ⟨2, 1⟩ 12 8) ∧
    decode 0b010_01_011101_0001100_0001000_0010010#32 = .ok (.hmul2Hf ⟨2, 1⟩ 12 8) ∧
    decode 0b010_01_011101_0001100_0001000_0010011#32 = .ok (.hmul2Bf ⟨2, 1⟩ 12 8) := by decide

theorem test_decode_majors_1E_24 :
    decode 0b010_01_011110_0001100_0001000_0000000#32 = .ok (.frcp ⟨2, 1⟩ 12 8) ∧
    decode 0b010_01_011110_0001100_0001000_0000001#32 = .ok (.frsq ⟨2, 1⟩ 12 8) ∧
    decode 0b010_01_011110_0001100_0001000_0000010#32 = .ok (.fsqrt ⟨2, 1⟩ 12 8) ∧
    decode 0b010_01_011110_0001100_0001000_0000011#32 = .ok (.fexp2 ⟨2, 1⟩ 12 8) ∧
    decode 0b010_01_011110_0001100_0001000_0000100#32 = .ok (.flog2 ⟨2, 1⟩ 12 8) ∧
    decode 0b010_01_011110_0001100_0001000_0000101#32 = .ok (.fclass ⟨2, 1⟩ 12 8) ∧
    decode 0b010_01_011111_0001100_0001000_001_0110#32 = .ok (.cvt ⟨2, 1⟩ 12 8 1 6) ∧
    decode 0b010_01_100000_0001100_0001000_0010100#32 = .ok (.hfma2Hf ⟨2, 1⟩ 12 8 20) ∧
    decode 0b010_01_100001_0001100_0001000_0010100#32 = .ok (.hfma2Bf ⟨2, 1⟩ 12 8 20) ∧
    decode 0b010_01_100010_0001100_0001000_0010100#32 = .ok (.ldW ⟨2, 1⟩ 12 8 20) ∧
    decode 0b010_01_100011_0001100_0001000_0010100#32 = .ok (.stW ⟨2, 1⟩ 12 8 20) ∧
    decode 0b010_01_100100_0001100_0001000_100_0000#32 = .ok (.ld ⟨2, 1⟩ 12 8 4) ∧
    decode 0b010_01_100100_0001100_0001000_100_1_010#32 = .ok (.ldAcq ⟨2, 1⟩ 12 8 4 2) := by decide

theorem test_decode_majors_25_28_1 :
    decode 0b010_01_100101_0001100_0001000_100_0000#32 = .ok (.st ⟨2, 1⟩ 12 8 4) ∧
    decode 0b010_01_100101_0001100_0001000_100_1_010#32 = .ok (.stRel ⟨2, 1⟩ 12 8 4 2) ∧
    decode 0b010_01_100110_0001100_0001000_0_100_000#32 = .ok (.lds ⟨2, 1⟩ 12 8 4) ∧
    decode 0b010_01_100110_0001100_0001000_1_100_000#32 = .ok (.sts ⟨2, 1⟩ 12 8 4) ∧
    decode 0b010_01_100111_0001100_0001000_100_0000#32 = .ok (.ldo ⟨2, 1⟩ 12 8 4) ∧
    decode 0b010_01_100111_0001100_0001000_100_1_010#32 = .ok (.ldoAcq ⟨2, 1⟩ 12 8 4 2) ∧
    decode 0b010_01_101000_0001100_0001000_0000_010#32 = .ok (.amoAdd ⟨2, 1⟩ 12 8 2) ∧
    decode 0b010_01_101000_0001100_0001000_0001_010#32 = .ok (.amoSub ⟨2, 1⟩ 12 8 2) ∧
    decode 0b010_01_101000_0001100_0001000_0010_010#32 = .ok (.amoMin ⟨2, 1⟩ 12 8 2) ∧
    decode 0b010_01_101000_0001100_0001000_0011_010#32 = .ok (.amoMax ⟨2, 1⟩ 12 8 2) ∧
    decode 0b010_01_101000_0001100_0001000_0100_010#32 = .ok (.amoMinUns ⟨2, 1⟩ 12 8 2) ∧
    decode 0b010_01_101000_0001100_0001000_0101_010#32 = .ok (.amoMaxUns ⟨2, 1⟩ 12 8 2) ∧
    decode 0b010_01_101000_0001100_0001000_0110_010#32 = .ok (.amoAnd ⟨2, 1⟩ 12 8 2) ∧
    decode 0b010_01_101000_0001100_0001000_0111_010#32 = .ok (.amoOr ⟨2, 1⟩ 12 8 2) ∧
    decode 0b010_01_101000_0001100_0001000_1000_010#32 = .ok (.amoXor ⟨2, 1⟩ 12 8 2) ∧
    decode 0b010_01_101000_0001100_0001000_1001_010#32 = .ok (.amoSwp ⟨2, 1⟩ 12 8 2) := by decide

theorem test_decode_majors_25_28_2 :
    decode 0b010_01_101000_0001100_0001000_1010_010#32 = .ok (.amoAddF ⟨2, 1⟩ 12 8 2) ∧
    decode 0b010_01_101000_0001100_0001000_1011_010#32 = .ok (.acas ⟨2, 1⟩ 12 8 2) ∧
    decode 0b010_01_101000_0001100_0001000_1100_010#32 = .ok (.amoAddD ⟨2, 1⟩ 12 8 2) ∧
    decode 0b010_01_101000_0001100_0001000_1101_010#32 = .ok (.amoSwpD ⟨2, 1⟩ 12 8 2) ∧
    decode 0b010_01_101000_0001100_0001000_1110_010#32 = .ok (.acasD ⟨2, 1⟩ 12 8 2) ∧
    decode 0b010_01_101000_0001100_0001000_0000000#32 = .ok (.amosAdd ⟨2, 1⟩ 12 8) ∧
    decode 0b010_01_101000_0001100_0001000_0001000#32 = .ok (.amosSub ⟨2, 1⟩ 12 8) ∧
    decode 0b010_01_101000_0001100_0001000_0010000#32 = .ok (.amosMin ⟨2, 1⟩ 12 8) ∧
    decode 0b010_01_101000_0001100_0001000_0011000#32 = .ok (.amosMax ⟨2, 1⟩ 12 8) ∧
    decode 0b010_01_101000_0001100_0001000_0100000#32 = .ok (.amosMinUns ⟨2, 1⟩ 12 8) ∧
    decode 0b010_01_101000_0001100_0001000_0101000#32 = .ok (.amosMaxUns ⟨2, 1⟩ 12 8) ∧
    decode 0b010_01_101000_0001100_0001000_0110000#32 = .ok (.amosAnd ⟨2, 1⟩ 12 8) ∧
    decode 0b010_01_101000_0001100_0001000_0111000#32 = .ok (.amosOr ⟨2, 1⟩ 12 8) ∧
    decode 0b010_01_101000_0001100_0001000_1000000#32 = .ok (.amosXor ⟨2, 1⟩ 12 8) ∧
    decode 0b010_01_101000_0001100_0001000_1001000#32 = .ok (.amosSwp ⟨2, 1⟩ 12 8) ∧
    decode 0b010_01_101000_0001100_0001000_1011000#32 = .ok (.amosCas ⟨2, 1⟩ 12 8) := by decide

theorem test_decode_majors_29_2E_1 :
    decode 0b010_01_101001_000000000000000000_010#32 = .ok (.fenceAcq ⟨2, 1⟩ 2) ∧
    decode 0b010_01_101001_000000000000000001_010#32 = .ok (.fenceRel ⟨2, 1⟩ 2) ∧
    decode 0b010_01_101001_000000000000000010_010#32 = .ok (.fence ⟨2, 1⟩ 2) ∧
    decode 0b010_01_101001_0000000_0001100_0011000#32 = .ok (.invl1 ⟨2, 1⟩ 12) ∧
    decode 0b010_01_101001_000000000000000100000#32 = .ok (.invl1All ⟨2, 1⟩) ∧
    decode 0b010_01_101001_0000000_0001100_0101000#32 = .ok (.tkrel ⟨2, 1⟩ 12) ∧
    decode 0b010_01_101010_101100001111001100101#32 = .ok (.bra ⟨2, 1⟩ 1449573) ∧
    decode 0b010_01_101011_101100001111001100101#32 = .ok (.call ⟨2, 1⟩ 1449573) ∧
    decode 0b010_01_101100_0000_101_10110011100101#32 = .ok (.brp ⟨2, 1⟩ 5 11493) ∧
    decode 0b010_01_101101_0001100_10110011100101#32 = .ok (.bdec ⟨2, 1⟩ 12 11493) ∧
    decode 0b010_01_101110_000000000000000000000#32 = .ok (.nop ⟨2, 1⟩) ∧
    decode 0b010_01_101110_000000000000000000001#32 = .ok (.exit ⟨2, 1⟩) ∧
    decode 0b010_01_101110_000000000000000000010#32 = .ok (.ret ⟨2, 1⟩) ∧
    decode 0b010_01_101110_0000000_0001100_0000011#32 = .ok (.callv ⟨2, 1⟩ 12) ∧
    decode 0b010_01_101110_0000000_0001100_0000100#32 = .ok (.jmpv ⟨2, 1⟩ 12) ∧
    decode 0b010_01_101110_0001100_00000000001000#32 = .ok (.trap ⟨2, 1⟩ 12) := by decide

theorem test_decode_majors_29_2E_2 :
    decode 0b010_01_101110_0001100_00000000001001#32 = .ok (.bkpt ⟨2, 1⟩ 12) ∧
    decode 0b010_01_101110_000000000000000001010#32 = .ok (.yieldp ⟨2, 1⟩) ∧
    decode 0b010_01_101110_000000000000000010000#32 = .ok (.rte ⟨2, 1⟩) ∧
    decode 0b010_01_101110_000000000000000010001#32 = .ok (.rteRerun ⟨2, 1⟩) ∧
    decode 0b010_01_101110_0001100_0001000_0010010#32 = .ok (.trrec ⟨2, 1⟩ 12 8) := by decide

theorem test_decode_majors_2F_32 :
    decode 0b010_01_101111_001001_011_110_100_000000#32 = .ok (.rep ⟨2, 1⟩ 9 3 6 4) ∧
    decode 0b010_01_110000_0000_10000111101100011#32 = .ok (.hintWait ⟨2, 1⟩ 69475) ∧
    decode 0b010_01_110000_0001_10000111101100011#32 = .ok (.hintExt ⟨2, 1⟩ 69475) ∧
    decode 0b010_01_110000_001000000000000000_1_10#32 = .ok (.hintMod ⟨2, 1⟩ 1 2) ∧
    decode 0b010_01_110000_00110000000000000_10_10#32 = .ok (.hintCache ⟨2, 1⟩ 2 2) ∧
    decode 0b010_01_110000_01000_1011000011100101#32 = .ok (.hintFetchI ⟨2, 1⟩ 45285) ∧
    decode 0b010_01_110000_01001_0001100_101100101#32 = .ok (.hintFetchD ⟨2, 1⟩ 12 357) ∧
    decode 0b010_01_110001_0001100_0001000_00_00111#32 = .ok (.xlmIdx ⟨2, 1⟩ 12 8 7) ∧
    decode 0b010_01_110001_0001100_0001000_01_00111#32 = .ok (.xlmXor ⟨2, 1⟩ 12 8 7) ∧
    decode 0b010_01_110001_0001100_0001000_10_00111#32 = .ok (.xlmUp ⟨2, 1⟩ 12 8 7) ∧
    decode 0b010_01_110001_0001100_0001000_11_00111#32 = .ok (.xlmDn ⟨2, 1⟩ 12 8 7) ∧
    decode 0b010_01_110010_0001100_0001000_00_00111#32 = .ok (.red ⟨2, 1⟩ 12 8 7) ∧
    decode 0b010_01_110010_0001100_0001000_10_00111#32 = .ok (.scan ⟨2, 1⟩ 12 8 7) ∧
    decode 0b010_01_110010_0001100_0001000_11_00111#32 = .ok (.scanExcl ⟨2, 1⟩ 12 8 7) := by decide

theorem test_decode_majors_33_34_1 :
    decode 0b010_01_110011_0000110_0001000_0000000#32 = .ok (.elect ⟨2, 1⟩ 6 8) ∧
    decode 0b010_01_110011_0000100_0001000_0001000#32 = .ok (.cvset ⟨2, 1⟩ 4 8) ∧
    decode 0b010_01_110011_0000000_0001100_0010000#32 = .ok (.phase ⟨2, 1⟩ 12) ∧
    decode 0b010_01_110011_0000000_0001100_0011_010#32 = .ok (.bar ⟨2, 1⟩ 12 2) ∧
    decode 0b010_01_110011_0000000_0001100_0100_010#32 = .ok (.barcfg ⟨2, 1⟩ 12 2) ∧
    decode 0b010_01_110011_0000110_0001000_0101_110#32 = .ok (.voteAny ⟨2, 1⟩ 6 8 6) ∧
    decode 0b010_01_110011_0000110_0001000_0110_110#32 = .ok (.voteAll ⟨2, 1⟩ 6 8 6) ∧
    decode 0b010_01_110011_0001100_0001000_0111_110#32 = .ok (.voteBallot ⟨2, 1⟩ 12 8 6) ∧
    decode 0b010_01_110100_0001100_0001000_0000_110#32 = .ok (.qrsv ⟨2, 1⟩ 12 8 6) ∧
    decode 0b010_01_110100_0000000_0001100_0001000#32 = .ok (.qcmt ⟨2, 1⟩ 12) ∧
    decode 0b010_01_110100_0000000_0001100_0010000#32 = .ok (.qdrop ⟨2, 1⟩ 12) ∧
    decode 0b010_01_110100_0000000_0001100_0011000#32 = .ok (.qfree ⟨2, 1⟩ 12) ∧
    decode 0b010_01_110100_0001100_0001000_0100000#32 = .ok (.qstat ⟨2, 1⟩ 12 8) ∧
    decode 0b010_01_110100_0001100_00000000101000#32 = .ok (.batt ⟨2, 1⟩ 12) ∧
    decode 0b010_01_110100_0001100_00000000110_011#32 = .ok (.knnew ⟨2, 1⟩ 12 3) ∧
    decode 0b010_01_110100_0001100_0001000_0111000#32 = .ok (.knset ⟨2, 1⟩ 12 8) := by decide

theorem test_decode_majors_33_34_2 :
    decode 0b010_01_110100_0001100_0001000_1000000#32 = .ok (.knadd ⟨2, 1⟩ 12 8) ∧
    decode 0b010_01_110100_0001100_0001000_1001_110#32 = .ok (.knget ⟨2, 1⟩ 12 8 6) ∧
    decode 0b010_01_110100_0001100_0001000_1010000#32 = .ok (.knwait ⟨2, 1⟩ 12 8) ∧
    decode 0b010_01_110100_0000000_0001100_1011_011#32 = .ok (.knpoll ⟨2, 1⟩ 12 3) ∧
    decode 0b010_01_110100_0000000_0001100_1100000#32 = .ok (.knfree ⟨2, 1⟩ 12) ∧
    decode 0b010_01_110100_0000000_0001100_1101000#32 = .ok (.knbrk ⟨2, 1⟩ 12) := by decide

theorem test_decode_majors_35_39 :
    decode 0b010_01_110101_0001100_00000000000000#32 = .ok (.hzrd ⟨2, 1⟩ 12) ∧
    decode 0b010_01_110101_0001100_00000000000001#32 = .ok (.hzseq ⟨2, 1⟩ 12) ∧
    decode 0b010_01_110101_0000000_0001100_0000010#32 = .ok (.hzwait ⟨2, 1⟩ 12) ∧
    decode 0b010_01_110110_0000000_10110011100101#32 = .ok (.hzbrClr ⟨2, 1⟩ 11493) ∧
    decode 0b010_01_110110_0000001_10110011100101#32 = .ok (.hzbrNclr ⟨2, 1⟩ 11493) ∧
    decode 0b010_01_111000_0001100_0001000_0000000#32 = .ok (.tdef ⟨2, 1⟩ 12 8) ∧
    decode 0b010_01_111000_0001100_0001000_01_00111#32 = .ok (.tld ⟨2, 1⟩ 12 8 7) ∧
    decode 0b010_01_111000_0001100_0001000_1000000#32 = .ok (.tst ⟨2, 1⟩ 12 8) ∧
    decode 0b010_01_111000_0000000_0001100_1100000#32 = .ok (.tcopy ⟨2, 1⟩ 12) ∧
    decode 0b010_01_111001_0001100_0001000_0000000#32 = .ok (.swinit ⟨2, 1⟩ 12 8) ∧
    decode 0b010_01_111001_0001100_0001000_0010000#32 = .ok (.swait ⟨2, 1⟩ 12 8) ∧
    decode 0b010_01_111001_0001100_0001000_0100000#32 = .ok (.swadd ⟨2, 1⟩ 12 8) ∧
    decode 0b010_01_111001_0000000_0001100_011_10_00#32 = .ok (.waito ⟨2, 1⟩ 12 2) := by decide

theorem test_decode_majors_3A_3D_1 :
    decode 0b010_01_111010_0000110_00000000_011_000#32 = .ok (.press ⟨2, 1⟩ 6 3) ∧
    decode 0b010_01_111010_0001100_0001000_1_110_000#32 = .ok (.pressw ⟨2, 1⟩ 12 8 6) ∧
    decode 0b010_01_111011_0001100_0001000_110_101_0#32 = .ok (.mma ⟨2, 1⟩ 12 8 6 5) ∧
    decode 0b010_01_111100_0001100_0001000_000_1_000#32 = .ok (.skadd ⟨2, 1⟩ 12 8 1) ∧
    decode 0b010_01_111100_0001100_0001000_001_1_000#32 = .ok (.sksub ⟨2, 1⟩ 12 8 1) ∧
    decode 0b010_01_111100_0001100_0001000_010_1_000#32 = .ok (.skmax ⟨2, 1⟩ 12 8 1) ∧
    decode 0b010_01_111100_0001100_0001000_011_1_000#32 = .ok (.skmin ⟨2, 1⟩ 12 8 1) ∧
    decode 0b010_01_111100_0001100_0001000_100_1_000#32 = .ok (.skset ⟨2, 1⟩ 12 8 1) ∧
    decode 0b010_01_111100_0001100_0001000_101_1_000#32 = .ok (.skmov ⟨2, 1⟩ 12 8 1) ∧
    decode 0b010_01_111100_0001100_0001000_1100000#32 = .ok (.skext ⟨2, 1⟩ 12 8) ∧
    decode 0b010_01_111100_0001100_0001000_111_1_000#32 = .ok (.skins ⟨2, 1⟩ 12 8 1) ∧
    decode 0b010_01_111101_0001100_0001000_0000000#32 = .ok (.skbind ⟨2, 1⟩ 12 8) ∧
    decode 0b010_01_111101_0001100_0001000_0000001#32 = .ok (.cmpr ⟨2, 1⟩ 12 8) ∧
    decode 0b010_01_111101_0000110_0001000_0000010#32 = .ok (.sbmap ⟨2, 1⟩ 6 8) ∧
    decode 0b010_01_111101_0000000_0001100_0000011#32 = .ok (.cbld ⟨2, 1⟩ 12) ∧
    decode 0b010_01_111101_000000000000000000100#32 = .ok (.cbldDef ⟨2, 1⟩) := by decide

theorem test_decode_majors_3A_3D_2 :
    decode 0b010_01_111101_0001100_0001000_0000101#32 = .ok (.cbdec ⟨2, 1⟩ 12 8) := by decide

theorem test_decode_major_3E :
    decode 0b010_01_111110_0000000_0001100_0000000#32 = .ok (.rsend ⟨2, 1⟩ 12) ∧
    decode 0b010_01_111110_0000000_0001100_0000001#32 = .ok (.rsendAdd ⟨2, 1⟩ 12) ∧
    decode 0b010_01_111110_0001100_0001000_0000010#32 = .ok (.tsend ⟨2, 1⟩ 12 8) ∧
    decode 0b010_01_111110_0000000_0001100_0000011#32 = .ok (.tscncl ⟨2, 1⟩ 12) ∧
    decode 0b010_01_111110_0000000_0001100_0000100#32 = .ok (.esend ⟨2, 1⟩ 12) ∧
    decode 0b010_01_111110_0000000_0001100_0000101#32 = .ok (.erecv ⟨2, 1⟩ 12) := by decide

/-! ### Single steps -/

/-- The one-word machine of withFetchWord: one strand on lane 0 of a cord with every resource of its core, every register 0. -/
def base : State := State.reset.withFetchWord 32 0

/-- The one-word machine with its strand changed. -/
def withStrand (f : Strand → Strand) : State := modStrand base 0 0 f

/-- A strand with values in vector registers. -/
def regs (ws : List (Nat × BitVec 32)) (st : Strand) : Strand :=
  { st with v := ws.foldl (fun v w => v.setIfInBounds w.1 w.2) st.v }

/-- The strand after a word. -/
def after (i : Instr) (s : State) : Option Strand :=
  match exec i s with
  | .next t => strandOf t 0 0
  | _ => none

/-- What V[n] reads lat cycles after a word. -/
def reads (i : Instr) (s : State) (lat : Nat) (n : BitVec 7) : Option (BitVec 32) := (after i s).map (fun st => seenV lat st n)

/-- What p[n] reads lat cycles after a word. -/
def readsP (i : Instr) (s : State) (lat : Nat) (n : BitVec 3) : Option Bool := (after i s).map (fun st => rdP (commitStrand lat st) n)

/-- An instruction always. -/
def al : Guard := ⟨7, 0⟩

/-- R127: the sum wraps; R58: it is not visible before its latency. -/
theorem test_iadd_wraps : reads (.iadd al 4 2 3) (withStrand (regs [(2, 0xFFFFFFFF), (3, 2)])) 1 4 = some 1 := by decide
theorem test_imul_late : reads (.imul al 4 2 3) (withStrand (regs [(2, 6), (3, 7)])) 3 4 = some 0 ∧
    reads (.imul al 4 2 3) (withStrand (regs [(2, 6), (3, 7)])) 4 4 = some 42 := by decide
/-- R122, R125: a hint mod with SAT clamps. -/
theorem test_iadd_saturates :
    reads (.iadd al 4 2 3) (withStrand (fun st => { regs [(2, 0x7FFFFFFF), (3, 2)] st with hint := encode (.hintMod al 1 0) })) 1 4 =
      some 0x7FFFFFFF := by decide
/-- R127, R128: counts of the width and more. -/
theorem test_shl_wide : reads (.shl al 4 2 3) (withStrand (regs [(2, 1), (3, 32)])) 1 4 = some 0 := by decide
theorem test_sar_wide : reads (.sar al 4 3) (withStrand (regs [(4, 0x80000000), (3, 99)])) 1 4 = some 0xFFFFFFFF := by decide
/-- R133: the second operand of lea is sign extended. -/
theorem test_lea_sign : reads (.lea al 4 2 6) (withStrand (regs [(2, 0), (3, 1), (6, 0xFFFFFFFF)])) 1 4 = some 0xFFFFFFFF ∧
    reads (.lea al 4 2 6) (withStrand (regs [(2, 0), (3, 1), (6, 0xFFFFFFFF)])) 1 5 = some 0 := by decide
/-- R134: icmp of signed values; R50: p7 takes no result. -/
theorem test_icmp_signed : readsP (.icmp al 2 1 2 3) (withStrand (regs [(2, 0xFFFFFFFF), (3, 1)])) 1 1 = some true ∧
    readsP (.icmp al 4 1 2 3) (withStrand (regs [(2, 0xFFFFFFFF), (3, 1)])) 1 1 = some false := by decide
/-- R63: a false predicate skips the word, which still passes. -/
theorem test_skipped : reads (.movi ⟨0, 0⟩ 4 9) base 1 4 = some 0 ∧ (after (.movi ⟨0, 0⟩ 4 9) base).map (·.pc) = some 65540 := by decide
/-- R132: movhi writes bits 31:18 and keeps the others. -/
theorem test_movhi : reads (.movhi al 4 1) (withStrand (regs [(4, 7)])) 1 4 = some 0x40007 := by decide
/-- R137: 1 + 2 is 3 and raises nothing; R33: an inexact sum raises NX. -/
theorem test_fadd : reads (.fadd al 4 2 3) (withStrand (regs [(2, 0x3F800000), (3, 0x40000000)])) 4 4 = some 0x40400000 := by decide
theorem test_fadd_inexact :
    (after (.fadd al 4 2 3) (withStrand (regs [(2, 0x3F800000), (3, 0x33000000)]))).map (·.fpf) = some NX.toNat := by decide
/-- R145, R65: a taken branch goes to its own address plus 4 times the offset; the next word issues 3 cycles later. -/
theorem test_bra_back : (after (.bra al (-1)) base).map (fun st => (st.pc, st.ready)) = some (65532, 3) := by decide
/-- R145, R68: a call pushes the address after it. -/
theorem test_call : (after (.call al 4) base).map (fun st => (st.pc, st.rs)) = some (65552, [65540]) := by decide
/-- R147: a return pops it. -/
theorem test_ret : (after (.ret al) (withStrand (fun st => { st with rs := [8, 12] }))).map (fun st => (st.pc, st.rs)) = some (12, [8]) := by decide
/-- R144: mts of %csp drops bits 2:0, of %stat writes bits 2:0 alone. -/
theorem test_mts_csp : (after (.mts al 2 10) (withStrand (regs [(2, 15)]))).map (·.csp) = some 8 := by decide
theorem test_mts_stat : (after (.mts al 2 8) (withStrand (regs [(2, 0xFF)]))).map (·.stat) = some 7 := by decide
/-- R372: trap stops its strand with cause 22 and its number in DETAIL. -/
theorem test_trap : (after (.trap al 5) base).map (fun st => st.fault.map (fun f => (f.cause, f.detail, f.after))) = some (some (22, 5, true)) := by decide
/-- R374: rte outside handler mode is an illegal instruction. -/
theorem test_rte_outside : (after (.rte al) base).map (fun st => st.fault.map (·.cause)) = some (some 1) := by decide
/-- R57: a load holds its destination until it is answered. -/
theorem test_ld_holds : (after (.ldW al 4 2 0) base).map (fun st => (st.held.map (·.reg), st.ops.map (·.kind), st.next)) =
    some ([.v 4], [.load], 1) := by decide
/-- R278: an acquire load that is not aligned. -/
theorem test_ld_acq_misaligned : (after (.ldAcq al 4 2 4 3) (withStrand (regs [(2, 2)]))).map (fun st => st.fault.map (fun f => (f.cause, f.addr))) =
    some (some (7, 2)) := by decide
/-- R369: hz is clear with NEXT when nothing is outstanding. -/
theorem test_hzrd : reads (.hzrd al 4) base 2 4 = some 0x80000000 := by decide
/-- R116, R117: rep repeats the next word with stepped fields. -/
theorem test_rep_steps : stepWord (encode (.iadd al 4 2 3)) ⟨1, 2, 1, 0, 7⟩ = some (encode (.iadd al 6 2 1)) := by decide
/-- R103, R114: an unassigned major opcode. -/
theorem test_unassigned_major : (decode 0xE7E00000#32).toOption = none := by decide


/-! ### Witnesses: a concrete state and operands that meet the hypotheses of each statement -/

/-- The strand that executes its word. -/
def cur (s : State) : Here := (here s).getD ⟨⟨0, 0, 0, 0⟩, probeCord, startStrand 0 0 0 0, 0⟩

/-- The conditions of Issues on the strand that executes its word. -/
def issues (s : State) (g : Guard) (sp : WSpec) : Bool :=
  (here s).isSome && ableStrand (cur s).cord (cur s).st (cur s).now && !polling (cur s).st && !(guardRegs g).any (isHeld (cur s)) &&
  !stallFault (cur s) (guardRegs g) && rdP (cur s).st g.pred && !boundFault (cur s) sp && !issueHeld (cur s) sp && !sp.hold &&
  !stallFault (cur s) sp.reads

theorem issues_of {s : State} {g : Guard} {sp : WSpec} (h : issues s g sp = true) : Issues s (cur s) g sp := by
  simp only [issues, Bool.and_eq_true, Bool.not_eq_true'] at h
  obtain ⟨⟨⟨⟨⟨⟨⟨⟨⟨h1, h2⟩, h3⟩, h4⟩, h5⟩, h6⟩, h7⟩, h8⟩, h9⟩, h10⟩ := h
  refine ⟨?_, h2, h3, h4, h5, h6, h7, h8, h9, h10⟩
  unfold cur
  cases hh : here s with
  | none => simp [hh] at h1
  | some x => rfl

/-- The one-word machine with its cord changed. -/
def withCord (f : Cord → Cord) : State := modCord base 0 f

/-- The one-word machine with its context changed. -/
def withCtx (f : Context → Context) : State := modCtx base 1 f

theorem witness_IntegerThreeFieldResults : Issues base (cur base) al { reads := [.v 2, .v 3], writes := [.v 127], lat := 1 } ∧
    Issues base (cur base) al { reads := [.v 0, .v 127, .v 4], writes := [.v 4], lat := 4 } ∧
    Issues base (cur base) al { reads := pair 2 ++ [.v 6], writes := pair 126, lat := 1 } :=
  ⟨issues_of (by decide), issues_of (by decide), issues_of (by decide)⟩

theorem witness_IntegerTwoAddressResults : Issues base (cur base) al { reads := [.v 4, .v 2], writes := [.v 4], lat := 4 } ∧
    Issues base (cur base) al { reads := [.v 127, .v 127], writes := [.v 127], lat := 1 } :=
  ⟨issues_of (by decide), issues_of (by decide)⟩

theorem witness_IntegerPairResults : Issues base (cur base) al { reads := pair 4 ++ pair 2, writes := pair 4, lat := 4 } ∧
    Issues base (cur base) al { reads := pair 126, writes := [.v 127], lat := 1 } :=
  ⟨issues_of (by decide), issues_of (by decide)⟩

theorem witness_IntegerUnaryAndImmediateResults : Issues base (cur base) al { reads := [.v 2], writes := [.v 4], lat := 1 } ∧
    Issues base (cur base) al { reads := [], writes := [.v 4], lat := 1 } :=
  ⟨issues_of (by decide), issues_of (by decide)⟩

theorem witness_PredicateResults : Issues base (cur base) al { reads := [.p 6, .p 7], writes := [.p 7], lat := 1 } ∧
    Issues base (cur base) al { reads := pair 2 ++ pair 4, writes := [.p 0], lat := 1 } :=
  ⟨issues_of (by decide), issues_of (by decide)⟩

theorem witness_IntegerDivisionResults : Issues base (cur base) al { reads := [.v 4, .v 2], writes := [.v 4], lat := 0 } :=
  issues_of (by decide)

theorem witness_MoveResults : Issues base (cur base) al { reads := [.s 63], writes := pair 4, lat := 1 } ∧
    Issues base (cur base) al { writes := specialRegs 9 4, lat := 2, hold := 9#6 == 9#6 && !flagsQuiet (cur base) } ∧
    Issues base (cur base) al { reads := specialRegs 8 4, hold := (8#6 == 8#6 || 8#6 == 9#6) && !flagsQuiet (cur base) } :=
  ⟨issues_of (by decide), issues_of (by decide), issues_of (by decide)⟩

/-- A strand with every flag enabled. -/
def flagged : State := withStrand (fun st => { st with fpf := 0x1F00 })

theorem witness_FloatResults :
    Issues base (cur base) al { reads := [.v 2, .v 3], writes := [.v 4], lat := 4, fallible := flagFallible (cur base) (NV ||| NX) } ∧
    Issues flagged (cur flagged) al
      { reads := [.v 4, .v 2], writes := [.v 4], lat := 0, fallible := flagFallible (cur flagged) (NV ||| NX) } ∧
    flagFallible (cur flagged) (NV ||| NX) = true :=
  ⟨issues_of (by decide), issues_of (by decide), by decide⟩

theorem witness_BranchResults : Issues base (cur base) al { reads := [.v 4], writes := [.v 4], branch := true } ∧
    Issues base (cur base) al { reads := pair 4, branch := true } := ⟨issues_of (by decide), issues_of (by decide)⟩

/-- A strand whose return stack is full, and one with a single entry. -/
def fullStack : State := withStrand (fun st => { st with rs := [4, 8, 12, 16] })
def oneReturn : State := withStrand (fun st => { st with rs := [8] })

/-- A strand that re-executes a call whose spill failed. -/
def respilling : State := withStrand (fun st => { st with rerun := [⟨encode (.call al 4), 65536, 0, 0, none, some (0, 7)⟩] })

theorem witness_CallAndReturnResults :
    ((cur fullStack).st.rerun = [] ∧ (cur fullStack).st.rs.length = 4 ∧
      Issues fullStack (cur fullStack) al { reads := pair 2, branch := true, fallible := (cur fullStack).st.rs.length == 4 }) ∧
    ((cur oneReturn).st.rerun = [] ∧ (cur oneReturn).st.rs.getLast? = some 8 ∧ Issues oneReturn (cur oneReturn) al { branch := true }) ∧
    ((cur base).st.rerun = [] ∧ (cur base).st.rs = [] ∧ Issues base (cur base) al { branch := true, fallible := true }) ∧
    ((cur respilling).st.rerun.head?.bind (·.spill) = some (0, 7) ∧
      Issues respilling (cur respilling) al { branch := true, fallible := true }) :=
  ⟨⟨by decide, by decide, issues_of (by decide)⟩, ⟨by decide, by decide, issues_of (by decide)⟩,
    ⟨by decide, by decide, issues_of (by decide)⟩, by decide, issues_of (by decide)⟩

/-- The word after a rep is an iadd. -/
def repeated : State := modCore base 0 0 0 (fun co => { co with icache := [⟨1, 65536, [encode (.rep al 3 1 1 1), encode (.iadd al 4 2 3)]⟩] })

/-- A cord whose leases are one range above its page. -/
def leasing : State := withCord (fun c => { c with hdr := { c.hdr with leases := [⟨2 ^ 20, 2 ^ 21, false⟩] } })

theorem witness_HintAndRepResults :
    Issues base (cur base) al {} ∧
    (leaseMiss base 0 (cur base).cord ((List.range 64).map (0 + ·)) false = none ∧
      leaseMiss leasing 0 (cur leasing).cord ((List.range 64).map (0 + ·)) false ≠ none ∧ Issues leasing (cur leasing) al {}) ∧
    ((3 : BitVec 7).toNat % 2 = 1 ∧ (2 : BitVec 7).toNat % 2 = 0 ∧ (2 : BitVec 7).toNat + 1 < (cur base).cord.hdr.vregs) ∧
    (cachedWord (coreOfCord repeated (cur repeated).cord) (cur repeated).cord.ctx ((cur repeated).st.pc + 4) = some (encode (.iadd al 4 2 3)) ∧
      repPairs (encode (.iadd al 4 2 3)) 1 1 = true ∧ Issues repeated (cur repeated) al {}) :=
  ⟨issues_of (by decide), ⟨by decide, by decide, issues_of (by decide)⟩, by decide, by decide, by decide, issues_of (by decide)⟩

/-- A strand that waits in an hzwait for operation 0. -/
def awaiting : State := withStrand (fun st => { st with wait := .horizon 0 0 })

theorem witness_HorizonReadResults : Issues base (cur base) al { writes := [.v 4], lat := 2 } ∧
    (horizonPast (cur base).now (cur base).st ((rdV (cur base).st 4).setWidth 16) (beforeCycle (cur base).now (cur base).st).next = true ∧
      Issues base (cur base) al { reads := [.v 4], polls := .horizon ((rdV (cur base).st 4).setWidth 16) (beforeCycle (cur base).now (cur base).st).next }) ∧
    ((cur awaiting).st.wait = .horizon 0 0 ∧ horizonPast (cur awaiting).now (cur awaiting).st 0 0 = true ∧
      Polled awaiting (cur awaiting) { reads := [.v 4] }) :=
  ⟨issues_of (by decide), ⟨by decide, issues_of (by decide)⟩, by decide⟩

theorem witness_TrapWordResults : Issues base (cur base) al {} ∧ Issues base (cur base) (guardOf 0xE0000000#32) {} :=
  ⟨issues_of (by decide), issues_of (by decide)⟩

/-- A strand in handler mode with a trap record. -/
def handling : State := withStrand (fun st => { st with
  mode := .handler
  stat := 8
  trap := some ⟨22, 0, 65536, 65540, 0, 0, 0, 0, 0, 0, none, 0, 0, none, none, []⟩ })

theorem witness_ReturnResults :
    ((cur handling).st.stat.getLsbD 3 = true ∧ hzClear (cur handling).now (cur handling).st = true ∧ Issues handling (cur handling) al {}) ∧
    ((cur base).st.stat.getLsbD 3 = false ∧ Issues base (cur base) al {}) :=
  ⟨⟨by decide, by decide, issues_of (by decide)⟩, by decide, issues_of (by decide)⟩

/-- A strand whose V[2] is a selector; the same in handler mode, in the compatible handler beside a masked strand of lane 1. -/
def selecting (x : BitVec 32) : State := withStrand (regs [(2, x)])
def selectingIn (flags x : BitVec 32) : State := modCord (withStrand (fun st => { regs [(2, x)] st with
  mode := .handler
  stat := 8
  trap := some ⟨22, flags, 65536, 65540, 0, 0, 0, 0, 0, 0, none, 0, 0, none, none, []⟩ })) 0
  (fun c => { c with lanes := 3, strands := c.strands ++ [(1, { startStrand 0 0 0 0 with mode := .masked })] })

/-- The same beside a running strand of lane 1, and with a file of eight registers. -/
def besideRunning (x : BitVec 32) : State := modStrand (selectingIn 4 x) 0 1 (fun st => { st with mode := .running })
def fewRegs (x : BitVec 32) : State := modCord (selectingIn 4 x) 0 (fun c => { c with hdr := { c.hdr with vregs := 8 } })

/-- What TrapRecordWordResults asks of a selector in V[2], read or written. -/
def selected (s : State) (write : Bool) : Prop :=
  here s = some (cur s) ∧ Issues s (cur s) al (if write then { reads := [.v 2, .v 4], writes := [.v 4], lat := 0 } else { reads := [.v 2], writes := [.v 4], lat := 0 })
theorem selected_of {s : State} {w : Bool} (h : issues s al (if w then { reads := [.v 2, .v 4], writes := [.v 4], lat := 0 } else
    { reads := [.v 2], writes := [.v 4], lat := 0 }) = true) : selected s w := ⟨(issues_of h).1, issues_of h⟩

theorem witness_TrapRecordWordResults :
    (selected (selecting 1) false ∧ selected (selecting 0x20000001) true ∧ (1 : BitVec 32).toNat % 2 ^ 8 ≠ 0) ∧
    (selected (selecting 0x400) false ∧ selected (selecting 0x20000400) true ∧ (cur (selecting 0x400)).st.mode ≠ .handler) ∧
    (selected (selectingIn 0 0x20000400) true ∧ (cur (selectingIn 0 0x20000400)).st.mode = .handler) ∧
    (selected (selecting 0x40000400) false ∧ laneP2 (cur (selecting 0x40000400)).cord 0 = false) ∧
    (selected (selectingIn 4 0x40010400) false ∧ selected (selectingIn 4 0x60010400) true ∧ laneP2 (cur (selectingIn 4 0x40010400)).cord 0 = true ∧
      (mget (cur (selectingIn 4 0x40010400)).cord.strands 1).any (fun st => st.mode == .masked) = true) ∧
    (selected (selectingIn 4 0x80010500) false ∧ selected (selectingIn 4 0x80018700) false) ∧
    (selected (selectingIn 4 0xC0010500) true ∧ selected (selectingIn 4 0xC0018000) true ∧ selected (selectingIn 4 0xC0018700) true ∧
      selected (selectingIn 4 0xC0018900) true ∧
      selected (fewRegs 0xC0010800) true ∧ (cur (fewRegs 0xC0010800)).cord.hdr.vregs = 8) ∧
    (selected (besideRunning 0x40010400) false ∧ selected (besideRunning 0xC0010500) true ∧
      (mget (cur (besideRunning 0x40010400)).cord.strands 1).any (fun st => st.mode == .running) = true) ∧
    (selected (selectingIn 4 0x40050400) false ∧ selected (selectingIn 4 0xC0050500) true ∧
      mget (cur (selectingIn 4 0x40050400)).cord.strands 5 = none) ∧
    (selected (selectingIn 4 0x60010700) true ∧ selected (selectingIn 4 0xA0010500) true) :=
  ⟨⟨selected_of (by decide), selected_of (by decide), by decide⟩, ⟨selected_of (by decide), selected_of (by decide), by decide⟩,
    ⟨selected_of (by decide), by decide⟩, ⟨selected_of (by decide), by decide⟩,
    ⟨selected_of (by decide), selected_of (by decide), by decide, by decide⟩, ⟨selected_of (by decide), selected_of (by decide)⟩,
    ⟨selected_of (by decide), selected_of (by decide), selected_of (by decide), selected_of (by decide), selected_of (by decide), by decide⟩,
    ⟨selected_of (by decide), selected_of (by decide), by decide⟩, ⟨selected_of (by decide), selected_of (by decide), by decide⟩, selected_of (by decide), selected_of (by decide)⟩

/-- A cord being drained. -/
def draining : State := withCord (fun c => { c with preempt := some .drain })

theorem witness_YieldAndExitResults :
    ((cur handling).st.mode = .handler ∧ Issues handling (cur handling) al {}) ∧
    (hzClear (cur base).now (cur base).st = true ∧ countersZero (cur base).cord = true ∧ (cur base).cord.preempt ≠ some .drain ∧
      Issues base (cur base) al {}) ∧
    (hzClear (cur draining).now (cur draining).st = true ∧ countersZero (cur draining).cord = true ∧ (cur draining).cord.preempt = some .drain ∧
      (cur draining).st.mode = .running ∧ Issues draining (cur draining) al {}) ∧
    (drainedStrand (cur base) = true ∧ endWaits (cur base).cord (cur base).now 0 = false ∧ Issues base (cur base) al { signs := exitSigns (cur base) }) :=
  ⟨⟨by decide, issues_of (by decide)⟩, ⟨by decide, by decide, by decide, issues_of (by decide)⟩,
    ⟨by decide, by decide, by decide, by decide, issues_of (by decide)⟩, by decide, by decide, issues_of (by decide)⟩

theorem witness_LoadIssueResults :
    leaseBad base 0 (cur base).cord (rdV2 (cur base).st 2) (sizeBytes 6) false = none ∧
    mshrFull base (cur base) (rdV2 (cur base).st 2) (sizeBytes 6) = false ∧ (rdV2 (cur base).st 2).toNat % sizeBytes 6 = 0 ∧
    Issues base (cur base) al { reads := pair 2, writes := sizeRegs 6 124, lat := 0, fallible := true } :=
  ⟨by decide, by decide, by decide, issues_of (by decide)⟩

theorem witness_StoreIssueResults :
    leaseBad base 0 (cur base).cord (rdV2 (cur base).st 2) (sizeBytes 5) true = none ∧ (rdV2 (cur base).st 2).toNat % sizeBytes 5 = 0 ∧
    Issues base (cur base) al { reads := pair 2 ++ sizeRegs 5 4, writes := [], lat := 0, fallible := true } :=
  ⟨by decide, by decide, issues_of (by decide)⟩

theorem witness_AtomicIssueResults :
    leaseBad base 0 (cur base).cord (rdV2 (cur base).st 2) 8 true = none ∧ (rdV2 (cur base).st 2).toNat % 8 = 0 ∧
    Issues base (cur base) al { reads := pair 2 ++ quadruple 4, writes := pair 4, lat := 0, fallible := true } :=
  ⟨by decide, by decide, issues_of (by decide)⟩

theorem witness_ScratchpadResults :
    (scratchOk (cur base).cord (rdV (cur base).st 2).toNat (sizeBytes 6) = true ∧
      Issues base (cur base) al { reads := [.v 2], writes := sizeRegs 6 4, lat := 0 }) ∧
    (scratchOk (cur base).cord (rdV (cur base).st 2).toNat 4 = true ∧ (rdV (cur base).st 2).toNat % 4 = 0 ∧
      Issues base (cur base) al { reads := [.v 2] ++ pair 4, writes := [.v 4], lat := 0 }) :=
  ⟨⟨by decide, issues_of (by decide)⟩, by decide, by decide, issues_of (by decide)⟩

theorem witness_FenceAndDropIssueResults : Issues base (cur base) al { fallible := true } ∧
    Issues base (cur base) al { reads := pair 2, fallible := true } := ⟨issues_of (by decide), issues_of (by decide)⟩

theorem witness_CrossLaneArrivals :
    (arriveFault (.red al 4 0 0) 0 (fun _ => rdS (cur base).cord 0) (cur base) base = none ∧
      Issues base (cur base) al { reads := [.v 4, .s 0], writes := [.v 4], lat := 0,
                                  fallible := flagFallible (cur base) (redCan 0), mine := arrivedNames (cur base) 0 }) ∧
    (arriveFault (.xlmIdx al 4 2 0) 0 (fun _ => rdS (cur base).cord 0) (cur base) base = none ∧
      Issues base (cur base) al { reads := [.v 2, .v 4, .s 0], writes := xlmRegs (cur base) 4, lat := 0,
                                  fallible := flagFallible (cur base) 0, mine := [] }) ∧
    (arriveFault (.voteAny al 4 0 1) 0 (fun _ => rdS (cur base).cord 0) (cur base) base = none ∧
      Issues base (cur base) al { reads := [.p 1, .s 0], writes := [.p (pReg 4)], lat := 0,
                                  fallible := flagFallible (cur base) 0, mine := arrivedNames (cur base) 0 }) :=
  ⟨⟨by decide, issues_of (by decide)⟩, ⟨by decide, issues_of (by decide)⟩, by decide, issues_of (by decide)⟩

/-- A cord of lanes 0 and 1, and an instance of a word at which one or both have arrived. -/
def twoLanes : Cord := { probeCord with lanes := 3, strands := [(0, startStrand 0 0 0 0), (1, startStrand 0 0 0 0)] }
def arrival (l : Nat) : Arrival := ⟨l, 5, 1, true, 4, 0, false, none, 0, 0, 0, 0, false⟩
def instance_ (i : Instr) (ls : List Nat) : Inst := ⟨0, 0, 1, 3, (encode i).extractLsb' 0 27, 0, 0, 0, ls.map arrival⟩

theorem witness_CrossLaneResults :
    ((instance_ (.xlmIdx al 4 2 0) [0, 1]).word = (encode (.xlmIdx al 4 2 0)).extractLsb' 0 27 ∧
      laneIn (members twoLanes (instance_ (.xlmIdx al 4 2 0) [0, 1])) (arrival 0).y.toNat = true ∧
      arrivalOf (instance_ (.xlmIdx al 4 2 0) [0, 1]) (arrival 0).y.toNat = some (arrival 1)) ∧
    arrivalOf (instance_ (.xlmIdx al 4 2 0) [0]) (arrival 0).y.toNat = none ∧
    (instance_ (.red al 4 2 10) [0, 1]).word = (encode (.red al 4 2 10)).extractLsb' 0 27 ∧
    (instance_ (.voteBallot al 4 2 3) [0, 1]).word = (encode (.voteBallot al 4 2 3)).extractLsb' 0 27 := by decide

/-- The one-word machine with an instance lane 5 arrived at first with another mask. -/
def otherMask : State := withCord (fun c => { c with insts := [{ instance_ (.red al 4 0 0) [] with mask := 33, first := 5 }] })

theorem witness_InstanceRules :
    laneIn 2#64 (cur base).sel.lane = false ∧ (laneIn 1#64 (cur base).sel.lane = true ∧ joined (cur base) 0 = none) ∧
    (laneIn 1#64 (cur otherMask).sel.lane = true ∧ ∃ x, joined (cur otherMask) 0 = some x ∧ x.mask ≠ 1#64) ∧
    (let x := instance_ (.red al 4 2 0) [0, 1]; x.kind = 0 ∧ x.word ≠ (wordOf base (cur base) (.red al 4 2 1)).extractLsb' 0 27) ∧
    mget [(0, twoLanes)] 0 = some twoLanes ∧ instComplete twoLanes (instance_ (.red al 4 2 0) [0, 1]) = true ∧
    instComplete twoLanes (instance_ (.red al 4 2 0) [0]) = false :=
  ⟨by decide, by decide, ⟨by decide, { instance_ (.red al 4 0 0) [] with mask := 33, first := 5 }, by decide⟩, by decide, by decide, by decide, by decide⟩

/-- The strand has arrived alone at a barrier of a scope; the COUNT of its group setting, and an arrival the group has. -/
def barred (kind : Nat) (v : BitVec 64) (arr : List (Nat × BitVec 64)) : State :=
  modCtx (modCord (withStrand (fun st => { st with wait := .bar kind })) 0 (fun c => { c with
    barcfg := c.barcfg.setIfInBounds (kind - 1) v, insts := [{ instance_ (.bar al 0 1) [0] with kind := kind, mask := 1 }] })) 1
    (fun x => { x with bars := if arr.isEmpty then [] else [⟨kind, scopeInst probeCord kind, 0, 0, 2, arr, []⟩] })
def theInst (kind : Nat) : Inst := { instance_ (.bar al 0 1) [0] with kind := kind, mask := 1 }

theorem witness_InstanceRules_bars :
    (let s := barred 1 0 []; mget s.cords 0 = some (cur s).cord ∧ instComplete (cur s).cord (theInst 1) = true) ∧
    ∀ k ∈ [2, 3, 4, 5], (mget (barred k 0 []).contexts 1).isSome = true ∧
      ∀ x ∈ [(0#64, []), (0x20000#64, []), (0x20000#64, [(7, 1#64)]), (0x10000#64, []), (0x30000#64, [(7, 1#64)])],
        let s := barred k x.1 x.2
        mget s.cords 0 = some (cur s).cord ∧ instComplete (cur s).cord (theInst k) = true ∧ (strandOf s 0 0).isSome = true ∧
        (cur s).cord.ctx = 1 ∧ ((cur s).cord.barcfg[k - 1]?).getD 0 = x.1 ∧
        ((ctxOf s 1).bars.find? (fun b => b.scope == k && b.inst == scopeInst (cur s).cord k && b.group == cfgGroup x.1)).map (·.arr) =
          if x.2.isEmpty then none else some x.2 := by decide

/-- A cord that is being signed at c0 with signers lane 0 and 1, and one with s1 set to a group setting. -/
def signing : State := withCord (fun c => { c with conv := c.conv.setIfInBounds 0 ⟨3, 2, 0, 0, 1, 0, 0, []⟩ })
def signingSame : State := withCord (fun c => { c with conv := c.conv.setIfInBounds 0 ⟨1, 1, 0, 0, 1, 0, 0, []⟩ })

theorem witness_SynchronisationWordResults :
    (arriveFault (.bar al 0 1) 1 (fun _ => rdS (cur base).cord 0) (cur base) base = none ∧ Issues base (cur base) al { reads := [.s 0], lat := 0 }) ∧
    (arriveFault (.phase al 0) 6 (fun _ => rdS (cur base).cord 0) (cur base) base = none ∧ (cur base).st.stat.getLsbD 3 = false ∧
      rdS (cur base).cord 0 = (cur base).cord.lanes) ∧
    (bitsOf (rdS (cur base).cord 1) 12 4 = 0 ∧ bitsOf (rdS (cur base).cord 1) 32 32 = 0 ∧ Issues base (cur base) al { reads := [.s 1] }) ∧
    (convOf (cur base).cord 7).signed = 0 ∧
    ((convOf (cur signingSame).cord 0).signed ≠ 0 ∧
      rdS (cur signingSame).cord 0 &&& (cur signingSame).cord.lanes = (convOf (cur signingSame).cord 0).signers ∧
      Issues signingSame (cur signingSame) al { reads := [.s 0] }) ∧
    ((convOf (cur signing).cord 0).signed ≠ 0 ∧
      rdS (cur signing).cord 0 &&& (cur signing).cord.lanes ≠ (convOf (cur signing).cord 0).signers ∧
      Issues signing (cur signing) al { reads := [.s 0] }) :=
  ⟨⟨by decide, issues_of (by decide)⟩, by decide, ⟨by decide, by decide, issues_of (by decide)⟩, by decide,
    ⟨by decide, by decide, issues_of (by decide)⟩, by decide, by decide, issues_of (by decide)⟩

/-- A graph of one node, its only slot free at address 0, or reserved by the strand. -/
def oneNode (closed : Bool) (limit : Nat) : Graph := ⟨0, 0, [{ probeCord.hdr with limit := limit }], closed, []⟩
def graphed (closed : Bool) (limit : Nat) (q : List Slot) : State :=
  withCtx (fun x => { x with graphs := [oneNode closed limit], slots := q })
def freeOne : Slot := ⟨0, 0, 0, 0, 0, .free, 0, none, 0⟩
def reservedOne : Slot := ⟨0, 0, 0, 0, 0, .reserved, 0, some 0, 0⟩

theorem witness_SlotWordResults :
    (nodeOf (ctxOf base 1) 0 0 = none ∧ Issues base (cur base) al { reads := [.s 1], writes := pair 4 ++ [.p 1] }) ∧
    (graphOf (ctxOf (graphed true 15 []) 1) 0 = some (oneNode true 15) ∧ (oneNode true 15).nodes[0]? = some { probeCord.hdr with limit := 15 }) ∧
    ((oneNode false 0).closed = false ∧ 0 < (cur (graphed false 0 [])).st.depth + 1) ∧
    lowestFree (ctxOf (graphed false 15 []) 1) 0 0 0 0 = none ∧
    (reservedBy (ctxOf (graphed false 15 [freeOne]) 1) 0 0 < 4 ∧ lowestFree (ctxOf (graphed false 15 [freeOne]) 1) 0 0 0 0 = some freeOne ∧
      Issues (graphed false 15 [freeOne]) (cur (graphed false 15 [freeOne])) al { reads := [.s 1], writes := pair 4 ++ [.p 1] }) ∧
    (namedSlot 2 (cur (graphed false 15 [reservedOne])) (graphed false 15 [reservedOne]) = some reservedOne ∧
      hzClear (cur (graphed false 15 [reservedOne])).now (cur (graphed false 15 [reservedOne])).st = true ∧
      storesPerformed (cur (graphed false 15 [reservedOne])) = true ∧ loadsReturned (cur (graphed false 15 [reservedOne])) = true ∧
      Issues (graphed false 15 [reservedOne]) (cur (graphed false 15 [reservedOne])) al { reads := pair 2 }) :=
  ⟨⟨by decide, issues_of (by decide)⟩, ⟨by decide, by decide⟩, by decide, by decide, ⟨by decide, by decide, issues_of (by decide)⟩,
    ⟨by decide, by decide, by decide, by decide, issues_of (by decide)⟩⟩

theorem witness_KnotEvents :
    ({ freshKnot with state := .pending, expect := 1 } : Knot).state = .pending ∧
    ({ freshKnot with state := .pending, expect := 2 } : Knot).expect = 2 ∧ ({ freshKnot with state := .broken } : Knot).state = .broken ∧
    ({ freshKnot with state := .resolved } : Knot).state = .resolved := by decide

/-- The handle 0 of generation 1 names a pending knot of the strand's die; handle 2^30 lies on die 1. -/
def pendingKnot : State := modStrand (withCtx (fun x => { x with knots := [(0, { freshKnot with state := .pending, expect := 1 })] })) 0 0
  (regs [(2, 1), (3, 0x40000001)])

theorem witness_KnotWordResults :
    (knotDie (knotKey 0 (rdV (cur pendingKnot).st 2)) = 0 ∧
      (knotAnswer pendingKnot 1 0 0 (rdV (cur pendingKnot).st 2) 7).2.fault = 0 ∧
      knotLive (knotOf (ctxOf pendingKnot 1) (knotKey 0 (rdV (cur pendingKnot).st 2))) (rdV (cur pendingKnot).st 2) = true ∧
      (knotOf (ctxOf pendingKnot 1) (knotKey 0 (rdV (cur pendingKnot).st 2))).state = .pending ∧
      (knotAnswer pendingKnot 1 0 7 (rdV (cur pendingKnot).st 2) 0).2.sleep = true ∧ poolFree pendingKnot 1 0 0 = true ∧
      hzClear (cur pendingKnot).now (cur pendingKnot).st = true ∧ storesPerformed (cur pendingKnot) = true ∧
      loadsReturned (cur pendingKnot) = true) ∧
    knotDie (knotKey 0 (rdV (cur pendingKnot).st 3)) ≠ 0 ∧
    (Issues pendingKnot (cur pendingKnot) al { reads := pair 4 ++ [.v 2], writes := [] } ∧
      Issues pendingKnot (cur pendingKnot) al { reads := [.v 3], writes := pair 4 ++ [.p 1] } ∧
      Issues pendingKnot (cur pendingKnot) al { reads := [.v 2], writes := [.p 1] } ∧
      Issues pendingKnot (cur pendingKnot) al { reads := [.v 2], writes := [] }) ∧
    ((rdV (cur base).st 4).toNat ≤ 65535 ∧ lowestKnot (ctxOf base 1) 0 0 = some 0 ∧ 65535 < (rdV (cur pendingKnot).st 3).toNat ∧
      Issues base (cur base) al { reads := [.v 4], writes := [.v 4, .p 1] }) :=
  ⟨by decide, by decide, ⟨issues_of (by decide), issues_of (by decide), issues_of (by decide), issues_of (by decide)⟩,
    by decide, by decide, by decide, issues_of (by decide)⟩

/-- A knot event on its way, and a knot whose first waiter has been woken with a value or with breakage. -/
def knotEvent : KnotEv := ⟨7, 0, 0, 0, 1, 9, 4, 7, 65536, 0, 0, 0, 0⟩
def onItsWay : State := { pendingKnot with knotEvs := [knotEvent] }
def waitsFull : State := modCtx { pendingKnot with
  knotEvs := [{ knotEvent with op := 7 }], contexts := mset pendingKnot.contexts 2 { blankCtx with num := 2, waiters := 65536 } } 1 (fun x => { x with waiters := 0 })
def wokenBy (x : Option (BitVec 64)) : Waiter := ⟨0, 0, 4, 65536, 0, 0, some x⟩
def waking (x : Option (BitVec 64)) : State := modDie (withCtx (fun y => { y with
  knots := [(0, { freshKnot with state := .resolved, waiters := [wokenBy x] })] })) 0 0 (fun d => { d with cyc := 5 })

theorem witness_RemoteKnotResults :
    (onItsWay.knotEvs.find? (·.id == 7) = some knotEvent ∧ (mget onItsWay.cords 0).isSome = true ∧
      (knotAnswer onItsWay 1 0 0 1 9).2.sleep = false ∧ (knotAnswer onItsWay 1 0 0 1 9).2.fault = 0 ∧
      poolWaits onItsWay (cur base).cord knotEvent = false ∧ knotBehind onItsWay (cur base).cord knotEvent = false ∧
      (dieOf onItsWay 0 0).arbKey ≤ knotOrder (cur base).cord knotEvent) ∧
    ((knotAnswer onItsWay 1 0 7 1 0).2.sleep = true ∧
      (let s := { onItsWay with knotEvs := [{ knotEvent with op := 7 }] }; poolWaits s (cur base).cord { knotEvent with op := 7 } = false ∧
        knotBehind s (cur base).cord { knotEvent with op := 7 } = false ∧
        (strandOf s 0 0).any (fun st => st.fault.isNone && st.ops.all (fun o => decide (o.state ≠ .failed))) = true)) ∧
    ((knotAnswer onItsWay 1 0 0 0 9).2.sleep = false ∧ (knotAnswer onItsWay 1 0 0 0 9).2.fault ≠ 0) ∧
    (poolWaits waitsFull (cur base).cord { knotEvent with op := 7 } = true ∧ knotBehind waitsFull (cur base).cord { knotEvent with op := 7 } = false) ∧
    knotBehind { onItsWay with knotEvs := [{ knotEvent with id := 6 }, knotEvent] } (cur base).cord knotEvent = true ∧
    ((knotOf (ctxOf (waking (some 3)) 1) 0).waiters = [wokenBy (some 3)] ∧ (wokenBy (some 3)).woken = some (some 3) ∧
      (knotOf (ctxOf (waking (some 3)) 1) 0).wokeAt < cycOf (waking (some 3)) 0 0) ∧
    ((knotOf (ctxOf (waking none) 1) 0).waiters = [wokenBy none] ∧ (wokenBy none).woken = some none) := by decide



/-- Tiles of the cord: t0 undefined, t1 a defined FP32 tile of 2 rows and 4 columns, t2 a loaded BI8 tile ready for a press, t3 a
sparse BI8 tile over other bytes, t4 a dense BI8 tile of 256 rows and t5 a sparse one loaded. -/
def plainTile : Tile := ⟨1, 0, false, 2, 4, 0, 16, 0, 0⟩
def pressTile : Tile := ⟨2, 10, false, 256, 128, 0, 128, 3, 5⟩
def sparseTile (state : BitVec 2) : Tile := ⟨state, 10, true, 256, 128, 65536, 256, 0, 0⟩
def tiles (c : Cord) : Cord := { c with
  tiles := ((((c.tiles.setIfInBounds 1 plainTile).setIfInBounds 2 pressTile).setIfInBounds 3 (sparseTile 1)).setIfInBounds 5 (sparseTile 2)) }
def uni (ws : List (Nat × BitVec 64)) (c : Cord) : Cord := { c with u := ws.foldl (fun u w => u.setIfInBounds w.1 w.2) c.u }
/-- A machine whose cord has those tiles, given uniform registers, and scale register 3 crowned with tag 5. -/
def engined (ws : List (Nat × BitVec 64)) : State :=
  modCore (withCord (fun c => uni ws (tiles c))) 0 0 0 (fun co => modScale probeCord 3 (fun y => { y with crown := 5 }) co)

/-- A shape block at s8: FP32, 2 rows, 4 columns, pitch 16, at offset 0; the same with no column; and one whose base lies at the
last bytes of the allocation. -/
def shape (base pitch cols : BitVec 64) : List (Nat × BitVec 64) := [(9, base), (11, 0x200000000 + cols), (19, pitch)]

theorem witness_TileDefinitionResults :
    (shapeOk (shapeTile (sRegs (cur (engined (shape 0 16 4))).cord 8 16)) = true ∧
      scratchOk (cur (engined (shape 0 16 4))).cord (tileEnd (shapeTile (sRegs (cur (engined (shape 0 16 4))).cord 8 16))) 0 = true ∧
      Issues (engined (shape 0 16 4)) (cur (engined (shape 0 16 4))) al { reads := descRegs 8 16 }) ∧
    (shapeOk (shapeTile (sRegs (cur (engined (shape 0 16 0))).cord 8 16)) = false ∧
      Issues (engined (shape 0 16 0)) (cur (engined (shape 0 16 0))) al { reads := descRegs 8 16 }) ∧
    (shapeOk (shapeTile (sRegs (cur (engined (shape 0x7FF00 512 4))).cord 8 16)) = true ∧
      scratchOk (cur (engined (shape 0x7FF00 512 4))).cord (tileEnd (shapeTile (sRegs (cur (engined (shape 0x7FF00 512 4))).cord 8 16))) 0 = false ∧
      Issues (engined (shape 0x7FF00 512 4)) (cur (engined (shape 0x7FF00 512 4))) al { reads := descRegs 8 16 }) :=
  ⟨⟨by decide, by decide, issues_of (by decide)⟩, ⟨by decide, issues_of (by decide)⟩, by decide, by decide, issues_of (by decide)⟩

/-- A box of one dimension of 16 bytes, from memory to the scratchpad, at s8; and a load descriptor at s32: FP32, 16 bytes a row. -/
def copying : State := engined [(8, 65536), (9, 0), (10, 0x14), (11, 16), (32, 65536), (34, 16)]

theorem witness_CopyIssueResults :
    (boxOk (sRegs (cur copying).cord 8 16) = true ∧ (dreg (sRegs (cur copying).cord 8 16) 2).getLsbD 7 = false ∧
      boxBeyond (cur copying).cord (sRegs (cur copying).cord 8 16) 0 0 6 = none ∧
      boxBeyond (cur copying).cord (sRegs (cur copying).cord 8 16) 1 1 11 = none ∧
      boxLease copying 0 (cur copying).cord (sRegs (cur copying).cord 8 16) 0 0 6 false = none ∧
      boxLease copying 0 (cur copying).cord (sRegs (cur copying).cord 8 16) 1 1 11 true = none ∧
      counterFull (cur copying) .copy = false ∧ Issues copying (cur copying) al { reads := descRegs 8 16, fallible := true }) ∧
    ((tileOf (cur copying).cord 1).state ≠ 0 ∧ (tileOf (cur copying).cord 1).sparse = false ∧
      loadPair (memFmt (sRegs (cur copying).cord 32 3)) (tileOf (cur copying).cord 1).fmt.toNat = true ∧
      storePair (tileOf (cur copying).cord 1).fmt.toNat (memFmt (sRegs (cur copying).cord 32 3)) = true ∧
      loadDescOk (sRegs (cur copying).cord 32 3) = true ∧ twoScales (tileOf (cur copying).cord 1) = false ∧
      loadSync (sRegs (cur copying).cord 32 3) = none ∧
      tileLease copying 0 (cur copying).cord (sRegs (cur copying).cord 32 3) 2 16 0 false = none ∧ scaleBusy (cur copying).cord [4] = false ∧
      Issues copying (cur copying) al { reads := descRegs 32 3, kregs := [4], fallible := true } ∧
      Issues copying (cur copying) al { reads := descRegs 32 3, fallible := true }) ∧
    (blocked pressTile.fmt = true ∧ fresh (coreOfCord copying (cur copying).cord) (cur copying).cord 3 5 = true) :=
  ⟨⟨by decide, by decide, by decide, by decide, by decide, by decide, by decide, issues_of (by decide)⟩,
    ⟨by decide, by decide, by decide, by decide, by decide, by decide, by decide, by decide, by decide, issues_of (by decide),
      issues_of (by decide)⟩, by decide⟩

/-- An address in s8 that is not a multiple of 16. -/
def crookedPress : State := engined [(8, 8)]

theorem witness_PressIssueResults :
    (pressFault (cur copying) copying 0 2 (tileOf (cur copying).cord 2) = 0 ∧ counterFull (cur copying) .press = false ∧
      Issues copying (cur copying) al { fallible := true }) ∧
    (pressFault (cur copying) copying 0 1 (tileOf (cur copying).cord 2) = 0 ∧ (cur copying).cord.hdr.leases = [] ∧
      Issues copying (cur copying) al { reads := [.s (sReg 8)], fallible := true }) ∧
    ((rdS (cur copying).cord (sReg 8)).toNat % 16 = 0 ∧ leaseMiss copying 0 (cur copying).cord (upFrom (rdS (cur copying).cord (sReg 8)) 1024) false = none ∧
      tileLines (tileOf (cur copying).cord 2) ≠ 0) ∧
    ((rdS (cur crookedPress).cord (sReg 8)).toNat % 16 ≠ 0 ∧ counterFull (cur crookedPress) .press = false ∧
      Issues crookedPress (cur crookedPress) al { reads := [.s (sReg 8)], fallible := true }) ∧
    (cur copying).cord.eops.all (fun e => !(e.cls == .press && eopLive e)) = true ∧
    (Issues copying (cur copying) al { reads := [.v 2], writes := [.v 4], lat := 4 } ∧ Issues copying (cur copying) al {}) ∧
    pressFault (cur copying) copying 0 2 (tileOf (cur copying).cord 1) = 19 :=
  ⟨⟨by decide, by decide, issues_of (by decide)⟩, ⟨by decide, by decide, issues_of (by decide)⟩, ⟨by decide, by decide, by decide⟩,
    ⟨by decide, by decide, issues_of (by decide)⟩, by decide, ⟨issues_of (by decide), issues_of (by decide)⟩, by decide⟩

theorem witness_ScaleWordResults :
    (scaleBusy (cur copying).cord [0, 31] = false ∧ Issues copying (cur copying) al { kregs := [0, 31] }) ∧
    Issues copying (cur copying) al { reads := [.s (sReg 8)], kregs := [31] } ∧ Issues copying (cur copying) al { reads := [.v 8], kregs := [0] } ∧
    Issues copying (cur copying) al { reads := [.v 4], writes := [.v 4], lat := 4, kregs := [31] } ∧
    ((tileOf (cur copying).cord 1).state ≠ 0 ∧ (tileOf (cur copying).cord 0).state = 0 ∧ Issues copying (cur copying) al { kregs := [31] }) :=
  ⟨⟨by decide, issues_of (by decide)⟩, issues_of (by decide), issues_of (by decide), issues_of (by decide), by decide, by decide,
    issues_of (by decide)⟩

/-- A strand whose sbmap of t5 has bytes to write, alone and behind an older tld of t5. -/
def tilingOf : State := modStrand copying 0 0 (fun st => { st with tiling := some ⟨7, true, sparseTile 2, 5, sparseTile 2, 5⟩ })
def tilingBehind : State := modCord tilingOf 0 (fun c => { c with eops := [{ blankEOp with uid := 3, kind := .tld, tileNo := 5 }] })

theorem witness_SparseFormResults :
    (tldBefore (cur copying).cord.eops 2 = false ∧ readerBefore (cur copying).cord.eops 3 = false ∧
      (tileOf (cur copying).cord 2).state = 2 ∧ (tileOf (cur copying).cord 2).sparse = false ∧ (tileOf (cur copying).cord 2).fmt = 10#4 ∧
      (tileOf (cur copying).cord 2).rows = 256 ∧ (tileOf (cur copying).cord 3).state ≠ 0 ∧ (tileOf (cur copying).cord 3).sparse = true ∧
      (tileOf (cur copying).cord 3).fmt = (tileOf (cur copying).cord 2).fmt ∧ (tileOf (cur copying).cord 3).rows = (tileOf (cur copying).cord 2).rows ∧
      (tileOf (cur copying).cord 3).cols = (tileOf (cur copying).cord 2).cols ∧
      tilesOverlap (tileOf (cur copying).cord 3) (tileOf (cur copying).cord 2) = false) ∧
    ((tileOf (cur copying).cord 5).state = 2 ∧ (tileOf (cur copying).cord 5).sparse = true ∧ (5#7 = 5#7)) ∧
    Issues copying (cur copying) al {} ∧
    ((cur tilingOf).st.tiling = some ⟨7, true, sparseTile 2, 5, sparseTile 2, 5⟩ ∧ (cur tilingOf).cord.life = .running ∧
      tilingReady (cur tilingOf).cord ⟨7, true, sparseTile 2, 5, sparseTile 2, 5⟩ = true) ∧
    ((cur tilingBehind).cord.life = .running ∧ tilingReady (cur tilingBehind).cord ⟨7, true, sparseTile 2, 5, sparseTile 2, 5⟩ = false) :=
  ⟨by decide, by decide, issues_of (by decide), by decide, by decide⟩

/-- A scratchpad with a sync word at 0 of TARGET 3 and RUN 1. -/
def word13 : SMap (BitVec 8) := [(0, 3), (4, 1)]

theorem witness_SyncWordResults_credit : (word32 word13 0 ≠ 0 ∧ word32 word13 4 ≠ word32 word13 0 ∧ word32 word13 0 < word32 word13 4 + 3) ∧
    word32 word13 4 + 1 < word32 word13 0 ∧ word32 word13 4 + 2 = word32 word13 0 ∧ word32 [] 0 = 0 ∧
    (let m : SMap (BitVec 8) := [(0, 3), (4, 3)]; word32 m 0 ≠ 0 ∧ word32 m 4 = word32 m 0 ∧ word32 (putBytes m 4 (leBytes 4 0)) 4 + 3 = word32 m 0 ∧
      word32 m 0 < word32 (putBytes m 4 (leBytes 4 0)) 4 + 4) := by decide

/-- The sync word at the start of the scratchpad as one waiting for 3 credits. -/
def armed3 : State := modCore (withStrand (regs [(4, 1)])) 0 0 0 (fun co => { co with scratch := word13 })

theorem witness_SyncWordResults :
    ((rdV (cur armed3).st 2).toNat % 16 = 0 ∧ scratchOk (cur armed3).cord (rdV (cur armed3).st 2).toNat 16 = true ∧
      Issues armed3 (cur armed3) al { reads := [.v 4, .v 2], writes := [.v 4], lat := 0 }) ∧
    (older 0#32 (rdV (cur armed3).st 2) = false ∧
      Issues armed3 (cur armed3) al { reads := [.v 2, .v 2], writes := [.v 2], lat := 0, polls := .poll (rdV (cur armed3).st 2) (rdV (cur armed3).st 2) }) ∧
    (accessesDone (cur armed3) = true ∧
      (creditAt (releaseStep armed3 (partyOf (cur armed3).cord 0)) 0 0 (rdV (cur armed3).st 4).toNat).2 = true ∧
      Issues armed3 (cur armed3) al { reads := [.v 4, .v 2], lat := 1 }) ∧
    (creditAt (releaseStep base (partyOf (cur base).cord 0)) 0 0 1).2 = false ∧
    ((64 ≤ (64 : BitVec 7).toNat ∨ counter (cur base).cord .copy ≤ (64 : BitVec 7).toNat) ∧
      counter (cur base).cord .copy ≤ (0 : BitVec 7).toNat ∧ Issues base (cur base) al { polls := .poll 0 0 }) :=
  ⟨⟨by decide, by decide, issues_of (by decide)⟩, ⟨by decide, issues_of (by decide)⟩, ⟨by decide, by decide, issues_of (by decide)⟩,
    by decide, by decide, by decide, issues_of (by decide)⟩

/-- A strand outside the signers, and a round of another word. -/
def unsigned : State := withCord (fun c => { c with conv := c.conv.setIfInBounds 0 ⟨3, 0, 0, 0, 1, 0, 0, []⟩ })
def sp4 (s : State) (m : BitVec 3) : WSpec := { writes := [.v 4], lat := 0, signs := (wordAccs (cur s) s 4 1 m).any (heldBySync (cur s)) }

theorem witness_SignatureResults :
    (laneIn (convOf (cur unsigned).cord 0).signed 0 = false ∧ (wordAccs (cur unsigned) unsigned 4 1 0).any (isHeld (cur unsigned)) = false ∧
      roundWaits (cur unsigned) (convOf (cur unsigned).cord 0) = false ∧ scaleLoads (cur unsigned).cord (wordScales (cur unsigned) unsigned 1 0) = false ∧
      (0 : BitVec 3).toNat < (cur unsigned).cord.hdr.macros ∧ laneIn (convOf (cur unsigned).cord 0).signers 0 = true ∧
      (convOf (cur unsigned).cord 0).signed = 0 ∧ Issues unsigned (cur unsigned) al (sp4 unsigned 0)) ∧
    (laneIn (convOf (cur base).cord 1).signers 0 = false ∧ laneIn (convOf (cur base).cord 1).signed 0 = false ∧
      roundWaits (cur base) (convOf (cur base).cord 1) = false ∧ Issues base (cur base) al (sp4 base 0)) ∧
    (laneIn (convOf (cur signing).cord 0).signed 0 = false ∧ (wordAccs (cur signing) signing 4 1 0).any (isHeld (cur signing)) = false ∧
      roundWaits (cur signing) (convOf (cur signing).cord 0) = false ∧ laneIn (convOf (cur signing).cord 0).signers 0 = true ∧
      (convOf (cur signing).cord 0).signed ≠ 0 ∧ (convOf (cur signing).cord 0).word ≠ (encode (.mma al 4 1 0 0)).extractLsb' 0 27 ∧
      Issues signing (cur signing) al (sp4 signing 0)) :=
  ⟨⟨by decide, by decide, by decide, by decide, by decide, by decide, by decide, issues_of (by decide)⟩,
    ⟨by decide, by decide, by decide, issues_of (by decide)⟩, by decide, by decide, by decide, by decide, by decide, by decide, issues_of (by decide)⟩

/-- The cord of the machine without macros of its own. -/
def noMacros : State := withCord (fun c => { c with hdr := { c.hdr with macros := 0 } })
theorem witness_SignatureResults_macros : (cur noMacros).cord.hdr.macros ≤ (0 : BitVec 3).toNat ∧
    Issues noMacros (cur noMacros) al (sp4 noMacros 0) := ⟨by decide, issues_of (by decide)⟩

/-- A send of 16 bytes from the scratchpad to address 65,536 in s8 to s10, and with a trigger at offset 0 in s11; an Ethernet send to
peer 0 and a receive descriptor. -/
def sending : State := modCtx (engined [(8, 0), (9, 65536), (10, 0x0002000000000010), (11, 0)]) 1 (fun x => { x with peers := [(0, ⟨1, 0⟩)] })
def allArmed : State := modCord sending 0 (fun c => { c with trig := Vector.replicate 16 { blankTrig with armed := true } })
def ethering : State := modCtx (engined [(8, 0), (9, 0), (10, 0x0001000000000010), (11, 0)]) 1 (fun x => { x with peers := [(0, ⟨1, 0⟩)] })

theorem witness_FabricIssueResults :
    (sendFault (cur sending).cord false (sRegs (cur sending).cord 8 3) = none ∧ sendFault (cur sending).cord true (sRegs (cur sending).cord 8 3) = none ∧
      sendLease sending 0 (cur sending).cord (sRegs (cur sending).cord 8 3) true = none ∧ counterFull (cur sending) .fabric = false ∧
      Issues sending (cur sending) al { reads := descRegs 8 3, fallible := true }) ∧
    (bitsOf (dreg (sRegs (cur sending).cord 8 4) 3) 20 12 = 0 ∧
      sendFault (cur sending).cord (trigAdd (sRegs (cur sending).cord 8 4)) (sRegs (cur sending).cord 8 4) = none ∧
      trigOff (sRegs (cur sending).cord 8 4) % 16 = 0 ∧ scratchOk (cur sending).cord (trigOff (sRegs (cur sending).cord 8 4)) 16 = true ∧
      word32 (coreOfCord sending (cur sending).cord).scratch (scrBase (cur sending).cord + trigOff (sRegs (cur sending).cord 8 4)) = 0 ∧
      sendLease sending 0 (cur sending).cord (sRegs (cur sending).cord 8 4) true = none ∧ freeTrig (cur sending).cord = some 0 ∧ Issues sending (cur sending) al { reads := descRegs 8 4, writes := [.s (sReg 20)] }) ∧
    freeTrig (cur allArmed).cord = none ∧ Issues sending (cur sending) al { reads := [.s (sReg 20)] } ∧
    (bitsOf (dreg (sRegs (cur ethering).cord 8 4) 2) 55 9 = 0 ∧ bitsOf (dreg (sRegs (cur ethering).cord 8 4) 3) 35 29 = 0 ∧
      0 < sendLen (sRegs (cur ethering).cord 8 4) ∧ sendLen (sRegs (cur ethering).cord 8 4) ≤ 2 ^ 24 ∧
      (mget (ctxOf ethering 1).peers (esendPeer (sRegs (cur ethering).cord 8 4))).isSome = true ∧
      esendOff (sRegs (cur ethering).cord 8 4) % 2 = 0 ∧
      scratchOk (cur ethering).cord (esendOff (sRegs (cur ethering).cord 8 4)) (2 * esendSet (sRegs (cur ethering).cord 8 4)) = true ∧
      (dreg (sRegs (cur ethering).cord 8 4) 2).getLsbD 48 = true ∧ scratchOk (cur ethering).cord 0 16 = true ∧
      Issues ethering (cur ethering) al { reads := descRegs 8 4, fallible := true }) ∧
    (bitsOf (dreg (sRegs (cur ethering).cord 20 3) 1) 49 15 = 0 ∧ bitsOf (dreg (sRegs (cur ethering).cord 20 3) 2) 19 45 = 0 ∧
      bitsOf (dreg (sRegs (cur ethering).cord 20 3) 2) 0 19 % 16 = 0) :=
  ⟨⟨by decide, by decide, by decide, by decide, issues_of (by decide)⟩,
    ⟨by decide, by decide, by decide, by decide, by decide, by decide, by decide, issues_of (by decide)⟩, by decide, issues_of (by decide),
    ⟨by decide, by decide, by decide, by decide, by decide, by decide, by decide, by decide, by decide, issues_of (by decide)⟩, by decide⟩

/-- An odd address, a scratchpad offset at the end of the allocation, and sends of no bytes, of part of an element, to an odd
destination, and from beyond the allocation. -/
def crooked : State := withStrand (regs [(2, 2), (4, 524288)])
def badSend (src dst len : BitVec 64) : State := withCord (uni [(8, src), (9, dst), (10, len)])
def crookedScratch (off : BitVec 32) : State := withStrand (regs [(2, off)])
def badFour (src dst len list : BitVec 64) : State :=
  modCtx (withCord (uni [(8, src), (9, dst), (10, len), (11, list)])) 1 (fun x => { x with peers := [(0, ⟨1, 0⟩)] })

/-- A node of 8 vector and 4 scale registers, and a strand under the stall check that has just written V[2] with a latency of 4. -/
def narrow : State := withCord (fun c => { c with hdr := { c.hdr with vregs := 8, kregs := 4 } })
def closeBy : State := withStrand (fun st => { st with stat := 1, chk := [⟨.v 2, 4, 1⟩, ⟨.p 1, 4, 1⟩] })

theorem witness_PreciseFaults_every :
    (let s := narrow; let h := cur s; here s = some h ∧ ableStrand h.cord h.st h.now = true ∧ polling h.st = false ∧
      stallFault h (guardRegs al) = false ∧ rdP h.st al.pred = true ∧ h.cord.hdr.vregs ≤ (8 : BitVec 7).toNat ∧
      (7 : BitVec 7).toNat < h.cord.hdr.vregs ∧ h.cord.hdr.kregs ≤ (4 : BitVec 5).toNat ∧ h.cord.hdr.kregs ≤ (4 : BitVec 7).toNat ∧
      boundFault h { reads := [.v 2], writes := [.v 8] } = true ∧ boundFault h { kregs := [4] } = true ∧ boundFault h { reads := [.v 7] } = false) ∧
    (let s := closeBy; let h := cur s; here s = some h ∧ ableStrand h.cord h.st h.now = true ∧ polling h.st = false ∧
      (guardRegs ⟨1, 0⟩).any (isHeld h) = false ∧ stallFault h (guardRegs ⟨1, 0⟩) = true ∧ stallFault h (guardRegs al) = false ∧
      boundFault h { reads := [.v 2, .v 3], writes := [.v 4], lat := 1 } = false ∧ issueHeld h { reads := [.v 2, .v 3], writes := [.v 4], lat := 1 } = false ∧
      stallFault h [.v 2, .v 3] = true) := by decide

theorem witness_PreciseFaults :
    ((rdV2 (cur crooked).st 2).toNat % sizeBytes 4 ≠ 0 ∧ (rdV2 (cur crooked).st 2).toNat % 8 ≠ 0 ∧
      scratchOk (cur crooked).cord (rdV (cur crooked).st 4).toNat (sizeBytes 0) = false ∧
      Issues crooked (cur crooked) al { reads := pair 2, writes := sizeRegs 4 6, lat := 0, fallible := true } ∧
      Issues crooked (cur crooked) al { reads := [.v 4], writes := sizeRegs 0 6, lat := 0 }) ∧
    (namedSlot 2 (cur base) base = none ∧ hzClear (cur base).now (cur base).st = true ∧ storesPerformed (cur base) = true ∧
      loadsReturned (cur base) = true ∧ Issues base (cur base) al { reads := pair 2 }) ∧
    (sendLen (sRegs (cur base).cord 8 3) = 0 ∧ counterFull (cur base) .fabric = false ∧
      Issues base (cur base) al { reads := descRegs 8 3, fallible := true }) ∧
    2 ^ 24 < sendLen (sRegs (cur (badSend 0 0 0x1000001)).cord 8 3) ∧
    (0 < sendLen (sRegs (cur (badSend 0 0 6)).cord 8 3) ∧ sendLen (sRegs (cur (badSend 0 0 6)).cord 8 3) ≤ 2 ^ 24 ∧
      sendLen (sRegs (cur (badSend 0 0 6)).cord 8 3) % addSize (sendType (sRegs (cur (badSend 0 0 6)).cord 8 3)) ≠ 0) ∧
    (bitsOf (dreg (sRegs (cur (badSend 0 2 8)).cord 8 3) 2) 52 12 = 0 ∧ sendType (sRegs (cur (badSend 0 2 8)).cord 8 3) ≠ 3 ∧
      (dreg (sRegs (cur (badSend 0 2 8)).cord 8 3) 1).toNat % addSize (sendType (sRegs (cur (badSend 0 2 8)).cord 8 3)) ≠ 0) ∧
    (sendSsp (sRegs (cur (badSend 524288 0 0x0002000000000001)).cord 8 3) = true ∧
      scratchOk (cur (badSend 524288 0 0x0002000000000001)).cord (dreg (sRegs (cur (badSend 524288 0 0x0002000000000001)).cord 8 3) 0).toNat 1 = false) ∧
    ((rdV (cur (crookedScratch 2)).st 2).toNat % 4 ≠ 0 ∧ (rdV (cur (crookedScratch 524288)).st 2).toNat % 4 = 0 ∧
      scratchOk (cur (crookedScratch 524288)).cord (rdV (cur (crookedScratch 524288)).st 2).toNat 4 = false ∧
      Issues (crookedScratch 2) (cur (crookedScratch 2)) al { reads := [.v 2] ++ pair 4, writes := [.v 4], lat := 0 } ∧
      Issues (crookedScratch 524288) (cur (crookedScratch 524288)) al { reads := [.v 2] ++ [.v 4], writes := [.v 4], lat := 0 }) ∧
    Issues crooked (cur crooked) al { reads := pair 2 ++ quadruple 4, writes := pair 4, lat := 0, fallible := true } :=
  ⟨⟨by decide, by decide, by decide, issues_of (by decide), issues_of (by decide)⟩,
    ⟨by decide, by decide, by decide, by decide, issues_of (by decide)⟩, ⟨by decide, by decide, issues_of (by decide)⟩, by decide, by decide,
    by decide, by decide, ⟨by decide, by decide, by decide, issues_of (by decide), issues_of (by decide)⟩, issues_of (by decide)⟩

theorem witness_PreciseFaults_sends :
    (sendLen (sRegs (cur (badFour 0 0 0 0)).cord 8 4) = 0 ∧
      Issues (badFour 0 0 0 0) (cur (badFour 0 0 0 0)) al { reads := descRegs 8 4, writes := [.s (sReg 20)] } ∧
      Issues (badFour 0 0 0 0) (cur (badFour 0 0 0 0)) al { reads := descRegs 8 4, fallible := true }) ∧
    (trigAdd (sRegs (cur (badFour 0 0 6 0x80000)).cord 8 4) = true ∧
      sendLen (sRegs (cur (badFour 0 0 6 0x80000)).cord 8 4) % addSize (sendType (sRegs (cur (badFour 0 0 6 0x80000)).cord 8 4)) ≠ 0 ∧
      sendFault (cur (badFour 0 0 6 0x80000)).cord true (sRegs (cur (badFour 0 0 6 0x80000)).cord 8 4) = some (19, 0)) ∧
    (sendFault (cur (badFour 0 0 8 8)).cord false (sRegs (cur (badFour 0 0 8 8)).cord 8 4) = none ∧
      trigOff (sRegs (cur (badFour 0 0 8 8)).cord 8 4) % 16 ≠ 0 ∧ trigOff (sRegs (cur (badFour 0 0 8 0x7FFF8)).cord 8 4) % 16 = 8 ∧
      trigOff (sRegs (cur (badFour 0 0 8 0x7FFF0)).cord 8 4) % 16 = 0) ∧
    ((mget (ctxOf (badFour 0 0 8 0x10000) 1).peers (esendPeer (sRegs (cur (badFour 0 0 8 0x10000)).cord 8 4))).isSome = true ∧
      esendOff (sRegs (cur (badFour 0 0 8 0x10000)).cord 8 4) % 2 ≠ 0 ∧
      (esendOff (sRegs (cur (badFour 0 0 0x0002000000000008 0x7FFFE0000)).cord 8 4) % 2 = 0 ∧
        scratchOk (cur base).cord (esendOff (sRegs (cur (badFour 0 0 0x0002000000000008 0x7FFFE0000)).cord 8 4))
          (2 * esendSet (sRegs (cur (badFour 0 0 0x0002000000000008 0x7FFFE0000)).cord 8 4)) = false) ∧
      ((dreg (sRegs (cur (badFour 524288 0 0x0001000000000008 0)).cord 8 4) 2).getLsbD 48 = true ∧
        scratchOk (cur base).cord (dreg (sRegs (cur (badFour 524288 0 0x0001000000000008 0)).cord 8 4) 0).toNat 8 = false)) ∧
    (bitsOf (dreg (sRegs (cur (badSend 0 0 8)).cord 8 3) 2) 0 19 % 16 ≠ 0 ∧ bitsOf (dreg (sRegs (cur (badSend 0 0 8)).cord 8 3) 2) 19 45 = 0) :=
  ⟨⟨by decide, issues_of (by decide), issues_of (by decide)⟩, by decide, by decide, by decide, by decide⟩


/-- A strand with one access of 4 bytes of its page, and the access. -/
def access (f : Op → Op) : State := withStrand (fun st => { st with ops := [f { blankOp with uid := 7, va := 65536, size := 4 }] })
def accHere (s : State) : Acc := (accOf s 0 0 7).getD ⟨probeCord, startStrand 0 0 0 0, blankOp, 0⟩
theorem acc_of {s : State} (h : (accOf s 0 0 7).isSome = true) : accOf s 0 0 7 = some (accHere s) := by
  unfold accHere
  cases hh : accOf s 0 0 7 with
  | none => simp [hh] at h
  | some x => rfl

/-- Behind a failed access; with the word in the L1; of an unmapped address; and performed with its word, whose FILL is to come. -/
def behind : State := withStrand (fun st => { st with ops := [{ blankOp with uid := 6, state := .failed }, { blankOp with uid := 7, va := 65536, size := 4 }] })
def warm : State := modCore (access id) 0 0 0 (fun co => { co with l1 := [(16384, 5)] })
def unmapped : State := access (fun o => { o with va := 0 })
def is (k : OpKind) (x : OpState) : State := access (fun o => { o with kind := k, state := x, acq := x == .performed, rel := k == .atomic })
def toFill : State := access (fun o => { o with state := .performed, line := [(16384, 5)], got := [(0, 5), (1, 0), (2, 0), (3, 0)] })
/-- Behind an older operation of its bytes that has not been sent; beside lane 1, whose load of its word is behind an older operation. -/
def after6 (k : OpKind) (f : Op → Op) : State := withStrand (fun st => { st with ops := [{ blankOp with uid := 6, kind := k, va := 65536, size := 4 },
  f { blankOp with uid := 7, va := 65536, size := 4 }] })
def beside (k : OpKind) : State := modCord (access (fun o => { o with grp := 9 })) 0 (fun c => { c with lanes := 3, strands := c.strands ++
  [(1, { startStrand 65536 0 0 0 with ops := [{ blankOp with uid := 5, kind := k, va := 65536, size := 4 }, { blankOp with uid := 8, grp := 9, va := 65536, size := 4 }] })] })
def early (o : Op) : Op := { o with state := .performed, left := 0, home := [65536, 65537, 65538, 65539], line := [(16384, 5)], got := [(0, 5), (1, 0), (2, 0), (3, 0)] }

/-- What every clause of AccessTransitions asks of a sent access. -/
def mayGo (s : State) : Bool :=
  kindSent (accHere s).op.kind && !heldBack s 0 (accHere s) && !groupHeld s 0 (accHere s) && !atomHeld s (accHere s) && !loadTurn s (accHere s) && (accHere s).op.state == .unsent

theorem witness_AccessTransitions :
    (accOf behind 0 0 7 = some (accHere behind) ∧ heldBack behind 0 (accHere behind) = true ∧ kindSent (accHere behind).op.kind = true) ∧
    (accOf warm 0 0 7 = some (accHere warm) ∧ heldBack warm 0 (accHere warm) = false ∧ groupHeld warm 0 (accHere warm) = false ∧
      dropBefore (accHere warm) = false ∧ matesOf warm 0 (accHere warm) = [] ∧
      accessFate warm ⟨0, 0, 0⟩ 1 (needOf .load) 65536 4 = none ∧ tlbReady warm (accHere warm).cord (accHere warm).op = true ∧
      (l1Bytes (coreOfCord warm (accHere warm).cord) (opKeys warm (accHere warm).cord (accHere warm).op)).isSome = true) ∧
    (accOf (access id) 0 0 7 = some (accHere (access id)) ∧ mayGo (access id) = true ∧
      accessFate (access id) ⟨0, 0, 0⟩ 1 (needOf .load) 65536 4 = none ∧
      tlbReady (access id) (accHere (access id)).cord (accHere (access id)).op = true ∧
      hitsL1 (access id) (accHere (access id)).cord 65536 4 = false ∧
      (opKeys (access id) (accHere (access id)).cord (accHere (access id)).op).any (planeRetiring (access id) 0) = false) ∧
    (accOf (is .atomic .unsent) 0 0 7 = some (accHere (is .atomic .unsent)) ∧ mayGo (is .atomic .unsent) = true ∧
      (accHere (is .atomic .unsent)).op.rel = true) ∧
    (accOf unmapped 0 0 7 = some (accHere unmapped) ∧ mayGo unmapped = true ∧ (accessFate unmapped ⟨0, 0, 0⟩ 1 (needOf .load) 0 4).isSome = true) ∧
    (accOf toFill 0 0 7 = some (accHere toFill) ∧ (accHere toFill).op.filled = false ∧ (accHere toFill).op.na = false ∧
      behindFailure (accHere toFill) = false ∧ unreadBefore toFill (accHere toFill) = [] ∧ (accHere toFill).op.state = .performed ∧
      (accHere toFill).op.line = [(16384, 5)] ∧ (coreOfCord toFill (accHere toFill).cord).l1.length < 32768) ∧
    (accOf (is .load .performed) 0 0 7 = some (accHere (is .load .performed)) ∧ (accHere (is .load .performed)).op.state = .performed ∧
      (olderOps (accHere (is .load .performed)).st 7).any (opFailed 0) = false) ∧
    (accOf (is .fenceRel .unsent) 0 0 7 = some (accHere (is .fenceRel .unsent)) ∧
      heldBack (is .fenceRel .unsent) 0 (accHere (is .fenceRel .unsent)) = false) ∧
    (accOf (is .tkrel .unsent) 0 0 7 = some (accHere (is .tkrel .unsent)) ∧
      (transOf (releaseStep (is .tkrel .unsent) (partyOf (accHere (is .tkrel .unsent)).cord 0)) ⟨0, 0, 0⟩ 1 65536).isSome = true) ∧
    (accOf (is .fenceAcq .unsent) 0 0 7 = some (accHere (is .fenceAcq .unsent)) ∧ mayAcquire (accHere (is .fenceAcq .unsent)) = true) ∧
    (accOf (is .invl1All .unsent) 0 0 7 = some (accHere (is .invl1All .unsent)) ∧
      heldBack (is .invl1All .unsent) 0 (accHere (is .invl1All .unsent)) = false) ∧
    (accOf (is .invl1 .unsent) 0 0 7 = some (accHere (is .invl1 .unsent)) ∧ heldBack (is .invl1 .unsent) 0 (accHere (is .invl1 .unsent)) = false ∧
      (transOf (modOp (is .invl1 .unsent) 0 0 7 (fun o => { o with state := .settled })) ⟨0, 0, 0⟩ 1 65536).isSome = true) ∧
    (accOf (is .store .performed) 0 0 7 = some (accHere (is .store .performed)) ∧ (accHere (is .store .performed)).op.state = .performed) ∧
    (accOf (is .acqLoad .performed) 0 0 7 = some (accHere (is .acqLoad .performed)) ∧ (accHere (is .acqLoad .performed)).op.acq = true ∧
      (olderOps (accHere (is .acqLoad .performed)).st 7).any (opFailed 0) = false) ∧
    (accOf (is .atomic .performed) 0 0 7 = some (accHere (is .atomic .performed)) ∧ (accHere (is .atomic .performed)).op.acq = true) :=
  ⟨⟨acc_of (by decide), by decide⟩, ⟨acc_of (by decide), by decide⟩, ⟨acc_of (by decide), by decide⟩, ⟨acc_of (by decide), by decide⟩,
    ⟨acc_of (by decide), by decide⟩, ⟨acc_of (by decide), by decide⟩, ⟨acc_of (by decide), by decide⟩,
    ⟨acc_of (by decide), by decide⟩, ⟨acc_of (by decide), by decide⟩, ⟨acc_of (by decide), by decide⟩, ⟨acc_of (by decide), by decide⟩,
    ⟨acc_of (by decide), by decide⟩, ⟨acc_of (by decide), by decide⟩, ⟨acc_of (by decide), by decide⟩, acc_of (by decide), by decide⟩

/-- The holds of a load, an early load, a refill, and the fences. -/
theorem witness_AccessTransitions_order :
    (let s := after6 .invl1All id; accOf s 0 0 7 = some (accHere s) ∧ (accHere s).op.state = .unsent ∧ dropBefore (accHere s) = true) ∧
    (let s := beside .invl1All; accOf s 0 0 7 = some (accHere s) ∧
      (matesOf s 0 (accHere s)).any (fun b => dropBefore b && !behindFailure b) = true) ∧
    (let s := after6 .obs id; accOf s 0 0 7 = some (accHere s) ∧ loadTurn s (accHere s) = true) ∧
    (let s := beside .load; accOf s 0 0 7 = some (accHere s) ∧ groupHeld s 0 (accHere s) = true) ∧
    (let s := after6 .load early; accOf s 0 0 7 = some (accHere s) ∧ (accHere s).op.filled = false ∧ (accHere s).op.na = false ∧
      behindFailure (accHere s) = false ∧ unreadBefore s (accHere s) ≠ [] ∧ loadSent (accHere s).op = true ∧ arrivedLoad (accHere s) = true) ∧
    (let s := is .refill .performed; accOf s 0 0 7 = some (accHere s) ∧ arrivedLoad (accHere s) = true ∧ unreadBefore s (accHere s) = []) ∧
    (∀ k ∈ [OpKind.fenceAcq, .fenceRel, .fence, .tkrel], ∀ b ∈ [true, false],
      let s := access (fun o => { o with kind := k, rel := b, acq := b })
      (accHere s).op.state = .unsent ∧ (accHere s).op.rel = b ∧ (accHere s).op.acq = b ∧ (accOf s 0 0 7).isSome = true) :=
  ⟨⟨acc_of (by decide), by decide⟩, ⟨acc_of (by decide), by decide⟩, ⟨acc_of (by decide), by decide⟩, ⟨acc_of (by decide), by decide⟩,
    ⟨acc_of (by decide), by decide⟩, ⟨acc_of (by decide), by decide⟩, by decide⟩

/-- A request of lane 0 for four bytes from an address on. -/
def request (k : OpKind) (a : Nat) (x : Option AtomSpec) : Req :=
  ⟨3, ⟨0, 1, 0, 0, 0⟩, 0, 0, 7, ⟨0, 0, 0⟩, k, [0, 1, 2, 3], [a, a + 1, a + 2, a + 3], 65536, 0, [1, 2, 3, 4], x, 0, 0, 0, []⟩
def asked (r : Req) : State := { base with arrivals := [r] }
/-- The request to a frame that is being moved. -/
def waitedFor (r : Req) : State := modFrames (asked r) [1] (fun f => { f with state := .moving })
/-- The bytes hold an unreleased store of lane 1. -/
def dirty (r : Req) : State := { asked r with tokens := r.addrs.map (fun a => (a, ⟨some ⟨0, 1, 0, 0, 1⟩, .unrel, 0⟩)) }

/-- The request and its operation, with the words of the bytes in the LLC. -/
def served (k : OpKind) : State := modDie { access (fun o => { o with kind := k, state := .sent, left := 1 }) with
  arrivals := [request k 65536 none] } 0 0 (fun d => { d with llc := [⟨256, 1, [], false⟩] })

/-- The strand's access of two pieces to one region, both at the home, the second's byte held by lane 1. -/
def twoPieces : State := { access (fun o => { o with kind := .store, state := .sent, left := 2, home := [65536, 65537, 65538, 65539] }) with
  arrivals := [{ request .store 65536 none with addrs := [65536], offs := [0], data := [1] },
    { request .store 65537 none with uid := 4, addrs := [65537], offs := [1], data := [2] }]
  tokens := [(65537, ⟨some ⟨0, 1, 0, 0, 1⟩, .unrel, 0⟩)] }

theorem witness_HomePerforms_race :
    (let r := request .load 65536 none; let s := dirty r; besideOf s r = [] ∧ (requestRace s r).1.isSome = true) ∧
    (let s := twoPieces; let r := s.arrivals.headD (request .store 65536 none);
      besideOf s r ≠ [] ∧ raceOf s r = none ∧ ((r :: besideOf s r).findSome? (raceOf s)).isSome = true) ∧
    (∀ k ∈ [OpKind.load, .store, .atomic], let r := request k 65536 none; (requestRace (asked r) r).1 = none) := by decide

theorem witness_HomePerforms :
    ((asked (request .load (2 ^ 38) none)).arrivals.find? (·.uid == 3) = some (request .load (2 ^ 38) none) ∧
      ∃ a ∈ (request .load (2 ^ 38) none).addrs, homeDie a = none) ∧
    (let r := request .load 65536 none; let s := asked r;
      s.arrivals.find? (·.uid == 3) = some r ∧ r.addrs.all (fun a => (homeDie a).isSome && keyDev a == 0) = true ∧ packetOf s r = none ∧
      (atomGroup s r).all (requestReady s) = true ∧ drained s r = [] ∧ drainDone s r = true) ∧
    (let r := request .load 65536 none; let s := waitedFor r;
      s.arrivals.find? (·.uid == 3) = some r ∧ packetOf s r = none ∧ (atomGroup s r).any (fun q => !requestReady s q) = true) ∧
    (let r := request .load (2 ^ 40) none; let s := asked r;
      s.arrivals.find? (·.uid == 3) = some r ∧ r.addrs.all (fun a => (homeDie a).isSome) = true ∧ packetOf s r = none ∧
      r.addrs.any (fun a => keyDev a == 0) = false ∧ r.addrs.any (holderHas s ⟨0, 0, 0⟩) = false) ∧
    (((request .load 65536 none).addrs.zip (request .load 65536 none).offs).findSome? (fun p =>
      (raceAt (tokenOf (dirty (request .load 65536 none)) p.1) .load ⟨0, 1, 0, 0, 0⟩ 0).map (fun d => (p.2, d)))).isSome = true ∧
    ((∀ a ∈ (request .store 65536 none).addrs, raceAt (tokenOf base a) .store ⟨0, 1, 0, 0, 0⟩ 0 = none) ∧
      (∀ a ∈ (request .load 65536 none).addrs, raceAt (tokenOf base a) .load ⟨0, 1, 0, 0, 0⟩ 0 = none ∧ poisoned base a = false ∧
        loadSeen base 0 a = none) ∧ Memory.wf base.mem ∧ (request .store 65536 none).addrs.Nodup ∧
      (request .store 65536 none).data.length = (request .store 65536 none).addrs.length) ∧
    (let x : AtomSpec := ⟨11, 0, 9, false, 0⟩;
      (performBytes (served .load) (request .atomic 65536 (some x))).2.cause ≠ 11 ∧
      (∀ a ∈ (request .atomic 65536 (some x)).addrs, raceAt (tokenOf (served .load) a) .atomic ⟨0, 1, 0, 0, 0⟩ 0 = none) ∧
      leNat ((request .atomic 65536 (some x)).addrs.map (readCell (served .load).mem)) = 0 ∧ (atomNew x 4 0).2 &&& x.en = 0#5 ∧ atomWrites x 4 0 (atomNew x 4 0).2 = true ∧ atomWrites x 4 1 (atomNew x 4 1).2 = false) ∧
    (let x : AtomSpec := ⟨10, 0x7F800001, 0, false, 31⟩;
      (performBytes (served .load) (request .atomic 65536 (some x))).2.cause = 13 ∧ (atomNew x 4 0).2 &&& x.en ≠ 0#5) ∧
    (∀ k ∈ [OpKind.load, .obs, .acqLoad, .refill, .store, .spill, .relStore],
      let s := served k; let r := request k 65536 none;
      s.arrivals.find? (·.uid == 3) = some r ∧ packetOf s r = none ∧ (atomGroup s r).all (requestReady s) = true ∧ drainDone s r = true ∧
      ((strandOf s 0 0).bind (fun st => opOf st 7)).any (fun o => o.left == 1 && o.cause == 0) = true ∧
      drained s r = [] ∧ frameFate s 0 r.addrs = .perform ∧
      (r.addrs.all (fun a => llcHolds s a && !poisoned s a && (loadSeen s 0 a).isNone && (raceAt (tokenOf s a) k r.party 0).isNone)) = true) :=
  ⟨⟨by decide, 2 ^ 38, by decide⟩, by decide, by decide, by decide, by decide, by decide, by decide, by decide, by decide⟩

/-- The machine before its first fetch; a page table with a leaf for 65,536; a page being moved. -/
def unfetched : State := modCore base 0 0 0 (fun co => { co with icache := [] })
def tabled : State := (putLeaf (modCtx (modCore base 0 0 0 (fun co => { co with tlb := [] })) 1
  (fun x => { x with room := [(0, 4)] })) 1 0 65536 false 0x400107).getD base
def movable : State := (putLeaf (modCtx base 1 (fun x => { x with room := [(0, 4)], owned := [(0, 65536, 131072)] })) 1 0 65536 false 0x400007).getD base
def moving (step : Nat) : State := { movable with moves := [⟨1, 65536, 1, 2 ^ 20, step⟩] }
def asking : State := modCore base 0 0 0 (fun co => { co with asks := [(1, 65536)] })

/-- The machine whose context may not read its page, and the one where that page lies in another module. -/
def locked (s : State) : State := modCore s 0 0 0 (fun co => { co with tlb := [⟨1, 65536, 65536, 0, 65536, 0, false, false, false⟩] })
def afar (s : State) : State := modCore s 0 0 0 (fun co => { co with tlb := [⟨1, 65536, 65536, 1, 65536, 0, true, true, true⟩] })
def held (s : State) : State := modFrames s [1] (fun f => { f with state := .moving })

theorem witness_TranslationEvents_spans :
    (let s := unfetched; let f := freshTrans s ⟨0, 0, 0⟩ 1 65536;
      spanNeeds s ⟨0, 0, 0⟩ 1 65536 ≠ [] ∧ frameMoving s ⟨0, 0, 0⟩ 1 65536 = false ∧ refreshing s (spanKeys s ⟨0, 0, 0⟩ 1 65536) = false ∧
      fetchFate f ⟨0, 0, 0⟩ 1 65536 = none ∧
      (liveTrans f ⟨0, 0, 0⟩ 1 65536).any (fun e => e.r && e.x && (spanKeys f ⟨0, 0, 0⟩ 1 65536).all (nearByte f ⟨0, 0, 0⟩ e.gen)) = true ∧
      (mget s.modules 0).isSome = true) ∧
    (let s := afar unfetched; let f := freshTrans s ⟨0, 0, 0⟩ 1 65536;
      fetchFate f ⟨0, 0, 0⟩ 1 65536 = none ∧ frameMoving s ⟨0, 0, 0⟩ 1 65536 = false ∧ refreshing s (spanKeys s ⟨0, 0, 0⟩ 1 65536) = false ∧
      (liveTrans f ⟨0, 0, 0⟩ 1 65536).any (fun e => e.r && (spanKeys f ⟨0, 0, 0⟩ 1 65536).any (fun a => !nearByte f ⟨0, 0, 0⟩ e.gen a)) = true) ∧
    (let s := locked unfetched; spanNeeds s ⟨0, 0, 0⟩ 1 65536 ≠ [] ∧ (fetchFate (freshTrans s ⟨0, 0, 0⟩ 1 65536) ⟨0, 0, 0⟩ 1 65536).isSome = true ∧
      (liveTrans (freshTrans s ⟨0, 0, 0⟩ 1 65536) ⟨0, 0, 0⟩ 1 65536).all (fun e => !e.r) = true) ∧
    (frameMoving (held unfetched) ⟨0, 0, 0⟩ 1 65536 = true ∧ spanAsked base ⟨0, 0, 0⟩ 1 131072 = false ∧ spanNeeds base ⟨0, 0, 0⟩ 1 131072 = []) ∧
    spanAsked asking ⟨0, 0, 0⟩ 1 65536 = true := by decide

theorem witness_TranslationEvents :
    (tlbFind (coreOf tabled 0 0 0) 1 65536 = none ∧ (walk tabled 1 0 65536).isSome = true) ∧
    (movable.moves = [] ∧ movable.arrivals = [] ∧ moveDev (2 ^ 20) = 0 ∧
      (leafOf movable 1 0 65536).any (fun x => !x.2.2 && byteKey (bitsOf x.2.1 46 10) (bitsOf x.2.1 22 24 * 2 ^ 16) / 2 ^ 16 == 1 &&
        mayMove movable 1 0 65536 1 (2 ^ 20) x.2.1 false) = true) ∧
    ((moving 0).moves.find? (fun x => x.ctx == 1 && x.va == 65536 && x.step < 4) = some ⟨1, 65536, 1, 2 ^ 20, 0⟩) ∧
    (moving 1).moves.find? (fun x => x.ctx == 1 && x.va == 65536 && x.step < 4) = some ⟨1, 65536, 1, 2 ^ 20, 1⟩ ∧
    ((moving 2).moves.find? (fun x => x.ctx == 1 && x.va == 65536 && x.step < 4) = some ⟨1, 65536, 1, 2 ^ 20, 2⟩ ∧
      (leafOf (moving 2) 1 0 65536).isSome = true) ∧
    ((moving 3).moves.find? (fun x => x.ctx == 1 && x.va == 65536 && x.step < 4) = some ⟨1, 65536, 1, 2 ^ 20, 3⟩ ∧
      ((frameOf (moving 3) 65536).gen + 1).toNat % 128 ≠ 0) := by decide

/-- A port with one packet; a die at a cycle with refresh windows; a module with a window asked for. -/
def port (read served : Bool) : State := modDie base 0 0 (fun d => { d with ports := [(0, ⟨[], [⟨0, read, [(65536, 1)], served, false⟩]⟩)] })
def cycling (n : Nat) (act : BitVec 8) : State := modDie base 0 0 (fun d => { d with cyc := n, refAct := act })
def windowed : State := modModule base 0 (fun m => { m with windows := [⟨1, 2 ^ 39, 2 ^ 39 + 65536, [1], false⟩] })

theorem witness_DieEvents :
    (portPacket (port true false) ⟨0, 0, 0⟩ 0 = some ⟨0, true, [(65536, 1)], false, false⟩) ∧
    (portPacket (port false false) ⟨0, 0, 0⟩ 0 = some ⟨0, false, [(65536, 1)], false, false⟩ ∧
      olderWrite (port false false) ⟨0, 0, 0⟩ ⟨0, false, [(65536, 1)], false, false⟩ = false) ∧
    (portPacket (port true true) ⟨0, 0, 0⟩ 0 = some ⟨0, true, [(65536, 1)], true, false⟩) ∧
    ((dieOf (cycling 4608 0) 0 0).refAct.getLsbD 1 = false ∧ (dieOf (cycling 4608 0) 0 0).cyc % 4096 = 512 * 1) ∧
    ((dieOf (cycling 64 1) 0 0).refAct.getLsbD 0 = true ∧ (dieOf (cycling 64 1) 0 0).refEnd[0]?.getD 0 ≤ (dieOf (cycling 64 1) 0 0).cyc) ∧
    ((mget windowed.modules 0).bind (fun m => m.windows.find? (fun w => w.id == 1)) = some ⟨1, 2 ^ 39, 2 ^ 39 + 65536, [1], false⟩ ∧
      windowBusy windowed 0 ⟨1, 2 ^ 39, 2 ^ 39 + 65536, [1], false⟩ = false) ∧
    ((dieOf base 0 0).clockAt = none ∧ (⟨115, 105, 0⟩ : Sensors).macroT ≤ 115 ∧ (⟨115, 105, 0⟩ : Sensors).baseT ≤ 105 ∧
      115 < (⟨116, 0, 0⟩ : Sensors).macroT ∧ 105 < (⟨0, 106, 0⟩ : Sensors).baseT) := by decide

/-- The cord with one engine operation, and the words of its page's first 1,024 bytes in the LLC. -/
def engine (e : EOp) : State := modDie (modCord copying 0 (fun c => { c with eops := [{ e with uid := 7, after := 7 }] })) 0 0
  (fun d => { d with llc := [256, 257, 258, 259].map (fun r => ⟨r, BitVec.allOnes 64, [], false⟩) })
def cordOf (s : State) : Cord := (cur s).cord
def eopHere (s : State) : EOp := (eopOf (cordOf s) 7).getD blankEOp
def box : List (BitVec 64) := sRegs (cur copying).cord 8 16
def copyEop (state : EState) (ds : List (BitVec 64)) (cs : List (BitVec 2)) : State :=
  engine { blankEOp with kind := .tcopy, state := state, desc := ds, chunks := cs, numbered := true }
def mmaEop (state : EState) : EOp :=
  { blankEOp with kind := .mma, cls := .matrix, state := state, tile := pressTile, signers := 1, rows := 1, cols := 128, numbered := true }
/-- Beside the first product a second one of another macro and the same tile. -/
def twoProducts : State := modCord (engine (mmaEop .waiting)) 0 (fun c => { c with eops := c.eops ++ [{ mmaEop .started with uid := 6, mac := 1 }] })
/-- The sync word at the start of the scratchpad awaits 17 credits. -/
def crediting (s : State) : State := modCore s 0 0 0 (fun co => { co with scratch := [(0, 17)] })

/-- The engine operation of the cord, and what a chunk of its copy reads. -/
def eopIs (s : State) (p : EOp → Bool) : Prop := mget s.cords 0 = some (cordOf s) ∧ eopOf (cordOf s) 7 = some (eopHere s) ∧ p (eopHere s) = true
def srcsOf (s : State) : List Nat := chunkSources (eopHere s) (chunkBytes (eopHere s) 0)
def chunkTrans (s : State) : State := engineTrans (engineTrans s (cordOf s) (srcsOf s)) (cordOf s) (chunkTargets (eopHere s) (chunkBytes (eopHere s) 0))
def readChunk (s : State) : State := engineTouch (chunkTrans s) (cordOf s) (eopHere s).hint (srcsOf s)
/-- A chunk of a copy that may be moved: nothing waits, and nothing of another module is to be fetched. -/
abbrev chunkReady (s : State) : Prop := pieceBusy s 0 7 0 = false ∧ chunkWaits s (cordOf s) (eopHere s) (chunkBytes (eopHere s) 0) = false ∧
  chunkPlanes s (cordOf s) (eopHere s) (chunkBytes (eopHere s) 0) = false ∧ missingBytes (chunkTrans s) (cordOf s) (eopHere s) (srcsOf s) = []
theorem eop_is {s : State} {p : EOp → Bool} (h : ((mget s.cords 0).any (fun c => (here s).any (fun h => h.cord == c)) &&
    (eopOf (cordOf s) 7).any p) = true) : eopIs s p := by
  simp only [Bool.and_eq_true, Option.any_eq_true, beq_iff_eq] at h
  obtain ⟨⟨c, hc, x, hx, rfl⟩, e, he, hp⟩ := h
  refine ⟨?_, ?_, ?_⟩ <;> simp_all [cordOf, eopHere, cur]

/-- Nothing is to be fetched where every address is of the own module. -/
theorem missing_none {s : State} {c : Cord} {e : EOp} {vas : List Nat} (hk : e.kind = .cbld)
    (h : vas.all (fun va => match engineKey s c { r := true } va with | .inr a => engineNear s c va a | .inl _ => true) = true) :
    pressMissing s c e vas = [] := by
  simp only [pressMissing, hk, missingBytes, bne_iff_ne, ne_eq, reduceCtorEq, not_false_eq_true, if_true, List.filterMap_eq_nil_iff,
    List.mem_eraseDups]
  intro va hv
  have := List.all_eq_true.1 h va hv
  split at this <;> simp_all

theorem witness_EngineEvents_starts :
    (let s := copyEop .waiting box []; let c := cordOf s; let e := eopHere s;
      eopIs s (fun e => e.state == .waiting && e.numbered && e.kind == .tcopy && e.chunks == []) ∧ c.life = .running ∧ strandReady c 0 e = true ∧
      startTurn c e = true ∧ pieceBusy s 0 7 0 = false ∧ sendHeld s c e = false ∧
      (startTouches e).any (fun va => engineWaits s c va true) = false ∧
      missingBytes (engineTrans s c (startTouches e)) c e (startTouches e) = []) ∧
    (let s := engine { blankEOp with kind := .press, cls := .press, tile := pressTile, numbered := true };
      eopIs s (fun e => e.kind == .press && e.tile.fmt != 12#4) ∧ startTurn (cordOf s) (eopHere s) = true ∧ pieceBusy s 0 7 0 = false) ∧
    (let s := copyEop .reading box []; let c := cordOf s; let e := eopHere s;
      eopIs s (fun e => e.state == .reading) ∧ c.life = .running ∧ pieceBusy s 0 7 0 = false ∧ sendHeld s c e = false ∧
      (startTouches e).any (fun va => engineWaits s c va true) = false) :=
  ⟨⟨eop_is (by decide), by decide⟩, ⟨eop_is (by decide), by decide⟩, eop_is (by decide), by decide⟩

theorem witness_EngineEvents_chunks :
    (let s := copyEop .started box [0]; let c := cordOf s; let e := eopHere s;
      eopIs s (fun e => e.cls == .copy && e.state == .started && e.chunks[0]? == some 0) ∧ chunkReady s ∧
      chunkFate (readChunk s) c e (chunkBytes e 0) = none ∧ (moveChunk (readChunk s) 0 c e 0 (chunkBytes e 0)).2 = none ∧ copySync e = none) ∧
    (let s := copyEop .started (box.set 2 0x94) [3]; let e := eopHere s; copySync e = some 0 ∧ e.chunks[0]? = some 3 ∧ pieceBusy s 0 7 0 = false ∧
      (creditAt s 0 0 (chunkBytes e 0).length).2 = false ∧
      (creditAt (crediting s) 0 0 (chunkBytes e 0).length).2 = true ∧
      (chunkBytes e 0).findSome? (fun i => (e.bad.find? (·.1 == i)).map (·.2)) = none) ∧
    (let s := locked (copyEop .started box [0]); chunkReady s ∧
      (chunkFate (readChunk s) (cordOf s) (eopHere s) (chunkBytes (eopHere s) 0)).isSome = true) ∧
    (let s := copyEop .started ((box.set 0 32).set 2 0x15) [0]; let e := eopHere s; chunkReady s ∧
      srcsOf s = [] ∧ chunkTargets e (chunkBytes e 0) = [] ∧ e.bad = [] ∧ copySync e = none ∧
      (mget s.modules (cordOf s).dev).isSome = true ∧ (cordOf s).die < 4) :=
  ⟨⟨eop_is (by decide), by decide, by decide, by decide, by decide⟩, by decide, by decide, by decide⟩

theorem witness_EngineEvents_remote :
    (let s := afar (copyEop .started box [0]); pieceBusy s 0 7 0 = false ∧ chunkWaits s (cordOf s) (eopHere s) (chunkBytes (eopHere s) 0) = false ∧
      chunkPlanes s (cordOf s) (eopHere s) (chunkBytes (eopHere s) 0) = false ∧
      missingBytes (chunkTrans s) (cordOf s) (eopHere s) (srcsOf s) ≠ []) := by decide

theorem witness_EngineEvents_weights :
    (let s := engine { blankEOp with kind := .press, cls := .press, state := .started, tile := pressTile, mac := 0 };
      eopIs s (fun e => e.kind == .press && e.state == .started && e.cause == 0 && e.bad == []) ∧ coreMac (cordOf s) (eopHere s).mac < 8 ∧
      pieceBusy s 0 7 0 = false) ∧
    (let s := engine { blankEOp with kind := .pressw, cls := .press, state := .started, tile := { pressTile with rows := 16 }, mac := 0, desc := [65536] };
      let t := engineTrans s (cordOf s) [65536]
      eopIs s (fun e => e.kind == .pressw && e.state == .started) ∧ presswAddr (eopHere s) 0 0 = 65536 ∧
      pieceBusy t 0 7 0 = false ∧ [65536].any (fun va => engineWaits t (cordOf s) va true) = false ∧
      pressMissing t (cordOf s) (eopHere s) [65536] = [] ∧ (pressFate (pressTouch t (cordOf s) [65536]) (cordOf s) (eopHere s) [65536]).isSome = true) ∧
    (let s := engine { blankEOp with kind := .cbld, cls := .press, state := .started, desc := [65536] };
      eopIs s (fun e => e.kind == .cbld && e.state == .started && e.cause == 0 && e.bad == []) ∧ pieceBusy s 0 7 0 = false ∧
      (cbldAddrs (eopHere s)).any (fun va => engineWaits s (cordOf s) va true) = false ∧
      pressMissing (engineTrans s (cordOf s) (cbldAddrs (eopHere s))) (cordOf s) (eopHere s) (cbldAddrs (eopHere s)) = [] ∧
      pressFate (engineTouch (engineTrans s (cordOf s) (cbldAddrs (eopHere s))) (cordOf s) (eopHere s).hint (cbldAddrs (eopHere s))) (cordOf s)
        (eopHere s) (cbldAddrs (eopHere s)) = none) :=
  ⟨⟨eop_is (by decide), by decide⟩, ⟨eop_is (by decide), by decide⟩, eop_is (by decide), by decide, by decide,
    missing_none (by decide) (by decide), by decide⟩

theorem witness_EngineEvents_products :
    (let s := engine (mmaEop .waiting); let c := cordOf s; let e := eopHere s;
      eopIs s (fun e => e.kind == .mma && e.state == .waiting && e.cause == 0) ∧ c.life = .running ∧ strandReady c 0 e = true ∧
      productReady c e = true ∧ passJoined s 0 c e = none ∧ runningPasses s c 0 = [] ∧ olderProduct s c e = false) ∧
    (let s := twoProducts; let c := cordOf s; let e := eopHere s;
      eopIs s (fun e => e.kind == .mma && e.state == .waiting && e.cause == 0) ∧ strandReady c 0 e = true ∧ productReady c e = true ∧
      (passJoined s 0 c e).isSome = true) ∧
    (let s := modDie (engine (mmaEop .started)) 0 0 (fun d => { d with cyc := 100000 }); let e := eopHere s; let c := cordOf s;
      eopIs s (fun e => e.kind == .mma && e.state == .started) ∧
      e.sent + passCycles e ≤ 100000 ∧ accPending c e = false ∧ joinerWaits s 0 c 100000 e = false ∧ laneIn e.signers 0 = true ∧
      (mget c.strands 0).any (fun st => enables st == 0) = true) ∧
    (let s := copyEop .complete box []; eopIs s (fun e => e.state == .complete) ∧ (cordOf s).eops.find? (·.cls == .copy) = some (eopHere s)) :=
  ⟨⟨eop_is (by decide), by decide⟩, ⟨eop_is (by decide), by decide⟩, ⟨eop_is (by decide), by decide⟩, eop_is (by decide), by decide⟩


/-- A strand whose access failed, or that met a precise fault, running or in handler mode; a cord whose strand is masked off, in a
context with a trap vector or none. -/
def failed (m : Mode) : State := withStrand (fun st => { st with mode := m, ops := [{ blankOp with uid := 7, state := .failed, cause := 9, seq := some 0 }] })
def faulted (m : Mode) : State := withStrand (fun st => { st with mode := m, fault := some ⟨1, 65536, 0, 0, 0, 0, false, false, 0, false, false⟩ })
def masked (stat : BitVec 32) (v : Option (BitVec 64)) : State :=
  modCtx (withStrand (fun st => { st with mode := .masked, stat := stat })) 1 (fun x => { x with vector := v })
def failedBy (s : State) : Option (Op × List Op) := failedOp 0 (cur s).st

theorem witness_TrapEvents :
    (mget (failed .running).cords 0 = some (cordOf (failed .running)) ∧ mget (cordOf (failed .running)).strands 0 = some (cur (failed .running)).st ∧
      (cordOf (failed .running)).life = .running ∧ recordWaits (failed .running) 0 0 (cordOf (failed .running)) (cur (failed .running)).st = false ∧
      (failedBy (failed .running)).any (fun p => failureSettled (cordOf (failed .running)) 0 p.2) = true ∧
      (cur (failed .running)).st.mode = .running) ∧
    ((failedBy (failed .handler)).isSome = true ∧ (cur (failed .handler)).st.mode = .handler) ∧
    (failedBy (faulted .running) = none ∧ (cur (faulted .running)).st.fault.isSome = true ∧ hzClear 0 (cur (faulted .running)).st = true ∧
      recordWaits (faulted .running) 0 0 (cordOf (faulted .running)) (cur (faulted .running)).st = false) ∧
    ((cur (faulted .handler)).st.fault.isSome = true ∧ (cur (faulted .handler)).st.mode = .handler) ∧
    (takesTrap (cordOf (masked 0 (some 4096))) = true ∧ (cordOf (masked 0 (some 4096))).debug = false ∧
      (ctxOf (masked 0 (some 4096)) 1).vector = some 4096 ∧ (maskedLanes (cordOf (masked 0 (some 4096)))).all (fun p => !p.2.stat.getLsbD 2) = true) ∧
    (maskedLanes (cordOf (masked 4 (some 4096)))).all (fun p => p.2.stat.getLsbD 2) = true ∧
    (takesTrap (cordOf (masked 0 none)) = true ∧ (ctxOf (masked 0 none) 1).vector = none) := by decide

/-- A record of a failure of a load, and one of a fault that reruns nothing. -/
def record (flags : BitVec 32) : TrapRec :=
  ⟨9, flags, 65536, 65540, encode (.ldW ⟨7, 0⟩ 4 2 0), 0, 0, 0, 0, 0, none, 0, 0, none, none, []⟩
def recorded (flags : BitVec 32) : Strand := { startStrand 4096 0 0 0 with trap := some (record flags) }

theorem witness_TrapAndReturnStrand : ((recorded 0).trap = some (record 0) ∧ rerunSeq (record 0) = []) ∧
    ((recorded 1).trap = some (record 1) ∧ rerunSeq (record 1) ≠ []) ∧ (recorded 0).resume = none := by decide

/-- A node of batt size n and threshold 1, with an open batt of a record. -/
def nodeOfSize (n : Nat) : NodeHdr := { probeCord.hdr with batt := n, timer := 10, shared := false, carryV := 0 }
def graphOfSize (n : Nat) : Context := { blankCtx with num := 1, graphs := [⟨0, 0, [nodeOfSize n], false, []⟩] }
def aSlot : Slot := ⟨65536, 0, 0, 0, 0, .reserved, 0, some 0, 0⟩
def opened : State := modDie (withCtx (fun x => { x with
  graphs := [⟨0, 0, [nodeOfSize 4], false, []⟩], opens := [⟨0, 0, 0, 0, [65536], 0, none⟩] })) 0 0 (fun d => { d with cyc := 10 })
/-- A core with no cord and a closed batt, a bind record for it, and the entry bound to the batt or to a queued cord. -/
def batted : State := { withCtx (fun x => { x with
  graphs := [⟨0, 0, [nodeOfSize 1], false, [⟨0, 0, 0, 0, 1, 0, []⟩]⟩], batts := [⟨5, 0, 0, 0, 0, [65536], 0, false⟩] }) with cords := [], todo := [] }
def bindIt : BindRec := ⟨1, 0, 0, 5, 1, 0, 0, 255, 0, 0⟩
def bound (batt cord : Option Nat) (s : State) : State :=
  modCore s 0 0 0 (fun co => { co with slots := co.slots.setIfInBounds 0 (.bound bindIt batt cord) })
def queuedCord : State := withCord (fun c => { c with life := .queued })
/-- A batt that is READY and still open, and a bind record for it; and a queued cord of a loaded node with its record. -/
def openBatted : State := { withCtx (fun x => { x with
  graphs := [⟨0, 0, [nodeOfSize 4], false, []⟩], opens := [⟨0, 0, 0, 0, [65536], 0, some 0⟩] }) with cords := [], todo := [] }
def queuedGraph : State := modCtx queuedCord 1 (fun x => { x with graphs := [⟨0, 0, [nodeOfSize 1], false, []⟩] })
/-- A strand whose divide unit holds a result, of an operation that raised a flag or none. -/
def dividing (fl : BitVec 5) : State := withStrand (fun st => { st with divs := [⟨7, 4, 9⟩], ops := [{ blankOp with uid := 7, kind := .flag, flags := fl }] })

theorem witness_BindingEvents :
    (nodeOf (graphOfSize 1) 0 0 = some (nodeOfSize 1) ∧ (nodeOfSize 1).batt ≤ 1) ∧ (nodeOf (graphOfSize 2) 0 0 = some (nodeOfSize 2) ∧ 1 < (nodeOfSize 2).batt) ∧
    (openOf (ctxOf opened 1) 0 0 0 0 = some ⟨0, 0, 0, 0, [65536], 0, none⟩ ∧ timerDue opened ⟨0, 0, 0, 0, [65536], 0, none⟩ (ctxOf opened 1) = true) ∧
    (bindReason batted ⟨0, 0, 0⟩ 0 bindIt = 0 ∧ (mget batted.modules 0).isSome = true ∧
      (workOf batted ⟨0, 0, 0⟩ bindIt).any (fun w => w.cord.isNone && w.batt.isSome) = true) ∧
    (bindReason openBatted ⟨0, 0, 0⟩ 0 { bindIt with source := 2 ^ 63 } = 0 ∧
      (workOf openBatted ⟨0, 0, 0⟩ { bindIt with source := 2 ^ 63 }).any (fun w => w.cord.isNone && w.batt.isNone) = true) ∧
    (bindReason queuedGraph ⟨0, 0, 0⟩ 0 { bindIt with kind := 1, source := 2 ^ 32 } = 0 ∧
      (workOf queuedGraph ⟨0, 0, 0⟩ { bindIt with kind := 1, source := 2 ^ 32 }).any (fun w => w.cord.isSome) = true) ∧
    bindReason base ⟨0, 0, 0⟩ 0 bindIt ≠ 0 ∧
    (let s := bound none (some 0) queuedCord;
      (coreOf s 0 0 0).slots[0]? = some (.bound bindIt none (some 0)) ∧
      (mget s.cords 0).any (fun p => resident s p.ctx 0 p.hdr.leases && !seedsWait s p.ctx p.graph && p.life == .queued) = true) ∧
    (let s := bound (some 5) none batted; let bt : Batt := ⟨5, 0, 0, 0, 0, [65536], 0, false⟩;
      (coreOf s 0 0 0).slots[0]? = some (.bound bindIt (some 5) none) ∧ (ctxOf s 1).batts.find? (·.id == 5) = some bt ∧
      (graphOf (ctxOf s 1) 0).any (fun g => decide (freeSlice s 1 0 0 0 < (allocOn g 0).slices)) = true ∧
      (battNode s 1 bt).any (fun h => resident s 1 0 h.leases) = true ∧ flushedFrom s 1 bt = none ∧
      seedsWait s 1 0 = false ∧ serialBusy s 0 0 (dieOf s 0 0).serial = false) ∧
    (∀ fl ∈ [(0 : BitVec 5), 1], (strandOf (dividing fl) 0 0).any (fun st => st.divs == [⟨7, 4, 9⟩] &&
      (opOf st 7).any (fun o => o.flags == fl)) = true ∧ divTurn (dividing fl) 0 0 7 = true) := by decide

/-- The cord at its phase end, under each method of pre-emption, and saved. -/
def phasing : State := withCord (fun c => { c with insts := [⟨0, 6, 0, 1, 0, 0, 0, 0, [arrival 0]⟩] })
def preempted (m : Method) : State := { withCord (fun c => { c with preempt := some m }) with wall := 200000 }
def savedCord : State := { withCord (fun c => { c with life := .saved, graph := 0 }) with todo := [] }
def bindSaved : BindRec := ⟨1, 0, 1, BitVec.ofNat 64 (saveAddr (cordOf base)), 1, 0, 0, 255, 0, 0⟩

theorem witness_CordEvents :
    (mget phasing.cords 0).any (fun c => phaseDone phasing c) = true ∧
    ((cordOf base).life = .running ∧ (cordOf base).preempt = none) ∧
    ((cordOf (preempted .drain)).preempt = some .drain ∧
      (cordOf (preempted .drain)).drainAt + ((mget (preempted .drain).modules 0).map (·.drainLimit)).getD 0 ≤ (preempted .drain).wall) ∧
    flushable (preempted .flush) 0 (cordOf (preempted .flush)) = true ∧ savable (preempted .save) 0 (cordOf (preempted .save)) = true ∧
    (bindReason savedCord ⟨0, 0, 0⟩ 0 bindSaved = 0 ∧
      (workOf savedCord ⟨0, 0, 0⟩ bindSaved).any (fun w => w.cord.any (fun p => p.1 == 0 && p.2.life == .saved && !p.2.debug &&
        resident savedCord p.2.ctx 0 p.2.hdr.leases && !seedsWait savedCord p.2.ctx p.2.graph && (armedSends p.2).isEmpty)) = true ∧
      (ctxOf savedCord 1).landings = [] ∧ (mget savedCord.modules 0).isSome = true) := by decide

/-- A pod of two modules with one packet of module 1's strand for module 0. -/
def carried (p : Packet) : State := { base with modules := [(0, { Module.reset 0 with exports := [⟨1, 1, 7, []⟩] }), (1, { Module.reset 1 with
  stations := Vector.replicate 16 ⟨.up, 0, [], [9]⟩ })], packets := [p] }
def carrier (p : Payload) (y : Option Reply) : Packet := ⟨9, ⟨1, 0, 0⟩, 0, 0, 0, 1, 0, 0, 7, 0, p, false, y, false, false, 0, 0, 0, false, 65536, 0⟩
def remoteReq : Req := { request .load 65536 none with core := ⟨1, 0, 0⟩, party := ⟨1, 1, 0, 0, 0⟩ }
def carriedReq : State := { carried (carrier (.req remoteReq) none) with arrivals := [remoteReq] }
/-- The same without the export entry. -/
def hiddenReq : State := modModule carriedReq 0 (fun m => { m with exports := [] })
def arriving (tag : Option Nat) : Payload := .arrival [65536] [5] 65536 0 tag none false 0
def fourBytes : Reply := ⟨0, 0, 0, [1, 2, 3, 4], 0, []⟩
/-- The operation that waits for the reply, and the send that waits for its arrival. -/
def waitsFor (s : State) : State := modCord (modStrand s 0 0 (fun st => { st with ops := [{ blankOp with uid := 7, state := .sent, left := 1 }] })) 0
  (fun c => { c with eops := [{ blankEOp with uid := 7, chunks := [0] }] })
def opWaits (s : State) : Bool := (strandOf s 0 0).any (fun st => (opOf st 7).any (fun o => o.left == 1 && o.cause == 0)) &&
  (mget s.cords 0).any (fun c => (eopOf c 7).isSome)
/-- An Ethernet packet to a landing of the page, with its tables. -/
def ethers : Payload := .ether [5] 0 3 0 0
def etherState (leaf : BitVec 64) (p : Payload) (y : Option Reply) (ls : List Landing) : State :=
  waitsFor ((putLeaf (modCtx (carried (carrier p y)) 1 (fun x => { x with
    roots := x.roots ++ [(1, 2 ^ 33, 2 ^ 34)], room := [(0, 4)], landings := ls })) 1 0 65536 false leaf).getD base)
def aLanding : Landing := ⟨0, 3, 65536, 16, true, 0, 0, []⟩
def sendLanding : State := etherState 0x40010F (arriving (some 3)) none [{ aLanding with port := false }]

theorem witness_PacketEvents :
    (let p := carrier (.req remoteReq) none; let s := reachStation carriedReq p;
      packetAt carriedReq 9 = some p ∧ s.arrivals.find? (·.uid == 3) = some remoteReq ∧ deliverable carriedReq p = true ∧
      requestReady s remoteReq = true ∧ (packetOf s remoteReq).map (·.id) = some 9 ∧ missAt s p (needOf .load) remoteReq.addrs = none ∧
      drained s remoteReq = [] ∧ drainDone s remoteReq = true ∧ frameFate s 0 remoteReq.addrs = .perform ∧ p.id = 9 ∧ s.arrivals ≠ []) ∧
    (let p := carrier (.req remoteReq) none; let s := reachStation hiddenReq p;
      packetAt hiddenReq 9 = some p ∧ deliverable hiddenReq p = true ∧ queueHead s remoteReq = true ∧ groupMissing s remoteReq = false ∧
      (missAt s p (needOf .load) remoteReq.addrs).isSome = true) ∧
    (let p := carrier (arriving none) none; let s := reachStation (carried p) p;
      packetAt (carried p) 9 = some p ∧ (mget s.cords 0).isSome = true ∧ deliverable (carried p) p = true ∧ arrivalTurn s p [65536] = true ∧
      holderHangs s ⟨1, 0, 0⟩ [65536] = false ∧ missAt s p (sendNeed false) [65536] = none ∧ frameFate s 0 [65536] = .perform) ∧
    timedOut (carried (carrier (arriving none) none)) (carrier (arriving none) none) = false := by decide

theorem witness_PacketEvents_bytes :
    (∀ write ∈ [false, true], let p := carrier (.engine [65536] [65536] [5] write 0 []) none; let s := reachStation (carried p) p;
      packetAt (carried p) 9 = some p ∧ deliverable (carried p) p = true ∧ arrivalTurn s p [65536] = true ∧ refreshing s [65536] = false ∧
      holderHangs s p.src [65536] = false ∧ missAt s p (engineNeed write) [65536] = none ∧ frameFate s 0 [65536] = .perform) ∧
    (∀ data ∈ [false, true], let p := carrier (.fetch 65536 [65536] 0 data) none; let s := reachStation (carried p) p;
      packetAt (carried p) 9 = some p ∧ deliverable (carried p) p = true ∧ missAt s p (if data then { r := true } else { x := true }) [65536] = none ∧
      frameFate s 0 [65536] = .perform ∧ refreshing s [65536] = false) ∧
    (let p := carrier (.engine [65536] [65536] [] false 0 []) (some fourBytes);
      packetAt (carried p) 9 = some p ∧ p.answer = some fourBytes ∧ pathUp (carried p) p = true) ∧
    deliverable (carried { carrier (arriving none) none with stomped := true }) { carrier (arriving none) none with stomped := true } = false ∧
    (landingTakes (carried (carrier (arriving (some 3)) none)) 1 0 3 false [65536] = false) ∧ landingTakes sendLanding 1 0 3 false [65536] = true ∧
    (let p := carrier (.req remoteReq) (some fourBytes); let s := waitsFor (carried p);
      packetAt s 9 = some p ∧ p.answer = some fourBytes ∧ pathUp s p = true ∧ opWaits s = true) ∧
    (let p := carrier (arriving none) (some fourBytes); let s := waitsFor (carried p);
      packetAt s 9 = some p ∧ pathUp s p = true ∧ remotePkt p = true ∧ opWaits s = true) ∧
    timedOut (carried (carrier (arriving none) none)) (carrier (arriving none) none) = false := by decide

theorem witness_PacketEvents_ends :
    (let p := { carrier (arriving none) none with spent := 25000 }; packetAt (carried p) 9 = some p ∧ timedOut (carried p) p = true ∧ p.resent = false) ∧
    (let p := { carrier (.req remoteReq) none with resent := true, spent := 25000 };
      packetAt (carried p) 9 = some p ∧ timedOut (carried p) p = true ∧ p.reached = false) ∧
    (let p := { carrier (.req remoteReq) none with resent := true, reached := true, spent := 25000 }; let s := waitsFor (carried p);
      packetAt s 9 = some p ∧ timedOut s p = true ∧ p.reached = true ∧ opWaits s = true) ∧
    (let s := etherState 0x40010F ethers none [aLanding];
      etherUp s 1 0 = true ∧ etherUp s 0 0 = true ∧
      landingOf (ctxOf s 1) 0 3 = some aLanding ∧ etherKeys s 1 0 aLanding 0 1 = some [(65536, true)] ∧ etherOld s 1 0 aLanding 0 1 = none ∧
      [65536].any (fun a => (frameOf s a).state == .moving) = false ∧ holderHangs s ⟨0, 0, 0⟩ [65536] = false ∧
      landingTakes s 1 0 3 true [65536] = true) ∧
    (let s := modFrames (etherState 0x40010F ethers none [aLanding]) [1] (fun f => { f with gen := 3 });
      etherKeys s 1 0 aLanding 0 1 = some [(65536, true)] ∧ etherOld s 1 0 aLanding 0 1 = some 0 ∧ landingTakes s 1 0 3 true [65536] = true ∧
      [65536].any (fun a => (frameOf s a).state == .moving) = false) ∧
    (let s := etherState 0x400107 ethers none [aLanding];
      etherKeys s 1 0 aLanding 0 1 = some [(65536, false)] ∧ landingTakes s 1 0 3 true [65536] = true) ∧
    (let s := etherState 0x400107 ethers none []; landingOf (ctxOf s 1) 0 3 = none) ∧
    (let s := etherState 0x400107 ethers (some fourBytes) []; (pathKey s 1 1 0 0).isSome = true ∧ packetAt s 9 = some (carrier ethers (some fourBytes)) ∧
      opWaits s = true) := by decide

/-- A module whose station 0 has been out of the up state for the limit; one with a receive slot in use; a plane that takes no new request; an
Ethernet send under way. -/
def outage : State := { modStation base 0 0 (fun t => { t with link := .retrain, leftAt := 0 }) with wall := 1000000 }
def crowded : State := modStation base 0 0 (fun t => { t with inUse := [(1, 2)] })
def retiring (ps : List Packet) : State := { modModule base 0 (fun m => { m with retiring := 1 }) with packets := ps }
def spraying : State := modCtx { engine { blankEOp with
  kind := .esend, cls := .fabric, state := .started, desc := [0, 0, 16, 0], chunks := [3], sa := [5], spray := [0] } with
    packets := [{ carrier ethers none with src := ⟨0, 0, 0⟩ }] } 1 (fun x => { x with peers := [(0, ⟨1, 0⟩)] })

theorem witness_LinkEvents :
    ((mget base.modules 0).any (·.started) = true ∧ (stationOf base 0 0).link = .up) ∧
    ((stationOf outage 0 0).link ≠ .up ∧ (stationOf outage 0 0).leftAt + ((mget outage.modules 0).map (·.linkLimit)).getD 0 ≤ outage.wall) ∧
    ((mget (retiring []).modules 0).any (fun m => m.retiring.getLsbD 0) = true ∧ planeBusy (retiring []) 0 0 = false) ∧
    planeBusy (retiring [{ carrier (.req remoteReq) none with src := ⟨0, 0, 0⟩, dst := 1 }]) 0 0 = true ∧
    (mget base.modules 0).any (fun m => !m.retiring.getLsbD 0) = true ∧ mget (stationOf crowded 0 0).inUse 1 = some 2 ∧ slotsHeld crowded 0 0 1 < 2 ∧
    (eopIs spraying (fun e => e.kind == .esend && e.state == .started && e.chunks.idxOf? 3 == some 0) ∧ etherUp spraying 0 0 = true ∧
      mget (ctxOf spraying 1).peers (esendPeer (eopHere spraying).desc) = some ⟨1, 0⟩ ∧
      spraying.packets.filter (fun p => p.cord == 0 && p.op == 7) ≠ []) :=
  ⟨by decide, by decide, by decide, by decide, by decide, by decide, by decide, eop_is (by decide), by decide⟩

/-- The path record at the path-state page has a window of one packet. -/
def roomy : State := setPath spraying (byteKey 0 (2 ^ 34)) 1 4096
theorem witness_LinkEvents_room : (sprayStep roomy (cordOf roomy) (eopHere roomy) 1).isSome = true := by decide

/-- A module held in reset. -/
def heldModule : State := modModule State.reset 0 (fun m => { m with started := false, fails := 3 })
def newCtx : CtxSpec := ⟨2, [(0, 2 ^ 33 + 2 ^ 20, 2 ^ 34 + 65536)], [(0, 2)], 2 ^ 20, [], 7⟩

theorem witness_StartEvents : mget State.reset.modules 0 = some (Module.reset 0) ∧ (Module.reset 0).powered = true ∧ (Module.reset 0).trained = true ∧
    (Module.reset 0).joined = true ∧
    (mget heldModule.modules 0).isSome = true ∧ mget (stopModule base 0).modules 0 ≠ none ∧ mget State.reset.modules 1023 = none ∧ mget State.reset.modules 1024 = none ∧
    (mget (modModule base 0 (fun m => { m with joined := false })).modules 0).any (fun m => !m.joined) = true ∧
    (let s := carried { carrier (arriving none) none with reached := true, been := true };
      s.packets.any (fun p => p.dst == 0 && p.src.dev != 0 && p.answer.isNone && p.been) = true) ∧
    carriedReq.arrivals.any (fun r => r.core.dev != 0) = true ∧
    (newCtx.num < 65536 ∧ mget State.reset.contexts newCtx.num = none ∧ newCtx.mods.all (specOk State.reset newCtx) = true) := by decide

/-- A ring with one record. -/
def onRing (s : State) (q : RingId) (r : ReqRec) : State := { s with rings := [⟨q, 64, 1, [r], [], []⟩] }
def request_ (code ctx : BitVec 32) : ReqRec := ⟨code, ctx, 0, 0, 0, 0, 0, 0, none, []⟩
def one : RingId := ⟨0, some 1⟩
/-- What every clause of RequestServing asks. -/
def serves (s : State) (q : RingId) (r : ReqRec) : Bool :=
  headReq s q == some r && (ringOf s q).isSome && ringLive s q && (mget s.modules q.dev).isSome
def serving (s : State) (q : RingId) (r : ReqRec) : Bool := serves s q r && wellFormedReq r && ctxKnown s q r

theorem witness_RequestServing :
    (∀ n ∈ [1, 2, 3, 4, 5, 6, 7, 8, 9, 10, 11, 12, 13, 14], let r := request_ (BitVec.ofNat 32 n) 1; serving (onRing base one r) one r = true) ∧
    (∀ n ∈ [1, 2, 3, 5, 6, 7, 10, 12, 14], let r := request_ (BitVec.ofNat 32 n) 0xFFFFFFFF;
      serving (onRing base ⟨0, none⟩ r) ⟨0, none⟩ r = true) ∧
    (let r := request_ 15 1; serves (onRing base one r) one r = true ∧ wellFormedReq r = false) ∧
    (let r := request_ 1 2; serves (onRing base one r) one r = true ∧ wellFormedReq r = true ∧ ctxKnown (onRing base one r) one r = false) := by decide

/-- A context that owns frame 2 with a table for its page, and one whose table holds a pinned leaf of frame 1. -/
def owner (leaf : BitVec 64) (r : ReqRec) : State :=
  onRing { ((putLeaf (modCtx base 1 (fun x => { x with room := [(0, 4)], owned := [(0, 131072, 65536)], grant := 7 })) 1 0 65536 false leaf).getD base) with
    frames := [(1, ⟨0, .valid, true⟩), (2, ⟨0, .free, true⟩)] } one r
def mapIt : ReqRec := { request_ 1 1 with arg0 := 131072, arg1 := 0x10000, arg2 := 0x80001C }
def unmapIt : ReqRec := { request_ 2 1 with arg0 := 65536, arg1 := 0x10000 }
def protectIt : ReqRec := { request_ 3 1 with arg0 := 65536, arg1 := 0x10000, arg2 := 4 }
def exportIt : ReqRec := { request_ 4 1 with arg0 := 65536, arg1 := 1, arg2 := 2 }

theorem witness_RequestServing_pages :
    (let s := owner 0x400007 mapIt;
      serving s one mapIt = true ∧ s.moves = [] ∧ s.arrivals = [] ∧ mapTemplateOk mapIt = true ∧ mapIt.arg2.getLsbD 5 = false ∧
      bitsOf mapIt.arg2 46 10 = 0 ∧ mapPageOk s 1 0 mapIt 0 = true ∧
      (rootOf s 1 0).any (fun root => (walkTo s.mem 0 root 131072).any (fun x => !x.2.2)) = true ∧ (frameOf s (2 * 2 ^ 16)).seen = true) ∧
    (let s := owner 0x400007 unmapIt;
      serving s one unmapIt = true ∧ (validLeaf s 1 0 1).any (fun x => !x.2.2 && bitsOf x.2.1 46 10 == 0 && (importsOf s 0 (leafFrames x.2.1)).isEmpty) = true ∧
      stewardPage s 1 0 1 = false ∧ pageLeased s 1 0 1 = false) ∧
    (serving (owner 0x400007 protectIt) one protectIt = true ∧ protectIt.arg2 &&& ~~~0x1C#64 = 0 ∧ mapTemplateOk { mapIt with arg2 := 3 } = false) ∧
    (framePinned (owner 0x400107 exportIt) 0 1 = true ∧ framePinned (owner 0x400007 exportIt) 0 1 = false ∧
      serving (owner 0x400107 exportIt) one exportIt = true ∧
      movingFrames (owner 0x400107 exportIt) [1] = false ∧
      movingFrames { owner 0x400107 exportIt with moves := [⟨1, 65536, 1, 3, 1⟩] } [1] = true) := by decide

/-- A load of an image of one node whose slabs lie in one page; a graph with a free slot and a seed for it. -/
def image : GraphImage := ⟨[{ probeCord.hdr with queue := 1, recSize := 16 }], [⟨1, [0, 0, 0, 0], []⟩],
  [⟨0, 2 ^ 32, 2 ^ 32 + 2 ^ 16, 2 ^ 31, 1, 2 ^ 32 + 2 ^ 17,
    [(2 ^ 32, 2 ^ 24, true), (2 ^ 32 + 2 ^ 16, 2 ^ 24 + 2 ^ 16, false), (2 ^ 32 + 2 ^ 17, 2 ^ 24 + 2 ^ 17, true),
      (2 ^ 32 + 3 * 2 ^ 16, 2 ^ 24 + 3 * 2 ^ 16, true), (2 ^ 32 + 2 ^ 18, 2 ^ 24 + 2 ^ 18, true),
      (2 ^ 32 + 5 * 2 ^ 16, 2 ^ 24 + 5 * 2 ^ 16, true)]⟩]⟩
def loadIt : ReqRec := { request_ 5 1 with arg1 := 1, image := some image }
def loadable : State := owner 0x400007 loadIt
def seedIt (die : BitVec 64) : ReqRec := { request_ 6 1 with arg1 := die }
def seedable (q : List Slot) (r : ReqRec) : State :=
  { onRing (withCtx (fun x => { x with graphs := [{ oneNode false 15 with allocs := [allocOn (oneNode false 15) 0] }], slots := q })) one r with todo := [] }

theorem witness_RequestServing_graphs :
    (serving loadable one loadIt = true ∧ maskDies loadIt.arg1 = [0] ∧ imageOk loadable 1 0 image = true ∧
      allocsOk loadable 1 0 image.nodes image.allocs = true ∧ (mapQueuePages 1 0 (image.allocs.flatMap (·.pages)) loadable).isSome = true) ∧
    (let s := seedable [freeOne] (seedIt 0);
      serving s one (seedIt 0) = true ∧ (graphOf (ctxOf s 1) 0).any (fun g => !g.closed && g.dev == 0 && g.allocs.any (·.die == 0)) = true ∧
      (nodeOf (ctxOf s 1) 0 0).isSome = true ∧ lowestFree (ctxOf s 1) 0 0 0 0 = some freeOne ∧ s.todo = [] ∧ timersDue s 0 0 = false) ∧
    lowestFree (ctxOf (seedable [] (seedIt 0)) 1) 0 0 0 0 = none ∧ nodeOf (ctxOf base 1) 0 0 = none ∧
    (let r := { request_ 8 1 with result := 1 }; let s := onRing windowed one r;
      serving s one r = true ∧ (mget s.modules 0).any (fun m => (m.windows.find? (·.id == 1)).any (fun w => !w.open_)) = true) := by decide

/-- The one-word machine runs its word, alone, in a repetition, as an illegal one, and stands with no word cached or selected. -/
def holding (w : BitVec 32) : State := State.reset.withFetchWord 32 w.toNat
def repeating (r : Rep) : State := modStrand (holding (encode (.iadd al 4 2 3))) 0 0 (fun st => { st with rep := some r })

theorem witness_StepRunsDecodedWord :
    (here (holding (encode (.iadd al 4 2 3))) = some (cur (holding (encode (.iadd al 4 2 3)))) ∧
      rawWord (coreOf (holding (encode (.iadd al 4 2 3))) 0 0 0) (cordOf (holding (encode (.iadd al 4 2 3)))) (cur (holding (encode (.iadd al 4 2 3)))).st =
        some (encode (.iadd al 4 2 3)) ∧ decode (encode (.iadd al 4 2 3)) = .ok (.iadd al 4 2 3)) ∧
    (decode 0xE7E00000#32).toOption = none ∧ (cur (repeating ⟨1, 2, 1, 0, 7⟩)).st.rep = some ⟨1, 2, 1, 0, 7⟩ ∧
    stepWord (encode (.iadd al 4 2 3)) ⟨1, 2, 1, 0, 7⟩ = some (encode (.iadd al 6 2 1)) ∧
    stepWord (encode (.iadd al 127 2 3)) ⟨1, 2, 1, 0, 0⟩ = none ∧
    rawWord (coreOf unfetched 0 0 0) (cordOf unfetched) (cur unfetched).st = none ∧ State.reset.todo = [] := by decide

theorem witness_StepKeepsInv : Inv base ∧ (match step base with | .next _ => true | _ => false) = true := by decide

theorem witness_DecodeEncode : ((Instr.iadd al 4 2 3).isWord = true ∧ WF (.iadd al 4 2 3)) ∧ decode (encode (.iadd al 4 2 3)) = .ok (.iadd al 4 2 3) := by
  decide

theorem witness_RegisterWordFrames : here base = some (cur base) ∧ (destRegs (.iadd al 4 2 3)).isSome = true ∧ (after (.iadd al 4 2 3) base).isSome = true ∧
    (flagDest (.fadd al 4 2 3)).isSome = true ∧ (after (.fadd al 4 2 3) base).isSome = true := by decide

theorem witness_WordsLeaveMemory : here base = some (cur base) ∧ (Instr.stW al 4 2 0).isWord = true ∧ (cordOf base).hdr.leases = [] ∧
    (after (.stW al 4 2 0) base).isSome = true := by decide

/-- A strand whose p0 is false passes over its word. -/
theorem witness_SkippedWords : here base = some (cur base) ∧ ableStrand (cur base).cord (cur base).st 0 = true ∧ polling (cur base).st = false ∧
    (guardRegs ⟨0, 1⟩).any (isHeld (cur base)) = false ∧ stallFault (cur base) (guardRegs ⟨0, 1⟩) = false ∧ rdP (cur base).st 0 = false ∧
    guardOf (encode (.bra ⟨0, 1⟩ 4)) = ⟨0, 1⟩ := by decide

end Sys2Proof.Tests
end

/-!
O50, starts and context creation (R17, R239, R382, R403, R421 to R423). A start, cold or warm, is one change of the machine: the module is stopped,
bytes of its storage are lost, and its record is written again. `restarted` names that change, and each of its lemmas says what it does
to one part of the machine.
-/
namespace Sys2Proof.Laws
open Sys2Proof.Machine

/-! ### Packets over a stop -/

/-- A change of packets that touches nothing a receiver or a sender knows them by: what the end-to-end timers do (R393). -/
structure KeepsPackets (f : Packet → Packet) : Prop where
  id : ∀ p, (f p).id = p.id
  src : ∀ p, (f p).src = p.src
  been : ∀ p, (f p).been = p.been
  reached : ∀ p, (f p).reached = p.reached

/-- A change of packets that has the unanswered ones to a module delivered anew (R393, R396). -/
structure DeliversAnew (dev : Nat) (f : Packet → Packet) : Prop where
  id : ∀ p, (f p).id = p.id
  src : ∀ p, (f p).src = p.src
  been : ∀ p, (f p).been = p.been
  reached : ∀ p, p.dst = dev → p.answer = none → (f p).reached = false

theorem DeliversAnew.then_keeps {dev : Nat} {f g : Packet → Packet} (hf : DeliversAnew dev f) (hg : KeepsPackets g) :
    DeliversAnew dev (g ∘ f) where
  id p := (hg.id _).trans (hf.id p)
  src p := (hg.src _).trans (hf.src p)
  been p := (hg.been _).trans (hf.been p)
  reached p hd ha := (hg.reached _).trans (hf.reached p hd ha)

/-- The timers change packets in place. -/
theorem retime_packets (s t : State) : ∃ f, KeepsPackets f ∧ (retime s t).packets = t.packets.map f := by
  refine ⟨_, ⟨?_, ?_, ?_, ?_⟩, rfl⟩ <;>
    · intro p
      split
      · rfl
      · split
        · rfl
        · split <;> rfl

/-! ### Stopping a module -/

/-- Packets from other modules refill the replay buffers of their senders, none of which is the module they go to. -/
theorem foldl_fillReplay_only (dev : Nat) (ps : List Packet) (hps : ∀ p ∈ ps, p.src.dev ≠ dev) (s : State) :
    ∃ ms, ps.foldl (fun s p => if remotePkt p then fillReplay s p.src.dev p.plane else s) s = { s with modules := ms } ∧
      mget ms dev = mget s.modules dev := by
  induction ps generalizing s with
  | nil => exact ⟨s.modules, rfl, rfl⟩
  | cons p ps ih =>
    obtain ⟨hp, hps⟩ := List.forall_mem_cons.mp hps
    rw [List.foldl_cons]
    split
    · obtain ⟨ms, hfold, hms⟩ := ih hps (fillReplay s p.src.dev p.plane)
      exact ⟨ms, hfold, hms.trans (mget_mmod_other s.modules _ hp)⟩
    · exact ih hps s

/-- What is sent anew to a module is the packets' and their senders' affair. -/
theorem resendTo_only (s : State) (dev : Nat) (hs : ∀ p ∈ s.packets, p.src.dev ≠ dev) :
    ∃ f ms, DeliversAnew dev f ∧ resendTo s dev = { s with packets := s.packets.map f, modules := ms } ∧
      mget ms dev = mget s.modules dev := by
  obtain ⟨ms, hfold, hms⟩ := foldl_fillReplay_only dev (s.packets.filter (fun p => p.dst == dev && p.answer.isNone))
    (fun p hp => hs p (List.mem_of_mem_filter hp))
    { s with packets := s.packets.map (fun p => if p.dst == dev && p.answer.isNone then { p with reached := false } else p) }
  refine ⟨_, ms, ⟨?_, ?_, ?_, ?_⟩, hfold, hms⟩
  · intro p; split <;> rfl
  · intro p; split <;> rfl
  · intro p; split <;> rfl
  · intro p hd ha
    simp [hd, ha]

/-- A module held in reset: what it keeps when it stops (R421, R422). -/
def stoppedModule (wall : Nat) (m : Module) : Module :=
  { m with
    started := false
    dies := Vector.replicate 4 Die.reset
    stations := m.stations.map (stopStation wall)
    ether := Vector.replicate 4 .retrain
    retiring := 0
    exports := []
    windows := [] }

/-- What a stop of a module makes of the machine: storage stays, and of cords, rings, requests and packets those of the other modules. -/
structure Stopped (s t : State) (dev : Nat) : Prop where
  mem : t.mem = s.mem
  pod : t.pod = s.pod
  cords : t.cords = s.cords.filter (fun p => p.2.dev != dev)
  rings : t.rings = s.rings.filter (fun r => r.id.dev != dev)
  arrivals : t.arrivals = s.arrivals.filter (fun r => r.core.dev != dev)
  packets : ∃ f, DeliversAnew dev f ∧ t.packets = (s.packets.filter (fun p => p.src.dev != dev)).map f
  module : mget t.modules dev = (mget s.modules dev).map (stoppedModule s.wall)

/-- A stop first takes away what the module has under way, then sends the others' packets anew and stops the module's record. -/
theorem stopModule_eq (s : State) (dev : Nat) :
    ∃ u : State, stopModule s dev = retime s (modModule (resendTo u dev) dev (stoppedModule s.wall)) ∧
      u.mem = s.mem ∧ u.pod = s.pod ∧ u.modules = s.modules ∧ u.cords = s.cords.filter (fun p => p.2.dev != dev) ∧
      u.rings = s.rings.filter (fun r => r.id.dev != dev) ∧ u.arrivals = s.arrivals.filter (fun r => r.core.dev != dev) ∧
      u.packets = s.packets.filter (fun p => p.src.dev != dev) :=
  ⟨_, rfl, rfl, rfl, rfl, rfl, rfl, rfl, rfl⟩

theorem stopModule_stopped (s : State) (dev : Nat) : Stopped s (stopModule s dev) dev := by
  obtain ⟨u, hstop, hmem, hpod, hmods, hcords, hrings, harr, hpkts⟩ := stopModule_eq s dev
  have hsrc : ∀ p ∈ u.packets, p.src.dev ≠ dev := by simp [hpkts]
  obtain ⟨f, ms, hf, hresend, hms⟩ := resendTo_only u dev hsrc
  rw [hstop, hresend]
  obtain ⟨g, hg, hretime⟩ := retime_packets s
    (modModule { u with packets := u.packets.map f, modules := ms } dev (stoppedModule s.wall))
  refine ⟨hmem, hpod, hcords, hrings, harr, ⟨g ∘ f, hf.then_keeps hg, ?_⟩, ?_⟩
  · rw [hretime, ← hpkts]
    exact List.map_map
  · have hkeep : mget ms dev = mget s.modules dev := hms.trans (congrArg (mget · dev) hmods)
    simp [modModule, hkeep]

/-! ### Losing bytes -/

/-- A byte of the module's storage that loses its bytes reads as 0, and every other one as before. -/
theorem readCell_loseBytes (s : State) (dev : Nat) (weight : Bool) (b : Nat) :
    readCell (loseBytes s dev weight).mem b = if keyDev b == dev && isWeight b == weight then 0#8 else readCell s.mem b := by
  unfold loseBytes
  rw [readCell_filter s.mem (fun a => !(keyDev a == dev && isWeight a == weight)) b]
  cases keyDev b == dev && isWeight b == weight <;> rfl

/-! ### Starts -/

/-- The machine as a start leaves it: the module stopped, its GDDR7 lost and with it the weight stores or not, its record as g makes it. -/
def restarted (s : State) (dev : Nat) (weight : Bool) (g : Module → Module) : State :=
  let t := loseBytes (stopModule s dev) dev false
  let t := if weight then loseBytes t dev true else t
  retime t (modModule t dev g)

/-- The machine a cold start runs on: the module has its record, new where it had no number, and the pod counts it if it joins (R17). -/
def coldBase (s : State) (dev : Nat) (fail : Option Nat) : State :=
  let m := (mget s.modules dev).getD (newModule dev)
  { s with modules := mset s.modules dev m, pod := if fail.isNone && !m.joined then s.pod + 1 else s.pod }

/-- A module as a warm start makes it of the stopped one: its image runs, its links are up (R422). -/
def warmModule (dev : Nat) (m : Module) : Module :=
  { m with
    started := true
    image := startImage m
    fails := 0
    stations := (Module.reset dev).stations
    ether := (Module.reset dev).ether }

theorem execColdStart_of_ge {dev : Nat} (fail : Option Nat) (s : State) (h : 1024 ≤ dev) : execColdStart dev fail s = .next s :=
  if_pos h

theorem execColdStart_of_lt {dev : Nat} (fail : Option Nat) (s : State) (h : dev < 1024) :
    execColdStart dev fail s =
      .next (restarted (coldBase s dev fail) dev (fail.all (fun k => decide (4 < k))) (fun m => coldModule m fail)) :=
  if_neg (Nat.not_le.mpr h)

theorem execWarmStart_cold {dev : Nat} {s : State} {m : Module} (hm : mget s.modules dev = some m)
    (h : m.powered = false ∨ m.trained = false ∨ m.joined = false) : execWarmStart dev s = execColdStart dev none s := by
  have hcold : (m.powered && m.trained && m.joined) = false := by
    rcases h with h | h | h <;> simp [h]
  simp [execWarmStart, hm, hcold]

theorem execWarmStart_warm {dev : Nat} {s : State} {m : Module} (hm : mget s.modules dev = some m)
    (hp : m.powered = true) (ht : m.trained = true) (hj : m.joined = true) :
    execWarmStart dev s = .next (restarted s dev false (warmModule dev)) := by
  simp only [execWarmStart, hm, hp, ht, hj, Bool.and_self, if_true]
  rfl

/-- A start loses the module's GDDR7, and its weight stores where it says so, and no other byte. -/
theorem readCell_restarted (s : State) (dev : Nat) (weight : Bool) (g : Module → Module) (b : Nat) :
    readCell (restarted s dev weight g).mem b =
      if keyDev b == dev && (!isWeight b || weight) then 0#8 else readCell s.mem b := by
  have hstop := (stopModule_stopped s dev).mem
  cases weight with
  | false =>
    have hmem : (restarted s dev false g).mem = (loseBytes (stopModule s dev) dev false).mem := rfl
    rw [hmem, readCell_loseBytes, hstop]
    simp
  | true =>
    have hmem : (restarted s dev true g).mem = (loseBytes (loseBytes (stopModule s dev) dev false) dev true).mem := rfl
    rw [hmem, readCell_loseBytes, readCell_loseBytes, hstop]
    cases keyDev b == dev <;> cases isWeight b <;> rfl

/-- A start leaves of cords, rings, requests and packets what a stop leaves, and writes the module's record. -/
theorem restarted_only (s : State) (dev : Nat) (weight : Bool) (g : Module → Module) :
    let t := restarted s dev weight g
    let u := stopModule s dev
    t.pod = u.pod ∧ t.cords = u.cords ∧ t.rings = u.rings ∧ t.arrivals = u.arrivals ∧
    (∃ f, KeepsPackets f ∧ t.packets = u.packets.map f) ∧ t.modules = mmod u.modules dev g := by
  cases weight <;> exact ⟨rfl, rfl, rfl, rfl, retime_packets _ _, rfl⟩

theorem restarted_pod (s : State) (dev : Nat) (weight : Bool) (g : Module → Module) : (restarted s dev weight g).pod = s.pod :=
  (restarted_only s dev weight g).1.trans (stopModule_stopped s dev).pod

/-- The module's record after a start. -/
theorem mget_restarted_modules {s : State} {dev : Nat} {m : Module} (weight : Bool) (g : Module → Module)
    (hm : mget s.modules dev = some m) : mget (restarted s dev weight g).modules dev = some (g (stoppedModule s.wall m)) := by
  obtain ⟨-, -, -, -, -, hmods⟩ := restarted_only s dev weight g
  rw [hmods, mget_mmod_same, (stopModule_stopped s dev).module, hm]
  rfl

/-- The packets after a start: those of the other modules, the unanswered ones to the module to be delivered anew. -/
theorem restarted_packets (s : State) (dev : Nat) (weight : Bool) (g : Module → Module) :
    ∃ f, DeliversAnew dev f ∧ (restarted s dev weight g).packets = (s.packets.filter (fun p => p.src.dev != dev)).map f := by
  obtain ⟨-, -, -, -, ⟨g', hg', hpkts⟩, -⟩ := restarted_only s dev weight g
  obtain ⟨f, hf, hstop⟩ := (stopModule_stopped s dev).packets
  exact ⟨g' ∘ f, hf.then_keeps hg', by rw [hpkts, hstop, List.map_map]⟩

/-- No cord, ring or packet of the module outlives a start. -/
theorem restarted_leaves_nothing (s : State) (dev : Nat) (weight : Bool) (g : Module → Module) :
    let t := restarted s dev weight g
    (∀ p ∈ t.cords, p.2.dev ≠ dev) ∧ (∀ r ∈ t.rings, r.id.dev ≠ dev) ∧ ∀ p ∈ t.packets, p.src.dev ≠ dev := by
  have hstop := stopModule_stopped s dev
  obtain ⟨-, hcords, hrings, -, -, -⟩ := restarted_only s dev weight g
  obtain ⟨f, hf, hpkts⟩ := restarted_packets s dev weight g
  refine ⟨?_, ?_, ?_⟩
  · simp [hcords, hstop.cords]
  · simp [hrings, hstop.rings]
  · rw [hpkts]
    refine List.forall_mem_map.mpr (fun p hp => ?_)
    rw [hf.src]
    simpa using List.of_mem_filter hp

/-- The requests of other modules survive a start. -/
theorem restarted_keeps_arrivals (s : State) (dev : Nat) (weight : Bool) (g : Module → Module) {r : Req} (hr : r ∈ s.arrivals)
    (hdev : r.core.dev ≠ dev) : r ∈ (restarted s dev weight g).arrivals := by
  obtain ⟨-, -, -, harr, -, -⟩ := restarted_only s dev weight g
  rw [harr, (stopModule_stopped s dev).arrivals]
  simp [hr, hdev]

/-- An unanswered packet of another module to the one that starts is to be delivered anew. -/
theorem restarted_resends (s : State) (dev : Nat) (weight : Bool) (g : Module → Module) {p : Packet} (hp : p ∈ s.packets)
    (hdst : p.dst = dev) (hsrc : p.src.dev ≠ dev) (ha : p.answer = none) :
    ∃ q ∈ (restarted s dev weight g).packets, q.id = p.id ∧ q.reached = false ∧ q.been = p.been := by
  obtain ⟨f, hf, hpkts⟩ := restarted_packets s dev weight g
  refine ⟨f p, ?_, hf.id p, hf.reached p hdst ha, hf.been p⟩
  rw [hpkts]
  exact List.mem_map_of_mem (List.mem_filter.mpr ⟨hp, by simpa using hsrc⟩)

/-! ### Creating a context -/

/-- What building a context's tables leaves: cords, rings and frames as they were, and of the context all but its count of tables. -/
structure BuildsTables (n : Nat) (s t : State) : Prop where
  cords : t.cords = s.cords
  rings : t.rings = s.rings
  frames : t.frames = s.frames
  context : ∀ c, mget s.contexts n = some c → ∃ ts, mget t.contexts n = some { c with tables := ts }

namespace BuildsTables

theorem of_eq {n : Nat} {s t : State} (hc : t.cords = s.cords) (hr : t.rings = s.rings) (hf : t.frames = s.frames)
    (hx : t.contexts = s.contexts) : BuildsTables n s t :=
  ⟨hc, hr, hf, fun c h => ⟨c.tables, by rw [hx, h]⟩⟩

theorem refl (n : Nat) (s : State) : BuildsTables n s s := of_eq rfl rfl rfl rfl

theorem trans {n : Nat} {s t u : State} (h : BuildsTables n s t) (k : BuildsTables n t u) : BuildsTables n s u where
  cords := k.cords.trans h.cords
  rings := k.rings.trans h.rings
  frames := k.frames.trans h.frames
  context c hc := by
    obtain ⟨ts, ht⟩ := h.context c hc
    exact k.context { c with tables := ts } ht

/-- The frames are no part of what else is built. -/
theorem with_frames {n : Nat} {s t : State} (h : BuildsTables n s t) (fs : SMap Frame) :
    BuildsTables n { s with frames := fs } { t with frames := fs } :=
  ⟨h.cords, h.rings, rfl, h.context⟩

end BuildsTables

theorem clearFrame_builds (n : Nat) (s : State) (f : Nat) : BuildsTables n s (clearFrame s f) := .of_eq rfl rfl rfl rfl

theorem setEntry_builds (n : Nat) (s : State) (dev dpa : Nat) (e : BitVec 64) : BuildsTables n s (setEntry s dev dpa e) :=
  .of_eq rfl rfl rfl rfl

theorem setTables_builds (s : State) (ctx : Nat) (tables : Context → SMap Nat) :
    BuildsTables ctx s (modCtx s ctx (fun x => { x with tables := tables x })) where
  cords := rfl
  rings := rfl
  frames := rfl
  context c hc := ⟨tables c, by rw [modCtx, mget_mmod_same, hc]; rfl⟩

theorem newTable_builds {s : State} {ctx dev : Nat} {p : Nat × State} (h : newTable s ctx dev = some p) :
    BuildsTables ctx s p.2 := by
  unfold newTable at h
  dsimp only at h
  split at h
  · cases h
  · cases h
    exact (clearFrame_builds ctx s _).trans (setTables_builds _ ctx (fun x => mset x.tables dev _))

theorem subTable_builds {s : State} {ctx dev entry : Nat} {p : Nat × State} (h : subTable s ctx dev entry = some p) :
    BuildsTables ctx s p.2 := by
  unfold subTable at h
  dsimp only at h
  split at h
  · cases h
    exact .refl ctx s
  · obtain ⟨q, hq, rfl⟩ := Option.map_eq_some_iff.mp h
    exact (newTable_builds hq).trans (setEntry_builds ..)

/-- Writing a leaf builds the tables on its way. -/
theorem putLeaf_builds {s t : State} {ctx dev va : Nat} {big : Bool} {e : BitVec 64} (h : putLeaf s ctx dev va big e = some t) :
    BuildsTables ctx s t := by
  obtain ⟨root, -, h⟩ := Option.bind_eq_some_iff.mp h
  obtain ⟨p, hp, h⟩ := Option.bind_eq_some_iff.mp h
  have hp := subTable_builds hp
  dsimp only at h
  split at h
  · cases h
    exact hp.trans (setEntry_builds ..)
  · obtain ⟨q, hq, rfl⟩ := Option.map_eq_some_iff.mp h
    exact (hp.trans (subTable_builds hq)).trans (setEntry_builds ..)

theorem putLeaf_getD_builds (s : State) (ctx dev va : Nat) (big : Bool) (e : BitVec 64) :
    BuildsTables ctx s ((putLeaf s ctx dev va big e).getD s) := by
  cases h : putLeaf s ctx dev va big e with
  | none => exact .refl ctx s
  | some t => exact putLeaf_builds h

/-- Clearing frames builds no table and changes no frame's record. -/
theorem foldl_clearFrame_builds (n : Nat) (fs : List Nat) (s : State) : BuildsTables n s (fs.foldl clearFrame s) := by
  induction fs generalizing s with
  | nil => exact .refl n s
  | cons f fs ih => exact (clearFrame_builds n s f).trans (ih _)

/-- One frame made VALID: its record is what validation changes beside bytes and tokens. -/
theorem validate_one (n : Nat) (s : State) (f : Nat) (g : BitVec 8) :
    BuildsTables n { s with frames := mset s.frames f ⟨g, .valid, true⟩ } (validate s [f] g) := by
  have hclear := foldl_clearFrame_builds n ([f].filter (fun f => !(frameOf s (f * 2 ^ 16)).seen && !isWeight (f * 2 ^ 16))) s
  have hset := hclear.with_frames (mset s.frames f ⟨g, .valid, true⟩)
  refine ⟨hset.cords, hset.rings, ?_, hset.context⟩
  exact congrArg (fun fs => mset fs f ⟨g, .valid, true⟩) hclear.frames

/-- What the creation of a context does on one module of its specification: root table and path page cleared, the path page VALID and
mapped read-only and pinned (R382, R403). -/
def prepareModule (x : CtxSpec) (s : State) (m : Nat × Nat × Nat) : State :=
  let f := byteKey m.1 m.2.2 / 2 ^ 16
  let g := (frameOf s (f * 2 ^ 16)).gen
  let s := validate (clearFrame (clearFrame s (byteKey m.1 m.2.1 / 2 ^ 16)) f) [f] g
  (putLeaf s x.num m.1 (x.path.toNat % 2 ^ 48 / 2 ^ 16 * 2 ^ 16) false
    (BitVec.ofNat 64 (m.1 * 2 ^ 46 + m.2.2 / 2 ^ 16 * 2 ^ 22 + 0x107) + (g.zeroExtend 64 <<< 56))).getD s

/-- The context a specification asks for, with no table yet. -/
def specContext (x : CtxSpec) : Context :=
  { blankCtx with
    num := x.num
    roots := x.mods
    room := x.room.foldl (fun m r => mset m r.1 r.2) []
    pathVa := x.path
    owned := x.owned
    grant := x.grant }

theorem execContextCreation_of_ok {x : CtxSpec} {s : State} (hn : x.num < 65536) (hnew : mget s.contexts x.num = none)
    (hok : x.mods.all (specOk s x) = true) :
    execContextCreation x s = .next (x.mods.foldl (prepareModule x) { s with contexts := mset s.contexts x.num (specContext x) }) := by
  have hcreates : ¬ (65536 ≤ x.num || (mget s.contexts x.num).isSome || !x.mods.all (specOk s x)) = true := by
    simp [hnew, hok, Nat.not_le.mpr hn]
  exact if_neg hcreates

/-- On one module the path page's frame becomes VALID under the generation it had, and the tables are built. -/
theorem prepareModule_builds (x : CtxSpec) (s : State) (m : Nat × Nat × Nat) :
    let f := byteKey m.1 m.2.2 / 2 ^ 16
    BuildsTables x.num { s with frames := mset s.frames f ⟨(frameOf s (f * 2 ^ 16)).gen, .valid, true⟩ } (prepareModule x s m) := by
  intro f
  have hcleared := ((clearFrame_builds x.num s (byteKey m.1 m.2.1 / 2 ^ 16)).trans (clearFrame_builds x.num _ f)).with_frames
    (mset s.frames f ⟨(frameOf s (f * 2 ^ 16)).gen, .valid, true⟩)
  exact (hcleared.trans (validate_one x.num _ f _)).trans (putLeaf_getD_builds ..)

/-- Over all modules of the specification nothing but frames changes beside the tables. -/
theorem foldl_prepareModule_builds (x : CtxSpec) (ms : List (Nat × Nat × Nat)) (s : State) :
    ∃ fs, BuildsTables x.num { s with frames := fs } (ms.foldl (prepareModule x) s) := by
  induction ms generalizing s with
  | nil => exact ⟨s.frames, .refl x.num s⟩
  | cons m ms ih =>
    obtain ⟨fs, hrest⟩ := ih (prepareModule x s m)
    exact ⟨fs, ((prepareModule_builds x s m).with_frames fs).trans hrest⟩

/-- The frame record of a frame just set. -/
theorem frameOf_mset_frames {s t : State} {f : Nat} {r : Frame} (h : t.frames = mset s.frames f r) : frameOf t (f * 2 ^ 16) = r := by
  rw [frameOf, h, Nat.mul_div_cancel f (by decide), mget_mset_same]
  rfl

/-! ### The statement -/

/-- The module of a cold start has the record the statement names. -/
theorem mget_coldBase_modules (s : State) (dev : Nat) (fail : Option Nat) :
    mget (coldBase s dev fail).modules dev = some ((mget s.modules dev).getD (newModule dev)) :=
  mget_mset_same ..

theorem coldBase_pod (s : State) (dev : Nat) (fail : Option Nat) :
    (coldBase s dev fail).pod =
      if fail = none ∧ ((mget s.modules dev).getD (newModule dev)).joined = false then s.pod + 1 else s.pod := by
  simp [coldBase]

/-- What the creation of a context leaves: the context with its tables, and on a single module the path page's frame VALID. -/
theorem contextCreation_leaves {x : CtxSpec} {s : State} (hn : x.num < 65536) (hnew : mget s.contexts x.num = none)
    (hok : x.mods.all (specOk s x) = true) :
    ∃ t cx, execContextCreation x s = .next t ∧ mget t.contexts x.num = some cx ∧ cx = { specContext x with tables := cx.tables } ∧
      t.cords = s.cords ∧ t.rings = s.rings ∧
      ∀ m, x.mods = [m] → frameOf t (byteKey m.1 m.2.2 / 2 ^ 16 * 2 ^ 16) =
        ⟨(frameOf s (byteKey m.1 m.2.2 / 2 ^ 16 * 2 ^ 16)).gen, .valid, true⟩ := by
  obtain ⟨fs, hall⟩ := foldl_prepareModule_builds x x.mods { s with contexts := mset s.contexts x.num (specContext x) }
  obtain ⟨ts, hcx⟩ := hall.context (specContext x) (mget_mset_same ..)
  refine ⟨_, _, execContextCreation_of_ok hn hnew hok, hcx, rfl, hall.cords, hall.rings, ?_⟩
  intro m hm
  rw [hm]
  exact frameOf_mset_frames (prepareModule_builds x { s with contexts := mset s.contexts x.num (specContext x) } m).frames

/-- Settles O50: the clauses on starts are read off `restarted`, those on a context off the tables it builds. -/
theorem startEvents : Obligations.StartEvents := by
  unfold Obligations.StartEvents
  refine ⟨fun s dev fail h => execColdStart_of_ge fail s h, ?_⟩
  intro s dev fail x hdev m held gone
  have hmod : mget (coldBase s dev fail).modules dev = some m := mget_coldBase_modules s dev fail
  obtain ⟨hcords, hrings, hpkts⟩ := restarted_leaves_nothing (coldBase s dev fail) dev (fail.all (fun k => decide (4 < k)))
    (fun m => coldModule m fail)
  refine ⟨⟨_, execColdStart_of_lt fail s hdev, readCell_restarted _ _ _ _, ?_, ?_, ?_, ?_, ?_, hcords, hrings, hpkts⟩, ?_, ?_, ?_⟩
  · rintro rfl
    exact mget_restarted_modules _ _ hmod
  · rintro k rfl
    exact mget_restarted_modules _ _ hmod
  · exact (restarted_pod ..).trans (coldBase_pod s dev fail)
  · exact fun p hp hdst hsrc ha => restarted_resends _ _ _ _ hp hdst hsrc ha
  · exact fun r hr hd => restarted_keeps_arrivals _ _ _ _ hr hd
  · intro hsome hcold
    obtain ⟨m', hm'⟩ := Option.isSome_iff_exists.mp hsome
    obtain rfl : m = m' := by simp [m, hm']
    exact execWarmStart_cold hm' hcold
  · intro hsome hp ht hj
    obtain ⟨m', hm'⟩ := Option.isSome_iff_exists.mp hsome
    obtain rfl : m = m' := by simp [m, hm']
    refine ⟨_, execWarmStart_warm hm' hp ht hj, fun b => ?_, mget_restarted_modules _ _ hm',
      (restarted_leaves_nothing ..).1⟩
    rw [readCell_restarted, Bool.or_false]
  · exact fun hn hnew hok => ⟨execContextCreation_of_ok hn hnew hok, contextCreation_leaves hn hnew hok⟩

end Sys2Proof.Laws

/-!
O52, the machine right after reset and a strand at its start (R52, R53, R239, R421 to R424).
-/
namespace Sys2Proof.Laws
open Sys2Proof.Machine Sys2Proof.Safety

/-- The four dies of module 0 are as at step 7 of a start. -/
theorem dieOf_reset (d : Fin 4) : dieOf State.reset 0 d.val = Die.reset := by
  simp [dieOf, State.reset, Module.reset, mget, d.isLt]

/-- No core of module 0 has been touched. -/
theorem coreOf_reset (d : Fin 4) (c : Nat) : coreOf State.reset 0 d.val c = Core.reset := by
  rw [coreOf, dieOf_reset]
  rfl

theorem rdV_startStrand (pc csp record : BitVec 64) (depth : Nat) (n : BitVec 7) : rdV (startStrand pc csp depth record) n = 0#32 :=
  Vector.getElem_replicate n.isLt

theorem rdP_startStrand (pc csp record : BitVec 64) (depth : Nat) (q : BitVec 3) :
    rdP (startStrand pc csp depth record) q = (q == 7#3) := by
  simp [rdP, startStrand]

/-- A strand at its start has no operation: its horizon is clear, and the next sequence number 0. -/
theorem hzOf_startStrand (now : Nat) (pc csp record : BitVec 64) (depth : Nat) :
    hzOf now (startStrand pc csp depth record) = 0x80000000#32 := by
  simp [hzOf, unsettled, startStrand]

/-- Settles O52: the fields of the reset state and of a new strand, read off their definitions. -/
theorem resetState : Obligations.ResetState := by
  unfold Obligations.ResetState
  have hdies (d : Fin 4) : cycOf State.reset 0 d.val = 0 ∧ (dieOf State.reset 0 d.val).clock = 0 ∧
      (dieOf State.reset 0 d.val).refAct = 0 ∧ (dieOf State.reset 0 d.val).serial = 0 := by
    rw [cycOf, dieOf_reset]
    exact ⟨rfl, rfl, rfl, rfl⟩
  have hmodule : ∀ m, mget State.reset.modules 0 = some m →
      m.started = true ∧ m.drainLimit = 200000 ∧ m.linkLimit = 1000000 ∧ m.e2eLimit = 25000 := by
    rintro _ ⟨⟩
    exact ⟨rfl, rfl, rfl, rfl⟩
  refine ⟨rfl, fun _ => rfl, rfl, rfl, rfl, rfl, rfl, hdies, coreOf_reset, rfl, rfl, rfl, rfl, rfl, hmodule, ?_⟩
  intro pc csp record depth now c
  exact ⟨rfl, rfl, rdV_startStrand pc csp record depth, rdP_startStrand pc csp record depth, rfl, rfl, rfl,
    hzOf_startStrand now pc csp record depth, rfl, rfl, rfl, rfl, rfl, rfl⟩

end Sys2Proof.Laws

/-!
O53, what a step runs (R66, R113, R114, R117, R163).
-/
namespace Sys2Proof.Laws
open Sys2Proof.Machine Sys2Proof.Safety

/-- With a current strand, the step runs it. -/
theorem step_here {s : State} {h : Here} (hh : here s = some h) : step s = runSelected s := by
  unfold step
  split
  · rfl
  · rename_i htodo
    simp [here, htodo] at hh

/-- A strand whose word is not cached is passed over. -/
theorem step_of_no_word {s : State} {h : Here} (hh : here s = some h) (hw : rawWord (coreOfCord s h.cord) h.cord h.st = none) :
    step s = .next (popTodo s) := by
  rw [step_here hh]
  simp [runSelected, hh, hw]

/-- A cached word runs as the instruction it stands for. -/
theorem step_of_word {s : State} {h : Here} {w : BitVec 32} (hh : here s = some h)
    (hw : rawWord (coreOfCord s h.cord) h.cord h.st = some w) : step s = exec (instrOf h.st w) s := by
  rw [step_here hh]
  simp [runSelected, hh, hw]

/-- The instruction of a word outside a repetition, and of a stepped word in one. -/
theorem instrOf_of_ok {st : Strand} {w v : BitVec 32} {i : Instr} (hv : st.rep.elim (some w) (stepWord w) = some v)
    (hd : decode v = .ok i) : instrOf st w = i := by
  unfold instrOf
  cases hr : st.rep <;> simp_all

theorem instrOf_of_error {st : Strand} {w v : BitVec 32} {e} (hv : st.rep.elim (some w) (stepWord w) = some v)
    (hd : decode v = .error e) : instrOf st w = .illegalInstruction w := by
  unfold instrOf
  cases hr : st.rep <;> simp_all

theorem instrOf_of_out_of_range {st : Strand} {w : BitVec 32} {r : Rep} (hr : st.rep = some r) (hv : stepWord w r = none) :
    instrOf st w = .illegalInstruction w := by
  simp [instrOf, hr, hv]

/-- With no strand selected, time passes by the elapsed nanoseconds; a move is chosen among those at hand, of which there may be none. -/
theorem step_idle {s : State} (htodo : s.todo = []) : ∃ t u, s.wall ≤ t ∧
    ((moves { s with wall := t, choices := s.choices + 1 } = [] ∧ step s = .next { s with wall := t, choices := u }) ∨
      ∃ m ∈ moves { s with wall := t, choices := s.choices + 1 }, step s = m { s with wall := t, choices := u }) := by
  have hstep : step s = idleStep s := by simp [step, htodo]
  refine ⟨s.wall + Config.elapse s.choices, s.choices + 1 + 1, Nat.le_add_right .., ?_⟩
  rw [hstep, idleStep, chooseMove]
  generalize hms : moves { s with wall := s.wall + Config.elapse s.choices, choices := s.choices + 1 } = ms
  simp only [choose]
  by_cases hempty : ms = []
  · left
    simp [hempty]
  · right
    have hlt : Config.choice (s.choices + 1) % max ms.length 1 < ms.length := by
      have := List.length_pos_iff.mpr hempty
      exact lt_of_lt_of_eq (Nat.mod_lt _ (by omega)) (by omega)
    refine ⟨_, List.getElem_mem hlt, ?_⟩
    rw [List.getElem?_eq_getElem hlt]

/-- Settles O53: a current strand by what its word stands for, no strand by the choice among the moves. -/
theorem stepRunsDecodedWord : Obligations.StepRunsDecodedWord := by
  unfold Obligations.StepRunsDecodedWord
  refine fun s => ⟨fun h hh => ⟨step_of_no_word hh, fun w hw => ?_⟩, step_idle⟩
  rw [step_of_word hh hw]
  refine ⟨?_, ?_, ?_⟩
  · intro hr i hd
    rw [instrOf_of_ok (by rw [hr]; rfl) hd]
  · intro hr e hd
    rw [instrOf_of_error (by rw [hr]; rfl) hd]
  · intro r hr
    refine ⟨?_, ?_, ?_⟩
    · intro v i hv hd
      rw [instrOf_of_ok (by rw [hr]; exact hv) hd]
    · intro v e hv hd
      rw [instrOf_of_error (by rw [hr]; exact hv) hd]
    · intro hv
      rw [instrOf_of_out_of_range hr hv]

end Sys2Proof.Laws

/-!
O57, a word whose guard is false (R63, R65). A word is one call of `runWord` at the bottom of its family, so it is skipped once its spec says
whether it branches; the families inherit this from the one they are made of.
-/
namespace Sys2Proof.Laws
open Sys2Proof.Machine Sys2Proof.Safety

/-! ### Skipping one word -/

/-- The current strand h could issue a word of guard g, and the guard is false. -/
structure GuardOff (s : State) (h : Here) (g : Guard) : Prop where
  current : here s = some h
  able : ableStrand h.cord h.st h.now = true
  fresh : polling h.st = false
  free : (guardRegs g).any (isHeld h) = false
  far : stallFault h (guardRegs g) = false
  off : rdP h.st g.pred = false

/-- The answer o of s does nothing under a false guard g but spend the cycles of a word that branches or does not. -/
def SkipsOff (s : State) (g : Guard) (branch : Bool) (o : Out) : Prop :=
  ∀ h, GuardOff s h g → o = .next (popTodo (modHere s h (leaveWord h.now g { branch := branch } {} true)))

/-- Of what the issue rules ask of a word, a skip looks only at whether it branches. -/
theorem leaveWord_skipped (now : Nat) (g : Guard) (sp : WSpec) :
    leaveWord now g sp {} true = leaveWord now g { branch := sp.branch } {} true := by
  funext st
  simp [leaveWord, chkAfter]

theorem runWord_skips {i : Instr} {g : Guard} {spec : Here → State → WSpec} {check : Here → State → Option PFault}
    {leave : Here → State → Leave} {effect : Here → State → State} {s : State} {branch : Bool}
    (hbranch : ∀ h, (spec h s).branch = branch) :
    SkipsOff s g branch (runWord i g spec check leave effect s) := by
  intro h ⟨hcurrent, hable, hfresh, hfree, hfar, hoff⟩
  rw [← hbranch h, ← leaveWord_skipped]
  simp [runWord, issueGuard, issueSpec, hcurrent, hable, hfresh, hfree, hfar, hoff]

/-- A word's guard is the one its encoding holds. -/
theorem SkipsOff.encoded {g : Guard} {m : BitVec 6} {p : BitVec 21} {branch : Bool} {s : State} {o : Out}
    (hf : SkipsOff s g branch o) :
    SkipsOff s (guardOf (mkWord g m p)) branch o := by
  rwa [mk_guard]

/-! ### The families of words -/

section
variable {s : State} {i : Instr} {g : Guard} {d a b : BitVec 7} {reads writes : List Reg} {lat : Nat} {can : Flags}

theorem regWord_skips {f} : SkipsOff s g false (regWord i g reads writes lat f s) := runWord_skips (fun _ => rfl)

theorem intWord3_skips {readsD r} : SkipsOff s g false (intWord3 i g d a b readsD lat r s) := regWord_skips

theorem intWord2_skips {r} : SkipsOff s g false (intWord2 i g d a lat r s) := regWord_skips

theorem intPair_skips {r} : SkipsOff s g false (intPair i g d a lat r s) := regWord_skips

theorem shiftPair_skips {r} : SkipsOff s g false (shiftPair i g d a r s) := regWord_skips

theorem unaryWord_skips {r} : SkipsOff s g false (unaryWord i g d a r s) := regWord_skips

theorem unaryPair_skips {r} : SkipsOff s g false (unaryPair i g d a r s) := regWord_skips

theorem countPair_skips {r} : SkipsOff s g false (countPair i g d a r s) := regWord_skips

theorem flagWord_skips {f} : SkipsOff s g false (flagWord i g reads writes lat can f s) := runWord_skips (fun _ => rfl)

theorem fpWord3_skips {r} : SkipsOff s g false (fpWord3 i g d a b can r s) := flagWord_skips

theorem fpWord2_skips {r} : SkipsOff s g false (fpWord2 i g d a can r s) := flagWord_skips

theorem packedWord_skips {readsB f r} : SkipsOff s g false (packedWord i g d a b readsB can f r s) := flagWord_skips

theorem fpFunction_skips {r} : SkipsOff s g false (fpFunction i g d a can r s) := flagWord_skips

theorem divWord_skips {f} : SkipsOff s g false (divWord i g reads d can f s) := runWord_skips (fun _ => rfl)

theorem branchWord_skips {taken target f} : SkipsOff s g true (Machine.branchWord i g reads writes taken target f s) :=
  runWord_skips (fun _ => rfl)

theorem callWord_skips {target} : SkipsOff s g true (callWord i g reads target s) := runWord_skips (fun _ => rfl)

theorem respill_skips : SkipsOff s g true (respill i g s) := runWord_skips (fun _ => rfl)

theorem raiseWord_skips {cause n} : SkipsOff s g false (raiseWord i g cause n s) := runWord_skips (fun _ => rfl)

theorem memWord_skips {align va op} : SkipsOff s g false (memWord i g reads writes align va op s) := runWord_skips (fun _ => rfl)

theorem amoWord_skips {op k} : SkipsOff s g false (amoWord i g op d a k s) := memWord_skips

theorem amoWordD_skips {op k} : SkipsOff s g false (amoWordD i g op d a k s) := memWord_skips

theorem scratchWord_skips {align size f} : SkipsOff s g false (scratchWord i g reads writes align size a f s) := by
  unfold scratchWord
  exact runWord_skips (fun _ => rfl)

theorem amosWord_skips {op y} : SkipsOff s g false (amosWord i g op d a reads y s) := scratchWord_skips

theorem stepWordOp_skips {fallible op} : SkipsOff s g false (stepWordOp i g reads fallible op s) := by
  unfold stepWordOp
  exact runWord_skips (fun _ => rfl)

theorem crossWord_skips {mask f} : SkipsOff s g false (crossWord i g reads writes mask can f s) := runWord_skips (fun _ => rfl)

theorem redWord_skips {o} : SkipsOff s g false (redWord i g d a o s) := by
  unfold redWord
  exact crossWord_skips

theorem voteWord_skips {x} : SkipsOff s g false (voteWord i g writes d a x s) := by
  unfold voteWord
  exact crossWord_skips

theorem xlmWord_skips {m} : SkipsOff s g false (xlmWord i g d a m s) := by
  unfold xlmWord
  exact runWord_skips (fun _ => rfl)

theorem taskWord_skips {hold fault effect} : SkipsOff s g false (taskWord i g reads writes hold fault effect s) :=
  runWord_skips (fun _ => rfl)

theorem knotWord_skips {op x hold} : SkipsOff s g false (knotWord i g op d a x reads writes hold s) := by
  unfold knotWord
  exact taskWord_skips

theorem swWord_skips {hold polls f} : SkipsOff s g false (swWord i g d a writes hold polls f s) := runWord_skips (fun _ => rfl)

theorem skWord_skips {r f} : SkipsOff s g false (skWord i g d a r f s) := runWord_skips (fun _ => rfl)

theorem tileWord_skips {prune ok} : SkipsOff s g false (tileWord i g d a prune ok s) := runWord_skips (fun _ => rfl)

theorem sendWord_skips {add} : SkipsOff s g false (sendWord i g a add s) := by
  unfold sendWord
  exact runWord_skips (fun _ => rfl)

/-- A return word leaves no handler where its guard is false. -/
theorem returnWord_skips {rerun} : SkipsOff s g false (returnWord i g rerun s) := by
  intro h hoff
  have hskip := runWord_skips (i := i) (g := g) (spec := fun h _ => { hold := h.st.stat.getLsbD 3 && !hzClear h.now h.st })
    (check := fun h s => if h.st.stat.getLsbD 3 then none else some (faultHere s h i 1 0 0)) (leave := plainLeave)
    (effect := fun _ s => s) (s := s) (fun _ => rfl) h hoff
  unfold returnWord
  rw [hskip]
  simp [hoff.current, hoff.off]

/-- A call spills anew or calls; both branch. -/
theorem call_skips {target} : SkipsOff s g true (if respilling s then respill i g s else callWord i g reads target s) := by
  split
  · exact respill_skips
  · exact callWord_skips

end

/-! ### Every word -/

/-- Every word is skipped under a false guard; only a branch, call or return takes the cycles of one (R63, R65). -/
theorem exec_skips (i : Instr) (hi : i.isWord = true) (s : State) :
    SkipsOff s (guardOf (encode i)) (Safety.branchWord i) (exec i s) := by
  cases i with unfold exec
  | iadd | isub | imul | imad | and | or | xor | shl | shr | sel | bfi | idp4 => exact intWord3_skips.encoded
  | imulh | imulhUns | imin | iminUns | imax | imaxUns | andn | sar | rotl | bfx | bfxUns => exact intWord2_skips.encoded
  | iaddD | isubD | imulD | andD | orD | xorD | andnD | iminD | iminDUns | imaxD | imaxDUns => exact intPair_skips.encoded
  | shlD | shrD | sarD | rotlD => exact shiftPair_skips.encoded
  | mov | iabs | ineg | not | popc | clz | ctz | brev | shlImm | shrImm | sarImm | rotlImm => exact unaryWord_skips.encoded
  | movD | iabsD | inegD | notD | brevD => exact unaryPair_skips.encoded
  | popcD | clzD | ctzD => exact countPair_skips.encoded
  | batt | fclass | mvs | mvsD | movs | movsD | hzrd | hzseq | icmp | lea | iaddImm | movi | movhi | pand | por | pxor | pnot =>
    exact regWord_skips.encoded
  | fadd | fsub | fmul => exact fpWord3_skips.encoded
  | ffma | fcmp | cvt => exact flagWord_skips.encoded
  | fmin | fmax => exact fpWord2_skips.encoded
  | hadd2Hf | hadd2Bf | hmul2Hf | hmul2Bf | hfma2Hf | hfma2Bf => exact packedWord_skips.encoded
  | frcp | frsq | fexp2 | flog2 => exact fpFunction_skips.encoded
  | fdiv | fsqrt | idiv | idivUns | irem | iremUns => exact divWord_skips.encoded
  | bra | brp | bdec | jmpv | hzbrClr | hzbrNclr => exact branchWord_skips.encoded
  | call => unfold execCall; exact call_skips.encoded
  | callv => unfold execCallv; exact call_skips.encoded
  | trap | bkpt => exact raiseWord_skips.encoded
  | rte | rteRerun => exact returnWord_skips.encoded
  | ldW | stW | ld | ldAcq | st | stRel | ldo | ldoAcq | acas | acasD => exact memWord_skips.encoded
  | amoAdd | amoSub | amoMin | amoMax | amoMinUns | amoMaxUns | amoAnd | amoOr | amoXor | amoSwp | amoAddF =>
    exact amoWord_skips.encoded
  | amoAddD | amoSwpD => exact amoWordD_skips.encoded
  | lds | sts => exact scratchWord_skips.encoded
  | amosAdd | amosSub | amosMin | amosMax | amosMinUns | amosMaxUns | amosAnd | amosOr | amosXor | amosSwp | amosCas =>
    exact amosWord_skips.encoded
  | fenceAcq | fenceRel | fence | invl1 | invl1All | tkrel => exact stepWordOp_skips.encoded
  | xlmIdx | xlmXor | xlmUp | xlmDn => exact xlmWord_skips.encoded
  | red | scan | scanExcl => exact redWord_skips.encoded
  | elect => exact crossWord_skips.encoded
  | voteAny | voteAll | voteBallot => exact voteWord_skips.encoded
  | qrsv | qcmt | qdrop | qfree | qstat | knnew => exact taskWord_skips.encoded
  | knset | knadd | knget | knwait | knpoll | knfree | knbrk => exact knotWord_skips.encoded
  | swinit | swadd => exact swWord_skips.encoded
  | swait => unfold execSwait; exact swWord_skips.encoded
  | skadd | sksub | skmax | skmin | skmov => exact skWord_skips.encoded
  | cmpr | sbmap => exact tileWord_skips.encoded
  | rsend | rsendAdd => exact sendWord_skips.encoded
  | hintWait | hintExt | hintMod | hintCache | hintFetchI | hintFetchD | ret | nop | exit | barcfg | waito
  | cbdec | cbldDef | skset | skext | skins | skbind | tscncl | mfs | mts | hzwait | yieldp | trrec =>
    exact (runWord_skips (fun _ => rfl)).encoded
  | rep => unfold execRep; exact (runWord_skips (fun _ => rfl)).encoded
  | cvset => unfold execCvset; exact (runWord_skips (fun _ => rfl)).encoded
  | bar => unfold execBar; exact (runWord_skips (fun _ => rfl)).encoded
  | phase => unfold execPhase; exact (runWord_skips (fun _ => rfl)).encoded
  | tdef => unfold execTdef; exact (runWord_skips (fun _ => rfl)).encoded
  | tcopy => unfold execTcopy; exact (runWord_skips (fun _ => rfl)).encoded
  | tld => unfold execTld; exact (runWord_skips (fun _ => rfl)).encoded
  | tst => unfold execTst; exact (runWord_skips (fun _ => rfl)).encoded
  | cbld => unfold execCbld; exact (runWord_skips (fun _ => rfl)).encoded
  | press => unfold execPress; exact (runWord_skips (fun _ => rfl)).encoded
  | pressw => unfold execPressw; exact (runWord_skips (fun _ => rfl)).encoded
  | mma => unfold execMma; exact (runWord_skips (fun _ => rfl)).encoded
  | tsend => unfold execTsend; exact (runWord_skips (fun _ => rfl)).encoded
  | esend => unfold execEsend; exact (runWord_skips (fun _ => rfl)).encoded
  | erecv => unfold execErecv; exact (runWord_skips (fun _ => rfl)).encoded
  | _ => cases hi

theorem execIllegalInstruction_skips (w : BitVec 32) (s : State) : SkipsOff s (guardOf w) false (execIllegalInstruction w s) :=
  runWord_skips (fun _ => rfl)

/-- Settles O57: every word, and a word that is no instruction, is skipped as its family is. -/
theorem skippedWords : Obligations.SkippedWords := by
  unfold Obligations.SkippedWords
  intro s h g hcurrent hable hfresh hfree hfar hoff
  have hguard : GuardOff s h g := ⟨hcurrent, hable, hfresh, hfree, hfar, hoff⟩
  refine ⟨?_, ?_⟩
  · rintro i hi rfl
    exact exec_skips i hi s h hguard
  · rintro w rfl
    exact execIllegalInstruction_skips w s h hguard

end Sys2Proof.Laws

/-!
O58, the frame of the words that only compute registers (R57, R58, R63, R125 to R144): the words of fixed effect by the frame of `regWord`, those
that raise flags or go through the divide unit by composing what each part of their effect leaves as it is.
-/
namespace Sys2Proof.Laws
open Sys2Proof.Machine Sys2Proof.Safety

/-! ### The results of a word -/

/-- The results ws are for the registers rs, none of them a uniform one. -/
def ResultsFor (ws : List (Reg × BitVec 64)) (rs : List Reg) : Prop := ∀ w ∈ ws, w.1 ∈ rs ∧ ∀ n, w.1 ≠ .s n

theorem toV_results {d : BitVec 7} {x : BitVec 32} : ResultsFor (toV d x) [.v d] := by simp [ResultsFor, toV]

theorem toV2_results {d : BitVec 7} {x : BitVec 64} : ResultsFor (toV2 d x) (pair d) := by simp [ResultsFor, toV2, pair]

theorem toP_results {q : BitVec 3} {b : Bool} : ResultsFor (toP q b) [.p q] := by simp [ResultsFor, toP]

theorem special_results {r : BitVec 6} {d : BitVec 7} {x : BitVec 64} {y : BitVec 32} :
    ResultsFor (if spWide r then toV2 d x else toV d y) (specialRegs r d) := by
  unfold specialRegs
  split
  · exact toV2_results
  · exact toV_results

/-! ### Issue bookkeeping -/

/-- The strand st' has every register and every record of st: what an issue, a wait or a precise fault leaves of a strand. -/
structure Bookkept (st st' : Strand) : Prop where
  v : st'.v = st.v
  preds : st'.preds = st.preds
  rs : st'.rs = st.rs
  csp : st'.csp = st.csp
  stat : st'.stat = st.stat
  fpf : st'.fpf = st.fpf
  pend : st'.pend = st.pend
  held : st'.held = st.held
  divs : st'.divs = st.divs
  ops : st'.ops = st.ops
  next : st'.next = st.next
  sync : st'.sync = st.sync
  mode : st'.mode = st.mode
  trap : st'.trap = st.trap

theorem Bookkept.refl (st : Strand) : Bookkept st st := ⟨rfl, rfl, rfl, rfl, rfl, rfl, rfl, rfl, rfl, rfl, rfl, rfl, rfl, rfl⟩

theorem Bookkept.of_wait (st : Strand) (w : Wait) : Bookkept st { st with wait := w } :=
  ⟨rfl, rfl, rfl, rfl, rfl, rfl, rfl, rfl, rfl, rfl, rfl, rfl, rfl, rfl⟩

theorem Bookkept.of_fault (st : Strand) (f : PFault) : Bookkept st { st with fault := some f, wait := .none } :=
  ⟨rfl, rfl, rfl, rfl, rfl, rfl, rfl, rfl, rfl, rfl, rfl, rfl, rfl, rfl⟩

theorem leaveWord_bookkept (now : Nat) (g : Guard) (sp : WSpec) (lv : Leave) (skipped : Bool) (st : Strand) :
    Bookkept st (leaveWord now g sp lv skipped st) := by
  obtain ⟨hv, hpreds, hrs, hcsp, hstat, hfpf, hpend, hheld, hdivs, hops, hnext, hsync, hmode, -, htrap, -⟩ :=
    leaveWord_keeps now g sp lv skipped st
  exact ⟨hv, hpreds, hrs, hcsp, hstat, hfpf, hpend, hheld, hdivs, hops, hnext, hsync, hmode, htrap⟩

/-- A word either does no more than the bookkeeping of its strand, or has its effect and then does that bookkeeping. -/
theorem runWord_bookkeeps {i : Instr} {g : Guard} {spec : Here → State → WSpec} {check : Here → State → Option PFault}
    {leave : Here → State → Leave} {effect : Here → State → State} {s t : State} {h : Here} (hh : here s = some h)
    (ht : runWord i g spec check leave effect s = .next t) :
    (∃ st, Bookkept h.st st ∧ t = popTodo (modHere s h (fun _ => st))) ∨
    ∃ f, (∀ st, Bookkept st (f st)) ∧ t = popTodo (modHere (effect h s) h f) := by
  rcases runWord_cases (i := i) (g := g) (spec := spec) (check := check) (leave := leave) (effect := effect) hh with
    hpop | ⟨sp, hpass⟩ | hskip | ⟨f, hstop⟩ | ⟨-, hdone⟩
  · cases hpop.symm.trans ht
    exact .inl ⟨h.st, .refl _, by rw [modHere_id hh]⟩
  · cases hpass.symm.trans ht
    exact .inl ⟨_, .of_wait h.st (passWait h sp), congrArg popTodo (modHere_const hh _)⟩
  · cases hskip.symm.trans ht
    exact .inl ⟨_, leaveWord_bookkept .., congrArg popTodo (modHere_const hh _)⟩
  · cases hstop.symm.trans ht
    exact .inl ⟨_, .of_fault h.st f, congrArg popTodo (modHere_const hh _)⟩
  · cases hdone.symm.trans ht
    exact .inr ⟨_, fun st => leaveWord_bookkept _ _ _ _ _ st, rfl⟩

/-! ### Words that only write results -/

/-- Bookkeeping after results have been added to the pending ones is what `OnlyWrites` allows. -/
theorem onlyWrites_of_bookkept {s : State} {h : Here} {rs : List Reg} {new : List Pend} {st : Strand}
    (hnew : ∀ p ∈ new, p.reg ∈ rs) (hst : Bookkept { h.st with pend := h.st.pend ++ new } st) :
    OnlyWrites s (popTodo (modHere s h (fun _ => st))) h rs :=
  ⟨st, rfl, hst.v, hst.preds, hst.rs, hst.csp, hst.stat, hst.fpf, hst.ops, hst.next, hst.sync, hst.held, hst.divs, hst.mode, hst.trap,
    new, hst.pend, hnew⟩

/-- A word whose effect is to write results, whatever it may wait for. -/
theorem writeWord_frame {i : Instr} {g : Guard} {spec : Here → State → WSpec} {check : Here → State → Option PFault}
    {leave : Here → State → Leave} {f : Here → State → List (Reg × BitVec 64)} {lat : Nat} {s t : State} {h : Here} {rs : List Reg}
    (hh : here s = some h) (ht : runWord i g spec check leave (fun h s => writeRegs s h (f h s) (h.now + lat) false) s = .next t)
    (hf : ResultsFor (f h s) rs) : OnlyWrites s t h rs := by
  rcases runWord_bookkeeps hh ht with ⟨st, hst, rfl⟩ | ⟨f', hf', rfl⟩
  · exact onlyWrites_of_bookkept (new := []) (by simp) (by simpa using hst)
  · obtain ⟨new, hnew, hwrite⟩ := writeRegs_strand s h (f h s) (h.now + lat) false rs hf s (fun _ => h.st) (modHere_id hh).symm
    rw [hwrite, modHere_modHere]
    exact onlyWrites_of_bookkept hnew (hf' _)

section
variable {s t : State} {h : Here} (hh : here s = some h) {i : Instr} {g : Guard} {d a b : BitVec 7} {lat : Nat}
include hh

theorem regWord_frame_of_results {reads writes f rs} (ht : regWord i g reads writes lat f s = .next t) (hf : ResultsFor (f h) rs) :
    OnlyWrites s t h rs :=
  regWord_frame hh hf ht

theorem intWord3_frame {readsD r} (ht : intWord3 i g d a b readsD lat r s = .next t) : OnlyWrites s t h [.v d] :=
  regWord_frame_of_results hh ht toV_results

theorem intWord2_frame {r} (ht : intWord2 i g d a lat r s = .next t) : OnlyWrites s t h [.v d] :=
  regWord_frame_of_results hh ht toV_results

theorem unaryWord_frame {r} (ht : unaryWord i g d a r s = .next t) : OnlyWrites s t h [.v d] :=
  regWord_frame_of_results hh ht toV_results

theorem countPair_frame {r} (ht : countPair i g d a r s = .next t) : OnlyWrites s t h [.v d] :=
  regWord_frame_of_results hh ht toV_results

theorem intPair_frame {r} (ht : intPair i g d a lat r s = .next t) : OnlyWrites s t h (pair d) :=
  regWord_frame_of_results hh ht toV2_results

theorem shiftPair_frame {r} (ht : shiftPair i g d a r s = .next t) : OnlyWrites s t h (pair d) :=
  regWord_frame_of_results hh ht toV2_results

theorem unaryPair_frame {r} (ht : unaryPair i g d a r s = .next t) : OnlyWrites s t h (pair d) :=
  regWord_frame_of_results hh ht toV2_results

/-- Every word that only computes registers of its strand. -/
theorem exec_onlyWrites {rs : List Reg} (hd : destRegs i = some rs) (ht : exec i s = .next t) : OnlyWrites s t h rs := by
  cases i with (unfold exec at ht; cases hd)
  | iadd | isub | imul | imad | and | or | xor | shl | shr | sel | bfi | idp4 => exact intWord3_frame hh ht
  | imulh | imulhUns | imin | iminUns | imax | imaxUns | andn | sar | rotl | bfx | bfxUns => exact intWord2_frame hh ht
  | mov | iabs | ineg | not | popc | clz | ctz | brev | shlImm | shrImm | sarImm | rotlImm => exact unaryWord_frame hh ht
  | popcD | clzD | ctzD => exact countPair_frame hh ht
  | iaddD | isubD | imulD | andD | orD | xorD | andnD | iminD | iminDUns | imaxD | imaxDUns => exact intPair_frame hh ht
  | shlD | shrD | sarD | rotlD => exact shiftPair_frame hh ht
  | movD | iabsD | inegD | notD | brevD => exact unaryPair_frame hh ht
  | fclass | mvs | iaddImm | movi | movhi => exact regWord_frame_of_results hh ht toV_results
  | lea | mvsD => exact regWord_frame_of_results hh ht toV2_results
  | icmp | pand | por | pxor | pnot => exact regWord_frame_of_results hh ht toP_results
  | mfs => exact writeWord_frame hh ht special_results

end

/-! ### Words that raise flags -/

/-- The strand st' differs from st, of what `OnlyFlags` speaks of, by sticky flags, results on the way to r and flag operations named u. -/
structure FlagsRaised (u : Nat) (r : Reg) (st st' : Strand) : Prop where
  v : st'.v = st.v
  preds : st'.preds = st.preds
  rs : st'.rs = st.rs
  csp : st'.csp = st.csp
  stat : st'.stat = st.stat
  fpf : st'.fpf.extractLsb' 5 27 = st.fpf.extractLsb' 5 27
  sync : st'.sync = st.sync
  mode : st'.mode = st.mode
  trap : st'.trap = st.trap
  pend : ∃ new : List Pend, st'.pend = st.pend ++ new ∧ ∀ p ∈ new, p.reg = r
  held : ∃ new : List Held, st'.held = st.held ++ new ∧ ∀ x ∈ new, x.reg = r
  ops : ∀ o ∈ st'.ops, o ∈ st.ops ∨ (o.uid = u ∧ o.kind = .flag)

namespace FlagsRaised

theorem trans {u : Nat} {r : Reg} {st st' st'' : Strand} (h : FlagsRaised u r st st') (k : FlagsRaised u r st' st'') :
    FlagsRaised u r st st'' := by
  obtain ⟨hnew, hp, hr⟩ := h.pend
  obtain ⟨knew, kp, kr⟩ := k.pend
  obtain ⟨hheld, hh, hhr⟩ := h.held
  obtain ⟨kheld, kh, khr⟩ := k.held
  refine ⟨k.v.trans h.v, k.preds.trans h.preds, k.rs.trans h.rs, k.csp.trans h.csp, k.stat.trans h.stat, k.fpf.trans h.fpf,
    k.sync.trans h.sync, k.mode.trans h.mode, k.trap.trans h.trap, ⟨hnew ++ knew, ?_, ?_⟩, ⟨hheld ++ kheld, ?_, ?_⟩, ?_⟩
  · rw [kp, hp, List.append_assoc]
  · exact List.forall_mem_append.mpr ⟨hr, kr⟩
  · rw [kh, hh, List.append_assoc]
  · exact List.forall_mem_append.mpr ⟨hhr, khr⟩
  · intro o ho
    exact (k.ops o ho).elim (h.ops o) .inr

theorem of_bookkept {u : Nat} {r : Reg} {st st' : Strand} (h : Bookkept st st') : FlagsRaised u r st st' :=
  ⟨h.v, h.preds, h.rs, h.csp, h.stat, congrArg _ h.fpf, h.sync, h.mode, h.trap, ⟨[], by simp [h.pend], by simp⟩,
    ⟨[], by simp [h.held], by simp⟩, fun o ho => .inl (h.ops ▸ ho)⟩

/-- Raising flags leaves bits 31:5 of %fpf. -/
theorem of_raiseFlags (u : Nat) (r : Reg) (fl : Flags) (st : Strand) : FlagsRaised u r st (raiseFlags fl st) := by
  refine ⟨rfl, rfl, rfl, rfl, rfl, ?_, rfl, rfl, rfl, ⟨[], by simp, by simp⟩, ⟨[], by simp, by simp⟩, fun o ho => .inl ho⟩
  ext i hi
  simp [raiseFlags]

theorem of_fbusy (u : Nat) (r : Reg) (st : Strand) (n : Nat) : FlagsRaised u r st { st with fbusy := n } :=
  ⟨rfl, rfl, rfl, rfl, rfl, rfl, rfl, rfl, rfl, ⟨[], by simp, by simp⟩, ⟨[], by simp, by simp⟩, fun o ho => .inl ho⟩

theorem of_divs (u : Nat) (r : Reg) (st : Strand) (ds : List DivOp) : FlagsRaised u r st { st with divs := ds } :=
  ⟨rfl, rfl, rfl, rfl, rfl, rfl, rfl, rfl, rfl, ⟨[], by simp, by simp⟩, ⟨[], by simp, by simp⟩, fun o ho => .inl ho⟩

theorem of_pend (u : Nat) {r : Reg} (st : Strand) {new : List Pend} (hnew : ∀ p ∈ new, p.reg = r) :
    FlagsRaised u r st { st with pend := st.pend ++ new } :=
  ⟨rfl, rfl, rfl, rfl, rfl, rfl, rfl, rfl, rfl, ⟨new, rfl, hnew⟩, ⟨[], by simp, by simp⟩, fun o ho => .inl ho⟩

theorem of_held (u : Nat) (r : Reg) (st : Strand) (x : Nat) : FlagsRaised u r st { st with held := st.held ++ [⟨r, x⟩] } :=
  ⟨rfl, rfl, rfl, rfl, rfl, rfl, rfl, rfl, rfl, ⟨[], by simp, by simp⟩, ⟨[⟨r, x⟩], rfl, by simp⟩, fun o ho => .inl ho⟩

theorem of_ops (u : Nat) (r : Reg) (st : Strand) {os : List Op} (n : BitVec 16)
    (hos : ∀ o ∈ os, o ∈ st.ops ∨ (o.uid = u ∧ o.kind = .flag)) : FlagsRaised u r st { st with ops := os, next := n } :=
  ⟨rfl, rfl, rfl, rfl, rfl, rfl, rfl, rfl, rfl, ⟨[], by simp, by simp⟩, ⟨[], by simp, by simp⟩, hos⟩

end FlagsRaised

/-- The state t is s but for a later operation name and the strand h, in which flags have been raised. -/
def RaisesFlags (s : State) (h : Here) (r : Reg) (t : State) : Prop :=
  ∃ (u : Nat) (st : Strand), s.uid ≤ u ∧ t = modHere { s with uid := u } h (fun _ => st) ∧ FlagsRaised s.uid r h.st st

namespace RaisesFlags
variable {s t : State} {h : Here} {r : Reg}

theorem refl (hh : here s = some h) : RaisesFlags s h r s :=
  ⟨s.uid, h.st, le_rfl, (modHere_id hh).symm, .of_bookkept (.refl _)⟩

theorem modHere (ht : RaisesFlags s h r t) {f : Strand → Strand} (hf : ∀ st, FlagsRaised s.uid r st (f st)) :
    RaisesFlags s h r (Machine.modHere t h f) := by
  obtain ⟨u, st, hu, rfl, hst⟩ := ht
  exact ⟨u, f st, hu, modHere_modHere .., hst.trans (hf st)⟩

theorem with_uid (ht : RaisesFlags s h r t) {u : Nat} (hu : t.uid ≤ u) : RaisesFlags s h r { t with uid := u } := by
  obtain ⟨u', st, hu', rfl, hst⟩ := ht
  exact ⟨u, st, hu'.trans hu, rfl, hst⟩

/-- The first operation a word adds is named by the next free name. -/
theorem pushOp (ht : RaisesFlags s h r t) (hu : t.uid = s.uid) (i : Instr) (fallible : Bool) {o : Op} (ho : o.kind = .flag) :
    RaisesFlags s h r (Machine.pushOp t h i fallible o) := by
  refine (ht.with_uid (Nat.le_succ t.uid)).modHere (fun st => .of_ops _ _ _ _ fun o' ho' => ?_)
  rcases List.mem_append.mp ho' with hold | hnew
  · exact .inl (List.mem_of_mem_filter hold)
  · rw [List.mem_singleton.mp hnew]
    exact .inr ⟨hu, ho⟩

theorem writeRegs (ht : RaisesFlags s h r t) {ws : List (Reg × BitVec 64)} (hws : ResultsFor ws [r]) (n : Nat) (var : Bool) :
    RaisesFlags s h r (Machine.writeRegs t h ws n var) := by
  obtain ⟨u, st, hu, rfl, hst⟩ := ht
  obtain ⟨new, hnew, hwrite⟩ := writeRegs_strand _ h ws n var [r] hws { s with uid := u } (fun _ => st) rfl
  exact ⟨u, _, hu, hwrite, hst.trans (.of_pend _ _ (fun p hp => List.mem_singleton.mp (hnew p hp)))⟩

theorem onlyFlags (ht : RaisesFlags s h r t) : OnlyFlags s (popTodo t) h r := by
  obtain ⟨u, st, hu, rfl, hst⟩ := ht
  exact ⟨u, st, hu, rfl, hst.v, hst.preds, hst.rs, hst.csp, hst.stat, hst.fpf, hst.sync, hst.mode, hst.trap, hst.pend, hst.held, hst.ops⟩

end RaisesFlags

theorem flagWrite_raises {s : State} {h : Here} (hh : here s = some h) {r : Reg} {i : Instr} {lat : Nat} {can : Flags}
    {x : List (Reg × BitVec 64) × Flags} (hx : ResultsFor x.1 [r]) : RaisesFlags s h r (flagWrite i lat can x h s) := by
  have hraise : RaisesFlags s h r (modHere s h (fun st => { raiseFlags x.2 st with fbusy := max st.fbusy (h.now + lat) })) :=
    (RaisesFlags.refl hh).modHere (fun st => (FlagsRaised.of_raiseFlags s.uid r x.2 st).trans (.of_fbusy ..))
  unfold flagWrite
  dsimp only
  split
  · split
    · exact hraise.pushOp rfl i true rfl
    · exact hraise
  · split
    · exact (hraise.pushOp rfl i true rfl).writeRegs hx _ _
    · exact hraise.writeRegs hx _ _

theorem divWrite_raises {s : State} {h : Here} (hh : here s = some h) {i : Instr} {d : BitVec 7} {can : Flags} {x : BitVec 32 × Flags} :
    RaisesFlags s h (.v d) (divWrite i d can x h s) := by
  have hraise : RaisesFlags s h (.v d) (modHere s h (fun st => { raiseFlags x.2 st with divs := st.divs ++ [⟨s.uid, d, x.1⟩] })) :=
    (RaisesFlags.refl hh).modHere (fun st => (FlagsRaised.of_raiseFlags s.uid (.v d) x.2 st).trans (.of_divs ..))
  have hhold := hraise.modHere (fun st => FlagsRaised.of_held s.uid (.v d) st s.uid)
  unfold divWrite
  dsimp only
  split
  · exact hhold.pushOp rfl i true rfl
  · exact hhold.with_uid (Nat.le_succ s.uid)

/-- A word that does no more than raise flags and write one register. -/
theorem raisingWord_frame {i : Instr} {g : Guard} {spec : Here → State → WSpec} {check : Here → State → Option PFault}
    {leave : Here → State → Leave} {effect : Here → State → State} {s t : State} {h : Here} {r : Reg}
    (hh : here s = some h) (ht : runWord i g spec check leave effect s = .next t) (he : RaisesFlags s h r (effect h s)) :
    OnlyFlags s t h r := by
  rcases runWord_bookkeeps hh ht with ⟨st, hst, rfl⟩ | ⟨f, hf, rfl⟩
  · exact RaisesFlags.onlyFlags ⟨s.uid, st, le_rfl, rfl, .of_bookkept hst⟩
  · exact (he.modHere (fun st => .of_bookkept (hf st))).onlyFlags

section
variable {s t : State} {h : Here} (hh : here s = some h) {i : Instr} {g : Guard} {d a b : BitVec 7} {can : Flags}
include hh

theorem flagWord_frame {reads writes lat f r} (ht : flagWord i g reads writes lat can f s = .next t) (hf : ResultsFor (f h).1 [r]) :
    OnlyFlags s t h r :=
  raisingWord_frame hh ht (flagWrite_raises hh hf)

theorem divWord_frame {reads f} (ht : divWord i g reads d can f s = .next t) : OnlyFlags s t h (.v d) :=
  raisingWord_frame hh ht (divWrite_raises hh)

theorem fpWord3_frame {r} (ht : fpWord3 i g d a b can r s = .next t) : OnlyFlags s t h (.v d) :=
  flagWord_frame hh ht toV_results

theorem fpWord2_frame {r} (ht : fpWord2 i g d a can r s = .next t) : OnlyFlags s t h (.v d) :=
  flagWord_frame hh ht toV_results

theorem packedWord_frame {readsB f r} (ht : packedWord i g d a b readsB can f r s = .next t) : OnlyFlags s t h (.v d) :=
  flagWord_frame hh ht toV_results

theorem fpFunction_frame {r} (ht : fpFunction i g d a can r s = .next t) : OnlyFlags s t h (.v d) :=
  flagWord_frame hh ht toV_results

/-- Every word that can raise flags or goes through the divide unit. -/
theorem exec_onlyFlags {r : Reg} (hd : flagDest i = some r) (ht : exec i s = .next t) : OnlyFlags s t h r := by
  cases i with (unfold exec at ht; cases hd)
  | fadd | fsub | fmul => exact fpWord3_frame hh ht
  | ffma | cvt => exact flagWord_frame hh ht toV_results
  | fcmp => exact flagWord_frame hh ht toP_results
  | fmin | fmax => exact fpWord2_frame hh ht
  | hadd2Hf | hadd2Bf | hmul2Hf | hmul2Bf | hfma2Hf | hfma2Bf => exact packedWord_frame hh ht
  | frcp | frsq | fexp2 | flog2 => exact fpFunction_frame hh ht
  | fdiv | fsqrt | idiv | idivUns | irem | iremUns => exact divWord_frame hh ht

end

/-- Settles O58: the frames of the two kinds of register words. -/
theorem registerWordFrames : Obligations.RegisterWordFrames :=
  fun _ _ _ _ hh ht => ⟨fun _ hd => exec_onlyWrites hh hd ht, fun _ hd => exec_onlyFlags hh hd ht⟩

end Sys2Proof.Laws

/-!
O39, the transitions of an issued access (R263, R264, R281 to R288, R292). First what is read of a strand after a change of it, then one rule for each
outcome of a transition, then the statement.
-/
namespace Sys2Proof.Laws
open Sys2Proof.Machine

/-! ### Reading a changed strand -/

@[simp] theorem strandOf_modStrand_same (s : State) (k l : Nat) (f : Strand → Strand) :
    strandOf (modStrand s k l f) k l = (strandOf s k l).map f := by
  simp only [strandOf, modStrand, modCord, mget_mmod_same]
  cases mget s.cords k with
  | none => rfl
  | some c => exact mget_mmod_same ..

theorem strandOf_modStrand_of {s : State} {k l : Nat} {st : Strand} (f : Strand → Strand) (h : strandOf s k l = some st) :
    strandOf (modStrand s k l f) k l = some (f st) := by
  rw [strandOf_modStrand_same, h]
  rfl

/-- Changing the operations of a name changes the one that name finds. -/
theorem opOf_map_ops (st : Strand) (u : Nat) (f : Op → Op) (hf : ∀ o, (f o).uid = o.uid) :
    opOf { st with ops := st.ops.map (fun o => if o.uid == u then f o else o) } u = (opOf st u).map f := by
  unfold opOf
  induction st.ops with
  | nil => rfl
  | cons o os ih =>
    by_cases ho : o.uid = u
    · simp [ho, hf o]
    · simpa [ho] using ih

theorem opOf_uid {st : Strand} {u : Nat} {o : Op} (h : opOf st u = some o) : o.uid = u := by
  simpa using List.find?_some h

/-- What a name of an access finds. -/
theorem accOf_finds {s : State} {k l u : Nat} {a : Acc} (h : accOf s k l u = some a) :
    strandOf s k l = some a.st ∧ opOf a.st u = some a.op := by
  unfold accOf at h
  split at h
  · cases h
  · rename_i c hc
    split at h
    · cases h
    · rename_i st hst
      obtain ⟨o, ho, rfl⟩ := Option.map_eq_some_iff.mp h
      exact ⟨by simp [strandOf, hc, hst], ho⟩

theorem accOf_uid {s : State} {k l u : Nat} {a : Acc} (h : accOf s k l u = some a) : a.op.uid = u :=
  opOf_uid (accOf_finds h).2

/-! ### L1-READ -/

section
variable {s : State} {k l u : Nat} {a : Acc} (ha : accOf s k l u = some a)
include ha

theorem execL1Read_waits (hm : mayL1Read s l a = false) : execL1Read k l u s = .next s := by
  simp [execL1Read, ha, hm]

theorem execL1Read_takes (hm : mayL1Read s l a = true) {bs : List (BitVec 8)}
    (hbs : l1Bytes (coreOfCord s a.cord) (opKeys s a.cord a.op) = some bs) : execL1Read k l u s = .next (takeL1 k l a bs s) := by
  simp [execL1Read, ha, hm, hbs]

/-! ### SEND -/

theorem execSend_waits (hw : heldBack s l a = true ∨ loadTurn s a = true ∨ groupHeld s l a = true) : execSend k l u s = .next s := by
  rcases hw with hw | hw | hw <;> simp [execSend, ha, hw]

/-- The guard of SEND, but for the translations. -/
structure MaySend (s : State) (l : Nat) (a : Acc) : Prop where
  unsent : a.op.state = .unsent
  kind : kindSent a.op.kind = true
  free : heldBack s l a = false
  alone : groupHeld s l a = false
  atoms : atomHeld s a = false
  turn : loadTurn s a = false
  released : a.op.kind = .atomic → a.op.rel = true

omit ha in
theorem MaySend.guard (h : MaySend s l a) :
    (!(a.op.state == .unsent && kindSent a.op.kind) || heldBack s l a || groupHeld s l a || atomHeld s a || loadTurn s a ||
      (a.op.kind == .atomic && !a.op.rel)) = false := by
  simp [h.unsent, h.kind, h.free, h.alone, h.atoms, h.turn]
  exact h.released

theorem execSend_fails (hm : MaySend s l a) {f b : Nat}
    (hf : accessFate s (coreIdOf a.cord) a.cord.ctx (needOf a.op.kind) a.op.va a.op.size = some (f, b)) :
    execSend k l u s = .next (failOp (walkAccess s a.cord a.op.va a.op.size) k l a f (BitVec.ofNat 64 b) 0) := by
  simp only [execSend, ha, hm.guard, hf]
  rfl

theorem execSend_sends (hm : MaySend s l a)
    (hf : accessFate s (coreIdOf a.cord) a.cord.ctx (needOf a.op.kind) a.op.va a.op.size = none) (htlb : tlbReady s a.cord a.op = true)
    (hl1 : a.op.kind = .load ∨ a.op.kind = .refill → hitsL1 s a.cord a.op.va a.op.size = false)
    (hplane : (opKeys s a.cord a.op).any (planeRetiring s a.cord.dev) = false) :
    execSend k l u s = .next ((opPieces a.op).foldl (sendPiece k l a (wholeWords (opKeys s a.cord a.op)))
      (modOp s k l u (fun o => { o with state := .sent, left := (opPieces o).length }))) := by
  have hhit : ((a.op.kind == .load || a.op.kind == .refill) && hitsL1 s a.cord a.op.va a.op.size) = false := by
    simpa using hl1
  simp only [execSend, ha, hm.guard, hf, htlb, hhit, hplane]
  rfl

/-! ### FILL -/

/-- The guard of FILL: a performed ordinary load that may make its words valid. -/
structure MayFill (a : Acc) : Prop where
  performed : a.op.state = .performed
  kind : a.op.kind = .load ∨ a.op.kind = .refill
  fresh : a.op.filled = false
  allocates : a.op.na = false
  alive : behindFailure a = false

omit ha in
theorem MayFill.guard (h : MayFill a) :
    (a.op.state == .performed && (a.op.kind == .load || a.op.kind == .refill) && !a.op.filled && !a.op.na && !behindFailure a) = true := by
  simp [h.performed, h.kind, h.fresh, h.allocates, h.alive]

theorem execFill_fills (hm : MayFill a) :
    execFill k l u s = .next ((readPassed k l ((unreadBefore s a).map (·.uid))
      (l1Take (modOp s k l u (fun o => { o with filled := true })) a.cord (hintEarly a.op.hint) a.op.line)).getD s) := by
  simp only [execFill, ha, hm.guard]
  rfl

theorem execFill_fills_own (hm : MayFill a) (hu : unreadBefore s a = []) :
    execFill k l u s = .next (l1Take (modOp s k l u (fun o => { o with filled := true })) a.cord (hintEarly a.op.hint) a.op.line) := by
  rw [execFill_fills ha hm, hu]
  rfl

omit ha in
/-- With room in the L1, no word leaves it for a new one. -/
theorem l1Take_one (c : Cord) (early : Bool) (w : Nat × BitVec 32) (hroom : (coreOfCord s c).l1.length < 32768) :
    l1Take s c early [w] = modCoreOf s c (fun co => { co with
      l1 := mset co.l1 w.1 w.2, early := co.early.filter (· != w.1) ++ (if early then [w.1] else []) }) := by
  have hnone (y : Nat) : (y != w.1 && some y != none) = (y != w.1) := by simp
  simp only [l1Take, List.foldl_cons, List.foldl_nil, Nat.not_le.mpr hroom, decide_false, Bool.and_false, Bool.false_eq_true, if_false, hnone]
  rfl

/-! ### RELEASE -/

/-- The guard of RELEASE. -/
structure MayRelease (s : State) (l : Nat) (a : Acc) : Prop where
  unsent : a.op.state = .unsent
  kind : kindReleases a.op.kind = true
  own : a.op.kind ≠ .relStore
  fresh : a.op.rel = false
  free : heldBack s l a = false

omit ha in
theorem MayRelease.guard (h : MayRelease s l a) :
    (a.op.state == .unsent && kindReleases a.op.kind && a.op.kind != .relStore && !a.op.rel && !heldBack s l a) = true := by
  simp [h.unsent, h.kind, h.own, h.fresh, h.free]

theorem execRelease_steps (hm : MayRelease s l a) (hk : a.op.kind ≠ .tkrel) :
    execRelease k l u s = .next (modOp (releaseStep s (partyOf a.cord l)) k l u (fun o => { o with rel := true })) := by
  have htkrel : (a.op.kind == .tkrel) = false := by simpa using hk
  simp only [execRelease, ha, hm.guard, htkrel]
  rfl

/-- A tkrel also gives up its region, where its address has a translation. -/
theorem execRelease_tkrel (hm : MayRelease s l a) (hk : a.op.kind = .tkrel) {e : TlbEntry}
    (he : transOf (walkFor (releaseStep s (partyOf a.cord l)) (coreIdOf a.cord) a.cord.ctx a.op.va.toNat) (coreIdOf a.cord) a.cord.ctx
      a.op.va.toNat = some e) :
    execRelease k l u s = .next (modOp (giveUp (walkFor (releaseStep s (partyOf a.cord l)) (coreIdOf a.cord) a.cord.ctx a.op.va.toNat)
      (partyOf a.cord l) (regionOf (entryKey e a.op.va.toNat))) k l u (fun o => { o with rel := true })) := by
  simp [execRelease, ha, hm.unsent, hm.fresh, hm.free, hk, he, kindReleases]

/-! ### ACQUIRE -/

theorem execAcquire_steps (hm : mayAcquire a = true) :
    execAcquire k l u s = .next (modOp (acquireStep s (coreIdOf a.cord) a.op.scope) k l u (fun o => { o with acq := true })) := by
  simp [execAcquire, ha, hm]

/-! ### DROP -/

theorem execDrop_all (hs : a.op.state = .unsent) (hfree : heldBack s l a = false) (hk : a.op.kind = .invl1All) :
    execDrop k l u s = .next (dropL1 (modOp s k l u (fun o => { o with state := .settled })) (coreIdOf a.cord)) := by
  simp [execDrop, ha, hs, hfree, hk]

theorem execDrop_region (hs : a.op.state = .unsent) (hfree : heldBack s l a = false) (hk : a.op.kind = .invl1) {e : TlbEntry}
    (he : transOf (walkFor (modOp s k l u (fun o => { o with state := .settled })) (coreIdOf a.cord) a.cord.ctx a.op.va.toNat) (coreIdOf a.cord)
      a.cord.ctx a.op.va.toNat = some e) :
    execDrop k l u s = .next (dropRegion (walkFor (modOp s k l u (fun o => { o with state := .settled })) (coreIdOf a.cord) a.cord.ctx
      a.op.va.toNat) (coreIdOf a.cord) (regionOf (entryKey e a.op.va.toNat))) := by
  simp [execDrop, ha, hs, hfree, hk, he]

/-! ### SETTLE -/

theorem execSettle_waits (hm : maySettle a = false) : execSettle k l u s = .next s := by
  simp [execSettle, ha, hm]

/-- A load that was sent before an older one of a common byte is unsent again. -/
theorem execSettle_sends_again (hm : maySettle a = true) (hsent : loadSent a.op = true) (hu : unreadBefore s a ≠ []) :
    execSettle k l u s = .next (sendAgain k l a s) := by
  simp [execSettle, ha, hm, hsent, hu]

theorem execSettle_settles (hm : maySettle a = true) (hu : loadSent a.op = true → unreadBefore s a = []) :
    execSettle k l u s = .next (mshrLeave (settleEffect k l a (modOp s k l u (fun o => { o with state := .settled }))) a.cord u) := by
  have hagain : (loadSent a.op && !(unreadBefore s a).isEmpty) = false := by
    simpa using hu
  simp [execSettle, ha, hm, hagain]

/-- A refill sends its strand to the loaded address, one entry of the return stack popped, its wait over (R68, R148). -/
theorem settled_refill (hk : a.op.kind = .refill) :
    ∃ st, strandOf (mshrLeave (settleEffect k l a (modOp s k l u (fun o => { o with state := .settled }))) a.cord u) k l = some st ∧
      st.wait = .none ∧ st.csp = a.st.csp + 8 ∧ st.pc = wordAlign (BitVec.ofNat 64 (leNat (gotBytes a.op))) := by
  obtain ⟨hst, -⟩ := accOf_finds ha
  simp only [settleEffect, hk]
  exact ⟨_, strandOf_modStrand_of _ (strandOf_modStrand_of _ hst), rfl, rfl, rfl⟩

/-- A load sent again keeps its place in the strand, with nothing of what it was performed with. -/
theorem sendAgain_unsent :
    ∃ st, strandOf (sendAgain k l a s) k l = some st ∧
      opOf st u = some { a.op with state := .unsent, left := 0, got := [], line := [], home := [] } := by
  obtain ⟨hst, hop⟩ := accOf_finds ha
  refine ⟨_, strandOf_modStrand_of _ hst, ?_⟩
  rw [accOf_uid ha]
  exact (opOf_map_ops a.st u (fun o => { o with state := .unsent, left := 0, got := [], line := [], home := [] }) (fun _ => rfl)).trans
    (congrArg (Option.map _) hop)

end

/-- What a fence waits for: its steps, and for nothing else. -/
theorem maySettle_fence {a : Acc} (hs : a.op.state = .unsent)
    (hk : a.op.kind = .fenceAcq ∨ a.op.kind = .fenceRel ∨ a.op.kind = .fence ∨ a.op.kind = .tkrel) :
    maySettle a = true ↔ (a.op.kind = .fenceAcq ∨ a.op.rel = true) ∧ (a.op.kind = .fenceRel ∨ a.op.kind = .tkrel ∨ a.op.acq = true) := by
  rcases hk with hk | hk | hk | hk <;> simp [maySettle, hk, hs]

/-! ### The statement -/

/-- Settles O39: each clause is one outcome of its transition. -/
theorem accessTransitions : Obligations.AccessTransitions := by
  unfold Obligations.AccessTransitions
  intro s k l u a ha
  dsimp only
  have huid := accOf_uid ha
  refine ⟨?_, ?_, ?_, ?_, ?_, ?_, ?_, ?_, ?_, ?_, ?_, ?_, ?_, ?_⟩
  · intro _ _ hheld
    exact ⟨execL1Read_waits ha (by simp [mayL1Read, hheld]), execSend_waits ha (.inl hheld)⟩
  · intro hs hk hfree halone hdrop hmates hfate htlb bs hbs
    have hm : mayL1Read s l a = true := by
      simp only [mayL1Read, hs, hfree, halone, hdrop, hfate, htlb]
      simpa [hk] using hmates
    have htakes := execL1Read_takes ha hm hbs
    rw [takeL1, huid] at htakes
    exact htakes
  · intro _ _ hdrop
    refine execL1Read_waits ha ?_
    rcases hdrop with hdrop | ⟨b, hb, hbd, hbf⟩
    · simp [mayL1Read, hdrop]
    · have hmate : (matesOf s l a).any (fun b => dropBefore b && !behindFailure b) = true :=
        List.any_eq_true.mpr ⟨b, hb, by simp [hbd, hbf]⟩
      simp [mayL1Read, hmate]
  · exact fun _ hw => execSend_waits ha (.inr hw)
  · intro hs hk hfree halone hatom hturn hrel
    have hm : MaySend s l a := ⟨hs, hk, hfree, halone, hatom, hturn, hrel⟩
    exact ⟨fun hfate htlb hl1 hplane => execSend_sends ha hm hfate htlb hl1 hplane, fun f b hfate => execSend_fails ha hm hfate⟩
  · exact fun hs hk hfresh hna halive _ => execFill_fills ha ⟨hs, hk, hfresh, hna, halive⟩
  · intro hs hk hfresh hna halive hu
    have hfill := execFill_fills_own ha ⟨hs, hk, hfresh, hna, halive⟩ hu
    refine ⟨hfill, fun w hw hroom => ?_⟩
    rw [hw] at hfill
    exact hfill.trans (congrArg _ (l1Take_one a.cord _ w hroom))
  · intro hs hk hown hfresh hfree
    exact ⟨fun hkind => execRelease_steps ha ⟨hs, hk, hown, hfresh, hfree⟩ hkind,
      fun hkind e he => execRelease_tkrel ha ⟨hs, hk, hown, hfresh, hfree⟩ hkind he⟩
  · exact fun hm => execAcquire_steps ha hm
  · exact fun hs hfree => ⟨execDrop_all ha hs hfree, fun hk e he => execDrop_region ha hs hfree hk he⟩
  · intro hs hk
    have hm : maySettle a = true := by
      rcases hk with hk | hk | hk <;> simp [maySettle, hk, hs]
    have hsent : loadSent a.op = false := by
      rcases hk with hk | hk | hk <;> simp [loadSent, kindLoads, hk]
    have hset := execSettle_settles ha hm (fun h => absurd h (by simp [hsent]))
    rcases hk with hk | hk | hk <;>
      (simp only [settleEffect, hk] at hset; exact hset)
  · intro hs hu
    refine ⟨fun hk => ?_, fun hk harr => ?_⟩
    · have hm : maySettle a = true := by
        rcases hk with ⟨hk | hk, harr⟩ | ⟨hk, hacq, harr⟩ | ⟨hk, hacq⟩ <;> simp [maySettle, *]
      have hset := execSettle_settles ha hm hu
      rcases hk with ⟨hk | hk, -⟩ | ⟨hk, -⟩ | ⟨hk, -⟩ <;>
      (simp only [settleEffect, hk] at hset; exact hset)
    · have hset := execSettle_settles ha (by simp [maySettle, hk, hs, harr]) hu
      obtain ⟨st, hst, hwait, hcsp, hpc⟩ := settled_refill (u := u) (s := s) ha hk
      refine ⟨?_, _, st, hset, hst, hwait, hcsp, hpc⟩
      (simp only [settleEffect, hk] at hset; exact hset)
  · intro hs hsent hu hk harr
    have hm : maySettle a = true := by
      rcases hk with (hk | hk) | hk <;> simp [maySettle, hk, hs, harr]
    obtain ⟨st, hst, hop⟩ := sendAgain_unsent (s := s) ha
    exact ⟨_, st, _, execSettle_sends_again ha hm hsent hu, rfl, hst, hop, rfl⟩
  · intro hs hk
    have hiff := maySettle_fence hs hk
    refine ⟨fun htaken => ?_, fun hnot => execSettle_waits ha (Bool.eq_false_iff.mpr (hnot ∘ hiff.mp))⟩
    have hsent : loadSent a.op = false := by simp [loadSent, hs]
    have hset := execSettle_settles ha (hiff.mpr htaken) (fun h => absurd h (by simp [hsent]))
    rcases hk with hk | hk | hk | hk <;>
      (simp only [settleEffect, hk] at hset; exact hset)

end Sys2Proof.Laws

/-!
O41, instruction fills, table walks, shootdowns, migrations and evictions (R66, R67, R241 to R245, R263, R383). A read changes modules in
place, so a core that is there before a fill is there after it; then one rule for each outcome of an event, then the statement.
-/
namespace Sys2Proof.Laws
open Sys2Proof.Machine

/-! ### Modules stay where they are -/

/-- The same modules exist in both states. -/
structure SameModules (s t : State) : Prop where
  isSome : ∀ dev, (mget t.modules dev).isSome = (mget s.modules dev).isSome

theorem SameModules.of_eq {s t : State} (h : t.modules = s.modules) : SameModules s t := ⟨fun _ => by rw [h]⟩

theorem SameModules.refl (s : State) : SameModules s s := .of_eq rfl

theorem SameModules.trans {s t u : State} (h : SameModules s t) (k : SameModules t u) : SameModules s u :=
  ⟨fun dev => (k.isSome dev).trans (h.isSome dev)⟩

theorem SameModules.foldl {α : Type} {f : State → α → State} (hf : ∀ s a, SameModules s (f s a)) (s : State) (xs : List α) :
    SameModules s (xs.foldl f s) := by
  induction xs generalizing s with
  | nil => exact .refl s
  | cons x xs ih => exact (hf s x).trans (ih (f s x))

theorem modDie_modules_same (s : State) (dev die : Nat) (f : Die → Die) : SameModules s (modDie s dev die f) := by
  refine ⟨fun d => ?_⟩
  by_cases hd : dev = d
  · subst hd
    simp [modDie]
  · simp [modDie, mget_mmod_other s.modules _ hd]

theorem modCore_modules_same (s : State) (dev die core : Nat) (f : Core → Core) : SameModules s (modCore s dev die core f) :=
  modDie_modules_same ..

theorem SameModules.modDie {s t : State} (h : SameModules s t) (dev die : Nat) (f : Die → Die) : SameModules s (modDie t dev die f) :=
  h.trans (modDie_modules_same ..)

theorem SameModules.modCore {s t : State} (h : SameModules s t) (dev die core : Nat) (f : Core → Core) :
    SameModules s (modCore t dev die core f) :=
  h.trans (modCore_modules_same ..)

theorem checkWords_modules_same (s : State) (ws : List Nat) : SameModules s (checkWords s ws) := by
  refine .foldl (fun s w => ?_) s ws
  dsimp only
  split
  · exact .of_eq rfl
  · split
    · exact .modDie (.of_eq (by rfl)) ..
    · exact .of_eq rfl

theorem portEnqueue_modules_same (s : State) (read : Bool) (bs : List (Nat × BitVec 8)) : SameModules s (portEnqueue s read bs) := by
  unfold portEnqueue
  split
  · exact .refl s
  · split
    · exact .refl s
    · exact modDie_modules_same ..

theorem llcDrop_modules_same (s : State) (dev die r : Nat) : SameModules s (llcDrop s dev die r) := by
  unfold llcDrop
  split
  · exact (portEnqueue_modules_same ..).trans (modDie_modules_same ..)
  · exact .of_eq rfl

theorem llcFit_modules_same (n : Nat) (s : State) (dev die : Nat) : SameModules s (llcFit n s dev die) := by
  induction n generalizing s with
  | zero => exact .refl s
  | succ n ih =>
    unfold llcFit
    split
    · exact .refl s
    · split
      · exact (llcDrop_modules_same ..).trans (ih _)
      · exact .refl s

theorem llcPut_modules_same (s : State) (hint : BitVec 32) (as dirty : List Nat) : SameModules s (llcPut s hint as dirty) := by
  refine .foldl (fun s r => ?_) s _
  split
  · exact .refl s
  · exact (modDie_modules_same ..).trans (llcFit_modules_same ..)

theorem homeRead_modules_same (s : State) (hint : BitVec 32) (as : List Nat) : SameModules s (homeRead s hint as) :=
  ((checkWords_modules_same ..).trans (.foldl (fun s _ => portEnqueue_modules_same s ..) _ _)).trans (llcPut_modules_same ..)

theorem directoryRead_modules_same (s : State) (c : CoreId) (hint : BitVec 32) (as : List Nat) :
    SameModules s (directoryRead s c hint as) := by
  simp only [directoryRead]
  split
  · exact .refl s
  · refine SameModules.trans ?_ (llcFit_modules_same ..)
    refine SameModules.foldl (fun t r => ?_) s _
    exact .of_eq rfl

theorem readTouch_modules_same (s : State) (c : CoreId) (hint : BitVec 32) (as : List Nat) : SameModules s (readTouch s c hint as) := by
  unfold readTouch
  split
  · exact directoryRead_modules_same ..
  · exact (homeRead_modules_same ..).trans (directoryRead_modules_same ..)

theorem walkTouch_modules_same (s : State) (c : CoreId) (ctx va : Nat) : SameModules s (walkTouch s c ctx va) := by
  unfold walkTouch
  split
  · exact .refl s
  · exact .foldl (fun s _ => readTouch_modules_same s ..) s _

theorem tlbForget_modules_same (s : State) (c : CoreId) (ctx : Nat) (vas : List Nat) : SameModules s (tlbForget s c ctx vas) :=
  modCore_modules_same ..

theorem freshTrans_modules_same (s : State) (c : CoreId) (ctx va : Nat) : SameModules s (freshTrans s c ctx va) := by
  unfold freshTrans
  extract_lets t
  have ht : SameModules s t := by
    unfold t
    split
    · split
      · exact .refl s
      · exact tlbForget_modules_same ..
    · exact .refl s
  clear_value t
  split
  · exact ht
  · split
    · exact (ht.trans (walkTouch_modules_same ..)).trans (modCore_modules_same ..)
    · exact ht.trans (walkTouch_modules_same ..)

theorem coreOf_modCore_same {s : State} {dev die core : Nat} (f : Core → Core) (hm : (mget s.modules dev).isSome = true) (hd : die < 4) :
    coreOf (modCore s dev die core f) dev die core = f (coreOf s dev die core) := by
  obtain ⟨m, hm⟩ := Option.isSome_iff_exists.mp hm
  simp [coreOf, dieOf, modCore, modDie, hm, hd]

/-! ### Spans of instructions -/

/-- The span filled last is the one its addresses find. -/
theorem cachedWord_fillSpan {s : State} {c : CoreId} (ctx : Nat) {base : Nat} (bs : List (BitVec 8))
    (hm : (mget s.modules c.dev).isSome = true) (hd : c.die < 4) (hb : base % 64 = 0) (hlt : base < 2 ^ 64) {i : Nat} (hi : i < 16) :
    cachedWord (coreOf (fillSpan s c ctx base bs) c.dev c.die c.core) ctx (BitVec.ofNat 64 (base + 4 * i)) =
      some (BitVec.ofNat 32 (leNat ((bs.drop (4 * i)).take 4))) := by
  have hpc : (BitVec.ofNat 64 (base + 4 * i)).toNat = base + 4 * i := by
    rw [BitVec.toNat_ofNat]
    omega
  have hspan : (base + 4 * i) / 64 * 64 = base := by omega
  have hword : (base + 4 * i) % 64 / 4 = i := by omega
  rw [fillSpan, coreOf_modCore_same _ hm hd]
  have hold : ∀ n, (((coreOf s c.dev c.die c.core).icache.filter (fun x => !(x.ctx == ctx && x.base == base))).drop n).find?
      (fun x => x.ctx == ctx && x.base == base) = none := by
    intro n
    rw [List.find?_eq_none]
    intro x hx
    simpa [imp_iff_not_or] using (List.mem_filter.mp (List.mem_of_mem_drop hx)).2
  simp only [cachedWord, hpc, hspan, hword, List.find?_append, hold]
  simp [hi]

/-- The bytes of a word of a span lie four to a word from the home byte of its first. -/
theorem readMem_of_spanKeys {s : State} {c : CoreId} {ctx base : Nat} {e : TlbEntry} (m : List Host.Cell)
    (he : liveTrans s c ctx base = some e) {i : Nat} (hi : i < 16) :
    (((spanKeys s c ctx base).map (readCell m)).drop (4 * i)).take 4 = readMem m (entryKey e base + 4 * i) 4 := by
  simp only [spanKeys, he, readMem]
  apply List.ext_getElem
  · simp
    omega
  · intro j _ _
    simp [Nat.add_assoc]

/-- What INSTRUCTION_FILL serves: a span that is needed or asked for, whose frame stands and whose bank group is not in its window. -/
structure MayFetch (s : State) (c : CoreId) (ctx base : Nat) : Prop where
  wanted : spanNeeds s c ctx base ≠ [] ∨ spanAsked s c ctx base = true
  stands : frameMoving s c ctx base = false
  cool : refreshing s (spanKeys s c ctx base) = false

theorem MayFetch.guard {s : State} {c : CoreId} {ctx base : Nat} (h : MayFetch s c ctx base) :
    (((spanNeeds s c ctx base).isEmpty && !spanAsked s c ctx base) || frameMoving s c ctx base || refreshing s (spanKeys s c ctx base)) =
      false := by
  obtain ⟨hneeds | hasked, hstands, hcool⟩ := h
  · simp [hneeds, hstands, hcool]
  · simp [hasked, hstands, hcool]

section
variable {s fresh : State} {c : CoreId} {ctx base : Nat} {va : BitVec 64} {e : TlbEntry}

theorem execInstructionFill_waits (hb : base = va.toNat / 64 * 64) (h : (frameMoving s c ctx base = true ∨
      refreshing s (spanKeys s c ctx base) = true) ∨ ¬ (spanNeeds s c ctx base ≠ [] ∨ spanAsked s c ctx base = true)) :
    execInstructionFill c va ctx s = .next s := by
  subst hb
  rcases h with (h | h) | h
  · simp [execInstructionFill, h]
  · simp [execInstructionFill, h]
  · obtain ⟨hneeds, hasked⟩ := not_or.mp h
    simp [execInstructionFill, not_not.mp hneeds, hasked]

variable (hb : base = va.toNat / 64 * 64) (hfresh : fresh = freshTrans s c ctx base)
include hb hfresh

theorem execInstructionFill_fails (h : MayFetch s c ctx base) {f : Nat} (hf : fetchFate fresh c ctx base = some f) :
    execInstructionFill c va ctx s = .next (fetchFails fresh c ctx base f 0) := by
  subst hb hfresh
  simp only [execInstructionFill, h.guard, hf]
  rfl

theorem execInstructionFill_asks (h : MayFetch s c ctx base) (hf : fetchFate fresh c ctx base = none)
    (he : liveTrans fresh c ctx base = some e) (hfar : (spanKeys fresh c ctx base).all (nearByte fresh c e.gen) = false) :
    execInstructionFill c va ctx s = .next (askSpan fresh c ctx base false) := by
  subst hb hfresh
  simp only [execInstructionFill, h.guard, hf, he, hfar]
  rfl

theorem execInstructionFill_fills (h : MayFetch s c ctx base) (hf : fetchFate fresh c ctx base = none)
    (he : liveTrans fresh c ctx base = some e) (hnear : (spanKeys fresh c ctx base).all (nearByte fresh c e.gen) = true) :
    execInstructionFill c va ctx s = .next (fillSpan (readTouch (askDone fresh c ctx base) c 0 (spanKeys fresh c ctx base)) c ctx base
      ((spanKeys fresh c ctx base).map (readCell s.mem))) := by
  have hmem : fresh.mem = s.mem := hfresh ▸ (freshTrans_same s c ctx base).mem
  subst hb hfresh
  simp only [execInstructionFill, h.guard, hf, he, hnear, hmem]
  rfl

omit hb in
/-- A filled span changes the core's cache alone, and its words are those at the home of its first byte. -/
theorem filled_span (hb : base % 64 = 0) (hlt : base < 2 ^ 64) (hm : (mget s.modules c.dev).isSome = true) (hd : c.die < 4)
    (he : liveTrans fresh c ctx base = some e) :
    let t := fillSpan (readTouch (askDone fresh c ctx base) c 0 (spanKeys fresh c ctx base)) c ctx base
      ((spanKeys fresh c ctx base).map (readCell s.mem))
    t.mem = s.mem ∧ t.cords = s.cords ∧ ∀ i < 16, cachedWord (coreOf t c.dev c.die c.core) ctx (BitVec.ofNat 64 (base + 4 * i)) =
      some (BitVec.ofNat 32 (leNat (readMem s.mem (entryKey e base + 4 * i) 4))) := by
  have hsame : SameData s (readTouch (askDone fresh c ctx base) c 0 (spanKeys fresh c ctx base)) :=
    hfresh ▸ ((freshTrans_same ..).trans (modCore_same ..)).trans (readTouch_same ..)
  have hmods : SameModules s (readTouch (askDone fresh c ctx base) c 0 (spanKeys fresh c ctx base)) :=
    hfresh ▸ ((freshTrans_modules_same ..).trans (modCore_modules_same ..)).trans (readTouch_modules_same ..)
  refine ⟨hsame.mem, hsame.cords, fun i hi => ?_⟩
  rw [cachedWord_fillSpan ctx _ ((hmods.isSome c.dev).trans hm) hd hb hlt hi, readMem_of_spanKeys s.mem he hi]

end

/-! ### Spans of data -/

section
variable {s fresh : State} {c : CoreId} {ctx base : Nat} {e : TlbEntry}

theorem serveData_waits (h : frameMoving s c ctx base = true ∨ refreshing s (spanKeys s c ctx base) = true) :
    serveData c ctx base s = .next s := by
  rcases h with h | h <;> simp [serveData, h]

variable (hfree : ¬ (frameMoving s c ctx base = true ∨ refreshing s (spanKeys s c ctx base) = true)) (hfresh : fresh = freshTrans s c ctx base)
include hfree hfresh

theorem serveData_drops (h : ∀ e, liveTrans fresh c ctx base = some e → e.r = false) :
    serveData c ctx base s = .next (dataDone fresh c ctx base) := by
  subst hfresh
  simp only [serveData, Bool.or_eq_true, hfree, if_false]
  cases he : liveTrans (freshTrans s c ctx base) c ctx base with
  | none => rfl
  | some e => simp [h e he]

theorem serveData_asks (he : liveTrans fresh c ctx base = some e) (hr : e.r = true)
    (hfar : (spanKeys fresh c ctx base).all (nearByte fresh c e.gen) = false) :
    serveData c ctx base s = .next (askSpan fresh c ctx base true) := by
  subst hfresh
  simp [serveData, hfree, he, hr, hfar]

theorem serveData_takes (he : liveTrans fresh c ctx base = some e) (hr : e.r = true)
    (hnear : (spanKeys fresh c ctx base).all (nearByte fresh c e.gen) = true) :
    serveData c ctx base s = .next (readTouch (dataDone fresh c ctx base) c 0 (spanKeys fresh c ctx base)) := by
  subst hfresh
  simp [serveData, hfree, he, hr, hnear]

end

/-! ### Table walks and shootdowns -/

theorem walkFor_fills {s : State} {c : CoreId} {ctx va : Nat} (hmiss : tlbFind (coreOf s c.dev c.die c.core) ctx va = none) {e : TlbEntry}
    (he : walk s ctx c.dev va = some e) :
    walkFor s c ctx va = modCore (walkTouch s c ctx va) c.dev c.die c.core (tlbFill e) := by
  simp [walkFor, hmiss, he]

theorem walkFor_finds_none {s : State} {c : CoreId} {ctx va : Nat} (hmiss : tlbFind (coreOf s c.dev c.die c.core) ctx va = none)
    (he : walk s ctx c.dev va = none) : walkFor s c ctx va = walkTouch s c ctx va := by
  simp [walkFor, hmiss, he]

/-- A shootdown leaves no translation of its context. -/
theorem shootdown_tlb (s : State) (ctx : Nat) :
    ∀ x ∈ (shootdown s ctx).modules, ∀ d ∈ x.2.dies.toList, ∀ q ∈ d.cores, ∀ e ∈ q.2.tlb, e.ctx ≠ ctx := by
  intro x hx d hd q hq e he
  obtain ⟨m, -, rfl⟩ := List.mem_map.mp hx
  obtain ⟨d, -, rfl⟩ : ∃ d₀ ∈ m.2.dies.toList, _ = d := by simpa using hd
  obtain ⟨q, -, rfl⟩ := List.mem_map.mp hq
  simpa using (List.mem_filter.mp he).2

/-! ### Migrations -/

/-- With no request sent, there is nothing to drain. -/
theorem moveHold_of_no_arrivals {s : State} (m : Migration) (h : s.arrivals = []) :
    moveHold m s = { modFrames s [m.old] (fun f => { f with state := .moving }) with
      moves := s.moves.map (fun x => if x == m then { x with step := 1 } else x) } := by
  have hnone : toDrain s true [m.old] = [] := by simp [toDrain, h]
  have hdrain : drainFrames s [m.old] = s := by simp [drainFrames, drain, hnone]
  simp [moveHold, hdrain, undrained, hnone]

/-- A frame whose new generation is no multiple of 128 asks for no shootdown. -/
theorem advanced_of_gen {s : State} (ctx k : Nat) (h : ((mget s.frames k).getD ⟨0, .free, false⟩).gen.toNat % 128 ≠ 0) :
    advanced s ctx [k] = s := by
  simp only [advanced, List.any_cons, List.any_nil, Bool.or_false, beq_iff_eq, h, if_false]

section
variable {s : State} {m : Migration}

theorem execMigration_begins (hm : s.moves = []) {at_ old : Nat} {e : BitVec 64}
    (hleaf : leafOf s m.ctx (moveDev m.new_) m.va.toNat = some (at_, e, false))
    (hold : old = byteKey (bitsOf e 46 10) (bitsOf e 22 24 * 2 ^ 16) / 2 ^ 16)
    (hmay : mayMove s m.ctx (moveDev m.new_) m.va.toNat old m.new_ e false = true) :
    execMigration m.ctx m.va m.new_ s =
      .next (moveHold ⟨m.ctx, m.va, old, m.new_, 0⟩ { s with moves := [⟨m.ctx, m.va, old, m.new_, 0⟩] }) := by
  subst hold
  simp only [execMigration, hm, List.find?_nil, hleaf, hmay, if_true]
  rfl

variable (hfind : s.moves.find? (fun x => x.ctx == m.ctx && x.va == m.va && x.step < 4) = some m)
include hfind

theorem execMigration_holds (hstep : m.step = 0) : execMigration m.ctx m.va m.new_ s = .next (moveHold m s) := by
  simp [execMigration, hfind, hstep]

theorem execMigration_copies (hstep : m.step = 1) : execMigration m.ctx m.va m.new_ s =
    .next { modFrames (copyFrame s m.old m.new_) [m.new_] (fun _ => ⟨(frameOf s (m.old * 2 ^ 16)).gen + 1, .valid, true⟩) with
      moves := s.moves.map (fun x => if x == m then { x with step := x.step + 1 } else x) } := by
  simp only [execMigration, hfind, hstep]
  rfl

theorem execMigration_rewrites (hstep : m.step = 2) {at_ : Nat} {e : BitVec 64} {big : Bool}
    (hleaf : leafOf s m.ctx (moveDev m.new_) m.va.toNat = some (at_, e, big)) : execMigration m.ctx m.va m.new_ s =
    .next { setEntry s (moveDev m.new_) at_ ((e &&& 0x00FFC000003FFFFF#64) ||| BitVec.ofNat 64 (m.new_ % 2 ^ 24 * 2 ^ 22) |||
        (BitVec.ofNat 64 (((frameOf s (m.old * 2 ^ 16)).gen + 1).toNat) <<< 56)) with
      moves := s.moves.map (fun x => if x == m then { x with step := x.step + 1 } else x) } := by
  simp only [execMigration, hfind, hstep, hleaf]
  rfl

theorem execMigration_frees (hstep : m.step = 3) : execMigration m.ctx m.va m.new_ s =
    .next (advanced { modFrames s [m.old] (fun f => { f with gen := f.gen + 1, state := .moved }) with
      moves := s.moves.map (fun x => if x == m then { x with step := x.step + 1 } else x) } m.ctx [m.old]) := by
  simp only [execMigration, hfind, hstep]
  rfl

end

/-! ### The statement -/

/-- Settles O41: each clause is one outcome of its event. -/
theorem translationEvents : Obligations.TranslationEvents := by
  unfold Obligations.TranslationEvents
  intro s c ctx va m w
  dsimp only
  refine ⟨?_, ?_, ⟨?_, ?_, ?_⟩, ?_, ?_, ?_, ?_, rfl⟩
  · exact execInstructionFill_waits rfl
  · intro hfree hwanted
    obtain ⟨hstands, hcool⟩ := not_or.mp hfree
    have hmay : MayFetch s c ctx (va.toNat / 64 * 64) := ⟨hwanted, by simpa using hstands, by simpa using hcool⟩
    refine ⟨fun f hf => execInstructionFill_fails rfl rfl hmay hf, fun e hf he => ⟨fun hfar => ?_, fun hnear => ?_, fun hm hd hnear => ?_⟩⟩
    · exact execInstructionFill_asks rfl rfl hmay hf he (List.all_eq_false.mpr (by simpa using hfar))
    · exact execInstructionFill_fills rfl rfl hmay hf he (List.all_eq_true.mpr hnear)
    · exact ⟨_, execInstructionFill_fills rfl rfl hmay hf he (List.all_eq_true.mpr hnear),
        filled_span rfl (Nat.mul_mod_left ..) (by omega) hm hd he⟩
  · exact serveData_waits
  · exact fun hfree h => serveData_drops hfree rfl h
  · intro hfree e he hr
    exact ⟨fun hfar => serveData_asks hfree rfl he hr (List.all_eq_false.mpr (by simpa using hfar)),
      fun hnear => serveData_takes hfree rfl he hr (List.all_eq_true.mpr hnear)⟩
  · exact fun hmiss => ⟨fun e he => congrArg _ (walkFor_fills hmiss he), fun he => congrArg _ (walkFor_finds_none hmiss he)⟩
  · exact ⟨_, rfl, rfl, shootdown_tlb s ctx⟩
  · intro old at_ e hm hleaf hold hmay
    have hbegins := execMigration_begins hm hleaf hold hmay
    refine ⟨hbegins, fun harr => hbegins.trans (congrArg _ ?_)⟩
    rw [moveHold_of_no_arrivals (s := { s with moves := [⟨m.ctx, m.va, old, m.new_, 0⟩] }) _ harr]
    simp only [List.map_cons, List.map_nil, beq_self_eq_true, if_true]
    rfl
  · intro hfind
    refine ⟨execMigration_holds hfind, execMigration_copies hfind, fun hstep at_ e big hleaf => execMigration_rewrites hfind hstep hleaf,
      fun hstep => ⟨execMigration_frees hfind hstep, fun hgen => (execMigration_frees hfind hstep).trans (congrArg _ (advanced_of_gen _ _ ?_))⟩⟩
    simpa [modFrames, frameOf] using hgen

end Sys2Proof.Laws

/-!
O46, batts, their timers, bind records, launches and divide results (R57, R203 to R215). First the open batt of a node through a commit, then
a slot-table entry and a cord through a launch, then one rule for each outcome of an event, then the statement.
-/
namespace Sys2Proof.Laws
open Sys2Proof.Machine

/-! ### The open batt of a node -/

theorem openOf_finds {x : Context} {g n dev die : Nat} {b : OpenBatt} (h : openOf x g n dev die = some b) :
    b.graph = g ∧ b.node = n ∧ b.dev = dev ∧ b.die = die := by
  simpa [and_assoc] using List.find?_some h

/-- Without the other open batts, a node has none. -/
theorem find?_otherOpens (x : Context) (b : OpenBatt) :
    (otherOpens x b).find? (fun c => c.graph == b.graph && c.node == b.node && c.dev == b.dev && c.die == b.die) = none := by
  rw [List.find?_eq_none]
  intro c hc
  simpa [imp_iff_not_or, or_assoc] using (List.mem_filter.mp hc).2

theorem openOf_closeBatt (id now : Nat) (b : OpenBatt) (x : Context) : openOf (closeBatt id now b x) b.graph b.node b.dev b.die = none :=
  find?_otherOpens x b

/-- The batt that is put back among the others is the node's. -/
theorem openOf_put (x : Context) (b : OpenBatt) :
    openOf { x with opens := otherOpens x b ++ [b] } b.graph b.node b.dev b.die = some b := by
  simp only [openOf, List.find?_append, find?_otherOpens]
  simp

/-- The open batt of a slot's node with the slot's record, opened now where there was none. -/
def joinedBatt (x : Context) (now : Nat) (q : Slot) : OpenBatt :=
  let b := (openOf x q.graph q.node q.dev q.die).getD ⟨q.graph, q.node, q.dev, q.die, [], now, none⟩
  { b with slots := b.slots ++ [q.addr] }

/-- It is a batt of the slot's node. -/
theorem joinedBatt_node (x : Context) (now : Nat) (q : Slot) :
    (joinedBatt x now q).graph = q.graph ∧ (joinedBatt x now q).node = q.node ∧ (joinedBatt x now q).dev = q.dev ∧
      (joinedBatt x now q).die = q.die := by
  cases h : openOf x q.graph q.node q.dev q.die with
  | none => simp [joinedBatt, h]
  | some b => simpa [joinedBatt, h] using openOf_finds h

@[simp] theorem joinedBatt_slots (x : Context) (now : Nat) (q : Slot) :
    (joinedBatt x now q).slots = ((openOf x q.graph q.node q.dev q.die).map (·.slots)).getD [] ++ [q.addr] := by
  cases h : openOf x q.graph q.node q.dev q.die <;> simp [joinedBatt, h]

/-- The context of a committed slot. -/
def committed (x : Context) (q : Slot) : Context := setSlot x q.dev q.addr (fun q => { q with state := .committed })

theorem commitSlot_closes {x : Context} {q : Slot} {h : NodeHdr} (id now : Nat) (hn : nodeOf x q.graph q.node = some h)
    (hsize : h.batt ≤ (joinedBatt x now q).slots.length) :
    commitSlot id now q x = closeBatt id now (joinedBatt x now q) (committed x q) := by
  have hbatt : ∀ y, joinedBatt x now q = y → h.batt ≤ y.slots.length := fun y hy => hy ▸ hsize
  simp only [commitSlot, hn]
  exact if_pos (hbatt _ rfl)

/-- An open batt is READY from the threshold on. -/
def readied (h : NodeHdr) (now : Nat) (b : OpenBatt) : OpenBatt :=
  if h.thresh ≤ b.slots.length && b.ready.isNone then { b with ready := some now } else b

theorem readied_keeps (h : NodeHdr) (now : Nat) (b : OpenBatt) :
    (readied h now b).graph = b.graph ∧ (readied h now b).node = b.node ∧ (readied h now b).dev = b.dev ∧ (readied h now b).die = b.die ∧
      (readied h now b).slots = b.slots := by
  unfold readied
  split <;> exact ⟨rfl, rfl, rfl, rfl, rfl⟩

theorem readied_ready {h : NodeHdr} {b : OpenBatt} (now : Nat) (hthresh : h.thresh ≤ b.slots.length) : (readied h now b).ready.isSome = true := by
  cases hready : b.ready <;> simp [readied, hthresh, hready]

theorem commitSlot_stays {x : Context} {q : Slot} {h : NodeHdr} (id now : Nat) (hn : nodeOf x q.graph q.node = some h)
    (hsize : (joinedBatt x now q).slots.length < h.batt) :
    commitSlot id now q x = { committed x q with
      opens := otherOpens (committed x q) (readied h now (joinedBatt x now q)) ++ [readied h now (joinedBatt x now q)] } := by
  have hbatt : ∀ y, joinedBatt x now q = y → ¬ h.batt ≤ y.slots.length := fun y hy => Nat.not_le.mpr (hy ▸ hsize)
  simp only [commitSlot, hn]
  exact if_neg (hbatt _ rfl)

/-- A commit that fills the batt leaves it closed and its node without an open one (R207). -/
theorem commitSlot_full {x : Context} {q : Slot} {h : NodeHdr} (id now : Nat) (hn : nodeOf x q.graph q.node = some h)
    (hsize : h.batt ≤ (joinedBatt x now q).slots.length) :
    (commitSlot id now q x).batts = x.batts ++ [⟨id, q.graph, q.node, q.dev, q.die, (joinedBatt x now q).slots, now, false⟩] ∧
      openOf (commitSlot id now q x) q.graph q.node q.dev q.die = none := by
  obtain ⟨hgraph, hnode, hdev, hdie⟩ := joinedBatt_node x now q
  rw [commitSlot_closes id now hn hsize]
  have hopen := openOf_closeBatt id now (joinedBatt x now q) (committed x q)
  rw [hgraph, hnode, hdev, hdie] at hopen
  refine ⟨?_, hopen⟩
  rw [closeBatt, hgraph, hnode, hdev, hdie]
  rfl

/-- A commit that does not fill the batt leaves it open, READY from the threshold on (R207). -/
theorem commitSlot_open {x : Context} {q : Slot} {h : NodeHdr} (id now : Nat) (hn : nodeOf x q.graph q.node = some h)
    (hsize : (joinedBatt x now q).slots.length < h.batt) :
    (commitSlot id now q x).batts = x.batts ∧ ∃ o, openOf (commitSlot id now q x) q.graph q.node q.dev q.die = some o ∧
      o.slots = (joinedBatt x now q).slots ∧ (h.thresh ≤ (joinedBatt x now q).slots.length → o.ready.isSome = true) := by
  obtain ⟨hgraph, hnode, hdev, hdie⟩ := joinedBatt_node x now q
  obtain ⟨hgraph', hnode', hdev', hdie', hslots⟩ := readied_keeps h now (joinedBatt x now q)
  have hopen := openOf_put (committed x q) (readied h now (joinedBatt x now q))
  rw [hgraph', hgraph, hnode', hnode, hdev', hdev, hdie', hdie] at hopen
  rw [commitSlot_stays id now hn hsize]
  exact ⟨rfl, _, hopen, hslots, readied_ready now⟩

/-! ### A context that changes -/

theorem ctxOf_modCtx_same {s : State} {ctx : Nat} (f : Context → Context) (h : (mget s.contexts ctx).isSome = true) :
    ctxOf (modCtx s ctx f) ctx = f (ctxOf s ctx) := by
  obtain ⟨x, hx⟩ := Option.isSome_iff_exists.mp h
  simp [ctxOf, modCtx, hx]

/-- A context with an open batt exists. -/
theorem context_of_openOf {s : State} {ctx g n dev die : Nat} {b : OpenBatt} (h : openOf (ctxOf s ctx) g n dev die = some b) :
    (mget s.contexts ctx).isSome = true := by
  cases hx : mget s.contexts ctx with
  | none => simp [ctxOf, hx, openOf, blankCtx] at h
  | some x => rfl

theorem execBattTimerExpiry_closes {s : State} {ctx g n dev die : Nat} {b : OpenBatt} (hb : openOf (ctxOf s ctx) g n dev die = some b)
    (hdue : timerDue s b (ctxOf s ctx) = true) : execBattTimerExpiry ctx g n dev die s =
      .next (modCtx { s with uid := s.uid + 1 } ctx (closeBatt s.uid (cycOf s dev die) b)) := by
  simp only [execBattTimerExpiry, hb, hdue, if_true]
  rfl

/-! ### Entries of the slot table -/

/-- The slot-table entry of a core. -/
def entryAt (s : State) (c : CoreId) (entry : Nat) : Option SlotEntry := (coreOf s c.dev c.die c.core).slots[entry]?

/-- The core of an identifier is there. -/
structure OnCore (s : State) (c : CoreId) : Prop where
  module : (mget s.modules c.dev).isSome = true
  die : c.die < 4

theorem OnCore.of_same {s t : State} {c : CoreId} (h : OnCore s c) (hst : SameModules s t) : OnCore t c :=
  ⟨(hst.isSome c.dev).trans h.module, h.die⟩

theorem OnCore.coreOf_modCore {s : State} {c : CoreId} (h : OnCore s c) (f : Core → Core) :
    coreOf (modCore s c.dev c.die c.core f) c.dev c.die c.core = f (coreOf s c.dev c.die c.core) :=
  coreOf_modCore_same f h.module h.die

theorem entryAt_lt {s : State} {c : CoreId} {entry : Nat} {e : SlotEntry} (h : entryAt s c entry = some e) : entry < 32 :=
  (Vector.getElem?_eq_some_iff.mp h).1

/-- An entry that is not FREE is one of a core that is there. -/
theorem OnCore.of_entryAt {s : State} {c : CoreId} {entry : Nat} {e : SlotEntry} (h : entryAt s c entry = some e) (he : e ≠ .free) : OnCore s c := by
  have hlt := entryAt_lt h
  have hreset : coreOf s c.dev c.die c.core ≠ Core.reset := by
    intro hcore
    rw [entryAt, hcore] at h
    exact he (by simpa [Core.reset, hlt] using h.symm)
  cases hm : mget s.modules c.dev with
  | none => exact absurd (by simp [coreOf, dieOf, hm, Die.reset, mget]) hreset
  | some m =>
    refine ⟨by simp [hm], Nat.lt_of_not_le fun hd => absurd ?_ hreset⟩
    simp [coreOf, dieOf, hm, hd, Die.reset, mget]

theorem entryAt_setSlotEntry {s : State} {c : CoreId} {entry : Nat} (h : OnCore s c) (hlt : entry < 32) (e : SlotEntry) :
    entryAt (setSlotEntry s c entry e) c entry = some e := by
  rw [entryAt, setSlotEntry, h.coreOf_modCore]
  simp [hlt]

/-- An acquire keeps the slot table of its core. -/
theorem entryAt_acquireStep {s : State} {c : CoreId} (h : OnCore s c) (scope entry : Nat) :
    entryAt (acquireStep s c scope) c entry = entryAt s c entry := by
  unfold acquireStep
  split
  · show (coreOf (dropL1 s c) c.dev c.die c.core).slots[entry]? = _
    rw [dropL1, h.coreOf_modCore]
    rfl
  · rfl

/-- A change of every entry of a map that leaves the keys. -/
theorem mget_map_entries {α : Type} (m : SMap α) (g : Nat × α → Nat × α) (k : Nat) (hg : ∀ p, (g p).1 = p.1) :
    mget (m.map g) k = (mget m k).map (fun v => (g (k, v)).2) := by
  induction m with
  | nil => rfl
  | cons p m ih =>
    obtain ⟨j, v⟩ := p
    by_cases hk : j = k
    · simp [mget, hg, hk]
    · simpa [mget, hg, hk] using ih

/-- An acquire changes of a cord nothing but operations of its strands. -/
theorem cord_acquireStep {s : State} {k : Nat} {d : Cord} (c : CoreId) (scope : Nat) (h : mget s.cords k = some d) :
    ∃ f : Op → Op, mget (acquireStep s c scope).cords k =
      some { d with strands := d.strands.map (fun q => (q.1, { q.2 with ops := q.2.ops.map f })) } := by
  have hsame : some d = some { d with strands := d.strands.map (fun q => (q.1, { q.2 with ops := q.2.ops.map id })) } := by simp
  unfold acquireStep
  split
  · dsimp only [forgetLines]
    rw [mget_map_entries, dropL1, modCore_cords, h, Option.map_some]
    dsimp only
    split
    · exact ⟨_, rfl⟩
    · exact ⟨id, hsame⟩
    · exact fun _ => rfl
  · exact ⟨id, h.trans hsame⟩

/-! ### Bind records -/

section
variable {s : State} {c : CoreId} {entry : Nat} {b : BindRec} {w : Work}

/-- The dispatch hardware accepts a record for a FREE entry alone. -/
theorem entryAt_of_bindReason (h : bindReason s c entry b = 0) : entryAt s c entry = some .free := by
  unfold bindReason at h
  split at h
  · cases h
  · split at h
    · cases h
    · split at h
      · cases h
      · rename_i hfree
        simpa [entryAt] using hfree

theorem execBindRecord_binds (h : bindReason s c entry b = 0) (hw : workOf s c b = some w) :
    execBindRecord c entry b s = .next (bindWork s c entry b w) := by
  simp only [execBindRecord, h, hw]

theorem execBindRecord_refuses (h : bindReason s c entry b ≠ 0) :
    execBindRecord c entry b s = .next (reportRefusal s c entry (bindReason s c entry b)) := by
  unfold execBindRecord
  split
  · exact absurd ‹_› h
  · rfl

theorem bindWork_mem (w : Work) : (bindWork s c entry b w).mem = s.mem := by
  unfold bindWork
  split
  · rfl
  · dsimp only
    split <;> rfl

theorem entryAt_bindWork_cord (h : OnCore s c) (hlt : entry < 32) {p : Nat × Cord} (hw : w.cord = some p) :
    entryAt (bindWork s c entry b w) c entry = some (.bound b none (some p.1)) := by
  simp only [bindWork, hw]
  exact entryAt_setSlotEntry (h.of_same (.of_eq rfl)) hlt _

/-- A batt is bound under its own number, one that is still open under a new one. -/
theorem entryAt_bindWork_batt (h : OnCore s c) (hlt : entry < 32) (hw : w.cord = none) {id : Nat} (hid : (w.batt.map (·.id)).getD s.uid = id) :
    entryAt (bindWork s c entry b w) c entry = some (.bound b (some id) none) := by
  subst hid
  simp only [bindWork, hw]
  refine entryAt_setSlotEntry (h.of_same (.of_eq ?_)) hlt _
  split <;> rfl

end

/-! ### Launches -/

/-- A core that takes up a cord runs it in the entry. -/
theorem acquireStep_runs {s : State} {c : CoreId} {entry k : Nat} {d : Cord} (h : OnCore s c) (hlt : entry < 32) (hd : mget s.cords k = some d) :
    entryAt (acquireStep (setSlotEntry s c entry (.running k)) c 3) c entry = some (.running k) ∧
      ∃ f : Op → Op, mget (acquireStep (setSlotEntry s c entry (.running k)) c 3).cords k =
        some { d with strands := d.strands.map (fun q => (q.1, { q.2 with ops := q.2.ops.map f })) } := by
  refine ⟨?_, cord_acquireStep (s := setSlotEntry s c entry (.running k)) c 3 hd⟩
  have hset : OnCore (setSlotEntry s c entry (.running k)) c := h.of_same (modCore_modules_same ..)
  rw [entryAt_acquireStep hset, entryAt_setSlotEntry h hlt]

section
variable {s : State} {c : CoreId} {entry : Nat} {b : BindRec}

theorem execLaunch_resumes {k : Nat} (h : entryAt s c entry = some (.bound b none (some k))) :
    execLaunch c entry s = .next (resumeCord s c entry b k) := by
  rw [entryAt] at h
  simp only [execLaunch, h]

theorem execLaunch_launches {id : Nat} {bt : Batt} (h : entryAt s c entry = some (.bound b (some id) none))
    (hbt : (ctxOf s b.ctx.toNat).batts.find? (·.id == id) = some bt) : execLaunch c entry s = .next (launchBatt s c entry b bt) := by
  rw [entryAt] at h
  simp only [execLaunch, h, hbt]

theorem resumeCord_launches {k : Nat} {p : Cord} (hp : mget s.cords k = some p) (hres : resident s p.ctx c.dev p.hdr.leases = true)
    (hseeds : seedsWait s p.ctx p.graph = false) (hlife : p.life ≠ .saved) : resumeCord s c entry b k = launchPhase s c entry b k p := by
  simp [resumeCord, hp, hres, hseeds, hlife]

theorem launchPhase_mem (k : Nat) (p : Cord) : (launchPhase s c entry b k p).mem = s.mem := rfl

/-- What a launch of the next phase puts on the core: the cord in the entry, under the bind record. -/
theorem launchPhase_takes (k : Nat) (p : Cord) :
    ∃ u d, launchPhase s c entry b k p = acquireStep (setSlotEntry u c entry (.running k)) c 3 ∧ SameModules s u ∧ mget u.cords k = some d ∧
      d.life = .running ∧ d.phase = p.phase ∧ d.core = c.core ∧ d.entry = entry ∧ d.bind = b ∧ d.lanes = p.lanes := by
  refine ⟨_, _, rfl, ?_, mget_mset_same s.cords k _, rfl, rfl, rfl, rfl, rfl, rfl⟩
  exact .modCore (.of_eq (by rfl)) ..

theorem launchPhase_runs (h : OnCore s c) (hlt : entry < 32) (k : Nat) (p : Cord) :
    entryAt (launchPhase s c entry b k p) c entry = some (.running k) ∧ ∃ d, mget (launchPhase s c entry b k p).cords k = some d ∧
      d.life = .running ∧ d.phase = p.phase ∧ d.core = c.core ∧ d.entry = entry ∧ d.bind = b ∧ d.lanes = p.lanes := by
  obtain ⟨u, d, hlaunch, hsame, hd, hfields⟩ := launchPhase_takes (s := s) (c := c) (entry := entry) (b := b) k p
  obtain ⟨hentry, f, hcord⟩ := acquireStep_runs (h.of_same hsame) hlt hd
  rw [hlaunch]
  exact ⟨hentry, _, hcord, hfields⟩

/-- The strands of a cord launched from a batt start at the entry of its node. -/
theorem battCord_strands (serial slice : Nat) (g : Graph) (h : NodeHdr) (t : Batt) (old : Option Cord) :
    ∀ p ∈ (battCord s c entry serial slice b g h t old).strands, p.2.pc = wordAlign h.entry ∧ p.2.mode = .running := by
  intro p hp
  obtain ⟨q, -, rfl⟩ := List.mem_map.mp hp
  exact ⟨rfl, rfl⟩

section
variable {bt : Batt} {g : Graph} {h : NodeHdr} (hg : graphOf (ctxOf s b.ctx.toNat) bt.graph = some g)
  (hh : battNode s b.ctx.toNat bt = some h) (hnew : flushedFrom s b.ctx.toNat bt = none)
  (hres : resident s b.ctx.toNat c.dev h.leases = true)
  (hslice : freeSlice s b.ctx.toNat bt.graph c.dev c.die < (allocOn g c.die).slices)
  (hseeds : seedsWait s b.ctx.toNat bt.graph = false) (hserial : serialBusy s c.dev c.die (dieOf s c.dev c.die).serial = false)
include hg hh hnew hres hslice hseeds hserial

/-- What a launch from a batt puts on the core: a cord of its records, under the die's next serial. -/
theorem launchBatt_takes :
    ∃ u d, launchBatt s c entry b bt =
        acquireStep (setSlotEntry u c entry (.running (cordKey c.dev c.die (dieOf s c.dev c.die).serial))) c 3 ∧
      SameModules s u ∧ mget u.cords (cordKey c.dev c.die (dieOf s c.dev c.die).serial) = some d ∧
      d.life = .running ∧ d.lanes = b.lanes ∧ d.hdr = h ∧ d.phase = 0 ∧ d.batt.id = bt.id ∧ d.batt.slots = bt.slots ∧
      ∀ p ∈ d.strands, p.2.pc = wordAlign h.entry ∧ p.2.mode = .running := by
  have hgo : (!resident s b.ctx.toNat c.dev h.leases || seedsWait s b.ctx.toNat bt.graph ||
      ((none : Option (Nat × Cord)).isNone && (decide ((allocOn g c.die).slices ≤ freeSlice s b.ctx.toNat bt.graph c.dev c.die) ||
        serialBusy s c.dev c.die (dieOf s c.dev c.die).serial))) = false := by
    simp [hres, hseeds, hserial, hslice]
  simp only [launchBatt, hg, hh, hnew]
  refine ⟨_, _, if_neg (ne_true_of_eq_false hgo), ?_, mget_mset_same s.cords _ _, rfl, rfl, rfl, rfl, rfl, rfl, battCord_strands _ _ _ _ _ _⟩
  have hnext := modDie_modules_same s c.dev c.die (fun d => { d with serial := (d.serial + 1) % 2 ^ 28 })
  exact .modCore (hnext.trans (.of_eq (by rfl))) ..

theorem launchBatt_runs (hcore : OnCore s c) (hlt : entry < 32) :
    entryAt (launchBatt s c entry b bt) c entry = some (.running (cordKey c.dev c.die (dieOf s c.dev c.die).serial)) ∧
      ∃ d, mget (launchBatt s c entry b bt).cords (cordKey c.dev c.die (dieOf s c.dev c.die).serial) = some d ∧
      d.life = .running ∧ d.lanes = b.lanes ∧ d.hdr = h ∧ d.phase = 0 ∧ d.batt.id = bt.id ∧ d.batt.slots = bt.slots ∧
      ∀ p ∈ d.strands, p.2.pc = wordAlign h.entry ∧ p.2.mode = .running := by
  obtain ⟨u, d, hlaunch, hsame, hd, hlife, hlanes, hhdr, hphase, hid, hslots, hstrands⟩ :=
    launchBatt_takes (entry := entry) hg hh hnew hres hslice hseeds hserial
  obtain ⟨hentry, f, hcord⟩ := acquireStep_runs (hcore.of_same hsame) hlt hd
  rw [hlaunch]
  refine ⟨hentry, _, hcord, hlife, hlanes, hhdr, hphase, hid, hslots, fun p hp => ?_⟩
  obtain ⟨q, hq, rfl⟩ := List.mem_map.mp hp
  exact hstrands q hq

end

end

/-! ### Results of the divide unit -/

/-- A delivered vector result is on the way to its register, which the operation holds no more. -/
theorem strandOf_deliver_toV {s : State} {k l : Nat} {st : Strand} (u : Nat) (d : BitVec 7) (x : BitVec 32) (h : strandOf s k l = some st) :
    ∃ at_, strandOf (deliver s k l u (toV d x)) k l = some { st with
      held := st.held.filter (·.uid != u), pend := st.pend ++ [⟨.v d, x.zeroExtend 64, at_, true⟩] } := by
  obtain ⟨c, hc, hst⟩ := Option.bind_eq_some_iff.mp h
  refine ⟨afterPend st c (.v d) (cycOf s c.dev c.die + 1), ?_⟩
  simp only [strandOf, deliver, modCord, mget_mmod_same, hc, Option.map_some, Option.bind_some, hst]
  rfl

theorem strandOf_releaseHeld {s : State} {k l : Nat} {st : Strand} (u : Nat) (h : strandOf s k l = some st) :
    strandOf (releaseHeld s k l u) k l = some { st with held := st.held.filter (·.uid != u) } := by
  obtain ⟨c, hc, hst⟩ := Option.bind_eq_some_iff.mp h
  simp only [strandOf, releaseHeld, modCord, mget_mmod_same, hc, Option.map_some, Option.bind_some, hst]

section
variable {s : State} {k l : Nat} {st : Strand} {z : DivOp} {zs : List DivOp}
variable (hst : strandOf s k l = some st) (hdivs : st.divs = z :: zs) (hturn : divTurn s k l z.uid = true)
include hst hdivs hturn

theorem divideDone_of_none (ho : opOf st z.uid = none) :
    divideDone s k l = deliver (modStrand s k l (fun st => { st with divs := zs })) k l z.uid (toV z.d z.val) := by
  simp [divideDone, hst, hdivs, hturn, ho]

theorem divideDone_of_clear {o : Op} (ho : opOf st z.uid = some o) (hflags : o.flags = 0#5) :
    divideDone s k l = deliver (modOp (modStrand s k l (fun st => { st with divs := zs })) k l z.uid (fun o => { o with state := .settled }))
      k l z.uid (toV z.d z.val) := by
  simp [divideDone, hst, hdivs, hturn, ho, hflags]

theorem divideDone_of_raised {o : Op} (ho : opOf st z.uid = some o) (hflags : o.flags ≠ 0#5) :
    divideDone s k l = releaseHeld (modOp (modStrand s k l (fun st => { st with divs := zs })) k l z.uid
      (fun o => { o with state := .failed })) k l z.uid := by
  simp [divideDone, hst, hdivs, hturn, ho, hflags]

/-- The oldest result of a unit is delivered where its operation raised no enabled flag. -/
theorem divideDone_delivers (hflags : (opOf st z.uid).all (fun o => o.flags == 0#5) = true) :
    (divideDone s k l).mem = s.mem ∧ ∃ st', strandOf (divideDone s k l) k l = some st' ∧ st'.divs = zs ∧
      (∃ p ∈ st'.pend, p.reg = .v z.d ∧ p.val = z.val.zeroExtend 64) ∧ ∀ r ∈ st'.held, r.uid ≠ z.uid := by
  have hpopped := strandOf_modStrand_of (fun st => { st with divs := zs }) hst
  cases ho : opOf st z.uid with
  | none =>
    rw [divideDone_of_none hst hdivs hturn ho]
    obtain ⟨at_, hdone⟩ := strandOf_deliver_toV z.uid z.d z.val hpopped
    exact ⟨rfl, _, hdone, rfl, ⟨_, List.mem_concat_self, rfl, rfl⟩, fun r hr => by simpa using (List.mem_filter.mp hr).2⟩
  | some o =>
    rw [divideDone_of_clear hst hdivs hturn ho (by simpa [ho] using hflags)]
    obtain ⟨at_, hdone⟩ := strandOf_deliver_toV z.uid z.d z.val (strandOf_modStrand_of _ hpopped)
    exact ⟨rfl, _, hdone, rfl, ⟨_, List.mem_concat_self, rfl, rfl⟩, fun r hr => by simpa using (List.mem_filter.mp hr).2⟩

/-- The operation of a result that raised an enabled flag fails, and its register keeps its value (R34). -/
theorem divideDone_fails {o : Op} (ho : opOf st z.uid = some o) (hflags : o.flags ≠ 0#5) :
    (divideDone s k l).mem = s.mem ∧ ∃ st' o', strandOf (divideDone s k l) k l = some st' ∧ st'.divs = zs ∧ st'.pend = st.pend ∧
      opOf st' z.uid = some o' ∧ o'.state = .failed := by
  have hpopped := strandOf_modStrand_of (fun st => { st with divs := zs }) hst
  rw [divideDone_of_raised hst hdivs hturn ho hflags]
  have hfailed := opOf_map_ops st z.uid (fun o => { o with state := .failed }) (fun _ => rfl)
  rw [ho] at hfailed
  exact ⟨rfl, _, _, strandOf_releaseHeld z.uid (strandOf_modStrand_of _ hpopped), rfl, rfl, hfailed, rfl⟩

end

/-! ### The statement -/

/-- Settles O46: each clause is one outcome of its event. -/
theorem bindingEvents : Obligations.BindingEvents := by
  unfold Obligations.BindingEvents
  intro s c entry id now k l ctx graph node dev die b q x nd w ob bt
  dsimp only
  refine ⟨?_, ?_, ?_, ?_, ?_, ?_, ?_⟩
  · intro hn
    have hlen := congrArg List.length (joinedBatt_slots x now q)
    rw [List.length_append, List.length_singleton] at hlen
    rw [← hlen, ← joinedBatt_slots x now q]
    exact ⟨commitSlot_full id now hn, commitSlot_open id now hn⟩
  · intro hb hdue
    obtain ⟨rfl, rfl, rfl, rfl⟩ := openOf_finds hb
    have hclose := execBattTimerExpiry_closes hb hdue
    have hctx := ctxOf_modCtx_same (s := { s with uid := s.uid + 1 }) (closeBatt s.uid (cycOf s ob.dev ob.die) ob) (context_of_openOf hb)
    refine ⟨hclose, _, hclose, ?_, ?_⟩
    · rw [hctx, openOf_closeBatt]
    · rw [hctx]
      rfl
  · intro hok hw
    have hbinds := execBindRecord_binds hok hw
    refine ⟨hbinds, fun ⟨hm, hd⟩ => ⟨_, hbinds, bindWork_mem w, ?_, ?_, ?_⟩⟩
    · exact fun p hp => entryAt_bindWork_cord ⟨hm, hd⟩ (entryAt_lt (entryAt_of_bindReason hok)) hp
    · intro z hcord hz
      exact entryAt_bindWork_batt ⟨hm, hd⟩ (entryAt_lt (entryAt_of_bindReason hok)) hcord (by simp [hz])
    · intro hcord hz
      exact entryAt_bindWork_batt ⟨hm, hd⟩ (entryAt_lt (entryAt_of_bindReason hok)) hcord (by simp [hz])
  · exact execBindRecord_refuses
  · intro hentry
    have hresumes := execLaunch_resumes hentry
    refine ⟨hresumes, fun p hp hres hseeds hlife => ?_⟩
    rw [resumeCord_launches hp hres hseeds hlife] at hresumes
    exact ⟨_, hresumes, launchPhase_mem k p, launchPhase_runs (.of_entryAt hentry nofun) (entryAt_lt hentry) k p⟩
  · intro hentry hbt
    have hlaunches := execLaunch_launches hentry hbt
    exact ⟨hlaunches, fun g h hg hh hnew hres hslice hseeds hserial => ⟨_, hlaunches,
      launchBatt_runs hg hh hnew hres hslice hseeds hserial (.of_entryAt hentry nofun) (entryAt_lt hentry)⟩⟩
  · intro st z zs hst hdivs hturn
    refine ⟨fun hflags => ?_, fun o ho hflags => ?_⟩
    · obtain ⟨hmem, st', hdone⟩ := divideDone_delivers hst hdivs hturn hflags
      exact ⟨_, st', rfl, hmem, hdone⟩
    · obtain ⟨hmem, st', o', hdone⟩ := divideDone_fails hst hdivs hturn ho hflags
      exact ⟨_, st', o', rfl, hmem, hdone⟩

end Sys2Proof.Laws

/-!
O48, what each packet event does. It fails in one clause, that of the end-to-end timeout of a packet that stands at its station: the clause
asks of every packet with reached set that the DETAIL of its failure has bit 0 set (R396). The model writes that bit from been, and the
statement, which speaks of every state, does not assume that been is set with reached. reachStation sets both for a request, so with
p.been = true as a further hypothesis the counterexample below is excluded.
-/
namespace Sys2Proof.Laws
open Sys2Proof.Machine

/-- A request of module 1's strand for four bytes of module 0. -/
def lostReq : Req where
  uid := 3
  party := ⟨1, 1, 0, 0, 0⟩
  cord := 0
  lane := 0
  op := 7
  core := ⟨1, 0, 0⟩
  kind := .load
  offs := [0, 1, 2, 3]
  addrs := [65536, 65537, 65538, 65539]
  va := 65536
  gen := 0
  data := []
  atom := none
  tries := 0
  grp := 0
  hint := 0
  covers := []

/-- The packet of the request: it stands at its station and has been resent, its timer has run out, and been is not set. -/
def lostPacket : Packet where
  id := 9
  src := ⟨1, 0, 0⟩
  dst := 0
  dstDie := 0
  plane := 0
  ctx := 1
  cord := 0
  lane := 0
  op := 7
  chunk := 0
  payload := .req lostReq
  reached := true
  answer := none
  resent := true
  stomped := false
  tries := 0
  since := 0
  spent := 25000
  been := false
  pc := 65536
  node := 0

/-- The load that waits for its one reply. -/
def lostLoad : Op := { blankOp with uid := 7, state := .sent, left := 1 }

/-- A pod of two modules with the packet on its way and the load in its strand. -/
def lostState : State :=
  modStrand { State.reset.withFetchWord 32 0 with modules := [(0, Module.reset 0), (1, Module.reset 1)], packets := [lostPacket] } 0 0
    (fun st => { st with ops := [lostLoad] })

section
set_option maxRecDepth 4000

/-- The packet has come to its timeout after its one resend. -/
theorem lostPacket_timedOut : packetAt lostState 9 = some lostPacket ∧ remotePkt lostPacket = true ∧ timedOut lostState lostPacket = true := by
  decide

/-- The load waits for the packet. -/
theorem lostLoad_waits : ∃ st, strandOf lostState 0 0 = some st ∧ opOf st 7 = some lostLoad := ⟨_, rfl, rfl⟩

/-- The load fails as one of a packet that never reached its station. -/
theorem lostLoad_detail : ((strandOf (failPacket lostState false lostPacket) 0 0).bind (fun st => opOf st 7)).map (·.detail) =
    some (deliveryDetail 0 false false false) := by
  decide

theorem deliveryDetail_reached : deliveryDetail 0 true false false ≠ deliveryDetail 0 false false false := by decide

end

/-- Refutes O48: a request of reached set and been not set times out after its resend, and the DETAIL of its load does not say that the
packet had reached its station, as the clause of the end-to-end timeout asks. -/
theorem not_packetEvents : ¬ Obligations.PacketEvents := by
  unfold Obligations.PacketEvents
  intro h
  obtain ⟨hat, hremote, htime⟩ := lostPacket_timedOut
  obtain ⟨st, hst, hop⟩ := lostLoad_waits
  obtain ⟨-, -, -, -, -, -, htimeout, -⟩ := h lostState 9 lostPacket hat
  obtain ⟨-, -, hlast⟩ := htimeout hremote (fun _ _ _ _ _ => nofun)
  obtain ⟨-, hreached⟩ := hlast htime rfl
  obtain ⟨hexec, hends⟩ := hreached rfl
  obtain ⟨t, hnext, -, -, st', o', hst', hop', -, -, hdetail⟩ := hends lostReq st lostLoad rfl hst hop rfl rfl
  obtain rfl : failPacket lostState false lostPacket = t := Host.Outcome.next.inj (hexec.symm.trans hnext)
  have hfound := lostLoad_detail
  rw [show strandOf (failPacket lostState false lostPacket) 0 0 = some st' from hst'] at hfound
  have hfound : some o'.detail = some (deliveryDetail 0 false false false) := by
    simpa [show opOf st' 7 = some o' from hop'] using hfound
  exact deliveryDetail_reached (hdetail.symm.trans (Option.some.inj hfound))

end Sys2Proof.Laws

/-!
O51, the requests of a ring (R85, R198 to R202, R222, R235, R252, R258, R366, R387, R389, R415, R424, R427 to R432). GRAPH_CLOSE and RESET
drain requests and end cords, so first what such a change can touch of a ring and of a context; then what a ring is after its head record,
which record is served, what each code does, and the statement.
-/
namespace Sys2Proof.Laws
open Sys2Proof.Machine

/-! ### Changes that leave the rings -/

/-- What may become of a context: a relation that holds of no change and of two changes in turn. -/
structure ContextChange where
  rel : Context → Context → Prop
  refl : ∀ x, rel x x
  trans : ∀ {x y z}, rel x y → rel y z → rel x z

/-- A change of the machine that leaves the rings, and of each context makes what a relation allows. -/
structure Keeps (R : ContextChange) (s t : State) : Prop where
  rings : t.rings = s.rings
  context : ∀ n x, mget s.contexts n = some x → ∃ y, mget t.contexts n = some y ∧ R.rel x y

namespace Keeps
variable {R : ContextChange}

theorem of_eq {s t : State} (hr : t.rings = s.rings) (hx : t.contexts = s.contexts) : Keeps R s t :=
  ⟨hr, fun n x h => ⟨x, by rw [hx, h], R.refl x⟩⟩

theorem refl (s : State) : Keeps R s s := of_eq rfl rfl

theorem trans {s t u : State} (h : Keeps R s t) (k : Keeps R t u) : Keeps R s u where
  rings := k.rings.trans h.rings
  context n x hx := by
    obtain ⟨y, hy, hxy⟩ := h.context n x hx
    obtain ⟨z, hz, hyz⟩ := k.context n y hy
    exact ⟨z, hz, R.trans hxy hyz⟩

/-- A change may begin at any state with the same rings and contexts. -/
theorem from_same {s s' t : State} (h : Keeps R s' t) (hr : s'.rings = s.rings) (hx : s'.contexts = s.contexts) : Keeps R s t :=
  (of_eq hr hx).trans h

theorem mono {R' : ContextChange} (hR : ∀ {x y}, R.rel x y → R'.rel x y) {s t : State} (h : Keeps R s t) : Keeps R' s t where
  rings := h.rings
  context n x hx := by
    obtain ⟨y, hy, hxy⟩ := h.context n x hx
    exact ⟨y, hy, hR hxy⟩

theorem foldl {α : Type} {f : State → α → State} (hf : ∀ s a, Keeps R s (f s a)) (s : State) (xs : List α) : Keeps R s (xs.foldl f s) := by
  induction xs generalizing s with
  | nil => exact refl s
  | cons a xs ih => exact (hf s a).trans (ih (f s a))

theorem modCtx {f : Context → Context} (hf : ∀ x, R.rel x (f x)) (s : State) (n : Nat) : Keeps R s (modCtx s n f) where
  rings := rfl
  context k x hx := by
    by_cases hk : n = k
    · subst hk
      exact ⟨f x, by simp [Machine.modCtx, hx], hf x⟩
    · exact ⟨x, (mget_mmod_other s.contexts f hk).trans hx, R.refl x⟩

end Keeps

/-! ### Reads leave rings and contexts -/

section
variable {R : ContextChange}

theorem modDie_keeps (s : State) (dev die : Nat) (f : Die → Die) : Keeps R s (modDie s dev die f) := .of_eq rfl rfl

theorem modCore_keeps (s : State) (dev die core : Nat) (f : Core → Core) : Keeps R s (modCore s dev die core f) := .of_eq rfl rfl

theorem checkWords_keeps (s : State) (ws : List Nat) : Keeps R s (checkWords s ws) := by
  refine .foldl (fun s w => ?_) s ws
  dsimp only
  split
  · exact .of_eq rfl rfl
  · split <;> exact .of_eq rfl rfl

theorem portEnqueue_keeps (s : State) (read : Bool) (bs : List (Nat × BitVec 8)) : Keeps R s (portEnqueue s read bs) := by
  unfold portEnqueue
  split
  · exact .refl s
  · split
    · exact .refl s
    · exact modDie_keeps ..

theorem portRegions_keeps (s : State) (read : Bool) (as : List Nat) : Keeps R s (portRegions s read as) :=
  .foldl (fun s _ => portEnqueue_keeps s ..) s _

theorem llcDrop_keeps (s : State) (dev die r : Nat) : Keeps R s (llcDrop s dev die r) := by
  unfold llcDrop
  split
  · exact (portEnqueue_keeps ..).trans (modDie_keeps ..)
  · exact .of_eq rfl rfl

theorem llcFit_keeps (n : Nat) (s : State) (dev die : Nat) : Keeps R s (llcFit n s dev die) := by
  induction n generalizing s with
  | zero => exact .refl s
  | succ n ih =>
    unfold llcFit
    split
    · exact .refl s
    · split
      · exact (llcDrop_keeps ..).trans (ih _)
      · exact .refl s

theorem llcPut_keeps (s : State) (hint : BitVec 32) (as dirty : List Nat) : Keeps R s (llcPut s hint as dirty) := by
  refine .foldl (fun s r => ?_) s _
  split
  · exact .refl s
  · exact (modDie_keeps ..).trans (llcFit_keeps ..)

theorem homeRead_keeps (s : State) (hint : BitVec 32) (as : List Nat) : Keeps R s (homeRead s hint as) :=
  ((checkWords_keeps ..).trans (portRegions_keeps ..)).trans (llcPut_keeps ..)

theorem directoryRead_keeps (s : State) (c : CoreId) (hint : BitVec 32) (as : List Nat) : Keeps R s (directoryRead s c hint as) := by
  simp only [directoryRead]
  split
  · exact .refl s
  · refine Keeps.trans (.foldl (fun t r => ?_) s _) (llcFit_keeps ..)
    exact .of_eq rfl rfl

theorem readTouch_keeps (s : State) (c : CoreId) (hint : BitVec 32) (as : List Nat) : Keeps R s (readTouch s c hint as) := by
  unfold readTouch
  split
  · exact directoryRead_keeps ..
  · exact (homeRead_keeps ..).trans (directoryRead_keeps ..)

theorem walkTouch_keeps (s : State) (c : CoreId) (ctx va : Nat) : Keeps R s (walkTouch s c ctx va) := by
  unfold walkTouch
  split
  · exact .refl s
  · exact .foldl (fun s _ => readTouch_keeps s ..) s _

/-! ### Writes leave rings and contexts -/

theorem setTokens_keeps (s : State) (t : Token) (as : List Nat) : Keeps R s (as.foldl (fun s a => setToken s a t) s) := by
  refine .foldl (fun s a => ?_) s as
  exact .of_eq rfl rfl

theorem homeWrite_keeps (s : State) (token : Token) (hint : BitVec 32) (covers late as : List Nat) (bs : List (BitVec 8)) :
    Keeps R s (homeWrite s token hint covers late as bs).1 := by
  unfold homeWrite
  extract_lets whole part u bad v w kept
  have hu : Keeps R s u := by
    unfold u
    split
    · exact homeRead_keeps ..
    · exact checkWords_keeps ..
  have hv : Keeps R u v := .of_eq rfl rfl
  have hw : Keeps R v w := setTokens_keeps v token as
  exact (((hu.trans hv).trans hw).trans (llcPut_keeps ..)).trans (portRegions_keeps ..)

theorem requestRace_keeps (s : State) (r : Req) : Keeps R s (requestRace s r).2 := by
  unfold requestRace
  split
  · exact .refl s
  · exact .of_eq rfl rfl

theorem shareLoad_keeps (s : State) (grp : Nat) (as : List Nat) (bs : List (BitVec 8)) : Keeps R s (shareLoad s grp as bs).2 := by
  unfold shareLoad
  split
  · exact .refl s
  · exact .of_eq rfl rfl

theorem coreTake_keeps (s : State) (c : CoreId) (bs : List (Nat × BitVec 8)) : Keeps R s (coreTake s c bs) := .of_eq rfl rfl

theorem directoryWrite_keeps (s : State) (c : CoreId) (as : List Nat) : Keeps R s (directoryWrite s c as) := .of_eq rfl rfl

theorem performBytes_keeps (s : State) (r : Req) : Keeps R s (performBytes s r).1 := by
  have hrace : Keeps R s (requestRace s r).2 := requestRace_keeps s r
  unfold performBytes
  split
  · rename_i u heq
    rw [heq] at hrace
    exact hrace.trans (.of_eq rfl rfl)
  · rename_i u heq
    rw [heq] at hrace
    extract_lets v w old
    have hw : Keeps R s w := by
      refine hrace.trans (Keeps.trans (t := v) (.of_eq rfl rfl) ?_)
      unfold w
      split
      · exact homeRead_keeps ..
      · exact .refl v
    clear_value w
    split
    · exact hw
    · split
      · split
        · exact hw
        · split
          split
          · exact hw
          · split
            · exact ((hw.trans (homeWrite_keeps ..)).trans (directoryWrite_keeps ..)).trans (coreTake_keeps ..)
            · exact hw
      · split
        · have hx : Keeps R s (if r.kind == .relStore then releaseStep w r.party else w) := by
            split
            · exact hw.trans (.of_eq rfl rfl)
            · exact hw
          split
          rename_i y bad hy
          have hy' : Keeps R _ y := congrArg Prod.fst hy ▸ homeWrite_keeps ..
          have hdone := ((hx.trans hy').trans (directoryWrite_keeps y r.core r.addrs)).trans (coreTake_keeps _ r.core (r.addrs.zip r.data))
          split <;> exact hdone
        · split
          rename_i bs y hy
          have hy' : Keeps R w y := by simpa only [hy] using shareLoad_keeps (R := R) w r.grp r.addrs old
          exact (hw.trans hy').trans (directoryRead_keeps ..)

theorem dropPacket_keeps (s : State) (p : Packet) : Keeps R s (dropPacket s p) := by
  unfold dropPacket
  dsimp only
  split <;> exact .of_eq rfl rfl

theorem withdraw_keeps (s : State) (r : Req) (gone : Req → Bool) : Keeps R s (withdraw s r gone) := by
  refine Keeps.trans (.foldl (fun s q => ?_) s ((restOf s r).filter gone)) (.of_eq rfl rfl)
  have hdrop : Keeps R s ((packetOf s q).elim s (dropPacket s)) := by
    cases packetOf s q with
    | none => exact .refl s
    | some p => exact dropPacket_keeps s p
  exact hdrop.trans (.of_eq rfl rfl)

theorem sendReq_keeps (s : State) (r : Req) : Keeps R s (sendReq s r) := by
  unfold sendReq
  split
  · exact .refl s
  · unfold sendPacket
    dsimp only
    split <;> exact .of_eq rfl rfl

theorem repack_keeps (s : State) : Keeps R s (repack s) := by
  unfold repack
  refine Keeps.from_same (.foldl (fun s r => ?_) _ _) rfl rfl
  split
  · exact .refl s
  · exact sendReq_keeps s r

end

/-! ### Decided requests leave all of a context but its knots -/

/-- Nothing of a context changes but its knots. -/
def knotsOnly : ContextChange where
  rel x y := ∃ ks, y = { x with knots := ks }
  refl x := ⟨x.knots, rfl⟩
  trans := by
    rintro x y z ⟨ks, rfl⟩ ⟨ls, rfl⟩
    exact ⟨ls, rfl⟩

/-- A wait that is abandoned gives up its entry of a knot's pool (R435). -/
theorem abandonWait_keeps_context (s : State) (k l : Nat) : Keeps knotsOnly s (abandonWait s k l) := by
  unfold abandonWait
  split
  · exact .refl s
  · split
    · exact .refl s
    · split
      · exact .refl s
      · split
        · exact (Keeps.modCtx (R := knotsOnly) (fun x => ⟨_, rfl⟩) s _).trans (.of_eq rfl rfl)
        all_goals exact .of_eq rfl rfl

theorem applyReply_keeps (s : State) (r : Req) (y : Reply) : Keeps knotsOnly s (applyReply s r y) := by
  unfold applyReply
  split
  · exact .refl s
  · rename_i c hc
    extract_lets now t u v
    have hu : Keeps knotsOnly t u := by
      unfold u
      split
      · exact .refl t
      · exact (withdraw_keeps ..).from_same rfl rfl
    have hv : Keeps knotsOnly u v := .of_eq rfl rfl
    exact ((hu.trans hv).trans (abandonWait_keeps_context ..)).from_same rfl rfl

theorem resend_keeps (s : State) (r : Req) : Keeps knotsOnly s (resend s r) := by
  unfold resend
  extract_lets v t gone fate
  have ht : Keeps knotsOnly s t := Keeps.trans (modCore_keeps ..) (walkTouch_keeps ..)
  have hgone : Keeps knotsOnly s gone := ht.trans (.of_eq rfl rfl)
  split
  · exact hgone.trans (applyReply_keeps ..)
  · split
    · exact hgone.trans (applyReply_keeps ..)
    · exact hgone.trans (applyReply_keeps ..)
    · exact ht.trans (.of_eq rfl rfl)

theorem decideOne_keeps (s : State) (r : Req) : Keeps knotsOnly s (decideOne s r) := by
  unfold decideOne
  split
  · exact .refl s
  · exact resend_keeps s r
  · split
    rename_i t y hperform
    have ht : Keeps knotsOnly { s with arrivals := s.arrivals.filter (·.uid != r.uid) } t := by
      simpa only [hperform] using performBytes_keeps (R := knotsOnly) { s with arrivals := s.arrivals.filter (·.uid != r.uid) } r
    replace ht : Keeps knotsOnly s t := ht.from_same rfl rfl
    split
    · extract_lets u
      have hu : Keeps knotsOnly t u := by
        unfold u
        split
        · exact .refl t
        · exact withdraw_keeps ..
      exact (ht.trans hu).trans (.of_eq rfl rfl)
    · exact ht.trans (applyReply_keeps ..)

theorem decideGroup_keeps (s : State) (g : List Req) : Keeps knotsOnly s (decideGroup s g) := by
  refine Keeps.trans ?_ (repack_keeps _)
  split
  · exact .foldl decideOne_keeps s g
  · exact .foldl resend_keeps s _

theorem performDrain_keeps (n : Nat) (s : State) (r : Req) : Keeps knotsOnly s (performDrain n s r) := by
  induction n generalizing s r with
  | zero => exact .refl s
  | succ n ih =>
    unfold performDrain
    split
    · exact .refl s
    · extract_lets t
      have ht : Keeps knotsOnly s t := by
        refine .foldl (fun s q => ?_) s _
        split
        · exact ih s q
        · exact .refl s
      split
      · exact ht.trans (decideGroup_keeps ..)
      · exact ht

/-- What a home decides of requests, rings and contexts show only in the knots of who waits for an answer. -/
theorem drain_keeps (s : State) (near : Bool) (fs : List Nat) : Keeps knotsOnly s (drain s near fs) := by
  refine .foldl (fun s r => ?_) s _
  split
  · exact performDrain_keeps ..
  · exact .refl s

theorem shootdown_keeps (s : State) (ctx : Nat) : Keeps knotsOnly s (shootdown s ctx) := .of_eq rfl rfl

theorem advanced_keeps (s : State) (ctx : Nat) (fs : List Nat) : Keeps knotsOnly s (advanced s ctx fs) := by
  unfold advanced
  split
  · exact shootdown_keeps s ctx
  · exact .refl s

theorem unmapPage_keeps (s : State) (ctx dev va : Nat) : Keeps knotsOnly s (unmapPage s ctx dev va) := by
  unfold unmapPage
  split
  · exact .refl s
  · split
    · exact .refl s
    · extract_lets e fs t u
      exact (((drain_keeps s true fs).trans (Keeps.of_eq (t := u) rfl rfl)).trans (advanced_keeps ..)).trans (.of_eq rfl rfl)

/-! ### Released graphs and ended cords -/

/-- A context keeps its barrier groups and landings, and of everything else that names a graph or a batt it keeps some. -/
structure Shrinks (x y : Context) : Prop where
  graphs : y.graphs ⊆ x.graphs
  slots : y.slots ⊆ x.slots
  opens : y.opens ⊆ x.opens
  batts : y.batts ⊆ x.batts
  queued : y.queued = x.queued
  bars : y.bars = x.bars
  landings : y.landings = x.landings

theorem Shrinks.of_knots (x : Context) (ks : SMap Knot) : Shrinks x { x with knots := ks } :=
  ⟨List.Subset.refl _, List.Subset.refl _, List.Subset.refl _, List.Subset.refl _, rfl, rfl, rfl⟩

theorem Shrinks.refl (x : Context) : Shrinks x x := .of_knots x x.knots

theorem Shrinks.trans {x y z : Context} (h : Shrinks x y) (k : Shrinks y z) : Shrinks x z where
  graphs := List.Subset.trans k.graphs h.graphs
  slots := List.Subset.trans k.slots h.slots
  opens := List.Subset.trans k.opens h.opens
  batts := List.Subset.trans k.batts h.batts
  queued := k.queued.trans h.queued
  bars := k.bars.trans h.bars
  landings := k.landings.trans h.landings

/-- The change of a context that releases graphs. -/
def shrinking : ContextChange := ⟨Shrinks, .refl, .trans⟩

/-- The change of a context that adds no graph. -/
def noNewGraph : ContextChange := ⟨fun x y => y.graphs ⊆ x.graphs, fun _ => List.Subset.refl _, fun h k => List.Subset.trans k h⟩

theorem Keeps.shrinks {s t : State} (h : Keeps knotsOnly s t) : Keeps shrinking s t :=
  h.mono (R' := shrinking) (by rintro x y ⟨ks, rfl⟩; exact Shrinks.of_knots x ks)

theorem Keeps.adds_no_graph {s t : State} (h : Keeps shrinking s t) : Keeps noNewGraph s t := h.mono (R' := noNewGraph) Shrinks.graphs

theorem releaseGraph_keeps (s : State) (ctx g : Nat) : Keeps shrinking s (releaseGraph s ctx g) := by
  unfold releaseGraph
  split
  · exact .refl s
  · split
    · exact .refl s
    · extract_lets ps fs t
      have ht : Keeps shrinking s t := (drain_keeps s true fs).shrinks
      split
      · exact ht
      · refine (ht.trans (.foldl (fun s p => (unmapPage_keeps s ..).shrinks) t ps)).trans (.modCtx (fun x => ?_) _ ctx)
        exact ⟨List.filter_subset_self _, List.filter_subset_self _, List.Subset.refl _, List.filter_subset_self _, rfl, rfl, rfl⟩

theorem recallNow_keeps (rc : Recall) (s : State) : Keeps knotsOnly s (recallNow rc s) := by
  unfold recallNow
  extract_lets t
  have ht : Keeps knotsOnly s t := drain_keeps ..
  split
  · exact ht
  · exact ht.trans (.of_eq rfl rfl)

theorem startRecall_keeps (s : State) (rc : Recall) : Keeps knotsOnly s (startRecall s rc) :=
  (recallNow_keeps rc { s with recalls := s.recalls ++ [rc] }).from_same rfl rfl

theorem checkGroup_keeps (s : State) (ctx : Nat) (g : BarGroup) : Keeps noNewGraph s (checkGroup s ctx g) := by
  unfold checkGroup
  extract_lets others t
  split
  · have ht : Keeps noNewGraph s t := .modCtx (fun x => List.Subset.refl x.graphs) s ctx
    refine ht.trans (.foldl (fun s a => ?_) t g.arr)
    exact .of_eq rfl rfl
  · exact .modCtx (fun x => List.Subset.refl x.graphs) s ctx

theorem endGroups_keeps (s : State) (k : Nat) (c : Cord) : Keeps noNewGraph s (endGroups s k c) :=
  .foldl (fun s _ => checkGroup_keeps s ..) s _

theorem endCord_keeps (s : State) (k : Nat) : Keeps noNewGraph s (endCord s k) := by
  unfold endCord
  split
  · exact .refl s
  · rename_i c hc
    extract_lets t u v
    have ht : Keeps noNewGraph s t := .modCtx (fun x => List.Subset.refl x.graphs) s c.ctx
    have hv : Keeps noNewGraph t v := by
      unfold v u
      split <;> exact .of_eq rfl rfl
    exact ((ht.trans hv).trans (endGroups_keeps ..)).trans (releaseGraph_keeps ..).adds_no_graph

theorem mshrLeaveAll_keeps {R : ContextChange} (s : State) (c : Cord) : Keeps R s (mshrLeaveAll s c) := by
  refine .foldl (fun s p => .foldl (fun s o => ?_) s p.2.ops) s c.strands
  exact .of_eq rfl rfl

theorem killCord_keeps (s : State) (k : Nat) : Keeps noNewGraph s (killCord s k) := by
  unfold killCord
  split
  · exact .refl s
  · rename_i c hc
    extract_lets t u v w
    have ht : Keeps noNewGraph s t := (startRecall_keeps ..).shrinks.adds_no_graph
    have hu : Keeps noNewGraph t u := .of_eq rfl rfl
    have hv : Keeps noNewGraph u v := mshrLeaveAll_keeps u c
    have hw : Keeps noNewGraph v w := .modCtx (fun x => List.Subset.refl x.graphs) v c.ctx
    exact (((ht.trans hu).trans hv).trans hw).trans (endCord_keeps ..)

/-! ### Completing a record -/

/-- A change of a ring that leaves its name is found under that name. -/
theorem ringOf_modRing (s : State) (q : RingId) {f : Ring → Ring} (hf : ∀ g : Ring, (f g).id = g.id) :
    ringOf (modRing s q f) q = (ringOf s q).map f := by
  simp only [ringOf, modRing]
  induction s.rings with
  | nil => rfl
  | cons g gs ih =>
    by_cases hg : g.id = q
    · simp [hg, hf]
    · simpa [hg] using ih

/-- A record with the STATUS and RESULT it completes with (R427). -/
def doneReq (r : ReqRec) (status result : Nat) : ReqRec := { r with status := BitVec.ofNat 32 status, result := BitVec.ofNat 32 result }

/-- The head record of a ring completes: the next stands at its head. -/
theorem ringOf_completeReq {s : State} {q : RingId} {g : Ring} {r : ReqRec} {rs : List ReqRec} (hg : ringOf s q = some g)
    (hp : g.pending = r :: rs) (status result : Nat) :
    ringOf (completeReq s q status result) q = some { g with pending := rs, done_ := g.done_ ++ [doneReq r status result] } := by
  rw [completeReq, ringOf_modRing, hg, Option.map_some, hp]
  · rfl
  · intro x
    split <;> rfl

theorem pending_of_headReq {s : State} {q : RingId} {r : ReqRec} {ring : Ring} (hhead : headReq s q = some r)
    (hring : ringOf s q = some ring) : ring.pending = r :: ring.pending.tail := by
  rw [headReq, hring, Option.bind_some] at hhead
  cases hp : ring.pending with
  | nil => simp [hp] at hhead
  | cons x xs => simp_all

/-- An instruction completes the record at the head of a ring with a STATUS and a RESULT, and p holds of the machine after it. -/
def Completes (s : State) (q : RingId) (r : ReqRec) (ring : Ring) (j : Instr) (status result : Nat) (p : State → Prop) : Prop :=
  ∃ t g, exec j s = .next t ∧ ringOf t q = some g ∧ g.pending = ring.pending.tail ∧ g.done_ = ring.done_ ++ [doneReq r status result] ∧ p t

/-- Bytes, contexts, modules, frames and cords are as they were. -/
def Unchanged (s t : State) : Prop :=
  t.mem = s.mem ∧ t.contexts = s.contexts ∧ t.modules = s.modules ∧ t.frames = s.frames ∧ t.cords = s.cords

section
variable {s u : State} {q : RingId} {r : ReqRec} {ring : Ring} {j : Instr} {status result : Nat} {p : State → Prop}
  (hhead : headReq s q = some r) (hring : ringOf s q = some ring)
include hhead hring

/-- A record completes after a change that may write out bytes on its ring. -/
theorem Completes.of_out {out : List (BitVec 8)} (hexec : exec j s = .next (completeReq u q status result))
    (hu : ringOf u q = some { ring with out := out }) (hp : p (completeReq u q status result)) : Completes s q r ring j status result p := by
  have hpending := pending_of_headReq hhead hring
  exact ⟨_, _, hexec, ringOf_completeReq hu hpending status result, rfl, rfl, hp⟩

/-- A record completes after a change that leaves the rings. -/
theorem Completes.of_rings (hexec : exec j s = .next (completeReq u q status result)) (hu : u.rings = s.rings)
    (hp : p (completeReq u q status result)) : Completes s q r ring j status result p :=
  .of_out (out := ring.out) hhead hring hexec (by rw [ringOf, hu]; exact hring) hp

/-- A record completes with nothing else changed. -/
theorem Completes.of_same (hexec : exec j s = .next (completeReq s q status result)) :
    Completes s q r ring j status result (Unchanged s) :=
  .of_rings hhead hring hexec rfl ⟨rfl, rfl, rfl, rfl, rfl⟩

end

/-! ### Which record is served -/

/-- The instruction of a request code (R428); it is named in statements only, since Lean compiles no type of so many constructors. -/
noncomputable def reqInstr (q : RingId) (n : Nat) : Instr :=
  [.mapReq q, .unmapReq q, .protectReq q, .exportFrame q, .graphLoad q, .graphSeed q, .graphClose q, .windowOpen q, .windowClose q,
    .peerSet q, .setReq q, .logRead q, .healthReq q, .resetReq q].getD (n - 1) (.malformedRequest q)

/-- The codes whose service concerns the context of their ring. -/
theorem exec_reqInstr_ctx (s : State) (q : RingId) {n : Nat} (hn : n ∈ [1, 2, 3, 5, 6, 7, 10, 12, 14]) :
    ∃ f, exec (reqInstr q n) s = serveCtx s q n f := by
  simp only [List.mem_cons, List.not_mem_nil, or_false] at hn
  rcases hn with rfl | rfl | rfl | rfl | rfl | rfl | rfl | rfl | rfl
  · exact ⟨serveMap q, rfl⟩
  · exact ⟨serveUnmap q, rfl⟩
  · exact ⟨serveProtect q, rfl⟩
  · exact ⟨serveLoad q, rfl⟩
  · exact ⟨serveSeed q, rfl⟩
  · exact ⟨fun ctx r s => completeReq (closeGraph s ctx r.arg0.toNat) q 1 0, rfl⟩
  · exact ⟨fun ctx r s => completeReq (modCtx s ctx (fun x =>
      { x with peers := mset x.peers (r.arg0.toNat % 2 ^ 16) ⟨r.arg1.toNat % 1024, r.arg2.toNat % 4⟩ })) q 1 0, rfl⟩
  · exact ⟨serveLog q, rfl⟩
  · exact ⟨fun ctx _ s => completeReq (contextError s ctx 0 0 0 0 ⟨q.dev, 0, 63⟩) q 1 0, rfl⟩

/-- The other codes. -/
theorem exec_reqInstr_module (s : State) (q : RingId) {n : Nat} (hn : n ∈ [4, 8, 9, 11, 13]) :
    ∃ f, exec (reqInstr q n) s = serve s q n f := by
  simp only [List.mem_cons, List.not_mem_nil, or_false] at hn
  rcases hn with rfl | rfl | rfl | rfl | rfl
  · exact ⟨serveExport q, rfl⟩
  · exact ⟨serveWindow q, rfl⟩
  · exact ⟨fun r s => completeReq (modModule s q.dev (fun m =>
      { m with windows := m.windows.filter (fun w => w.id != r.arg0.toNat) })) q 1 0, rfl⟩
  · exact ⟨serveSet q, rfl⟩
  · exact ⟨fun _ s => match mget s.modules q.dev with
      | some m => completeReq (sendOut s q ((List.range 4).flatMap (healthBytes s m))) q 1 0
      | none => s, rfl⟩

/-- Each code has its service. -/
theorem exec_reqInstr (s : State) (q : RingId) {n : Nat} (hlo : 1 ≤ n) (hhi : n ≤ 14) : ∃ f, exec (reqInstr q n) s = serve s q n f := by
  have hn : n ∈ [1, 2, 3, 5, 6, 7, 10, 12, 14] ∨ n ∈ [4, 8, 9, 11, 13] := by
    simp only [List.mem_cons, List.not_mem_nil, or_false]
    omega
  rcases hn with hn | hn
  · obtain ⟨f, hf⟩ := exec_reqInstr_ctx s q hn
    exact ⟨_, hf⟩
  · exact exec_reqInstr_module s q hn

theorem code_of_wellFormedReq {r : ReqRec} (h : wellFormedReq r = true) : 1 ≤ r.code.toNat ∧ r.code.toNat ≤ 14 := by
  simp only [wellFormedReq, Bool.and_eq_true, decide_eq_true_eq] at h
  exact h.1

/-- A record at the head of the ring of a started module. -/
structure AtHead (s : State) (q : RingId) (r : ReqRec) (ring : Ring) : Prop where
  head : headReq s q = some r
  ring : ringOf s q = some ring
  live : ringLive s q = true

/-- A record that is served: well-formed, and of a context that its ring holds. -/
structure Served (s : State) (q : RingId) (r : ReqRec) (ring : Ring) : Prop extends AtHead s q r ring where
  wellFormed : wellFormedReq r = true
  known : ctxKnown s q r = true

section
variable {s : State} {q : RingId} {r : ReqRec} {ring : Ring} {n ctx : Nat}

/-- A record that is not well-formed completes with STATUS 3. -/
theorem AtHead.malformed (h : AtHead s q r ring) (hwf : wellFormedReq r = false) :
    Completes s q r ring (.malformedRequest q) 3 0 (Unchanged s) := by
  refine .of_same h.head h.ring ?_
  show execMalformedRequest q s = _
  simp [execMalformedRequest, h.head, h.live, hwf]

/-- A record of a context that its ring does not hold completes with STATUS 4. -/
theorem AtHead.unknown (h : AtHead s q r ring) (hwf : wellFormedReq r = true) (hctx : ctxKnown s q r = false) :
    Completes s q r ring (reqInstr q r.code.toNat) 4 0 (Unchanged s) := by
  obtain ⟨hlo, hhi⟩ := code_of_wellFormedReq hwf
  obtain ⟨f, hexec⟩ := exec_reqInstr s q hlo hhi
  refine .of_same h.head h.ring (hexec.trans ?_)
  simp [serve, h.head, h.live, hwf, hctx]

theorem Served.serve (h : Served s q r ring) (hn : r.code.toNat = n) (f : ReqRec → State → State) : serve s q n f = .next (f r s) := by
  simp [Machine.serve, h.head, h.live, hn, h.wellFormed, h.known]

theorem Served.serveCtx (h : Served s q r ring) (hn : r.code.toNat = n) (hq : q.ctx = some ctx) (f : Nat → ReqRec → State → State) :
    serveCtx s q n f = .next (f ctx r s) := by
  rw [Machine.serveCtx, h.serve hn, hq]

/-- A record of a context on the ring of a module completes with STATUS 4. -/
theorem Served.on_module_ring (h : Served s q r ring) (hq : q.ctx = none) (hn : r.code.toNat ∈ [1, 2, 3, 5, 6, 7, 10, 12, 14]) :
    Completes s q r ring (reqInstr q r.code.toNat) 4 0 (Unchanged s) := by
  obtain ⟨f, hexec⟩ := exec_reqInstr_ctx s q hn
  refine .of_same h.head h.ring (hexec.trans ?_)
  rw [Machine.serveCtx, h.serve rfl, hq]

/-- The context of a ring exists. -/
theorem Served.context (h : Served s q r ring) (hq : q.ctx = some ctx) : (mget s.contexts ctx).isSome = true := by
  have hknown := h.known
  rw [ctxKnown, hq, Bool.and_eq_true] at hknown
  exact hknown.2

/-- A refused record completes with STATUS 2. -/
theorem Served.refused {j : Instr} {result : Nat} (h : Served s q r ring) (hexec : exec j s = .next (refuseReq s q result)) :
    Completes s q r ring j 2 result (Unchanged s) :=
  .of_same h.head h.ring hexec

/-- A record completes as served after a change that leaves the rings. -/
theorem Served.completes {j : Instr} {result : Nat} {u : State} {p : State → Prop} (h : Served s q r ring)
    (hexec : exec j s = .next (completeReq u q 1 result)) (hu : u.rings = s.rings) (hp : p (completeReq u q 1 result)) :
    Completes s q r ring j 1 result p :=
  .of_rings h.head h.ring hexec hu hp

end

/-! ### Pages and frames -/

/-- A walk that ends in a small entry finds its two tables, and the entry in the second (R241). -/
theorem walkTo_small {m : List Host.Cell} {dev root va a : Nat} {e : BitVec 64} (h : walkTo m dev root va = some (a, e, false)) :
    let e0 := tableEntry m dev (root + va / 2 ^ 38 * 8)
    let e1 := tableEntry m dev (bitsOf e0 12 28 * 4096 + va / 2 ^ 25 % 2 ^ 13 * 8)
    isPointer e0 = true ∧ isPointer e1 = true ∧ a = bitsOf e1 12 28 * 4096 + va / 2 ^ 16 % 2 ^ 9 * 8 := by
  unfold walkTo at h
  extract_lets e0 a1 e1 a2 at h
  split at h
  · cases h
  · split at h
    · cases h
    · split at h
      · simp at h
      · split at h
        · cases h
        · rename_i h0 _ h1
          obtain ⟨rfl, -, -⟩ : a2 = a ∧ _ := by simpa using h
          exact ⟨(by simpa using h0 : isPointer e0 = true), (by simpa using h1 : isPointer e1 = true), rfl⟩

/-- Where the tables of a small page stand, its leaf is written in place (R240). -/
theorem putLeaf_in_place {s : State} {ctx dev root va a : Nat} {e₀ : BitVec 64} (hroot : rootOf s ctx dev = some root)
    (hwalk : walkTo s.mem dev root va = some (a, e₀, false)) (e : BitVec 64) : putLeaf s ctx dev va false e = some (setEntry s dev a e) := by
  obtain ⟨h0, h1, rfl⟩ := walkTo_small hwalk
  simp [-Nat.reducePow, putLeaf, hroot, subTable, h0, h1]

theorem pageFrames_small (key : Nat) : pageFrames key false = [key / 2 ^ 16] := rfl

theorem frameOf_frame (s : State) (f : Nat) : frameOf s (f * 2 ^ 16) = (mget s.frames f).getD ⟨0, .free, false⟩ := by
  rw [frameOf, Nat.mul_div_cancel f (by decide)]

/-- One frame has the highest generation of its page. -/
theorem topGen_one (s : State) (f : Nat) : topGen s [f] = (frameOf s (f * 2 ^ 16)).gen := by
  simp [topGen]

theorem frameOf_modFrames_one (s : State) (f : Nat) (g : Frame → Frame) :
    frameOf (modFrames s [f] g) (f * 2 ^ 16) = g (frameOf s (f * 2 ^ 16)) := by
  simp [-Nat.reducePow, frameOf_frame, modFrames]

/-- A frame that has been mapped since it was last FREE is not cleared as it becomes VALID. -/
theorem validate_seen {s : State} {f : Nat} (h : (frameOf s (f * 2 ^ 16)).seen = true) (g : BitVec 8) :
    validate s [f] g = modFrames (clearTokens s [f]) [f] (fun _ => ⟨g, .valid, true⟩) := by
  simp [-Nat.reducePow, validate, h]

theorem drainFrames_of_no_arrivals {s : State} (h : s.arrivals = []) (fs : List Nat) : drainFrames s fs = s ∧ undrained s fs = false := by
  have hnone : toDrain s true fs = [] := by simp [toDrain, h]
  simp [drainFrames, drain, undrained, hnone]

/-- With no page on its way to another frame, a shootdown concerns TLB entries alone. -/
theorem advanced_of_no_moves {s : State} (h : s.moves = []) (ctx : Nat) (fs : List Nat) :
    (advanced s ctx fs).rings = s.rings ∧ (advanced s ctx fs).mem = s.mem ∧ (advanced s ctx fs).tokens = s.tokens ∧
      (advanced s ctx fs).frames = s.frames := by
  unfold advanced
  split
  · simp [shootdown, h, modFrames]
  · exact ⟨rfl, rfl, rfl, rfl⟩

theorem rewriteImporters_of_none {s : State} {dev : Nat} {fs : List Nat} (h : importsOf s dev fs = [])
    (new : Nat → Nat → BitVec 64 → BitVec 64) : rewriteImporters s dev fs new = s := by
  simp [rewriteImporters, h]

theorem validLeaf_finds {s : State} {ctx dev page a : Nat} {e : BitVec 64} {big : Bool} (h : validLeaf s ctx dev page = some (a, e, big)) :
    leafOf s ctx dev (page * 2 ^ 16) = some (a, e, big) ∧ isLeaf e big = true := by
  unfold validLeaf at h
  split at h
  · split at h
    · cases h
      exact ⟨‹_›, ‹_›⟩
    · cases h
  · cases h

/-- A small leaf names one frame. -/
theorem leafFrames_small {e : BitVec 64} (h : isLeaf e false = true) :
    leafFrames e = [byteKey (bitsOf e 46 10) (bitsOf e 22 24 * 2 ^ 16) / 2 ^ 16] := by
  simp only [isLeaf, Bool.and_eq_true, beq_iff_eq] at h
  obtain ⟨⟨⟨⟨⟨-, -⟩, hsize⟩, -⟩, -⟩, -⟩ := h
  rw [leafFrames, hsize, pageFrames_small]

/-! ### MAP -/

section
variable {s : State} {q : RingId} {r : ReqRec} {ctx : Nat}

theorem serveMap_of_bad_template (h : mapTemplateOk r = false) : serveMap q ctx r s = refuseReq s q 0xFFFFFFFF := by
  simp [serveMap, h]

theorem movingFrames_of_no_moves (h : s.moves = []) (fs : List Nat) : movingFrames s fs = false := by
  simp [movingFrames, h]

/-- The frame a template names for the first page of its range, as one of the module's own. -/
theorem mapFrames_first {t : BitVec 64} {dev : Nat} (hsize : t.getLsbD 5 = false) (hdev : bitsOf t 46 10 = dev) :
    mapFrames t 0 = [byteKey dev (bitsOf t 22 24 * 2 ^ 16) / 2 ^ 16] := by
  rw [mapFrames, hsize, hdev, pageFrames_small, Nat.zero_mul, Nat.add_zero]

/-- The leaf of one page whose tables stand: the template's, valid, with the generation of its frame (R258). -/
theorem mapPage_first {root a : Nat} {e₀ : BitVec 64} {f : Nat} (hsize : r.arg2.getLsbD 5 = false) (hdev : bitsOf r.arg2 46 10 = q.dev)
    (hf : f = byteKey q.dev (bitsOf r.arg2 22 24 * 2 ^ 16) / 2 ^ 16) (hseen : (frameOf s (f * 2 ^ 16)).seen = true)
    (hroot : rootOf s ctx q.dev = some root) (hwalk : walkTo s.mem q.dev root r.arg0.toNat = some (a, e₀, false)) :
    mapPage s ctx q.dev r 0 = some (setEntry (modFrames (clearTokens s [f]) [f] (fun _ => ⟨(frameOf s (f * 2 ^ 16)).gen, .valid, true⟩)) q.dev a
      ((r.arg2 ||| 3) + ((frameOf s (f * 2 ^ 16)).gen.zeroExtend 64 <<< 56))) := by
  subst hf
  have hown : (bitsOf r.arg2 46 10 != q.dev) = false := by simp [hdev]
  rw [mapPage, mapFrames_first hsize hdev, topGen_one]
  simp only [hown, Bool.false_eq_true, if_false, validate_seen hseen, hsize, Nat.zero_mul, Nat.add_zero, Nat.zero_div, BitVec.add_zero]
  exact putLeaf_in_place (s := modFrames (clearTokens s _) _ _) hroot hwalk _

/-- One page that passes the checks is mapped. -/
theorem serveMap_one_page {t : State} (hmoves : s.moves = []) (hlen : r.arg1 = 0x10000#64) (htemplate : mapTemplateOk r = true)
    (hsize : r.arg2.getLsbD 5 = false) (hok : mapPageOk s ctx q.dev r 0 = true) (hmap : mapPage s ctx q.dev r 0 = some t) :
    serveMap q ctx r s = completeReq t q 1 0 := by
  have hpages : List.range (r.arg1.toNat / pageSize r.arg2) = [0] := by
    simp only [pageSize, hsize, hlen]
    rfl
  simp [serveMap, htemplate, hpages, movingFrames_of_no_moves hmoves, hok, mapPages, hmap]

end

/-! ### UNMAP and PROTECT -/

section
variable {s : State} {q : RingId} {r : ReqRec} {ctx page a : Nat} {e : BitVec 64}

theorem rangePages_one (hbase : r.arg0.toNat % 2 ^ 16 = 0) (hlen : r.arg1 = 0x10000#64) : rangePages r = [r.arg0.toNat / 2 ^ 16] := by
  have hlast : (r.arg0.toNat + 0x10000 + 2 ^ 16 - 1) / 2 ^ 16 - r.arg0.toNat / 2 ^ 16 = 1 := by omega
  have hlen' : r.arg1.toNat = 0x10000 := by rw [hlen]; rfl
  rw [rangePages, hlen', hlast, hlen]
  simp

section
variable (hleaf : validLeaf s ctx q.dev page = some (a, e, false))
include hleaf

theorem rangeLeaves_one : rangeLeaves s ctx q.dev [page] = [(page, a, e, false)] := by
  simp [rangeLeaves, hleaf]

theorem partBig_of_small (ps : List Nat) : partBig s ctx q.dev ps page = false := by
  simp [partBig, hleaf]

end

/-- A change of a leaf of the module's own that nobody imports waits for no other module. -/
theorem leavesWait_of_own {dev : Nat} (hmoves : s.moves = []) (hdev : bitsOf e 46 10 = dev) (himports : importsOf s dev (leafFrames e) = []) :
    leavesWait s dev [(page, a, e, false)] = false := by
  simp [leavesWait, movingFrames_of_no_moves hmoves, importerWaits, ownFrames, farWaits, hdev, himports]

theorem serveUnmap_of_bits (h : r.arg2 ≠ 0) : serveUnmap q ctx r s = refuseReq s q 0xFFFFFFFF :=
  if_pos (bne_iff_ne.mpr h)

theorem serveProtect_of_bits (h : r.arg2 &&& ~~~0x1C#64 ≠ 0) : serveProtect q ctx r s = refuseReq s q 0xFFFFFFFF :=
  if_pos (bne_iff_ne.mpr h)

section
variable (harr : s.arrivals = [])
include harr

/-- One small page of the module's own is unmapped: its frame FREE with the next generation, its unreleased bytes gone (R258, R275). -/
theorem unmapPage_own {f : Nat} (hleaf : validLeaf s ctx q.dev page = some (a, e, false)) (hdev : bitsOf e 46 10 = q.dev)
    (hf : leafFrames e = [f]) : unmapPage s ctx q.dev (page * 2 ^ 16) =
    setEntry (advanced (modFrames (clearTokens (discardUnrel s [f]) [f]) [f] (fun fr => { gen := fr.gen + 1, state := .free, seen := false }))
      ctx [f]) q.dev a 0 := by
  obtain ⟨hfind, hvalid⟩ := validLeaf_finds hleaf
  have hframes : pageFrames (byteKey (bitsOf e 46 10) (bitsOf e 22 24 * 2 ^ 16)) false = [f] := by
    rw [pageFrames_small, ← leafFrames_small hvalid, hf]
  simp only [unmapPage, hfind, hvalid, leafEntry, hdev, if_true, Bool.not_true, Bool.false_eq_true, if_false, beq_self_eq_true]
  rw [← hdev, hframes, (drainFrames_of_no_arrivals harr [f]).1]

/-- One small page of the module's own takes new rights under the next generation of its frame (R258, R275). -/
theorem protectPage_own {f : Nat} (t : BitVec 64) (hdev : bitsOf e 46 10 = q.dev) (himports : importsOf s q.dev (leafFrames e) = [])
    (hf : leafFrames e = [f]) : protectPage s ctx q.dev t (page, a, e, false) =
    setEntry (advanced (modFrames s [f] (fun fr => { fr with gen := (frameOf s (f * 2 ^ 16)).gen + 1 })) ctx [f]) q.dev a
      (withRights t ((frameOf s (f * 2 ^ 16)).gen + 1) e) := by
  have hown : (bitsOf e 46 10 != q.dev) = false := by simp [hdev]
  rw [hf] at himports
  simp only [protectPage, hown, Bool.false_eq_true, if_false, hf, (drainFrames_of_no_arrivals harr [f]).1, topGen_one,
    rewriteImporters_of_none himports]

variable (hmoves : s.moves = []) (hleaf : validLeaf s ctx q.dev page = some (a, e, false)) (hdev : bitsOf e 46 10 = q.dev)
  (himports : importsOf s q.dev (leafFrames e) = [])
include hmoves hleaf hdev himports

theorem serveUnmap_one_page (hpages : rangePages r = [page]) (hbits : r.arg2 = 0) (hsteward : stewardPage s ctx q.dev page = false)
    (hlease : pageLeased s ctx q.dev page = false) :
    serveUnmap q ctx r s = completeReq (unmapPage s ctx q.dev (page * 2 ^ 16)) q 1 0 := by
  have hown : ownFrames q.dev e = leafFrames e := by simp [ownFrames, hdev]
  have hfar : (advanceFar s ctx q.dev e).1 = s := by simp [advanceFar, hdev]
  obtain ⟨hdrain, hdone⟩ := drainFrames_of_no_arrivals harr (leafFrames e)
  simp [serveUnmap, hbits, hpages, rangeLeaves_one hleaf, hsteward, partBig_of_small hleaf, hlease, leavesWait_of_own hmoves hdev himports,
    rangeFrames, hown, hdrain, hdone, hfar, rewriteImporters_of_none himports]

theorem serveProtect_one_page (hpages : rangePages r = [page]) (hbits : r.arg2 &&& ~~~0x1C#64 = 0)
    (hsteward : stewardPage s ctx q.dev page = false) :
    serveProtect q ctx r s = completeReq (protectPage s ctx q.dev r.arg2 (page, a, e, false)) q 1 0 := by
  have hown : ownFrames q.dev e = leafFrames e := by simp [ownFrames, hdev]
  have hgood : protectBad s ctx q.dev r.arg2 [page] page = false := by
    simp [protectBad, hleaf, hsteward, partBig_of_small hleaf, hdev]
  obtain ⟨hdrain, hdone⟩ := drainFrames_of_no_arrivals harr (leafFrames e)
  have hmask : ¬ (r.arg2 &&& ~~~0x1C#64 != 0) = true := fun h => bne_iff_ne.mp h hbits
  refine (if_neg hmask).trans ?_
  simp [hpages, rangeLeaves_one hleaf, hgood, leavesWait_of_own hmoves hdev himports, rangeFrames, hown, hdrain, hdone]

end

end

/-! ### What MAP, UNMAP and PROTECT leave -/

@[simp] theorem setEntry_mem (s : State) (dev dpa : Nat) (e : BitVec 64) :
    (setEntry s dev dpa e).mem = writeMem s.mem (byteKey dev dpa) (leBytes 8 e.toNat) := rfl
@[simp] theorem setEntry_frames (s : State) (dev dpa : Nat) (e : BitVec 64) : (setEntry s dev dpa e).frames = s.frames := rfl
@[simp] theorem setEntry_tokens (s : State) (dev dpa : Nat) (e : BitVec 64) : (setEntry s dev dpa e).tokens = s.tokens := rfl
@[simp] theorem setEntry_rings (s : State) (dev dpa : Nat) (e : BitVec 64) : (setEntry s dev dpa e).rings = s.rings := rfl
@[simp] theorem completeReq_mem (s : State) (q : RingId) (status result : Nat) : (completeReq s q status result).mem = s.mem := rfl
@[simp] theorem completeReq_contexts (s : State) (q : RingId) (status result : Nat) :
    (completeReq s q status result).contexts = s.contexts := rfl
@[simp] theorem completeReq_frames (s : State) (q : RingId) (status result : Nat) : (completeReq s q status result).frames = s.frames := rfl
@[simp] theorem completeReq_tokens (s : State) (q : RingId) (status result : Nat) : (completeReq s q status result).tokens = s.tokens := rfl

theorem frameOf_of_frames {s t : State} (h : t.frames = s.frames) (a : Nat) : frameOf t a = frameOf s a := by
  rw [frameOf, frameOf, h]

section
variable {s : State} {q : RingId} {r : ReqRec} {ring : Ring} {ctx a f : Nat} {e : BitVec 64}
  (h : Served s q r ring) (hq : q.ctx = some ctx) (hmoves : s.moves = []) (hlen : r.arg1 = 0x10000#64)
include h hq hmoves hlen

/-- One page whose tables stand and whose frame was mapped before: the frame is VALID and the leaf takes its generation. -/
theorem Served.maps_one_page (hn : r.code.toNat = 1) {root : Nat} (htemplate : mapTemplateOk r = true) (hsize : r.arg2.getLsbD 5 = false)
    (hdev : bitsOf r.arg2 46 10 = q.dev) (hok : mapPageOk s ctx q.dev r 0 = true) (hroot : rootOf s ctx q.dev = some root)
    (hwalk : walkTo s.mem q.dev root r.arg0.toNat = some (a, e, false))
    (hf : f = byteKey q.dev (bitsOf r.arg2 22 24 * 2 ^ 16) / 2 ^ 16) (hseen : (frameOf s (f * 2 ^ 16)).seen = true) :
    Completes s q r ring (.mapReq q) 1 0 (fun t => frameOf t (f * 2 ^ 16) = { frameOf s (f * 2 ^ 16) with state := .valid } ∧
      t.mem = writeMem s.mem (byteKey q.dev a) (leBytes 8 ((r.arg2 ||| 3) + ((frameOf s (f * 2 ^ 16)).gen.zeroExtend 64 <<< 56)).toNat)) := by
  have hmap := mapPage_first hsize hdev hf hseen hroot hwalk
  have hserve := serveMap_one_page hmoves hlen htemplate hsize hok hmap
  refine h.completes ((h.serveCtx hn hq (serveMap q)).trans (congrArg _ hserve)) rfl ⟨?_, ?_⟩
  · rw [frameOf_of_frames (completeReq_frames ..), frameOf_of_frames (setEntry_frames ..), frameOf_modFrames_one, ← hseen]
  · rw [completeReq_mem, setEntry_mem]
    rfl

variable (harr : s.arrivals = []) (hbase : r.arg0.toNat % 2 ^ 16 = 0)
  (hleaf : validLeaf s ctx q.dev (r.arg0.toNat / 2 ^ 16) = some (a, e, false)) (hdev : bitsOf e 46 10 = q.dev)
  (himports : importsOf s q.dev (leafFrames e) = []) (hsteward : stewardPage s ctx q.dev (r.arg0.toNat / 2 ^ 16) = false)
  (hf : f = (leafFrames e).headD 0)
include harr hbase hleaf hdev himports hsteward hf

omit h hq hmoves hlen harr hbase hdev himports hsteward in
theorem leafFrames_of_validLeaf : leafFrames e = [f] := by
  rw [hf, leafFrames_small (validLeaf_finds hleaf).2, List.headD_cons]

/-- One small page of the module's own is gone: its frame FREE, its unreleased bytes and its token records with it. -/
theorem Served.unmaps_one_page (hn : r.code.toNat = 2) (hbits : r.arg2 = 0)
    (hlease : pageLeased s ctx q.dev (r.arg0.toNat / 2 ^ 16) = false) :
    Completes s q r ring (.unmapReq q) 1 0 (fun t =>
      frameOf t (f * 2 ^ 16) = { gen := (frameOf s (f * 2 ^ 16)).gen + 1, state := .free, seen := false } ∧
      t.mem = writeMem (discardUnrel s [f]).mem (byteKey q.dev a) (leBytes 8 0) ∧ ∀ p ∈ t.tokens, p.1 / 2 ^ 16 ≠ f) := by
  have hframes := leafFrames_of_validLeaf hleaf hf
  have hserve := serveUnmap_one_page harr hmoves hleaf hdev himports (rangePages_one hbase hlen) hbits hsteward hlease
  rw [unmapPage_own harr hleaf hdev hframes] at hserve
  obtain ⟨hrings, hmem, htokens, hkept⟩ := advanced_of_no_moves (s := modFrames (clearTokens (discardUnrel s [f]) [f]) [f]
    (fun fr => { gen := fr.gen + 1, state := .free, seen := false })) hmoves ctx [f]
  refine h.completes ((h.serveCtx hn hq (serveUnmap q)).trans (congrArg _ hserve)) hrings ⟨?_, ?_, ?_⟩
  · rw [frameOf_of_frames (completeReq_frames ..), frameOf_of_frames (setEntry_frames ..), frameOf_of_frames hkept, frameOf_modFrames_one]
    rfl
  · rw [completeReq_mem, setEntry_mem, hmem]
    rfl
  · intro p hp
    rw [completeReq_tokens, setEntry_tokens, htokens] at hp
    simpa [-Nat.reducePow] using (List.mem_filter.mp hp).2

/-- One small page of the module's own has new rights, under the next generation of its frame. -/
theorem Served.protects_one_page (hn : r.code.toNat = 3) (hbits : r.arg2 &&& ~~~0x1C#64 = 0) :
    Completes s q r ring (.protectReq q) 1 0 (fun t =>
      frameOf t (f * 2 ^ 16) = { frameOf s (f * 2 ^ 16) with gen := (frameOf s (f * 2 ^ 16)).gen + 1 } ∧
      t.mem = writeMem s.mem (byteKey q.dev a) (leBytes 8 (withRights r.arg2 ((frameOf s (f * 2 ^ 16)).gen + 1) e).toNat)) := by
  have hframes := leafFrames_of_validLeaf hleaf hf
  have hserve := serveProtect_one_page harr hmoves hleaf hdev himports (rangePages_one hbase hlen) hbits hsteward
  rw [protectPage_own harr r.arg2 hdev himports hframes] at hserve
  obtain ⟨hrings, hmem, -, hkept⟩ := advanced_of_no_moves
    (s := modFrames s [f] (fun fr => { fr with gen := (frameOf s (f * 2 ^ 16)).gen + 1 })) hmoves ctx [f]
  refine h.completes ((h.serveCtx hn hq (serveProtect q)).trans (congrArg _ hserve)) hrings ⟨?_, ?_⟩
  · rw [frameOf_of_frames (completeReq_frames ..), frameOf_of_frames (setEntry_frames ..), frameOf_of_frames hkept, frameOf_modFrames_one]
  · rw [completeReq_mem, setEntry_mem, hmem]
    rfl

end

/-! ### EXPORT -/

section
variable {s : State} {q : RingId} {r : ReqRec}

theorem serveExport_of_moving (hmoving : movingFrames s [byteKey q.dev (r.arg0.toNat % 2 ^ 40 / 2 ^ 16 * 2 ^ 16) / 2 ^ 16] = true) :
    serveExport q r s = s :=
  if_pos hmoving

variable (hmoving : movingFrames s [byteKey q.dev (r.arg0.toNat % 2 ^ 40 / 2 ^ 16 * 2 ^ 16) / 2 ^ 16] = false)
include hmoving

theorem serveExport_of_unpinned
    (hpin : ¬ (framePinned s q.dev (byteKey q.dev (r.arg0.toNat % 2 ^ 40 / 2 ^ 16 * 2 ^ 16) / 2 ^ 16) = true ∧ r.arg0.toNat < 2 ^ 40)) :
    serveExport q r s = refuseReq s q 0 := by
  refine (if_neg (ne_true_of_eq_false hmoving)).trans (if_pos ?_)
  rw [Bool.or_eq_true, Bool.not_eq_true', decide_eq_true_eq]
  by_contra hno
  obtain ⟨hpinned, hlt⟩ := not_or.mp hno
  exact hpin ⟨by simpa using hpinned, Nat.not_le.mp hlt⟩

theorem serveExport_of_pinned
    (hpin : framePinned s q.dev (byteKey q.dev (r.arg0.toNat % 2 ^ 40 / 2 ^ 16 * 2 ^ 16) / 2 ^ 16) = true) (hlt : r.arg0.toNat < 2 ^ 40) :
    serveExport q r s = completeReq (modModule s q.dev (fun m => { m with
      exports := m.exports.filter (fun e => !(e.ctx == r.arg2.toNat && e.frame == r.arg0.toNat % 2 ^ 40 / 2 ^ 16)) ++
        [⟨r.arg2.toNat, r.arg0.toNat % 2 ^ 40 / 2 ^ 16, r.arg1.extractLsb' 0 3, []⟩] })) q 1 0 := by
  refine (if_neg (ne_true_of_eq_false hmoving)).trans (if_neg ?_)
  rw [hpin, Bool.not_true, Bool.false_or, decide_eq_true_eq]
  exact Nat.not_le.mpr hlt

end

/-! ### Changes of one module or one context -/

theorem mget_modCtx {s : State} {ctx : Nat} {x : Context} (f : Context → Context) (hx : mget s.contexts ctx = some x) :
    mget (modCtx s ctx f).contexts ctx = some (f x) := by
  rw [modCtx, mget_mmod_same, hx]
  rfl

theorem ctxOf_of_contexts {s t : State} (h : t.contexts = s.contexts) (ctx : Nat) : ctxOf t ctx = ctxOf s ctx := by
  rw [ctxOf, ctxOf, h]

theorem ctxOf_of_mget {s : State} {ctx : Nat} {x : Context} (h : mget s.contexts ctx = some x) : ctxOf s ctx = x := by
  rw [ctxOf, h]
  rfl

section
variable {s : State} {q : RingId} {r : ReqRec} {ring : Ring} {ctx : Nat} {m : Module} {j : Instr}

theorem mget_modModule {dev : Nat} (f : Module → Module) (hm : mget s.modules dev = some m) :
    mget (modModule s dev f).modules dev = some (f m) := by
  simp [modModule, hm]

/-- A record that changes its module completes with the module changed. -/
theorem Served.changes_module {f : Module → Module} (h : Served s q r ring) (hm : mget s.modules q.dev = some m)
    (hexec : exec j s = .next (completeReq (modModule s q.dev f) q 1 0)) :
    Completes s q r ring j 1 0 (fun t => mget t.modules q.dev = some (f m)) :=
  h.completes hexec rfl (mget_modModule f hm)

/-- A record that changes its context completes with the context changed. -/
theorem Served.changes_context {f : Context → Context} (h : Served s q r ring) (hq : q.ctx = some ctx)
    (hexec : exec j s = .next (completeReq (modCtx s ctx f) q 1 0)) :
    Completes s q r ring j 1 0 (fun t => ctxOf t ctx = f (ctxOf s ctx)) :=
  h.completes hexec rfl (ctxOf_modCtx_same f (h.context hq))

/-! ### WINDOW_OPEN -/

/-- The window a served WINDOW_OPEN made. -/
theorem serveWindow_of_found {w : Window} (hm : mget s.modules q.dev = some m) (hresult : r.result ≠ 0)
    (hw : m.windows.find? (fun w => w.id == r.result.toNat) = some w) :
    serveWindow q r s = if w.open_ then completeReq s q 1 w.id else s := by
  have hresult : (r.result != 0) = true := bne_iff_ne.mpr hresult
  simp only [serveWindow, hm, Option.bind_some, hresult, Bool.true_and, hw]

/-- Served once, WINDOW_OPEN makes a window and names it in RESULT. -/
theorem serveWindow_of_new (hresult : r.result = 0) :
    serveWindow q r s = modRing (modModule { s with uid := s.uid + 1 } q.dev (fun m => { m with windows := m.windows ++
        [⟨s.uid + 1, max (2 ^ 39) (r.arg0.toNat / 2 ^ 16 * 2 ^ 16), (r.arg0.toNat + r.arg1.toNat + 65535) / 2 ^ 16 * 2 ^ 16,
          windowCtxs r.arg2, false⟩] })) q
      (fun g => match g.pending with
        | [] => g
        | x :: xs => { g with pending := { x with result := BitVec.ofNat 32 (s.uid + 1) } :: xs }) := by
  have hnone : ((mget s.modules q.dev).bind (fun m => m.windows.find? (fun w => r.result != 0 && w.id == r.result.toNat))) = none := by
    cases mget s.modules q.dev <;> simp [hresult]
  rw [serveWindow, hnone]
  rfl

/-- The record that made a window stays at the head of its ring, with the window's name. -/
theorem headReq_serveWindow_of_new (h : AtHead s q r ring) (hresult : r.result = 0) :
    headReq (serveWindow q r s) q = some { r with result := BitVec.ofNat 32 (s.uid + 1) } := by
  rw [serveWindow_of_new hresult, headReq, ringOf_modRing]
  · rw [show ringOf (modModule { s with uid := s.uid + 1 } q.dev _) q = some ring from h.ring, Option.map_some, Option.bind_some,
      pending_of_headReq h.head h.ring]
    rfl
  · intro x
    split <;> rfl

/-! ### SET -/

theorem serveSet_of_module (hn : ¬ (4 ≤ r.arg0.toNat ∧ r.arg0.toNat ≤ 8)) (hm : mget s.modules q.dev = some m) :
    serveSet q r s = (setModule r.arg0.toNat r.arg1.toNat m).elim (refuseReq s q 0)
      (fun m' => completeReq (modModule s q.dev (fun _ => m')) q 1 0) := by
  have hn : ¬ (4 ≤ r.arg0.toNat && r.arg0.toNat ≤ 8) = true := by simpa using hn
  refine (if_neg hn).trans ?_
  rw [hm, Option.bind_some]
  cases setModule r.arg0.toNat r.arg1.toNat m with
  | none => rfl
  | some m' => rfl

theorem serveSet_of_context (hlo : 4 ≤ r.arg0.toNat) (hhi : r.arg0.toNat ≤ 8) (hq : q.ctx = some ctx) :
    serveSet q r s = (setContext r.arg0.toNat r.arg1 (reservedBeside s ctx) (ctxOf s ctx)).elim (refuseReq s q 0)
      (fun x => completeReq (modCtx s ctx (fun _ => x)) q 1 0) := by
  have hn : (4 ≤ r.arg0.toNat && r.arg0.toNat ≤ 8) = true := by simp [hlo, hhi]
  refine (if_pos hn).trans ?_
  rw [hq]
  dsimp only
  cases setContext r.arg0.toNat r.arg1 (reservedBeside s ctx) (ctxOf s ctx) with
  | none => rfl
  | some x => rfl

/-- A setting of the module is taken within its range and refused outside (R424). -/
theorem Served.sets_module {n lo hi : Nat} {set : Module → Module} (h : Served s q r ring) (hcode : r.code.toNat = 11)
    (hm : mget s.modules q.dev = some m) (harg : r.arg0.toNat = n) (hn : n < 4)
    (hset : setModule n r.arg1.toNat m = if lo ≤ r.arg1.toNat && r.arg1.toNat ≤ hi then some (set m) else none) :
    (lo ≤ r.arg1.toNat ∧ r.arg1.toNat ≤ hi → Completes s q r ring (.setReq q) 1 0 (fun t => mget t.modules q.dev = some (set m))) ∧
    (r.arg1.toNat < lo ∨ hi < r.arg1.toNat → Completes s q r ring (.setReq q) 2 0 (Unchanged s)) := by
  have hserve := serveSet_of_module (s := s) (r := r) (by omega) hm
  have hexec := h.serve hcode (serveSet q)
  rw [harg, hset] at hserve
  refine ⟨fun hin => ?_, fun hout => ?_⟩
  · rw [if_pos (by simpa using hin)] at hserve
    exact h.changes_module (f := fun _ => set m) hm (hexec.trans (congrArg _ hserve))
  · rw [if_neg (by simp only [Bool.and_eq_true, decide_eq_true_eq]; omega)] at hserve
    exact h.refused (hexec.trans (congrArg _ hserve))

/-- A setting of the context is taken where it is good and refused where it is not (R424). -/
theorem Served.sets_context {n : Nat} {good : Prop} {set : Context → Context} (h : Served s q r ring) (hcode : r.code.toNat = 11)
    (harg : r.arg0.toNat = n) (hlo : 4 ≤ n) (hhi : n ≤ 8) (hq : q.ctx = some ctx)
    (hyes : good → setContext n r.arg1 (reservedBeside s ctx) (ctxOf s ctx) = some (set (ctxOf s ctx)))
    (hno : ¬ good → setContext n r.arg1 (reservedBeside s ctx) (ctxOf s ctx) = none) :
    (good → Completes s q r ring (.setReq q) 1 0 (fun t => ctxOf t ctx = set (ctxOf s ctx))) ∧
    (¬ good → Completes s q r ring (.setReq q) 2 0 (Unchanged s)) := by
  have hserve := serveSet_of_context (s := s) (r := r) (by omega) (by omega) hq
  have hexec := h.serve hcode (serveSet q)
  rw [harg] at hserve
  refine ⟨fun hgood => ?_, fun hbad => ?_⟩
  · rw [hyes hgood] at hserve
    exact h.changes_context (f := fun _ => set (ctxOf s ctx)) hq (hexec.trans (congrArg _ hserve))
  · rw [hno hbad] at hserve
    exact h.refused (hexec.trans (congrArg _ hserve))

/-- A number that no setting has is refused. -/
theorem Served.sets_nothing (h : Served s q r ring) (hcode : r.code.toNat = 11) (hm : mget s.modules q.dev = some m)
    (harg : r.arg0.toNat = 0 ∨ 8 < r.arg0.toNat) : Completes s q r ring (.setReq q) 2 0 (Unchanged s) := by
  have hnone : setModule r.arg0.toNat r.arg1.toNat m = none := by
    simp only [setModule, beq_iff_eq]
    rw [if_neg (by omega), if_neg (by omega), if_neg (by omega)]
  have hserve := serveSet_of_module (s := s) (r := r) (by omega) hm
  rw [hnone] at hserve
  exact h.refused ((h.serve hcode (serveSet q)).trans (congrArg _ hserve))

end

/-! ### LOG_READ and HEALTH -/

section
variable {s : State} {q : RingId} {ring : Ring}

theorem ringOf_sendOut (hring : ringOf s q = some ring) (bs : List (BitVec 8)) :
    ringOf (sendOut s q bs) q = some { ring with out := ring.out ++ bs } := by
  rw [sendOut, ringOf_modRing, hring]
  · rfl
  · exact fun _ => rfl

theorem out_completeReq {g : Ring} (hring : ringOf s q = some g) (status result : Nat) :
    (ringOf (completeReq s q status result) q).map (·.out) = some g.out := by
  rw [completeReq, ringOf_modRing, hring, Option.map_some, Option.map_some]
  · split <;> rfl
  · intro x
    split <;> rfl

end

/-! ### GRAPH_LOAD -/

theorem foldl_clearFrame_uid (fs : List Nat) (s : State) : (fs.foldl clearFrame s).uid = s.uid := by
  induction fs generalizing s with
  | nil => rfl
  | cons f fs ih => exact ih (clearFrame s f)

theorem validate_uid (s : State) (fs : List Nat) (g : BitVec 8) : (validate s fs g).uid = s.uid := foldl_clearFrame_uid _ s

theorem newTable_uid {s : State} {ctx dev : Nat} {p : Nat × State} (h : newTable s ctx dev = some p) : p.2.uid = s.uid := by
  unfold newTable at h
  dsimp only at h
  split at h
  · cases h
  · cases h
    rfl

theorem subTable_uid {s : State} {ctx dev entry : Nat} {p : Nat × State} (h : subTable s ctx dev entry = some p) : p.2.uid = s.uid := by
  unfold subTable at h
  dsimp only at h
  split at h
  · cases h
    rfl
  · obtain ⟨t, ht, rfl⟩ := Option.map_eq_some_iff.mp h
    exact (newTable_uid ht : t.2.uid = s.uid)

/-- Writing a leaf takes no fresh name. -/
theorem putLeaf_uid {s t : State} {ctx dev va : Nat} {big : Bool} {e : BitVec 64} (h : putLeaf s ctx dev va big e = some t) :
    t.uid = s.uid := by
  obtain ⟨root, -, h⟩ := Option.bind_eq_some_iff.mp h
  obtain ⟨p, hp, h⟩ := Option.bind_eq_some_iff.mp h
  dsimp only at h
  split at h
  · cases h
    exact subTable_uid hp
  · obtain ⟨t, ht, rfl⟩ := Option.map_eq_some_iff.mp h
    exact (subTable_uid ht).trans (subTable_uid hp)

/-- Of queue memory, a page's frame becomes VALID and tables are built. -/
theorem mapQueuePage_builds {s t : State} {ctx dev : Nat} {p : Nat × Nat × Bool} (h : mapQueuePage s ctx dev p = some t) :
    (∃ fs, BuildsTables ctx { s with frames := fs } t) ∧ t.uid = s.uid := by
  let f := byteKey dev p.2.1 / 2 ^ 16
  refine ⟨⟨mset s.frames f ⟨(frameOf s (f * 2 ^ 16)).gen, .valid, true⟩, ?_⟩, (putLeaf_uid h).trans (validate_uid ..)⟩
  have hcleared := (clearFrame_builds ctx s f).with_frames (mset s.frames f ⟨(frameOf s (f * 2 ^ 16)).gen, .valid, true⟩)
  exact (hcleared.trans (validate_one ctx _ f _)).trans (putLeaf_builds h)

theorem mapQueuePages_cons (ctx dev : Nat) (p : Nat × Nat × Bool) (ps : List (Nat × Nat × Bool)) (s : State) :
    mapQueuePages ctx dev (p :: ps) s = (mapQueuePage s ctx dev p).bind (mapQueuePages ctx dev ps) := by
  rw [mapQueuePages, List.foldl_cons, Option.bind_some]
  cases mapQueuePage s ctx dev p with
  | some t => rfl
  | none =>
    rw [Option.bind_none]
    induction ps with
    | nil => rfl
    | cons p ps ih => exact ih

/-- Mapping queue memory changes frames, and of the context its count of tables. -/
theorem mapQueuePages_builds {ctx dev : Nat} {ps : List (Nat × Nat × Bool)} {s t : State} (h : mapQueuePages ctx dev ps s = some t) :
    (∃ fs, BuildsTables ctx { s with frames := fs } t) ∧ t.uid = s.uid := by
  induction ps generalizing s with
  | nil =>
    obtain rfl : s = t := Option.some.inj h
    exact ⟨⟨s.frames, .refl ctx s⟩, rfl⟩
  | cons p ps ih =>
    rw [mapQueuePages_cons] at h
    obtain ⟨u, hu, h⟩ := Option.bind_eq_some_iff.mp h
    obtain ⟨⟨fs, hfirst⟩, huid⟩ := mapQueuePage_builds hu
    obtain ⟨⟨gs, hrest⟩, huid'⟩ := ih h
    exact ⟨⟨gs, (hfirst.with_frames gs).trans hrest⟩, huid'.trans huid⟩

/-- Writing sections leaves contexts and rings. -/
theorem foldl_writeVa_only (ctx dev : Nat) (im : GraphImage) (xs : List Section) (s : State) :
    let t := xs.foldl (fun t x => writeVa t ctx dev (x.page * 2 ^ 16) (sectionBytes im x)) s
    t.contexts = s.contexts ∧ t.rings = s.rings := by
  induction xs generalizing s with
  | nil => exact ⟨rfl, rfl⟩
  | cons x xs ih => exact ih (writeVa s ctx dev (x.page * 2 ^ 16) (sectionBytes im x))

/-- A context with a loaded graph and its free slots (R200, R202). -/
def withGraph (id dev : Nat) (im : GraphImage) (als : List Alloc) (x : Context) : Context :=
  { x with
    graphs := x.graphs ++ [⟨id, dev, imageNodes im, false, als⟩]
    slots := x.slots ++ als.flatMap (fun al => slabSlots id dev al.die al.slab 0 im.nodes) }

/-- The queue memory an image names for the dies of a load. -/
def loadAllocs (r : ReqRec) (im : GraphImage) : List Alloc := (maskDies r.arg1).filterMap (fun d => im.allocs.find? (·.die == d))

section
variable {s : State} {q : RingId} {r : ReqRec} {ring : Ring} {ctx : Nat} {im : GraphImage}

theorem serveLoad_of_no_image (h : r.image = none) : serveLoad q ctx r s = refuseReq s q 0 := by
  simp [serveLoad, h]

variable (himage : r.image = some im) (hdies : maskDies r.arg1 ≠ []) (hmask : r.arg1.toNat < 16)
  (hals : (loadAllocs r im).length = (maskDies r.arg1).length) (hok : imageOk s ctx q.dev im = true)
  (hallocs : allocsOk s ctx q.dev im.nodes (loadAllocs r im) = true)
include himage hdies hmask hals hok hallocs

theorem serveLoad_loads {t : State} (hmap : mapQueuePages ctx q.dev ((loadAllocs r im).flatMap (·.pages)) s = some t) :
    serveLoad q ctx r s = completeReq (im.sections.foldl (fun t x => writeVa t ctx q.dev (x.page * 2 ^ 16) (sectionBytes im x))
      (modCtx { t with uid := t.uid + 1 } ctx (withGraph t.uid q.dev im (loadAllocs r im)))) q 1 t.uid := by
  have hgo : ((maskDies r.arg1).isEmpty || decide (16 ≤ r.arg1.toNat) || (loadAllocs r im).length != (maskDies r.arg1).length ||
      !imageOk s ctx q.dev im || !allocsOk s ctx q.dev im.nodes (loadAllocs r im)) = false := by
    simp [hdies, hals, hok, hallocs]
    omega
  rw [loadAllocs] at *
  simp only [serveLoad, himage, hgo, hmap, Bool.false_eq_true, if_false]
  rfl

/-- A load that is not refused names the graph by a fresh number, and its slots are free. -/
theorem Served.loads (h : Served s q r ring) (hq : q.ctx = some ctx) (hn : r.code.toNat = 5)
    (hmap : (mapQueuePages ctx q.dev ((loadAllocs r im).flatMap (·.pages)) s).isSome = true) :
    Completes s q r ring (.graphLoad q) 1 s.uid (fun t =>
      (ctxOf t ctx).graphs = (ctxOf s ctx).graphs ++ [⟨s.uid, q.dev, imageNodes im, false, loadAllocs r im⟩] ∧
      (ctxOf t ctx).slots = (ctxOf s ctx).slots ++ (loadAllocs r im).flatMap (fun al => slabSlots s.uid q.dev al.die al.slab 0 im.nodes)) := by
  obtain ⟨t, hmap⟩ := Option.isSome_iff_exists.mp hmap
  obtain ⟨⟨fs, hbuilds⟩, huid⟩ := mapQueuePages_builds hmap
  have hserve := serveLoad_loads himage hdies hmask hals hok hallocs hmap
  rw [huid] at hserve
  obtain ⟨hcontexts, hrings⟩ := foldl_writeVa_only ctx q.dev im im.sections
    (modCtx { t with uid := s.uid + 1 } ctx (withGraph s.uid q.dev im (loadAllocs r im)))
  obtain ⟨x, hx⟩ := Option.isSome_iff_exists.mp (h.context hq)
  obtain ⟨tables, ht⟩ := hbuilds.context x hx
  have hctx := ctxOf_modCtx_same (s := { t with uid := s.uid + 1 }) (withGraph s.uid q.dev im (loadAllocs r im))
    (Option.isSome_iff_exists.mpr ⟨_, ht⟩)
  refine h.completes ((h.serveCtx hn hq (serveLoad q)).trans (congrArg _ hserve)) (hrings.trans hbuilds.rings) ?_
  rw [ctxOf_of_contexts (completeReq_contexts ..), ctxOf_of_contexts hcontexts, hctx, ctxOf_of_mget hx,
    ctxOf_of_mget (s := { t with uid := s.uid + 1 }) ht]
  exact ⟨rfl, rfl⟩

end

/-! ### GRAPH_SEED -/

section
variable {s : State} {q : RingId} {r : ReqRec} {ctx : Nat}

theorem serveSeed_of_closed (hno : nodeOf (ctxOf s ctx) (r.arg0.toNat / 2 ^ 32) (r.arg0.toNat % 2 ^ 32) = none ∨
    (graphOf (ctxOf s ctx) (r.arg0.toNat / 2 ^ 32)).any (·.closed) = true) : serveSeed q ctx r s = refuseReq s q 1 := by
  unfold serveSeed
  extract_lets node graph die x
  split
  · rename_i g h hg hh
    have hclosed : g.closed = true := by
      rcases hno with hno | hno
      · cases hno.symm.trans hh
      · rw [show graphOf (ctxOf s ctx) _ = some g from hg] at hno
        exact hno
    exact if_pos hclosed
  · rfl

variable {g : Graph} {n : NodeHdr} (hg : graphOf (ctxOf s ctx) (r.arg0.toNat / 2 ^ 32) = some g)
  (hh : nodeOf (ctxOf s ctx) (r.arg0.toNat / 2 ^ 32) (r.arg0.toNat % 2 ^ 32) = some n) (hopen : g.closed = false)
include hg hh hopen

theorem serveSeed_of_wrong_die (hno : g.dev ≠ q.dev ∨ g.allocs.any (·.die == r.arg1.toNat) = false) :
    serveSeed q ctx r s = refuseReq s q 3 := by
  have hwrong : (g.dev != q.dev || !g.allocs.any (·.die == r.arg1.toNat)) = true := by
    rcases hno with hno | hno <;> simp [hno]
  simp only [serveSeed, hg, hh, hopen, hwrong, Bool.false_eq_true, if_false, if_true]

variable (hdev : g.dev = q.dev) (hdie : g.allocs.any (·.die == r.arg1.toNat) = true)
include hdev hdie

theorem serveSeed_of_full (hfull : lowestFree (ctxOf s ctx) (r.arg0.toNat / 2 ^ 32) (r.arg0.toNat % 2 ^ 32) q.dev r.arg1.toNat = none) :
    serveSeed q ctx r s = refuseReq s q 2 := by
  simp only [serveSeed, hg, hh, hopen, hdev, hdie, hfull, bne_self_eq_false, Bool.not_true, Bool.or_self, Bool.false_eq_true, if_false]

/-- The record is written into the lowest free slot, and committed in the next cycle of the die (R235). -/
theorem serveSeed_of_free {z : Slot}
    (hfree : lowestFree (ctxOf s ctx) (r.arg0.toNat / 2 ^ 32) (r.arg0.toNat % 2 ^ 32) q.dev r.arg1.toNat = some z)
    (htodo : s.todo = []) (htimers : timersDue s q.dev r.arg1.toNat = false) :
    let u := writeVa s ctx q.dev z.addr ((List.range n.recSize).map (fun i => r.bytes.getD i 0))
    serveSeed q ctx r s = completeReq (modCtx { u with uid := s.uid + 1 } ctx (commitSlot s.uid (cycOf s q.dev r.arg1.toNat + 1) z)) q 1 0 := by
  simp only [serveSeed, hg, hh, hopen, hdev, hdie, hfree, htodo, htimers, bne_self_eq_false, Bool.not_true, Bool.or_self,
    List.isEmpty_nil, Bool.false_eq_true, if_false]
  rfl

end

/-! ### GRAPH_CLOSE -/

/-- A context as a closed graph leaves it, before its queue memory is released (R203, R207, R219, R222). -/
def closedGraph (graph : Nat) (dead : List Nat) (x : Context) : Context :=
  { x with
    graphs := x.graphs.map (fun g => if g.id == graph then { g with closed := true } else g)
    slots := x.slots.map (fun p => if p.graph == graph && (p.state == .committed || p.state == .batted) then freeSlot p else p)
    opens := x.opens.filter (·.graph != graph)
    batts := x.batts.filter (fun t => !dead.contains t.id)
    knots := x.knots.map (fun p => if p.2.graph == graph && p.2.owner == graphOwner then (p.1, breakKnot p.2) else p) }

/-- What the statement asks of a context whose graph has closed. -/
structure GraphClosed (graph : Nat) (x : Context) : Prop where
  graphs : ∀ g ∈ x.graphs, g.id = graph → g.closed = true
  opens : ∀ b ∈ x.opens, b.graph ≠ graph
  slots : ∀ z ∈ x.slots, z.graph = graph → z.state ≠ .committed ∧ z.state ≠ .batted

theorem closedGraph_closed (graph : Nat) (dead : List Nat) (x : Context) : GraphClosed graph (closedGraph graph dead x) where
  graphs := by
    intro g hg hid
    obtain ⟨g₀, -, rfl⟩ := List.mem_map.mp hg
    by_cases hg₀ : g₀.id = graph
    · simp [hg₀]
    · simp [hg₀] at hid
  opens := by
    intro b hb
    simpa using (List.mem_filter.mp hb).2
  slots := by
    intro z hz hgraph
    obtain ⟨z₀, -, rfl⟩ := List.mem_map.mp hz
    split
    · exact ⟨nofun, nofun⟩
    · rename_i hno
      rw [if_neg hno] at hgraph
      simpa [hgraph] using hno

theorem GraphClosed.of_shrinks {graph : Nat} {x y : Context} (h : GraphClosed graph x) (hxy : Shrinks x y) : GraphClosed graph y where
  graphs g hg := h.graphs g (hxy.graphs hg)
  opens b hb := h.opens b (hxy.opens hb)
  slots z hz := h.slots z (hxy.slots hz)

/-- Closing a graph ends with the release of its queue memory. -/
theorem closeGraph_releases (s : State) (ctx graph : Nat) :
    ∃ u dead, closeGraph s ctx graph = releaseGraph u ctx graph ∧ u.rings = s.rings ∧
      u.contexts = (modCtx s ctx (closedGraph graph dead)).contexts :=
  ⟨_, _, rfl, rfl, rfl⟩

theorem closeGraph_leaves {s : State} {ctx : Nat} {x : Context} (graph : Nat) (hx : mget s.contexts ctx = some x) :
    (closeGraph s ctx graph).rings = s.rings ∧ GraphClosed graph (ctxOf (closeGraph s ctx graph) ctx) := by
  obtain ⟨u, dead, hclose, hrings, hcontexts⟩ := closeGraph_releases s ctx graph
  have hkeeps := releaseGraph_keeps u ctx graph
  obtain ⟨y, hy, hshrinks⟩ := hkeeps.context ctx (closedGraph graph dead x) (by rw [hcontexts, mget_modCtx _ hx])
  rw [hclose, ctxOf, hy]
  exact ⟨hkeeps.rings.trans hrings, (closedGraph_closed graph dead x).of_shrinks hshrinks⟩

/-! ### RESET -/

/-- What the statement asks of a context that took a context error (R366). -/
structure Emptied (x : Context) : Prop where
  opens : x.opens = []
  batts : x.batts = []
  queued : x.queued = []
  bars : x.bars = []
  landings : x.landings = []
  graphs : ∀ g ∈ x.graphs, g.closed = true

theorem Emptied.of_shrinks {x y : Context} (h : Emptied x) (hxy : Shrinks x y) : Emptied y where
  opens := List.eq_nil_of_subset_nil (h.opens ▸ hxy.opens)
  batts := List.eq_nil_of_subset_nil (h.batts ▸ hxy.batts)
  queued := hxy.queued.trans h.queued
  bars := hxy.bars.trans h.bars
  landings := hxy.landings.trans h.landings
  graphs g hg := h.graphs g (hxy.graphs hg)

/-- A context with every graph of it closed (R366). -/
def closeGraphs (x : Context) : Context :=
  { x with graphs := x.graphs.map (fun g => { g with closed := true }) }

/-- A context as a context error leaves it once its cords are killed, before queue memory is released (R366). -/
def erredContext (x : Context) : Context :=
  { x with
    knots := x.knots.map (fun p => (p.1, if p.2.state == .free then p.2 else { wakeAll none p.2 with state := .broken }))
    slots := x.slots.map freeSlot
    opens := []
    batts := []
    queued := []
    bars := []
    landings := [] }

/-- The stages of a context error: the log and the closing of the graphs, the killing of cords, the recall of tokens, the emptying of
the context and the release of its graphs. What follows them touches neither rings nor contexts. -/
theorem contextError_stages (s : State) (ctx lane node : Nat) (pc : BitVec 64) (cause : Nat) (core : CoreId) :
    ∃ (l : LogRec) (cords : List (Nat × Cord)) (recalls : List Recall) (graphs : List Nat) (killed recalled released : State),
      killed = cords.foldl (fun s p => killCord s p.1) (modCtx (note s ctx l) ctx closeGraphs) ∧
      recalled = recalls.foldl startRecall killed ∧
      released = graphs.foldl (fun s g => releaseGraph s ctx g) (modCtx recalled ctx erredContext) ∧
      (contextError s ctx lane node pc cause core).rings = released.rings ∧
      (contextError s ctx lane node pc cause core).contexts = released.contexts := by
  unfold contextError
  extract_lets noted closed killed hs recalled emptied released
  exact ⟨_, _, _, _, killed, recalled, released, rfl, rfl, rfl, rfl, rfl⟩

/-- A context error leaves the rings; the context's graphs are closed, its batts, queue, barrier groups and landings gone. -/
theorem contextError_leaves {s : State} {ctx : Nat} {x : Context} (lane node : Nat) (pc : BitVec 64) (cause : Nat) (core : CoreId)
    (hx : mget s.contexts ctx = some x) :
    (contextError s ctx lane node pc cause core).rings = s.rings ∧ Emptied (ctxOf (contextError s ctx lane node pc cause core) ctx) := by
  obtain ⟨l, cords, recalls, graphs, killed, recalled, released, hkill, hrecall, hrelease, hrings, hcontexts⟩ :=
    contextError_stages s ctx lane node pc cause core
  have hkilled : Keeps noNewGraph (modCtx (note s ctx l) ctx closeGraphs) killed :=
    hkill ▸ .foldl (fun s p => killCord_keeps s p.1) _ cords
  have hrecalled : Keeps noNewGraph killed recalled := hrecall ▸ .foldl (fun s rc => (startRecall_keeps s rc).shrinks.adds_no_graph) _ recalls
  have hreleased : Keeps shrinking (modCtx recalled ctx erredContext) released :=
    hrelease ▸ .foldl (fun s g => releaseGraph_keeps s ctx g) _ graphs
  obtain ⟨y, hy, hclosed⟩ : ∃ y, mget (modCtx (note s ctx l) ctx closeGraphs).contexts ctx = some y ∧ ∀ g ∈ y.graphs, g.closed = true :=
    ⟨_, mget_modCtx _ (mget_modCtx _ hx), by simp [closeGraphs]⟩
  obtain ⟨z, hz, hgraphs⟩ := (hkilled.trans hrecalled).context ctx y hy
  have hemptied : Emptied (erredContext z) := ⟨rfl, rfl, rfl, rfl, rfl, fun g hg => hclosed g (hgraphs hg)⟩
  obtain ⟨w, hw, hshrinks⟩ := hreleased.context ctx (erredContext z) (mget_modCtx _ hz)
  refine ⟨hrings.trans (hreleased.rings.trans (hrecalled.rings.trans hkilled.rings)), ?_⟩
  rw [ctxOf_of_mget (hcontexts ▸ hw)]
  exact hemptied.of_shrinks hshrinks

/-! ### What the other codes complete with -/

section
variable {s : State} {q : RingId} {r : ReqRec} {ring : Ring} {ctx : Nat} {m : Module} (h : Served s q r ring)
include h

/-- A pinned frame that is not being moved enters the module's table (R387). -/
theorem Served.exports_frame (hn : r.code.toNat = 4) (hm : mget s.modules q.dev = some m)
    (hmoving : movingFrames s [byteKey q.dev (r.arg0.toNat % 2 ^ 40 / 2 ^ 16 * 2 ^ 16) / 2 ^ 16] = false)
    (hpin : framePinned s q.dev (byteKey q.dev (r.arg0.toNat % 2 ^ 40 / 2 ^ 16 * 2 ^ 16) / 2 ^ 16) = true) (hlt : r.arg0.toNat < 2 ^ 40) :
    Completes s q r ring (.exportFrame q) 1 0 (fun t => t.mem = s.mem ∧ mget t.modules q.dev = some { m with
      exports := m.exports.filter (fun e => !(e.ctx == r.arg2.toNat && e.frame == r.arg0.toNat % 2 ^ 40 / 2 ^ 16)) ++
        [⟨r.arg2.toNat, r.arg0.toNat % 2 ^ 40 / 2 ^ 16, r.arg1.extractLsb' 0 3, []⟩] }) := by
  have hexec := (h.serve hn (serveExport q)).trans (congrArg _ (serveExport_of_pinned hmoving hpin hlt))
  exact h.completes hexec rfl ⟨rfl, mget_modModule _ hm⟩

/-- A free slot of a node takes the seed's record, which is committed in the next cycle of its die. -/
theorem Served.seeds {g : Graph} {y : NodeHdr} {z : Slot} (hq : q.ctx = some ctx) (hn : r.code.toNat = 6)
    (hg : graphOf (ctxOf s ctx) (r.arg0.toNat / 2 ^ 32) = some g)
    (hy : nodeOf (ctxOf s ctx) (r.arg0.toNat / 2 ^ 32) (r.arg0.toNat % 2 ^ 32) = some y) (hopen : g.closed = false) (hdev : g.dev = q.dev)
    (hdie : g.allocs.any (·.die == r.arg1.toNat) = true)
    (hfree : lowestFree (ctxOf s ctx) (r.arg0.toNat / 2 ^ 32) (r.arg0.toNat % 2 ^ 32) q.dev r.arg1.toNat = some z)
    (htodo : s.todo = []) (htimers : timersDue s q.dev r.arg1.toNat = false) :
    Completes s q r ring (.graphSeed q) 1 0 (fun t =>
      t.mem = (writeVa s ctx q.dev z.addr ((List.range y.recSize).map (fun i => r.bytes.getD i 0))).mem ∧
      ctxOf t ctx = commitSlot s.uid (cycOf s q.dev r.arg1.toNat + 1) z (ctxOf s ctx)) := by
  have hexec := (h.serveCtx hn hq (serveSeed q)).trans (congrArg _ (serveSeed_of_free hg hy hopen hdev hdie hfree htodo htimers))
  exact h.completes hexec rfl ⟨rfl, ctxOf_modCtx_same _ (h.context hq)⟩

theorem Served.exec_graphClose (hq : q.ctx = some ctx) (hn : r.code.toNat = 7) :
    exec (.graphClose q) s = .next (completeReq (closeGraph s ctx r.arg0.toNat) q 1 0) :=
  h.serveCtx hn hq (fun ctx r s => completeReq (closeGraph s ctx r.arg0.toNat) q 1 0)

theorem Served.closes_graph (hq : q.ctx = some ctx) (hn : r.code.toNat = 7) :
    Completes s q r ring (.graphClose q) 1 0 (fun t => (∀ g ∈ (ctxOf t ctx).graphs, g.id = r.arg0.toNat → g.closed = true) ∧
      (∀ b ∈ (ctxOf t ctx).opens, b.graph ≠ r.arg0.toNat) ∧
      ∀ z ∈ (ctxOf t ctx).slots, z.graph = r.arg0.toNat → z.state ≠ .committed ∧ z.state ≠ .batted) := by
  obtain ⟨y, hy⟩ := Option.isSome_iff_exists.mp (h.context hq)
  obtain ⟨hrings, hclosed⟩ := closeGraph_leaves r.arg0.toNat hy
  exact h.completes (h.exec_graphClose hq hn) hrings ⟨hclosed.graphs, hclosed.opens, hclosed.slots⟩

theorem Served.exec_windowClose (hn : r.code.toNat = 9) : exec (.windowClose q) s = .next (completeReq (modModule s q.dev (fun m =>
    { m with windows := m.windows.filter (fun w => w.id != r.arg0.toNat) })) q 1 0) :=
  h.serve hn (fun r s => completeReq (modModule s q.dev (fun m => { m with windows := m.windows.filter (fun w => w.id != r.arg0.toNat) })) q 1 0)

theorem Served.exec_peerSet (hq : q.ctx = some ctx) (hn : r.code.toNat = 10) : exec (.peerSet q) s = .next (completeReq (modCtx s ctx (fun x =>
    { x with peers := mset x.peers (r.arg0.toNat % 65536) ⟨r.arg1.toNat % 1024, r.arg2.toNat % 4⟩ })) q 1 0) :=
  h.serveCtx hn hq (fun ctx r s => completeReq (modCtx s ctx (fun x =>
    { x with peers := mset x.peers (r.arg0.toNat % 2 ^ 16) ⟨r.arg1.toNat % 1024, r.arg2.toNat % 4⟩ })) q 1 0)

theorem Served.sets_peer (hq : q.ctx = some ctx) (hn : r.code.toNat = 10) :
    Completes s q r ring (.peerSet q) 1 0 (fun t =>
      mget (ctxOf t ctx).peers (r.arg0.toNat % 65536) = some ⟨r.arg1.toNat % 1024, r.arg2.toNat % 4⟩) := by
  refine h.completes (h.exec_peerSet hq hn) rfl ?_
  rw [ctxOf_of_contexts (completeReq_contexts ..), ctxOf_modCtx_same _ (h.context hq)]
  exact mget_mset_same ..

/-- The oldest unread records go out, and are unread no more. -/
theorem Served.reads_log (hq : q.ctx = some ctx) (hn : r.code.toNat = 12) {rs : List LogRec}
    (hrs : rs = ((ctxOf s ctx).log.drop ((ctxOf s ctx).log.length - (ctxOf s ctx).unread)).take r.arg1.toNat) :
    Completes s q r ring (.logRead q) 1 (ctxOf s ctx).lost.toNat (fun t => (ctxOf t ctx).unread = (ctxOf s ctx).unread - rs.length ∧
      (ringOf t q).map (·.out) = some (ring.out ++ rs.flatMap logBytes)) := by
  subst hrs
  have hout := ringOf_sendOut h.ring
    ((((ctxOf s ctx).log.drop ((ctxOf s ctx).log.length - (ctxOf s ctx).unread)).take r.arg1.toNat).flatMap logBytes)
  refine .of_out h.head h.ring (h.serveCtx hn hq (serveLog q)) hout ⟨?_, out_completeReq hout ..⟩
  rw [ctxOf_of_contexts (completeReq_contexts ..), ctxOf_modCtx_same (s := sendOut s q _) _ (h.context hq)]
  rfl

theorem Served.exec_healthReq (hn : r.code.toNat = 13) (hm : mget s.modules q.dev = some m) :
    exec (.healthReq q) s = .next (completeReq (sendOut s q ((List.range 4).flatMap (healthBytes s m))) q 1 0) := by
  have hexec := h.serve hn (fun _ s => match mget s.modules q.dev with
    | some m => completeReq (sendOut s q ((List.range 4).flatMap (healthBytes s m))) q 1 0
    | none => s)
  rw [hm] at hexec
  exact hexec

theorem Served.reads_health (hn : r.code.toNat = 13) (hm : mget s.modules q.dev = some m) :
    Completes s q r ring (.healthReq q) 1 0 (fun t =>
      (ringOf t q).map (·.out) = some (ring.out ++ (List.range 4).flatMap (healthBytes s m))) := by
  have hout := ringOf_sendOut h.ring ((List.range 4).flatMap (healthBytes s m))
  exact .of_out h.head h.ring (h.exec_healthReq hn hm) hout (out_completeReq hout ..)

theorem Served.exec_resetReq (hq : q.ctx = some ctx) (hn : r.code.toNat = 14) :
    exec (.resetReq q) s = .next (completeReq (contextError s ctx 0 0 0 0 ⟨q.dev, 0, 63⟩) q 1 0) :=
  h.serveCtx hn hq (fun ctx _ s => completeReq (contextError s ctx 0 0 0 0 ⟨q.dev, 0, 63⟩) q 1 0)

theorem Served.resets (hq : q.ctx = some ctx) (hn : r.code.toNat = 14) :
    Completes s q r ring (.resetReq q) 1 0 (fun t => (ctxOf t ctx).opens = [] ∧ (ctxOf t ctx).batts = [] ∧ (ctxOf t ctx).queued = [] ∧
      (ctxOf t ctx).bars = [] ∧ (ctxOf t ctx).landings = [] ∧ ∀ g ∈ (ctxOf t ctx).graphs, g.closed = true) := by
  obtain ⟨y, hy⟩ := Option.isSome_iff_exists.mp (h.context hq)
  obtain ⟨hrings, hempty⟩ := contextError_leaves 0 0 0 0 ⟨q.dev, 0, 63⟩ hy
  rw [← ctxOf_of_contexts (completeReq_contexts _ q 1 0)] at hempty
  exact h.completes (h.exec_resetReq hq hn) hrings ⟨hempty.opens, hempty.batts, hempty.queued, hempty.bars, hempty.landings, hempty.graphs⟩

end

/-- The trap vector is an address of a word, or none (R424). -/
theorem setContext_vector_good {v : BitVec 64} {others : Nat} {x : Context} (h : v = BitVec.allOnes 64 ∨ v.toNat % 4 = 0) :
    setContext 7 v others x = some { x with vector := if v = BitVec.allOnes 64 then none else some v } := by
  by_cases hv : v = BitVec.allOnes 64
  · simp [setContext, hv]
  · simp [-BitVec.reduceAllOnes, setContext, hv, h.resolve_left hv]

theorem setContext_vector_bad {v : BitVec 64} {others : Nat} {x : Context} (h : ¬ (v = BitVec.allOnes 64 ∨ v.toNat % 4 = 0)) :
    setContext 7 v others x = none := by
  obtain ⟨hv, hword⟩ := not_or.mp h
  simp [-BitVec.reduceAllOnes, setContext, hv, hword]

/-! ### The statement -/

/-- Settles O51: each clause is one outcome of the service of a code. -/
theorem requestServing : Obligations.RequestServing := by
  unfold Obligations.RequestServing
  intro s q r ring ctx m hhead hring hlive hm i n ok own x rs fin same page quiet v
  have hat : AtHead s q r ring := ⟨hhead, hring, hlive⟩
  have hserved : ok → Served s q r ring := fun h => { hat with wellFormed := h.1, known := h.2 }
  refine ⟨hat.malformed, hat.unknown, fun h hq hn => (hserved h).on_module_ring hq hn, ?map, ?unmap, ?protect, ?exportFrame, ?load, ?seed, ?close,
    ?windowOpen, ?windowClose, ?peerSet, ?set, ?logRead, ?health, ?reset⟩
  case map =>
    rintro ⟨hok, hq⟩ hn
    have h := hserved hok
    have hexec := h.serveCtx hn hq (serveMap q)
    refine ⟨hexec, fun hbad => h.refused (hexec.trans (congrArg _ (serveMap_of_bad_template hbad))), ?_⟩
    rintro root a e0 ⟨hmoves, -, -, hlen⟩ htemplate hsize hdev hpage hroot hwalk f fr hseen
    exact h.maps_one_page hq hmoves hlen hn htemplate hsize hdev hpage hroot hwalk rfl hseen
  case unmap =>
    rintro ⟨hok, hq⟩ hn
    have h := hserved hok
    have hexec := h.serveCtx hn hq (serveUnmap q)
    refine ⟨hexec, fun hbits => h.refused (hexec.trans (congrArg _ (serveUnmap_of_bits hbits))), ?_⟩
    rintro a e ⟨hmoves, harr, hbase, hlen⟩ hbits hleaf hdev hsteward hlease himports f fr
    exact h.unmaps_one_page hq hmoves hlen harr hbase hleaf hdev himports hsteward rfl hn hbits hlease
  case protect =>
    rintro ⟨hok, hq⟩ hn
    have h := hserved hok
    have hexec := h.serveCtx hn hq (serveProtect q)
    refine ⟨hexec, fun hbits => h.refused (hexec.trans (congrArg _ (serveProtect_of_bits hbits))), ?_⟩
    rintro a e ⟨hmoves, harr, hbase, hlen⟩ hbits hleaf hdev hsteward himports f fr
    exact h.protects_one_page hq hmoves hlen harr hbase hleaf hdev himports hsteward rfl hn hbits
  case exportFrame =>
    intro hok hn frame pinned moving
    have h := hserved hok
    have hexec := h.serve hn (serveExport q)
    refine ⟨fun hmoving => hexec.trans (congrArg _ (serveExport_of_moving hmoving)), fun hstill hpin => ?_, ?_⟩
    · exact h.refused (hexec.trans (congrArg _ (serveExport_of_unpinned hstill hpin)))
    · exact fun hstill ⟨hpin, hlt⟩ => h.exports_frame hn hm hstill hpin hlt
  case load =>
    rintro ⟨hok, hq⟩ hn
    have h := hserved hok
    have hexec := h.serveCtx hn hq (serveLoad q)
    refine ⟨hexec, fun hnone => h.refused (hexec.trans (congrArg _ (serveLoad_of_no_image hnone))), ?_⟩
    intro im himage als hdies hmask hals hgood hallocs hmap
    exact h.loads himage hdies hmask hals hgood hallocs hq hn hmap
  case seed =>
    rintro ⟨hok, hq⟩ hn
    have h := hserved hok
    have hexec := h.serveCtx hn hq (serveSeed q)
    refine ⟨hexec, fun hno => h.refused (hexec.trans (congrArg _ (serveSeed_of_closed hno))), ?_, ?_⟩
    · exact fun g y hg hy hopen hno => h.refused (hexec.trans (congrArg _ (serveSeed_of_wrong_die hg hy hopen hno)))
    · intro g y hg hy hopen hdev hdie
      refine ⟨fun hfull => h.refused (hexec.trans (congrArg _ (serveSeed_of_full hg hy hopen hdev hdie hfull))), ?_⟩
      exact fun z hfree htodo htimers => h.seeds hq hn hg hy hopen hdev hdie hfree htodo htimers
  case close =>
    rintro ⟨hok, hq⟩ hn
    exact ⟨(hserved hok).exec_graphClose hq hn, (hserved hok).closes_graph hq hn⟩
  case windowOpen =>
    intro hok hn
    have h := hserved hok
    have hexec := h.serve hn (serveWindow q)
    refine ⟨fun w hresult hw => ?_, fun hresult => ?_⟩
    · have hserve := serveWindow_of_found (s := s) hm hresult hw
      refine ⟨fun hopen => ?_, fun hopen => ?_⟩
      · rw [if_pos hopen] at hserve
        exact Completes.of_same hhead hring (hexec.trans (congrArg _ hserve))
      · rw [if_neg (ne_true_of_eq_false hopen)] at hserve
        exact hexec.trans (congrArg _ hserve)
    · have hhead' := headReq_serveWindow_of_new hat hresult
      rw [serveWindow_of_new hresult] at hexec hhead'
      exact ⟨_, hexec, rfl, hhead', mget_modModule _ hm⟩
  case windowClose =>
    intro hok hn
    exact ⟨(hserved hok).exec_windowClose hn, (hserved hok).changes_module hm ((hserved hok).exec_windowClose hn)⟩
  case peerSet =>
    rintro ⟨hok, hq⟩ hn
    exact ⟨(hserved hok).exec_peerSet hq hn, (hserved hok).sets_peer hq hn⟩
  case set =>
    intro hok hn
    have h := hserved hok
    refine ⟨h.serve hn (serveSet q), ?_⟩
    intro module context
    have of_arg : ∀ {n : BitVec 64}, r.arg0 = n → r.arg0.toNat = n.toNat := congrArg BitVec.toNat
    refine ⟨?_, ?_, ?_, ?_, ?_, ?_, ?_, ?_, ?_⟩
    · exact fun harg => h.sets_module (set := fun m => { m with drainLimit := r.arg1.toNat }) hn hm (of_arg harg) (by decide) rfl
    · exact fun harg => h.sets_module (set := fun m => { m with linkLimit := r.arg1.toNat }) hn hm (of_arg harg) (by decide) rfl
    · exact fun harg => h.sets_module (set := fun m => { m with e2eLimit := r.arg1.toNat }) hn hm (of_arg harg) (by decide) rfl
    · exact fun harg hq => h.sets_context (set := fun x => { x with stSlots := r.arg1.toNat }) hn (of_arg harg) (by decide) (by decide) hq
        (fun hgood => if_pos hgood) (fun hbad => if_neg hbad)
    · exact fun harg hq => h.sets_context (set := fun x => { x with waiters := r.arg1.toNat }) hn (of_arg harg) (by decide) (by decide) hq
        (fun hgood => if_pos hgood) (fun hbad => if_neg hbad)
    · exact fun harg hq => h.sets_context (set := fun x => { x with weight := r.arg1.toNat }) hn (of_arg harg) (by decide) (by decide) hq
        (fun hgood => if_pos (by simpa using hgood)) (fun hbad => if_neg (by simpa using hbad))
    · exact fun harg hq => h.sets_context (set := fun x => { x with vector := if r.arg1 = BitVec.allOnes 64 then none else some r.arg1 }) hn
        (of_arg harg) (by decide) (by decide) hq setContext_vector_good setContext_vector_bad
    · exact fun harg hq => h.sets_context (set := fun x => { x with debug := r.arg1.toNat == 1 }) hn (of_arg harg) (by decide) (by decide) hq
        (fun hgood => if_pos hgood) (fun hbad => if_neg hbad)
    · exact fun harg => h.sets_nothing hn hm (harg.imp_left (congrArg BitVec.toNat))
  case logRead =>
    rintro ⟨hok, hq⟩ hn
    exact ⟨(hserved hok).serveCtx hn hq (serveLog q), (hserved hok).reads_log hq hn rfl⟩
  case health =>
    intro hok hn
    exact ⟨(hserved hok).exec_healthReq hn hm, (hserved hok).reads_health hn hm⟩
  case reset =>
    rintro ⟨hok, hq⟩ hn
    exact ⟨(hserved hok).exec_resetReq hq hn, (hserved hok).resets hq hn⟩

end Sys2Proof.Laws

/-!
O55 and O56, decoding and encoding (R99 to R114). One direction is the round trip of every constructor; the other reads a word as fields side
by side, and finds at each row of the opcode map that the fields the row tests or hands to its instruction are those of the encoding.
-/
namespace Sys2Proof.Laws
open BitVec (extractLsb' getLsbD)

/-- Every instruction decodes from its encoding, where it is a well-formed word. -/
theorem RoundTrip.ofInstr (i : Instr) : RoundTrip.Statement i :=
  Instr.casesOn i
    iadd isub imul imad and or xor shl shr icmp sel lea bfi idp4 imulh imulhUns idiv idivUns irem iremUns imin iminUns imax imaxUns andn
    sar rotl bfx bfxUns iaddD isubD imulD andD orD xorD andnD iminD shlD shrD sarD rotlD iminDUns imaxD imaxDUns mov iabs ineg not popc
    clz ctz brev movD iabsD inegD notD popcD clzD ctzD brevD iaddImm shlImm shrImm sarImm rotlImm movi movhi pand por pxor pnot mfs mts
    mvs mvsD movs movsD fadd fsub fmul ffma fcmp fdiv fmin fmax hadd2Hf hadd2Bf hmul2Hf hmul2Bf frcp frsq fsqrt fexp2 flog2 fclass cvt
    hfma2Hf hfma2Bf ldW stW ld ldAcq st stRel lds sts ldo ldoAcq amoAdd amoSub amoMin amoMax amoMinUns amoMaxUns amoAnd amoOr amoXor
    amoSwp amoAddF acas amoAddD amoSwpD acasD amosAdd amosSub amosMin amosMax amosMinUns amosMaxUns amosAnd amosOr amosXor amosSwp
    amosCas fenceAcq fenceRel fence invl1 invl1All tkrel bra call brp bdec nop exit ret callv jmpv trap bkpt yieldp rte rteRerun trrec
    rep hintWait hintExt hintMod hintCache hintFetchI hintFetchD xlmIdx xlmXor xlmUp xlmDn red scan scanExcl elect cvset phase bar
    barcfg voteAny voteAll voteBallot qrsv qcmt qdrop qfree qstat batt knnew knset knadd knget knwait knpoll knfree knbrk hzrd hzseq
    hzwait hzbrClr hzbrNclr tdef tld tst tcopy swinit swait swadd waito press pressw mma skadd sksub skmax skmin skset skmov skext skins
    skbind cmpr sbmap cbld cbldDef cbdec rsend rsendAdd tsend tscncl esend erecv illegalInstruction instructionFill divideResult
    phaseEnd battTimerExpiry remoteKnotEvent waiterWake bindRecord launch l1Read send perform fill release acquire drop evict settle
    tableWalk tlbShootdown migration readPacket writePacket portReply refreshWindowStart refreshWindowEnd writeWindowOpens engineStart
    chunkCredit pressComplete cbldComplete passStart passWriteback engineRetire failure trapEntry preempt drainLimitExpiry flush save
    restore remoteRequest acknowledgement endToEndTimeout stompedPacket linkRetrain linkReturn linkDownDeclared planeRetire
    fabricArrival ethernetPacket sprayPacketSend esendRetryLimit clockStep coldStart warmStart mapReq unmapReq protectReq exportFrame
    graphLoad graphSeed graphClose windowOpen windowClose peerSet setReq logRead healthReq resetReq malformedRequest contextCreation
    transportRetransmission transportAcknowledgement linkLevelReplay linkCreditReturn

/-! ### Fields of a word -/

/-- x stands in the word, its lowest bit at bit s. -/
def Field {n : Nat} (w : Word) (s : Nat) (x : BitVec n) : Prop := w.extractLsb' s n = x

theorem field_extract (w : Word) (s n : Nat) : Field w s (w.extractLsb' s n) := rfl

theorem beq_iff_field {w : Word} {s n : Nat} {x : BitVec n} : (w.extractLsb' s n == x) = true ↔ Field w s x := beq_iff_eq

theorem field_append {w : Word} {s m n : Nat} {x : BitVec m} {y : BitVec n} :
    Field w s (x ++ y) ↔ Field w (s + n) x ∧ Field w s y := by
  unfold Field
  rw [← BitVec.extractLsb'_append_extractLsb'_eq_extractLsb' rfl]
  constructor
  · intro h
    exact ⟨by simpa only [BitVec.extractLsb'_append_eq_left] using congrArg (extractLsb' n m) h,
      by simpa only [BitVec.extractLsb'_append_eq_right] using congrArg (extractLsb' 0 n) h⟩
  · rintro ⟨rfl, rfl⟩
    rfl

theorem field_iff {w : Word} {s n : Nat} {x : BitVec n} : Field w s x ↔ ∀ i < n, w.getLsbD (s + i) = x.getLsbD i := by
  unfold Field
  rw [BitVec.eq_of_getLsbD_eq_iff]
  exact forall₂_congr fun i hi => by rw [BitVec.getLsbD_extractLsb', decide_eq_true hi, Bool.true_and]

theorem field_empty {w : Word} {s : Nat} (x : BitVec 0) : Field w s x := Subsingleton.elim _ _

/-- A constant is read bit by bit: a row may test in parts what the encoding writes as one constant, and the other way round. -/
theorem field_constant {w : Word} {s n c : Nat} :
    Field w s (BitVec.ofNat (n + 1) c) ↔ Field w (s + 1) (BitVec.ofNat n (c / 2)) ∧ w.getLsbD s = c.testBit 0 := by
  rw [field_iff, field_iff, Nat.forall_lt_succ_left, and_comm]
  refine and_congr (forall₂_congr fun i hi => ?_) ?_
  · rw [Nat.add_assoc, Nat.add_comm 1 i]
    simp only [BitVec.getLsbD_ofNat, hi, Nat.succ_lt_succ_iff, Nat.testBit_succ]
  · simp only [BitVec.getLsbD_ofNat, Nat.zero_lt_succ, decide_true, Bool.true_and, Nat.add_zero]

/-- A word is its predicate, stall count, major opcode and payload (R99). -/
theorem mkWord_of_fields {w : Word} {m : BitVec 6} {p : BitVec 21} (hm : majorOf w = m) (hp : Field w 0 p) :
    mkWord (guardOf w) m p = w := by
  have h : Field w 0 (mkWord (guardOf w) m p) := by
    simp only [mkWord, field_append]
    exact ⟨⟨⟨rfl, rfl⟩, hm⟩, hp⟩
  exact h.symm.trans BitVec.extractLsb'_eq_self

/-! ### The rows of the opcode map -/

/-- Where the answer r is an instruction, it is a well-formed word whose encoding is w. -/
def Sound (w : Word) (r : Except Reject Instr) : Prop := ∀ i, r = .ok i → i.isWord = true ∧ WF i ∧ encode i = w

theorem sound_error {w : Word} {e : Reject} : Sound w (.error e) := nofun

theorem sound_ite {w : Word} {b : Bool} {r r' : Except Reject Instr} (h : b = true → Sound w r) (h' : Sound w r') :
    Sound w (if b = true then r else r') := by
  cases b
  · exact h'
  · exact h rfl

theorem sound_word {w : Word} {i : Instr} {m : BitVec 6} {p : BitVec 21} (hword : i.isWord = true)
    (hencode : encode i = mkWord (guardOf w) m p) (hm : majorOf w = m) (hfields : Field w 0 p) (hwf : WF i) : Sound w (.ok i) := by
  rintro _ ⟨⟩
  exact ⟨hword, hwf, hencode.trans (mkWord_of_fields hm hfields)⟩

/-- The match splits the word by its major opcode, `sound_ite` each table into its rows and, as `need` is an if too, their checks (R103 to R114).
At a row that answers an instruction, the tests passed fix the constants of its payload, and the checks passed are its well-formedness. -/
theorem decode_sound (w : Word) : Sound w (decode w) := by
  simp only [decode, decode0F, decode10, decode12, decode15, decode16, decode17, decode1C, decode1D, decode1E, decode24, decode25,
    decode26, decode27, decode28, decode29, decode2E, decode30, decode31, decode32, decode33, decode34, decode35, decode36, decode38,
    decode39, decode3A, decode3C, decode3D, decode3E]
  split
  all_goals repeat' refine sound_ite (fun _ => ?_) ?_
  any_goals exact sound_error
  all_goals
    refine sound_word rfl rfl ‹_› ?fields ?wf
    case fields =>
      simp_all only [beq_iff_field, ↓field_append, field_extract, field_constant, field_empty, Bool.and_eq_true, and_self, true_and,
        zero_add, Nat.reduceAdd, Nat.reduceDiv, Nat.reduceMod, Nat.testBit_zero]
    case wf => simp_all only [WF, Instr.wellFormed, Bool.and_eq_true, and_self]

/-! ### The statements -/

/-- Settles O55: the round trip of every constructor, and the soundness of every row of the map. -/
theorem decodeEncode : Obligations.DecodeEncode := by
  unfold Obligations.DecodeEncode
  exact ⟨RoundTrip.ofInstr, decode_sound⟩

/-- Settles O56. -/
theorem decodeSamples : Obligations.DecodeSamples := by
  unfold Obligations.DecodeSamples
  decide

end Sys2Proof.Laws

/-!
O1 to O9, integer, predicate, move, floating-point and branch words (R30 to R46, R57, R65, R125 to R145, R371). Every word is an instance of
a word family; what a family does at its issue is said once, and each statement follows word by word, the word's meaning being that of its
family at the operation the statement writes out.
-/
namespace Sys2Proof.Laws
open Sys2Proof.Machine Sys2Proof.Safety

/-! ### The families of words at their issue -/

section
variable {s : State} {h : Here} {i : Instr} {g : Guard} {d : BitVec 7} {reads writes : List Reg} {lat : Nat} {can : Flags}

/-- A word with no precise fault of its own that goes on to the next word. -/
theorem plainWord_issues {spec : Here → State → WSpec} {effect : Here → State → State} (hi : Issues s h g (spec h s)) :
    runWord i g spec noCheck plainLeave effect s = .next (left (effect h s) h g (spec h s) {}) :=
  runWord_issues hi rfl

theorem flagWord_issues {f : Here → List (Reg × BitVec 64) × Flags}
    (hi : Issues s h g { reads := reads, writes := writes, lat := lat, fallible := flagFallible h can }) :
    flagWord i g reads writes lat can f s = .next (left (flagWrite i lat can (f h) h s) h g
      { reads := reads, writes := writes, lat := lat, fallible := flagFallible h can } {}) :=
  plainWord_issues (spec := fun h _ => { reads := reads, writes := writes, lat := lat, fallible := flagFallible h can }) hi

theorem divWord_issues {f : Here → BitVec 32 × Flags}
    (hi : Issues s h g { reads := reads, writes := [.v d], lat := 0, fallible := flagFallible h can }) :
    divWord i g reads d can f s = .next (left (divWrite i d can (f h) h s) h g
      { reads := reads, writes := [.v d], lat := 0, fallible := flagFallible h can } {}) :=
  plainWord_issues (spec := fun h _ => { reads := reads, writes := [.v d], lat := 0, fallible := flagFallible h can }) hi

theorem branchWord_issues {taken : Here → Bool} {target : Here → BitVec 64} {f : Here → List (Reg × BitVec 64)}
    (hi : Issues s h g { reads := reads, writes := writes, branch := true }) :
    Machine.branchWord i g reads writes taken target f s =
      .next (left (writeRegs s h (f h) (h.now + 1) false) h g { reads := reads, writes := writes, branch := true }
        { target := if taken h then some (target h) else none }) :=
  runWord_issues (spec := fun _ _ => { reads := reads, writes := writes, branch := true }) hi rfl

end

/-! ### The divide unit, for a result without flags -/

theorem flagFallible_none (h : Here) : flagFallible h 0 = false := by simp [flagFallible]

theorem divWrite_no_flags (i : Instr) (d : BitVec 7) (x : BitVec 32) (h : Here) (s : State) :
    divWrite i d 0 (x, 0) h s =
      { holdRegs (modHere s h (fun st => { st with divs := st.divs ++ [⟨s.uid, d, x⟩] })) h s.uid [.v d] with uid := s.uid + 1 } := by
  unfold divWrite
  rw [flagFallible_none]
  simp [raiseFlags]

/-- A word of the divide unit that raises no flag leaves its result in the unit and holds its destination. -/
theorem divWord_issues_no_flags {s : State} {h : Here} {i : Instr} {g : Guard} {d : BitVec 7} {reads : List Reg} {f : Here → BitVec 32}
    (hi : Issues s h g { reads := reads, writes := [.v d], lat := 0 }) :
    divWord i g reads d 0 (fun h => (f h, 0)) s = .next (left
      { holdRegs (modHere s h (fun st => { st with divs := st.divs ++ [⟨s.uid, d, f h⟩] })) h s.uid [.v d] with uid := s.uid + 1 }
      h g { reads := reads, writes := [.v d], lat := 0 } {}) := by
  rw [divWord_issues (by rwa [flagFallible_none]), divWrite_no_flags, flagFallible_none]

/-! ### Shifts by an immediate, which is below the width -/

section
variable {w n : Nat} {x : BitVec w} (hn : n < w)
include hn

theorem shiftL_of_lt : shiftL x n = x <<< n := if_neg (Nat.not_le.mpr hn)

theorem shiftR_of_lt : shiftR x n = x >>> n := if_neg (Nat.not_le.mpr hn)

theorem shiftA_of_lt : shiftA x n = BitVec.ofInt w (x.toInt / 2 ^ n) := by
  rw [shiftA, min_eq_left (Nat.le_sub_one_of_lt hn)]

theorem rotate_of_lt : rotate x n = x.rotateLeft n := by
  rw [rotate, Nat.mod_eq_of_lt hn]

end

/-! ### The statements -/

/-- Settles O1: every word is a register word with the result stated. -/
theorem integerThreeFieldResults : Obligations.IntegerThreeFieldResults := by
  unfold Obligations.IntegerThreeFieldResults
  intro s h g d a b
  and_intros
  all_goals exact regWord_issues

/-- Settles O2, as O1. -/
theorem integerTwoAddressResults : Obligations.IntegerTwoAddressResults := by
  unfold Obligations.IntegerTwoAddressResults
  intro s h g d a
  and_intros
  all_goals exact regWord_issues

/-- Settles O3, as O1. -/
theorem integerPairResults : Obligations.IntegerPairResults := by
  unfold Obligations.IntegerPairResults
  intro s h g d a
  and_intros
  all_goals exact regWord_issues

/-- Settles O4, as O1: a count of five bits is below 32. -/
theorem integerUnaryAndImmediateResults : Obligations.IntegerUnaryAndImmediateResults := by
  unfold Obligations.IntegerUnaryAndImmediateResults
  intro s h g d a i n m x
  have hn : n.toNat < 32 := n.isLt
  rw [← shiftL_of_lt hn, ← shiftR_of_lt hn, ← shiftA_of_lt hn, ← rotate_of_lt hn]
  and_intros
  all_goals exact regWord_issues

/-- Settles O5, as O1. -/
theorem predicateResults : Obligations.PredicateResults := by
  unfold Obligations.PredicateResults
  intro s h g c q a b
  and_intros
  all_goals exact regWord_issues

/-- Settles O6: the unit takes the quotient or remainder stated. -/
theorem integerDivisionResults : Obligations.IntegerDivisionResults := by
  unfold Obligations.IntegerDivisionResults
  intro s h g d a
  and_intros
  all_goals exact divWord_issues_no_flags

/-- Settles O7: four register words, and the two words of the special registers, which wait by their own specs. -/
theorem moveResults : Obligations.MoveResults := by
  unfold Obligations.MoveResults
  intro s h g d a r
  refine ⟨regWord_issues, regWord_issues, regWord_issues, regWord_issues, ?mfs, ?mts⟩
  all_goals
    intro hi
    unfold exec
    exact plainWord_issues hi

/-- Settles O8: the words of fixed latency, the classification, and the words of the divide and square-root unit. -/
theorem floatResults : Obligations.FloatResults := by
  unfold Obligations.FloatResults
  intro s h g c q d a b u
  exact ⟨flagWord_issues, flagWord_issues, flagWord_issues, flagWord_issues, flagWord_issues, flagWord_issues, flagWord_issues,
    flagWord_issues, flagWord_issues, flagWord_issues, flagWord_issues, flagWord_issues, flagWord_issues, flagWord_issues,
    flagWord_issues, flagWord_issues, flagWord_issues, regWord_issues, flagWord_issues, divWord_issues, divWord_issues⟩

/-- Settles O9: every branch is a word of the branch family; one that writes no register leaves the state as it is. -/
theorem branchResults : Obligations.BranchResults := by
  unfold Obligations.BranchResults
  intro s h g d a n f i
  and_intros
  all_goals exact branchWord_issues

end Sys2Proof.Laws

/-!
O10, calls and returns (R65, R68, R145, R148, R257, R358).
-/
namespace Sys2Proof.Laws
open Sys2Proof.Machine Sys2Proof.Safety

section
variable {s : State} {h : Here} {i : Instr} {g : Guard} {reads : List Reg}

/-! ### Rerun sequences -/

theorem pcOf_of_no_rerun {st : Strand} (hr : st.rerun = []) : pcOf st = st.pc := by simp [pcOf, hr]

theorem pcOf_of_rerun {st : Strand} {r : Rerun} {rs : List Rerun} (hr : st.rerun = r :: rs) : pcOf st = r.pc := by simp [pcOf, hr]

theorem respilling_of_no_rerun (hh : here s = some h) (hr : h.st.rerun = []) : respilling s = false := by simp [respilling, hh, hr]

theorem respilling_of_spill {r : Rerun} {rs : List Rerun} {x : BitVec 64 × BitVec 64} (hh : here s = some h) (hr : h.st.rerun = r :: rs)
    (hx : r.spill = some x) : respilling s = true := by simp [respilling, hh, hr, hx]

/-! ### Calls -/

theorem callWord_issues {target : Here → BitVec 64} (hi : Issues s h g { reads := reads, branch := true, fallible := spills h }) :
    callWord i g reads target s = .next (left (rsPush i h s) h g { reads := reads, branch := true, fallible := spills h }
      { target := some (target h) }) :=
  runWord_issues (spec := fun h _ => { reads := reads, branch := true, fallible := spills h }) hi rfl

/-- A call that is not the re-execution of a spill. -/
theorem call_issues {target : Here → BitVec 64} (hr : h.st.rerun = [])
    (hi : Issues s h g { reads := reads, branch := true, fallible := spills h }) :
    (if respilling s then respill i g s else callWord i g reads target s) =
      .next (left (rsPush i h s) h g { reads := reads, branch := true, fallible := spills h } { target := some (target h) }) := by
  obtain ⟨hh, -⟩ := id hi
  simp [respilling_of_no_rerun hh hr, callWord_issues hi]

/-- A call that is the re-execution of a spill repeats its store. -/
theorem respill_issues {target : Here → BitVec 64} {r : Rerun} {rs : List Rerun} {slot data : BitVec 64} (hr : h.st.rerun = r :: rs)
    (hx : r.spill = some (slot, data)) (hi : Issues s h g { branch := true, fallible := true }) :
    (if respilling s then respill i g s else callWord i g reads target s) =
      .next (left (leased h .spill slot 8 (fun s => pushOp s h i true
        { blankOp with kind := .spill, va := slot, size := 8, data := leBytes 8 data.toNat }) s)
        h g { branch := true, fallible := true } {}) := by
  obtain ⟨hh, -⟩ := id hi
  rw [if_pos (respilling_of_spill hh hr hx), respill, plainWord_issues hi]
  simp [hr, hx]

/-! ### Returns -/

/-- A return with an entry on the stack goes to it. -/
theorem ret_of_entry {x : BitVec 64} (hx : h.st.rs.getLast? = some x) (hi : Issues s h g { branch := true }) :
    execRet g s = .next (left (modHere s h (fun st => { st with rs := st.rs.dropLast })) h g { branch := true }
      { target := some (wordAlign x) }) := by
  have hentry : h.st.rs.isEmpty = false := by
    cases hrs : h.st.rs with
    | nil => simp [hrs] at hx
    | cons => rfl
  unfold execRet
  rw [runWord_issues (h := h) (by rwa [hentry]) rfl]
  simp [hentry, hx]

/-- A return from an empty stack asks for an entry and stays at its word. -/
theorem ret_of_empty (hrs : h.st.rs = []) (hi : Issues s h g { branch := true, fallible := true }) :
    execRet g s = .next (left
      (leased h .refill (h.st.csp + 8) 8 (fun s =>
        modHere (pushOp s h (.ret g) true { blankOp with kind := .refill, va := h.st.csp + 8, size := 8 }) h
          (fun st => { st with wait := .answer })) s)
      h g { branch := true, fallible := true } { target := some h.st.pc }) := by
  have hempty : h.st.rs.isEmpty = true := by rw [hrs]; rfl
  unfold execRet
  rw [runWord_issues (h := h) (by rwa [hempty]) rfl]
  simp [hrs]

end

/-- Settles O10: the effect stated for a call is a push, for a return from an empty stack a leased refill, and for a call re-executed
its leased store. -/
theorem callAndReturnResults : Obligations.CallAndReturnResults := by
  unfold Obligations.CallAndReturnResults
  refine ⟨?_, ?_⟩
  · intro s h g a f hr back sp push
    have hpush (i : Instr) : push i = rsPush i h s := by
      unfold rsPush leased
      rw [pcOf_of_no_rerun hr]
      rfl
    refine ⟨?_, ?_, ?_, ?_⟩
    · rw [hpush]
      exact call_issues hr
    · rw [hpush]
      exact call_issues hr
    · exact fun x hx => ret_of_entry hx
    · intro hrs hi
      refine (ret_of_empty hrs hi).trans ?_
      unfold leased
      rw [pcOf_of_no_rerun hr]
      rfl
  · intro s h g a f r rs slot data hr hx again
    have hagain (i : Instr) : again i = leased h .spill slot 8 (fun s => pushOp s h i true
        { blankOp with kind := .spill, va := slot, size := 8, data := leBytes 8 data.toNat }) s := by
      unfold leased
      rw [pcOf_of_rerun hr]
      rfl
    rw [hagain, hagain]
    exact ⟨respill_issues hr hx, respill_issues hr hx⟩

end Sys2Proof.Laws

/-!
O11, nop, the hints and rep (R67, R116 to R124, R145, R242, R257).
-/
namespace Sys2Proof.Laws
open Sys2Proof.Machine Sys2Proof.Safety

section
variable {s : State} {h : Here} {g : Guard}

/-- A field that names no pair is odd (R51, R101). -/
theorem even_eq_false_iff {a : BitVec 7} : even a = false ↔ a.toNat % 2 = 1 := by
  simp [even, BitVec.toNat_eq]

/-- A request for the data span at v is dropped: its base is no pair of the declared registers, or the leases do not cover it (R242, R257). -/
abbrev SpanDropped (s : State) (h : Here) (a : BitVec 7) (v : Nat) : Prop :=
  a.toNat % 2 = 1 ∨ h.cord.hdr.vregs ≤ a.toNat + 1 ∨ leaseMiss s h.sel.cord h.cord ((List.range 64).map (v + ·)) false ≠ none

/-- A hint for a data span asks for it, where the request is not dropped. -/
theorem hintFetchD_issues {a : BitVec 7} {o : BitVec 9} (hi : Issues s h g {}) :
    execHintFetchD g a o s = .next (left
      (if SpanDropped s h a (askedData a o h) then s
        else modHereCore s h (fun co => { co with
          dasks := if co.dasks.contains (h.cord.ctx, askedData a o h) then co.dasks
            else co.dasks ++ [(h.cord.ctx, askedData a o h)] })) h g {} {}) := by
  unfold execHintFetchD
  rw [plainWord_issues hi]
  simp only [SpanDropped, Bool.or_eq_true, or_assoc, Bool.not_eq_true', even_eq_false_iff, decide_eq_true_eq,
    Option.isSome_iff_ne_none]

/-- A rep whose next word is cached and may be repeated. -/
theorem rep_issues {n : BitVec 6} {x y z : BitVec 3} {w : BitVec 32}
    (hw : cachedWord (coreOfCord s h.cord) h.cord.ctx (h.st.pc + 4) = some w) (hpairs : repPairs w y z = true) (hi : Issues s h g {}) :
    execRep g n x y z s = .next (left s h g {} { rep := some ⟨n.toNat + 1, 0, x, y, z⟩ }) := by
  have hhold : (cachedWord (coreOfCord s h.cord) h.cord.ctx (h.st.pc + 4)).isNone = false := by rw [hw]; rfl
  unfold execRep
  rw [runWord_issues (h := h) (by rwa [hhold]) (by simp only [hw, Option.all_some, hpairs, if_true]), hhold]

end

/-- Settles O11: words without an effect, with a request for a span, and with a repetition. -/
theorem hintAndRepResults : Obligations.HintAndRepResults := by
  unfold Obligations.HintAndRepResults
  intro s h g w e x r l c o p a n sd sa sb fi fd dropped
  refine ⟨?nop, ?wait, ?ext, ?mod, ?cache, ?fetchI, ?droppedD, ?fetchD, ?rep⟩
  case nop | wait | ext | mod | cache | fetchI =>
    intro hi
    unfold exec
    exact runWord_issues hi rfl
  case droppedD =>
    intro (hd : SpanDropped s h a (askedData a p h)) hi
    exact (hintFetchD_issues hi).trans (by rw [if_pos hd])
  case fetchD =>
    intro (hd : ¬ SpanDropped s h a (askedData a p h)) hi
    exact (hintFetchD_issues hi).trans (by rw [if_neg hd]; rfl)
  case rep => exact fun word hw hpairs => rep_issues hw hpairs

end Sys2Proof.Laws

/-!
O17 and O18, the words that access global memory (R149, R150, R263, R278 to R281).
-/
namespace Sys2Proof.Laws
open Sys2Proof.Machine Sys2Proof.Safety

section
variable {s : State} {h : Here} {i : Instr} {g : Guard} {reads writes : List Reg} {align : Nat} {va : Here → BitVec 64} {op : Here → Op}

theorem leased_of_free {k : OpKind} {va : BitVec 64} {size : Nat} {f : State → State}
    (hfree : leaseBad s h.sel.cord h.cord va size (kindWrites k) = none) : leased h k va size f s = f s := by
  simp [leased, hfree]

/-- An access the leases allow, aligned as its word asks, that waits for no miss-status entry joins the pending sequence. -/
theorem memWord_issues (hroom : ((op h).kind == .load && mshrFull s h (va h) (op h).size) = false) (halign : (va h).toNat % align = 0)
    (hfree : leaseBad s h.sel.cord h.cord (va h) (op h).size (kindWrites (op h).kind) = none)
    (hi : Issues s h g { reads := reads, writes := writes, lat := 0, fallible := true }) :
    memWord i g reads writes align va op s = .next (left
      (if (op h).kind == .load
        then mshrJoin (holdRegs (pushOp s h i true { op h with va := va h }) h s.uid writes) h s.uid (va h) (op h).size
        else holdRegs (pushOp s h i true { op h with va := va h }) h s.uid writes)
      h g { reads := reads, writes := writes, lat := 0, fallible := true } {}) := by
  unfold memWord
  rw [runWord_issues (h := h) (by rwa [hroom]) (by simp [halign]), leased_of_free hfree, hroom]
  rfl

end

/-- Settles O17: the plain loads by the room among the miss-status entries, the acquire loads by their alignment. -/
theorem loadIssueResults : Obligations.LoadIssueResults := by
  unfold Obligations.LoadIssueResults
  intro s h g d a o z k va off free sp op queued
  refine ⟨?_, ?_, ?_, ?_⟩
  · exact fun hfree hroom => memWord_issues hroom (Nat.mod_one _) hfree
  · exact fun hfree hroom => memWord_issues hroom (Nat.mod_one _) hfree
  · exact fun hfree => memWord_issues rfl (Nat.mod_one _) hfree
  · exact fun hfree halign => ⟨memWord_issues rfl halign hfree, memWord_issues rfl halign hfree⟩

/-- Settles O18: no store needs a miss-status entry. -/
theorem storeIssueResults : Obligations.StoreIssueResults := by
  unfold Obligations.StoreIssueResults
  intro s h g d a o z k va off free sp op
  refine ⟨?_, ?_, ?_⟩
  · exact fun hfree => memWord_issues rfl (Nat.mod_one _) hfree
  · exact fun hfree => memWord_issues rfl (Nat.mod_one _) hfree
  · exact fun hfree halign => memWord_issues rfl halign hfree

end Sys2Proof.Laws

/-!
O22 and O25, the words that join a collective and the words that write a setting of their cord (R159, R168 to R177, R184 to R196).
-/
namespace Sys2Proof.Laws
open Sys2Proof.Machine Sys2Proof.Safety

section
variable {s t : State} {h : Here} {i : Instr} {g : Guard} {d a : BitVec 7} {m : BitVec 5}

/-! ### What an arrival records of its word -/

/-- The word as fetched depends on the instruction caches alone. -/
theorem wordOf_of_modules (hm : t.modules = s.modules) : wordOf t h i = wordOf s h i := by
  simp only [wordOf, coreOfCord, coreOf, dieOf, hm]

theorem bareArrival_of_modules (hm : t.modules = s.modules) : bareArrival i h t = bareArrival i h s := by
  simp only [bareArrival, wordOf_of_modules hm]

/-! ### Cross-lane words -/

/-- The state with the name of an arrival taken, by an operation where a flag of can may fail it (R187). -/
abbrev namedArrival (i : Instr) (can : Flags) (h : Here) (s : State) : State :=
  if flagFallible h can then pushOp s h i true { blankOp with kind := .flag, state := .sent } else { s with uid := s.uid + 1 }

theorem namedArrival_modules (can : Flags) : (namedArrival i can h s).modules = s.modules := by
  unfold namedArrival
  split
  · exact pushOp_modules ..
  · rfl

/-- The destinations are held under the name of the arrival. -/
theorem crossWord_issues {reads writes : List Reg} {mask : Here → BitVec 64} {can : Flags} (f : Here → Arrival → Arrival)
    (hfault : arriveFault i 0 mask h s = none)
    (hi : Issues s h g { reads := reads, writes := writes, lat := 0, fallible := flagFallible h can, mine := arrivedNames h 0 }) :
    crossWord i g reads writes mask can f s = .next (left
      (arrive i 0 (mask h) (f h { bareArrival i h s with uid := s.uid }) h (holdRegs (namedArrival i can h s) h s.uid writes)) h g
      { reads := reads, writes := writes, lat := 0, fallible := flagFallible h can, mine := arrivedNames h 0 } {}) := by
  unfold crossWord
  rw [runWord_issues (h := h) hi hfault]
  dsimp only
  rw [bareArrival_of_modules ((holdRegs_modules ..).trans (namedArrival_modules can))]
  rfl

/-- A cross-lane move raises no flag, so its arrival is named without an operation. -/
theorem xlmWord_issues (hfault : arriveFault i 0 (fun h => rdS h.cord (m.zeroExtend 6)) h s = none)
    (hi : Issues s h g { reads := [.v a, .v d, .s (m.zeroExtend 6)], writes := xlmRegs h d, lat := 0, fallible := flagFallible h 0 }) :
    xlmWord i g d a m s = .next (left
      (arrive i 0 (rdS h.cord (m.zeroExtend 6))
        { bareArrival i h s with uid := s.uid, x := rdV h.st a, y := rdV h.st d, d := d, pd := xlmPred h.st.hint } h
        (holdRegs (namedArrival i 0 h s) h s.uid (xlmRegs h d))) h g
      { reads := [.v a, .v d, .s (m.zeroExtend 6)], writes := xlmRegs h d, lat := 0, fallible := flagFallible h 0 } {}) := by
  unfold namedArrival
  rw [flagFallible_none] at hi ⊢
  unfold xlmWord
  rw [runWord_issues (h := h) hi hfault]
  dsimp only
  rw [bareArrival_of_modules (holdRegs_modules ..)]
  rfl

end

/-- Settles O22: the moves, which raise no flag, and the words whose members share a destination. -/
theorem crossLaneArrivals : Obligations.CrossLaneArrivals := by
  unfold Obligations.CrossLaneArrivals
  intro s h g d a m o x fp joins xm am mine bare xlm red vote
  refine ⟨xlmWord_issues, xlmWord_issues, xlmWord_issues, xlmWord_issues, ?red, ?scan, ?scanExcl, ?elect, ?any, ?all, ?ballot⟩
  case red | scan | scanExcl => exact fun hfault hi => crossWord_issues (fun h r => { r with x := redInput o h d, d := d }) hfault hi
  case elect => exact fun hfault hi => crossWord_issues (fun _ r => { r with d := d }) hfault hi
  case any | all | ballot => exact fun hfault hi => crossWord_issues (fun h r => { r with pr := rdP h.st x, d := d }) hfault hi

/-! ### Words that arrive and wait -/

section
variable {s : State} {h : Here} {g : Guard} {a : BitVec 7}

/-- A barrier whose membership checks hold: the strand waits as it arrives. -/
theorem bar_issues {k : BitVec 3} (hfault : arriveFault (.bar g a k) k.toNat (fun h => rdS h.cord (sReg a)) h s = none)
    (hi : Issues s h g { reads := [.s (sReg a)], lat := 0 }) :
    execBar g a k s = .next (left
      (arrive (.bar g a k) k.toNat (rdS h.cord (sReg a))
        (bareArrival (.bar g a k) h (modHere s h (fun st => { st with wait := .bar k.toNat }))) h
        (modHere s h (fun st => { st with wait := .bar k.toNat }))) h g { reads := [.s (sReg a)], lat := 0 } {}) := by
  unfold execBar
  exact runWord_issues (h := h) hi hfault

/-- The checks of a phase word in its phase, with the lanes of its cord as mask. -/
theorem phaseFault_none {i : Instr} {mask : Here → BitVec 64} (hfault : arriveFault i 6 mask h s = none)
    (hhandler : h.st.stat.getLsbD 3 = false) (hmask : mask h = h.cord.lanes) : phaseFault i mask h s = none := by
  unfold phaseFault
  rw [hhandler, hfault, hmask]
  simp

theorem phase_issues (hfault : arriveFault (.phase g a) 6 (fun h => rdS h.cord (sReg a)) h s = none)
    (hhandler : h.st.stat.getLsbD 3 = false) (hmask : rdS h.cord (sReg a) = h.cord.lanes)
    (hi : Issues s h g { reads := [.s (sReg a)], lat := 0 }) :
    execPhase g a s = .next (left
      (arrive (.phase g a) 6 (rdS h.cord (sReg a)) (bareArrival (.phase g a) h (modHere s h (fun st => { st with wait := .phase }))) h
        (modHere s h (fun st => { st with wait := .phase }))) h g { reads := [.s (sReg a)], lat := 0 } {}) := by
  unfold execPhase
  exact runWord_issues (h := h) hi (phaseFault_none hfault hhandler hmask)

/-! ### Words that write a setting -/

theorem barcfgReserved_eq_false {v : BitVec 64} (hlow : bitsOf v 12 4 = 0) (hhigh : bitsOf v 32 32 = 0) : barcfgReserved v = false := by
  simp [barcfgReserved, hlow, hhigh]

/-- A barcfg whose value has no reserved bit, or of scope core, for which none is looked at. -/
theorem barcfg_issues {k : BitVec 3} (hvalue : k ≠ 1#3 → barcfgReserved (rdS h.cord (sReg a)) = false)
    (hi : Issues s h g { reads := [.s (sReg a)] }) :
    execBarcfg g a k s = .next (left
      (if k = 1#3 then s else onceWrite h k.toNat (setBarcfg k.toNat (rdS h.cord (sReg a))) s) h g { reads := [.s (sReg a)] } {}) := by
  unfold execBarcfg
  rw [runWord_issues (h := h) hi]
  · simp [plainLeave]
  · by_cases hk : k = 1#3
    · simp [hk]
    · simp [hvalue hk]

/-- A cvset of a register that is not being signed, or with the signers it has. -/
theorem cvset_issues {d : BitVec 7}
    (hsigners : (convOf h.cord (d.toNat % 8)).signed ≠ 0 → newSigners h a = (convOf h.cord (d.toNat % 8)).signers)
    (hi : Issues s h g { reads := [.s (sReg a)] }) :
    execCvset g d a s = .next (left
      (if (convOf h.cord (d.toNat % 8)).signed ≠ 0 then s
        else onceWrite h (8 + d.toNat % 8) (fun c => { c with
          conv := c.conv.setIfInBounds (d.toNat % 8) { convOf h.cord (d.toNat % 8) with signers := newSigners h a, round := 0 } }) s)
      h g { reads := [.s (sReg a)] } {}) := by
  unfold execCvset
  rw [runWord_issues (h := h) hi]
  · simp [plainLeave]
  · by_cases hsigned : (convOf h.cord (d.toNat % 8)).signed = 0
    · simp [hsigned]
    · simp [hsigners hsigned]

/-- Other signers for a register that is being signed are a fault. -/
theorem cvset_stops {d : BitVec 7} (hsigned : (convOf h.cord (d.toNat % 8)).signed ≠ 0)
    (hsigners : newSigners h a ≠ (convOf h.cord (d.toNat % 8)).signers) (hi : Issues s h g { reads := [.s (sReg a)] }) :
    execCvset g d a s = .next (stopHere s h (faultHere s h (.cvset g d a) 5 0 (ownDetail h))) := by
  unfold execCvset
  exact runWord_stops hi (by simpa [hsigners] using hsigned)

end

/-- Settles O25: the words that arrive by their checks, the words that set by what they find. -/
theorem synchronisationWordResults : Obligations.SynchronisationWordResults := by
  unfold Obligations.SynchronisationWordResults
  intro s h g d a k u n v sp waits
  refine ⟨?bar, ?phase, ?barcfgCore, ?barcfg, ?cvset, ?cvsetSame, ?cvsetOther⟩
  case bar => exact bar_issues
  case phase => exact phase_issues
  case barcfgCore =>
    intro hk hi
    exact (barcfg_issues (absurd hk) hi).trans (by rw [if_pos hk])
  case barcfg =>
    intro hk hlow hhigh hi
    exact (barcfg_issues (fun _ => barcfgReserved_eq_false hlow hhigh) hi).trans (by rw [if_neg hk])
  case cvset =>
    intro hsigned hi
    exact (cvset_issues (absurd hsigned) hi).trans (by rw [if_neg (not_not.mpr hsigned)]; rfl)
  case cvsetSame =>
    intro hsigned hsigners hi
    exact (cvset_issues (fun _ => hsigners) hi).trans (by rw [if_pos hsigned])
  case cvsetOther => exact fun hsigned hsigners hi => cvset_stops hsigned hsigners hi

end Sys2Proof.Laws

/-!
O36, the signatures of mma (R175, R309, R313, R335).
-/
namespace Sys2Proof.Laws
open Sys2Proof.Machine Sys2Proof.Safety

/-- The state in which the round of a register has its name: its first signature takes one. -/
abbrev namedRound (s : State) (v : Conv) : State := if v.signed == 0 then { s with uid := s.uid + 1 } else s

/-- The register after the signature of a word (R175). -/
abbrev signedConv (s : State) (h : Here) (i : Instr) (v : Conv) : Conv :=
  { v with
    signed := v.signed ||| laneBit h.sel.lane
    word := if v.signed == 0 then word27 s h i else v.word
    first := if v.signed == 0 then h.sel.lane else v.first
    uid := if v.signed == 0 then s.uid else v.uid
    fzs := (if v.signed == 0 then 0 else v.fzs) ||| (if ftzOf h.st then laneBit h.sel.lane else 0)
    sigs := (if v.signed == 0 then [] else v.sigs) ++ [(h.sel.lane, pcOf h.st, wordOf s h i, !h.st.rerun.isEmpty)] }

/-- A signature: the lane joins SIGNED, the accumulators are held under the name of the round, and the final test follows. -/
theorem signHere_eq (s : State) (h : Here) (i : Instr) (j : Nat) (accs : List Reg) :
    signHere i j accs h s = signRound (holdRegs
      (modHereCord (namedRound s (convOf h.cord j)) h (fun c =>
        { c with conv := c.conv.setIfInBounds j (signedConv s h i (convOf h.cord j)) }))
      h (signedConv s h i (convOf h.cord j)).uid accs) h.sel.cord j := by
  have hmodules : (namedRound s (convOf h.cord j)).modules = s.modules := by
    unfold namedRound
    split <;> rfl
  unfold signHere
  simp only [word27, wordOf_of_modules hmodules]
  rfl

/-- What the issue rules ask of an mma whose strand signs now. -/
abbrev signSpec (s : State) (h : Here) (d a : BitVec 7) (m : BitVec 3) : WSpec :=
  { writes := [.v d], lat := 0, signs := (wordAccs h s d a m).any (heldBySync h) }

/-- The precise fault of an mma, if it has one: by the count of the cord (R335), then by its lane, then by its word (R175). -/
def signFault (s : State) (h : Here) (g : Guard) (d a : BitVec 7) (m j : BitVec 3) : Option PFault :=
  let i : Instr := .mma g d a m j
  let v := convOf h.cord j.toNat
  if h.cord.hdr.macros ≤ m.toNat then some (faultHere s h i 18 0 0)
  else if !laneIn v.signers h.sel.lane then some (faultHere s h i 5 0 (ownDetail h))
  else if v.signed != 0 && v.word != word27 s h i then some (faultHere s h i 5 0 (BitVec.ofNat 64 v.first))
  else none

section
variable {s : State} {h : Here} {g : Guard} {d a : BitVec 7} {m j : BitVec 3} (hmacro : m.toNat < h.cord.hdr.macros)
include hmacro

theorem signFault_of_no_signer (hsigner : laneIn (convOf h.cord j.toNat).signers h.sel.lane = false) :
    signFault s h g d a m j = some (faultHere s h (.mma g d a m j) 5 0 (ownDetail h)) := by
  simp [signFault, Nat.not_le.mpr hmacro, hsigner]

variable (hsigner : laneIn (convOf h.cord j.toNat).signers h.sel.lane = true)
include hsigner

theorem signFault_of_other_word (hsigned : (convOf h.cord j.toNat).signed ≠ 0)
    (hword : (convOf h.cord j.toNat).word ≠ word27 s h (.mma g d a m j)) : signFault s h g d a m j =
      some (faultHere s h (.mma g d a m j) 5 0 (BitVec.ofNat 64 (convOf h.cord j.toNat).first)) := by
  simpa [signFault, Nat.not_le.mpr hmacro, hsigner, hword] using hsigned

theorem signFault_of_same_word
    (hword : (convOf h.cord j.toNat).signed = 0 ∨ (convOf h.cord j.toNat).word = word27 s h (.mma g d a m j)) :
    signFault s h g d a m j = none := by
  simpa [signFault, Nat.not_le.mpr hmacro, hsigner, or_iff_not_imp_left] using hword

end

section
variable {s : State} {h : Here} {g : Guard} {d a : BitVec 7} {m j : BitVec 3}
variable (hagain : laneIn (convOf h.cord j.toNat).signed h.sel.lane = false)
  (hfree : (wordAccs h s d a m).any (isHeld h) = false) (hround : roundWaits h (convOf h.cord j.toNat) = false)
  (hscales : scaleLoads h.cord (wordScales h s a m) = false) (hi : Issues s h g (signSpec s h d a m))
include hagain hfree hround hscales hi

/-- A strand that has not signed the round, whose accumulators are free and whose round and scale registers let it go on, signs. -/
theorem mma_signs (hfault : signFault s h g d a m j = none) :
    execMma g d a m j s = .next (left (signHere (.mma g d a m j) j.toNat (wordAccs h s d a m) h s) h g (signSpec s h d a m) {}) := by
  unfold execMma
  rw [runWord_issues (h := h) (by simpa only [hagain, hfree, hround, hscales, Bool.or_false, Bool.false_or] using hi) hfault]
  simp only [hagain, hfree, hround, hscales, Bool.or_false, Bool.false_or]
  rfl

/-- Its precise faults stop it. -/
theorem mma_stops {f : PFault} (hfault : signFault s h g d a m j = some f) : execMma g d a m j s = .next (stopHere s h f) := by
  unfold execMma
  exact runWord_stops (by simpa only [hagain, hfree, hround, hscales, Bool.or_false, Bool.false_or] using hi) hfault

end

/-- Settles O36: the clauses are the outcomes of the checks, in their order. -/
theorem signatureResults : Obligations.SignatureResults := by
  unfold Obligations.SignatureResults
  intro s h g d a m j v accs bit i first w s1 v' sp stops hagain hfree hround hscales
  have hstops {cause x : Nat} (hfault : signFault s h g d a m j = some (faultHere s h i cause 0 (BitVec.ofNat 64 x))) : stops cause x := by
    intro hi
    exact mma_stops hagain hfree hround hscales hi hfault
  refine ⟨?signs, ?noMacro, ?noSigner, ?otherWord⟩
  case signs =>
    intro hmacro hsigner hword hi
    refine (mma_signs hagain hfree hround hscales hi (signFault_of_same_word hmacro hsigner hword)).trans ?_
    rw [signHere_eq]
    rfl
  case noMacro => exact fun hmacro => hstops (if_pos hmacro)
  case noSigner => exact fun hmacro hsigner => hstops (signFault_of_no_signer hmacro hsigner)
  case otherWord => exact fun hmacro hsigner hsigned hword => hstops (signFault_of_other_word hmacro hsigner hsigned hword)

end Sys2Proof.Laws

/-!
O24, membership, completion and barrier groups (R168 to R171, R193 to R195, R353, R354). The checks of an arrival, completion, the release of
a barrier and the arrival at a group have each their rules; the statement is made of them.
-/
namespace Sys2Proof.Laws
open Sys2Proof.Machine Sys2Proof.Safety

/-! ### The checks of an arrival -/

section
variable {s : State} {h : Here} {i : Instr} {kind : Nat} {mask : Here → BitVec 64}

theorem arriveFault_of_outside (hlane : laneIn (mask h) h.sel.lane = false) :
    arriveFault i kind mask h s = some (faultHere s h i 4 0 (ownDetail h)) := by
  simp [arriveFault, hlane]

theorem arriveFault_of_differs {x : Inst} (hlane : laneIn (mask h) h.sel.lane = true) (hx : joined h kind = some x)
    (hdiffers : x.mask ≠ mask h ∨ x.word ≠ word27 s h i) :
    arriveFault i kind mask h s = some (faultHere s h i 4 0 (BitVec.ofNat 64 x.first)) := by
  simp [arriveFault, hlane, hx, hdiffers]

theorem arriveFault_of_agrees (hlane : laneIn (mask h) h.sel.lane = true)
    (hagrees : ∀ x, joined h kind = some x → x.mask = mask h ∧ x.word = word27 s h i) : arriveFault i kind mask h s = none := by
  cases hx : joined h kind with
  | none => simp [arriveFault, hlane, hx]
  | some x =>
    obtain ⟨hmask, hword⟩ := hagrees x hx
    simp [arriveFault, hlane, hx, hmask, hword]

end

/-! ### Completion -/

/-- Every effective member has arrived or ended (R171). -/
theorem instComplete_iff {c : Cord} {x : Inst} : instComplete c x = true ↔
    ∀ l < 64, laneIn (members c x) l = true → (∃ a, arrivalOf x l = some a) ∨ laneEnded c l = true := by
  simp [instComplete, imp_iff_not_or, or_assoc, Option.isSome_iff_exists]

/-- The state after a collective word has left its cord: the strands held by it look again (R172). -/
abbrev leaveInst (s : State) (k : Nat) (x : Inst) : State :=
  modCord s k (fun c => clearSign { c with insts := c.insts.filter (·.uid != x.uid) })

section
variable {s : State} {k : Nat} {c : Cord} {x : Inst} (hc : mget s.cords k = some c)
include hc

theorem finishInst_of_incomplete (hx : instComplete c x = false) : finishInst s k x = s := by
  simp [finishInst, hc, hx]

theorem finishInst_of_cross (hx : instComplete c x = true) (hkind : x.kind = 0) :
    finishInst s k x = x.arr.foldl (fun s a => crossDeliver s k x c a) (leaveInst s k x) := by
  simp [finishInst, hc, hx, hkind]

theorem finishInst_of_core (hx : instComplete c x = true) (hkind : x.kind = 1) :
    finishInst s k x = modCord (leaveInst s k x) k (releaseBar 1 (arrivedLanes x)) := by
  simp [finishInst, hc, hx, hkind]

/-- A barrier of a scope wider than the core arrives at its group. -/
theorem finishInst_of_wide (hx : instComplete c x = true) (hlo : 2 ≤ x.kind) (hhi : x.kind ≤ 5) :
    finishInst s k x = groupArrive (leaveInst s k x) k c x := by
  have hphase : x.kind ≠ 6 := by omega
  have hcross : x.kind ≠ 0 := by omega
  have hcore : x.kind ≠ 1 := by omega
  simp [finishInst, hc, hx, hphase, hcross, hcore]

end

/-- The strands of the lanes that arrived go on, and no others. -/
theorem mget_releaseBar {c : Cord} {l : Nat} {st : Strand} (kind : Nat) (lanes : BitVec 64) (hst : mget c.strands l = some st) :
    mget (releaseBar kind lanes c).strands l =
      some (if st.wait = .bar kind ∧ laneIn lanes l = true then { st with wait := .none } else st) := by
  simp only [releaseBar]
  rw [mget_map_entries, hst]
  · simp
  · exact fun _ => rfl

/-! ### Barrier groups -/

theorem groupOf_name (x : Context) (scope inst group : Nat) :
    (groupOf x scope inst group).scope = scope ∧ (groupOf x scope inst group).inst = inst ∧ (groupOf x scope inst group).group = group := by
  unfold groupOf
  cases hfind : x.bars.find? (fun b => b.scope == scope && b.inst == inst && b.group == group) with
  | none => exact ⟨rfl, rfl, rfl⟩
  | some b => simpa [and_assoc] using List.find?_some hfind

/-- The groups of a context but the one of g's name. -/
abbrev otherBars (x : Context) (g : BarGroup) : List BarGroup :=
  x.bars.filter (fun b => !(b.scope == g.scope && b.inst == g.inst && b.group == g.group))

section
variable {s : State} {ctx : Nat} {g : BarGroup}

/-- A group short of its count keeps its arrivals. -/
theorem checkGroup_waits (hcount : g.arr.length + (g.ended.filter (fun k => !g.arr.any (·.1 == k))).length < g.count) :
    checkGroup s ctx g = modCtx s ctx (fun x => { x with bars := otherBars (ctxOf s ctx) g ++ [g] }) := by
  simp [checkGroup, otherBars, Nat.not_le.mpr hcount]

/-- A group that reaches its count releases its cords and begins its next generation. -/
theorem checkGroup_completes {scope : Nat} (hscope : g.scope = scope) (harr : g.arr ≠ [])
    (hcount : g.count ≤ g.arr.length + (g.ended.filter (fun k => !g.arr.any (·.1 == k))).length) :
    checkGroup s ctx g = g.arr.foldl (fun s a => modCord s a.1 (releaseBar scope a.2))
      (modCtx s ctx (fun x => { x with bars := otherBars (ctxOf s ctx) g ++ [{ g with gen := g.gen + 1, count := 0, arr := [] }] })) := by
  subst hscope
  simp [checkGroup, otherBars, hcount, harr]

end

/-- COUNT of the setting a barrier arrives under (R194). -/
abbrev barCount (c : Cord) (x : Inst) : Nat := cfgCount (c.barcfg[x.kind - 1]?.getD 0)

/-- The group a complete barrier of a cord arrives at (R194, R195). -/
abbrev barGroup (s : State) (c : Cord) (x : Inst) : BarGroup :=
  groupOf (ctxOf s c.ctx) x.kind (scopeInst c x.kind) (cfgGroup (c.barcfg[x.kind - 1]?.getD 0))

/-- The group with the arrival of the cord. -/
abbrev joinedGroup (s : State) (k : Nat) (c : Cord) (x : Inst) : BarGroup :=
  { barGroup s c x with count := barCount c x, arr := (barGroup s c x).arr ++ [(k, arrivedLanes x)] }

/-- The cord's COUNT is no count for the generation of its group (R195). -/
abbrev CountRefused (s : State) (c : Cord) (x : Inst) : Prop :=
  barCount c x = 0 ∨ (barGroup s c x).arr ≠ [] ∧ (barGroup s c x).count ≠ barCount c x

section
variable {s : State} {k : Nat} {c : Cord} {x : Inst}

theorem joinedGroup_scope : (joinedGroup s k c x).scope = x.kind := (groupOf_name ..).1

theorem otherBars_joinedGroup (y : Context) : otherBars y (joinedGroup s k c x) = y.bars.filter (fun b =>
    !(b.scope == x.kind && b.inst == scopeInst c x.kind && b.group == cfgGroup (c.barcfg[x.kind - 1]?.getD 0))) := by
  obtain ⟨hscope, hinst, hgroup⟩ := groupOf_name (ctxOf s c.ctx) x.kind (scopeInst c x.kind) (cfgGroup (c.barcfg[x.kind - 1]?.getD 0))
  simp only [otherBars, hscope, hinst, hgroup]

theorem groupArrive_refuses (hbad : CountRefused s c x) :
    groupArrive s k c x = refuseArrivals s k x 4 (fun l => BitVec.ofNat 64 (64 + l)) :=
  if_pos (by simpa [CountRefused, barCount, barGroup] using hbad)

theorem groupArrive_joins (hgood : ¬ CountRefused s c x) : groupArrive s k c x = checkGroup s c.ctx (joinedGroup s k c x) :=
  if_neg (by simpa [CountRefused, barCount, barGroup] using hgood)

end

/-! ### Refused arrivals -/

/-- DETAIL of a refused lane (R354). -/
abbrev ownLane (l : Nat) : BitVec 64 := BitVec.ofNat 64 (64 + l)

/-- The strand of a lane has a fault of cause 4 with its own lane in DETAIL, and waits no more. -/
def RefusedAt (l : Nat) (t : Strand) : Prop :=
  t.wait = .none ∧ ∃ f, t.fault = some f ∧ f.cause = 4 ∧ f.detail = ownLane l

/-- One arrival at a collective word is undone. -/
abbrev refuseOne (k kind cause : Nat) (detail : Nat → BitVec 64) (s : State) (a : Arrival) : State :=
  faultLeft (modStrand s k a.lane (fun st => { st with sync := st.sync.setIfInBounds kind ((st.sync[kind]?.getD 0) - 1) }))
    k a.lane cause a.pc a.word a.hint (detail a.lane)

theorem refuseArrivals_eq (s : State) (k : Nat) (x : Inst) (cause : Nat) (detail : Nat → BitVec 64) :
    refuseArrivals s k x cause detail = x.arr.foldl (refuseOne k x.kind cause detail) s := rfl

theorem refuseArrivals_contexts (s : State) (k : Nat) (x : Inst) (cause : Nat) (detail : Nat → BitVec 64) :
    (refuseArrivals s k x cause detail).contexts = s.contexts := by
  obtain ⟨cs, hcs⟩ := foldl_cords (refuseOne k x.kind cause detail) (fun _ _ => ⟨_, rfl⟩) x.arr s
  rw [refuseArrivals_eq, hcs]

theorem strandOf_modStrand_other (s : State) (k : Nat) {l j : Nat} (f : Strand → Strand) (h : l ≠ j) :
    strandOf (modStrand s k l f) k j = strandOf s k j := by
  simp only [strandOf, modStrand, modCord, mget_mmod_same]
  cases mget s.cords k with
  | none => rfl
  | some c => exact mget_mmod_other _ _ h

section
variable {s : State} {k kind l : Nat} {a : Arrival} {st : Strand}

theorem refuseOne_refuses (hst : strandOf s k a.lane = some st) :
    ∃ t, strandOf (refuseOne k kind 4 ownLane s a) k a.lane = some t ∧ RefusedAt a.lane t :=
  ⟨_, strandOf_modStrand_of _ (strandOf_modStrand_of _ hst), rfl, _, rfl, rfl, rfl⟩

theorem refuseOne_other (h : a.lane ≠ l) : strandOf (refuseOne k kind 4 ownLane s a) k l = strandOf s k l :=
  (strandOf_modStrand_other _ k _ h).trans (strandOf_modStrand_other _ k _ h)

/-- Every strand among the arrivals is refused in the end, and stays so. -/
theorem refuseAll_refuses (as : List Arrival) {s : State} {st : Strand} (hst : strandOf s k l = some st)
    (h : RefusedAt l st ∨ ∃ a ∈ as, a.lane = l) : ∃ t, strandOf (as.foldl (refuseOne k kind 4 ownLane) s) k l = some t ∧ RefusedAt l t := by
  induction as generalizing s st with
  | nil => exact ⟨st, hst, h.resolve_right (by simp)⟩
  | cons a as ih =>
    by_cases hlane : a.lane = l
    · subst hlane
      obtain ⟨t, ht, hrefused⟩ := refuseOne_refuses (kind := kind) hst
      exact ih ht (.inl hrefused)
    · refine ih ((refuseOne_other hlane).trans hst) (h.imp_right ?_)
      rintro ⟨b, hb, rfl⟩
      exact ⟨b, (List.mem_cons.mp hb).resolve_left (fun hab => hlane (congrArg _ hab.symm)), rfl⟩

end

/-- The strands of the cord a collective word leaves are all still there. -/
theorem strandOf_leaveInst {s : State} {k l : Nat} {st : Strand} (x : Inst) (hst : strandOf s k l = some st) :
    ∃ t, strandOf (leaveInst s k x) k l = some t := by
  obtain ⟨c, hc, hl⟩ := Option.bind_eq_some_iff.mp hst
  simp only [strandOf, modCord, mget_mmod_same, hc, Option.map_some, Option.bind_some, clearSign]
  rw [mget_map_entries, hl]
  · exact ⟨_, rfl⟩
  · exact fun _ => rfl

/-! ### The statement -/

/-- Settles O24: the checks, the completions by kind, and for the wide barriers the outcomes at the group. -/
theorem instanceRules : Obligations.InstanceRules := by
  unfold Obligations.InstanceRules
  refine ⟨?checks, ?completion, ?release, ?barriers⟩
  case checks =>
    intro s h i kind mask x
    exact ⟨arriveFault_of_outside, arriveFault_of_differs, arriveFault_of_agrees⟩
  case completion =>
    intro s k c x hc
    exact ⟨instComplete_iff, finishInst_of_incomplete hc, finishInst_of_cross hc⟩
  case release => exact fun kind lanes c l st => mget_releaseBar kind lanes
  case barriers =>
    intro s k c x hc hx s'
    refine ⟨finishInst_of_core hc hx, ?_⟩
    intro hlo hhi hctx v named g bad arr all put
    rw [finishInst_of_wide hc hx hlo hhi]
    refine ⟨fun hbad => ?refused, fun hgood hless => ?waits, fun hgood henough => ?completes⟩
    case refused =>
      rw [groupArrive_refuses (s := s') hbad]
      refine ⟨?_, fun a ha st hst => ?_⟩
      · rw [ctxOf_of_contexts (refuseArrivals_contexts ..)]
        rfl
      · obtain ⟨t', ht'⟩ := strandOf_leaveInst x hst
        obtain ⟨t, ht, hwait, f, hf, hcause, hdetail⟩ := refuseAll_refuses x.arr ht' (.inr ⟨a, ha, rfl⟩)
        exact ⟨t, f, ht, hwait, hf, hcause, hdetail⟩
    case waits =>
      rw [groupArrive_joins (s := s') hgood, checkGroup_waits hless, otherBars_joinedGroup]
      rfl
    case completes =>
      rw [groupArrive_joins (s := s') hgood, checkGroup_completes (joinedGroup_scope (s := s')) (by simp) henough, otherBars_joinedGroup]
      rfl

end Sys2Proof.Laws

/-!
O38, the precise faults of R353: those that every word can meet before it issues (R59, R157), and those that the words for memory, the
scratchpad, slots and the fabric check themselves (R225, R249, R278 to R285, R406 to R415).
-/
namespace Sys2Proof.Laws
open Sys2Proof.Machine Sys2Proof.Safety

/-! ### Bounds and stalls -/

section
variable {h : Here} {sp : WSpec}

theorem boundFault_iff : boundFault h sp = true ↔
    (∃ n : BitVec 7, .v n ∈ sp.reads ++ sp.writes ∧ h.cord.hdr.vregs ≤ n.toNat) ∨ ∃ n ∈ sp.kregs, h.cord.hdr.kregs ≤ n := by
  unfold boundFault
  rw [Bool.or_eq_true, List.any_eq_true, List.any_eq_true]
  refine or_congr ⟨?_, ?_⟩ (by simp)
  · rintro ⟨r, hr, hbound⟩
    cases r with
    | v n => exact ⟨n, hr, by simpa using hbound⟩
    | p | s => cases hbound
  · rintro ⟨n, hn, hbound⟩
    exact ⟨.v n, hn, by simpa using hbound⟩

theorem boundFault_of_vector {n : BitVec 7} (hn : .v n ∈ sp.reads ++ sp.writes) (hbound : h.cord.hdr.vregs ≤ n.toNat) :
    boundFault h sp = true :=
  boundFault_iff.mpr (.inl ⟨n, hn, hbound⟩)

theorem boundFault_of_scale {n : Nat} (hn : n ∈ sp.kregs) (hbound : h.cord.hdr.kregs ≤ n) : boundFault h sp = true :=
  boundFault_iff.mpr (.inr ⟨n, hn, hbound⟩)

theorem stallFault_iff {rs : List Reg} : stallFault h rs = true ↔
    h.st.stat.getLsbD 0 = true ∧ ∃ r ∈ rs, ∃ x ∈ h.st.chk, x.reg = r ∧ x.dist < x.lat := by
  simp [stallFault]

end

/-! ### Faults of every word -/

section
variable {i : Instr} {g : Guard} {spec : Here → State → WSpec} {check : Here → State → Option PFault} {leave : Here → State → Leave}
  {effect : Here → State → State} {s : State} {h : Here}
variable (hh : here s = some h) (hable : ableStrand h.cord h.st h.now = true) (hheld : (guardRegs (issueGuard h g)).any (isHeld h) = false)
include hh hable hheld

/-- The guard is closer than its producer's latency. -/
theorem runWord_stops_at_guard (hguard : stallFault h (guardRegs (issueGuard h g)) = true) :
    runWord i g spec check leave effect s = .next (stopHere s h (faultHere s h i 2 0 0)) := by
  simp [runWord, hh, hable, hheld, hguard]

variable (hguard : stallFault h (guardRegs (issueGuard h g)) = false) (hpred : rdP h.st (issueGuard h g).pred = true)
include hguard hpred

/-- A register lies beyond the declared count. -/
theorem runWord_stops_at_bound (hbound : boundFault h (issueSpec h (spec h s)) = true) :
    runWord i g spec check leave effect s = .next (stopHere s h (faultHere s h i 3 0 0)) := by
  simp [runWord, hh, hable, hheld, hguard, hpred, hbound]

/-- A register read is closer than its producer's latency. -/
theorem runWord_stops_at_stall (hbound : boundFault h (issueSpec h (spec h s)) = false)
    (hissue : issueHeld h (issueSpec h (spec h s)) = false) (hhold : (issueSpec h (spec h s)).hold = false)
    (hstall : stallFault h (issueSpec h (spec h s)).reads = true) :
    runWord i g spec check leave effect s = .next (stopHere s h (faultHere s h i 2 0 0)) := by
  simp [runWord, hh, hable, hheld, hguard, hpred, hbound, hissue, hhold, hstall]

end

/-- The current strand has come to a word of guard g, which is true and can be read. -/
structure AtWord (s : State) (h : Here) (g : Guard) : Prop where
  current : here s = some h
  able : ableStrand h.cord h.st h.now = true
  fresh : polling h.st = false
  free : (guardRegs g).any (isHeld h) = false
  visible : stallFault h (guardRegs g) = false
  holds : rdP h.st g.pred = true

section
variable {i : Instr} {g : Guard} {spec : Here → State → WSpec} {check : Here → State → Option PFault} {leave : Here → State → Leave}
  {effect : Here → State → State} {s : State} {h : Here} {d a b : BitVec 7}

theorem issueGuard_of_fresh (hfresh : polling h.st = false) (g : Guard) : issueGuard h g = g := by simp [issueGuard, hfresh]

theorem issueSpec_of_fresh (hfresh : polling h.st = false) (sp : WSpec) : issueSpec h sp = sp := by simp [issueSpec, hfresh]

variable (hword : AtWord s h g)
include hword

theorem runWord_stops_beyond (hbound : boundFault h (spec h s) = true) :
    runWord i g spec check leave effect s = .next (stopHere s h (faultHere s h i 3 0 0)) := by
  obtain ⟨hh, hable, hfresh, hfree, hvisible, hholds⟩ := hword
  rw [← issueGuard_of_fresh hfresh g] at hfree hvisible hholds
  exact runWord_stops_at_bound hh hable hfree hvisible hholds (by rwa [issueSpec_of_fresh hfresh])

theorem runWord_stops_early (hbound : boundFault h (spec h s) = false) (hissue : issueHeld h (spec h s) = false)
    (hhold : (spec h s).hold = false) (hstall : stallFault h (spec h s).reads = true) :
    runWord i g spec check leave effect s = .next (stopHere s h (faultHere s h i 2 0 0)) := by
  obtain ⟨hh, hable, hfresh, hfree, hvisible, hholds⟩ := hword
  rw [← issueGuard_of_fresh hfresh g] at hfree hvisible hholds
  rw [← issueSpec_of_fresh hfresh (spec h s)] at hbound hissue hhold hstall
  exact runWord_stops_at_stall hh hable hfree hvisible hholds hbound hissue hhold hstall

theorem iadd_stops_beyond (hbound : h.cord.hdr.vregs ≤ d.toNat ∨ h.cord.hdr.vregs ≤ a.toNat ∨ h.cord.hdr.vregs ≤ b.toNat) :
    execIadd g d a b s = .next (stopHere s h (faultHere s h (.iadd g d a b) 3 0 0)) := by
  unfold execIadd intWord3 regWord
  refine runWord_stops_beyond hword ?_
  rcases hbound with hd | ha | hb
  · exact boundFault_of_vector (n := d) (by simp) hd
  · exact boundFault_of_vector (n := a) (by simp) ha
  · exact boundFault_of_vector (n := b) (by simp) hb

theorem iadd_stops_early (hbound : boundFault h { reads := [.v a, .v b], writes := [.v d], lat := 1 } = false)
    (hissue : issueHeld h { reads := [.v a, .v b], writes := [.v d], lat := 1 } = false) (hstall : stallFault h [.v a, .v b] = true) :
    execIadd g d a b s = .next (stopHere s h (faultHere s h (.iadd g d a b) 2 0 0)) := by
  unfold execIadd intWord3 regWord
  exact runWord_stops_early hword hbound hissue rfl hstall

/-- An access of a word by a pair, with one of its registers beyond the count. -/
theorem memWord_stops_beyond {reads writes : List Reg} {align : Nat} {va : Here → BitVec 64} {op : Here → Op} {n : BitVec 7}
    (hn : .v n ∈ reads ++ writes) (hbound : h.cord.hdr.vregs ≤ n.toNat) :
    memWord i g reads writes align va op s = .next (stopHere s h (faultHere s h i 3 0 0)) := by
  unfold memWord
  exact runWord_stops_beyond hword (boundFault_of_vector hn hbound)

theorem ld_stops_beyond
    (hbound : h.cord.hdr.vregs ≤ a.toNat ∨ h.cord.hdr.vregs ≤ (a + 1).toNat ∨ h.cord.hdr.vregs ≤ d.toNat) :
    execLd g d a 2 s = .next (stopHere s h (faultHere s h (.ld g d a 2) 3 0 0)) := by
  unfold execLd
  rcases hbound with ha | ha | hd
  · exact memWord_stops_beyond hword (n := a) (by simp [pair]) ha
  · exact memWord_stops_beyond hword (n := a + 1) (by simp [pair]) ha
  · exact memWord_stops_beyond hword (n := d) (by simp [sizeRegs]) hd

theorem st_stops_beyond
    (hbound : h.cord.hdr.vregs ≤ a.toNat ∨ h.cord.hdr.vregs ≤ (a + 1).toNat ∨ h.cord.hdr.vregs ≤ d.toNat) :
    execSt g d a 2 s = .next (stopHere s h (faultHere s h (.st g d a 2) 3 0 0)) := by
  unfold execSt
  rcases hbound with ha | ha | hd
  · exact memWord_stops_beyond hword (n := a) (by simp [pair]) ha
  · exact memWord_stops_beyond hword (n := a + 1) (by simp [pair]) ha
  · exact memWord_stops_beyond hword (n := d) (by simp [sizeRegs]) hd

theorem tld_stops_beyond {m : BitVec 5} (hbound : h.cord.hdr.kregs ≤ m.toNat) :
    execTld g d a m s = .next (stopHere s h (faultHere s h (.tld g d a m) 3 0 0)) := by
  unfold execTld
  exact runWord_stops_beyond hword (boundFault_of_scale (List.mem_singleton_self _) hbound)

theorem skbind_stops_beyond (hbound : h.cord.hdr.kregs ≤ a.toNat) :
    execSkbind g d a s = .next (stopHere s h (faultHere s h (.skbind g d a) 3 0 0)) := by
  unfold execSkbind
  exact runWord_stops_beyond hword (boundFault_of_scale (List.mem_singleton_self _) hbound)

end

/-! ### Faults that the words for memory check -/

section
variable {s : State} {h : Here} {i : Instr} {g : Guard} {reads writes : List Reg} {align size : Nat} {a : BitVec 7}

/-- A misaligned access that waits for no miss-status entry. -/
theorem memWord_stops {va : Here → BitVec 64} {op : Here → Op} (hroom : ((op h).kind == .load && mshrFull s h (va h) (op h).size) = false)
    (halign : (va h).toNat % align ≠ 0) (hi : Issues s h g { reads := reads, writes := writes, lat := 0, fallible := true }) :
    memWord i g reads writes align va op s = .next (stopHere s h (faultHere s h i 7 (va h) 0)) :=
  runWord_stops (by rwa [hroom]) (by simp [halign])

theorem scratchWord_stops_misaligned {f : Here → State → Nat → State} (halign : (rdV h.st a).toNat % align ≠ 0)
    (hi : Issues s h g { reads := reads, writes := writes, lat := 0 }) :
    scratchWord i g reads writes align size a f s =
      .next (stopHere s h (faultHere s h i 7 (BitVec.ofNat 64 (rdV h.st a).toNat) 0)) := by
  unfold scratchWord
  exact runWord_stops (h := h) hi (by simp [halign])

theorem scratchWord_stops_outside {f : Here → State → Nat → State} (halign : (rdV h.st a).toNat % align = 0)
    (hgrant : scratchOk h.cord (rdV h.st a).toNat size = false) (hi : Issues s h g { reads := reads, writes := writes, lat := 0 }) :
    scratchWord i g reads writes align size a f s =
      .next (stopHere s h (faultHere s h i 8 (BitVec.ofNat 64 (rdV h.st a).toNat) 0)) := by
  unfold scratchWord
  exact runWord_stops (h := h) hi (by simp [halign, hgrant])

theorem lds_stops {d : BitVec 7} {z : BitVec 3} (hgrant : scratchOk h.cord (rdV h.st a).toNat (sizeBytes z) = false)
    (hi : Issues s h g { reads := [.v a], writes := sizeRegs z d, lat := 0 }) :
    execLds g d a z s = .next (stopHere s h (faultHere s h (.lds g d a z) 8 (BitVec.ofNat 64 (rdV h.st a).toNat) 0)) :=
  scratchWord_stops_outside (Nat.mod_one _) hgrant hi

theorem sts_stops {d : BitVec 7} {z : BitVec 3} (hgrant : scratchOk h.cord (rdV h.st a).toNat (sizeBytes z) = false)
    (hi : Issues s h g { reads := [.v a] ++ sizeRegs z d, writes := [], lat := 0 }) :
    execSts g d a z s = .next (stopHere s h (faultHere s h (.sts g d a z) 8 (BitVec.ofNat 64 (rdV h.st a).toNat) 0)) :=
  scratchWord_stops_outside (Nat.mod_one _) hgrant hi

section
variable {op : Nat} {src : List Reg} {y : Here → BitVec 64} {d : BitVec 7}
  (hi : Issues s h g { reads := [.v a] ++ src, writes := [.v d], lat := 0 })
include hi

theorem amosWord_stops_misaligned (halign : (rdV h.st a).toNat % 4 ≠ 0) :
    amosWord i g op d a src y s = .next (stopHere s h (faultHere s h i 7 (BitVec.ofNat 64 (rdV h.st a).toNat) 0)) :=
  scratchWord_stops_misaligned halign hi

theorem amosWord_stops_outside (halign : (rdV h.st a).toNat % 4 = 0) (hgrant : scratchOk h.cord (rdV h.st a).toNat 4 = false) :
    amosWord i g op d a src y s = .next (stopHere s h (faultHere s h i 8 (BitVec.ofNat 64 (rdV h.st a).toNat) 0)) :=
  scratchWord_stops_outside halign hgrant hi

end

end

/-! ### Queue misuse -/

section
variable {s : State} {h : Here} {i : Instr} {g : Guard} {reads writes : List Reg} {a : BitVec 7}

/-- A task word that need not wait and finds a fault of its own. -/
theorem taskWord_stops {hold : Here → State → Bool} {fault : Here → State → Nat} {effect : Here → State → State} {cause : Nat}
    (hhold : hold h s = false) (hfault : fault h s = cause) (hcause : cause ≠ 0) (hi : Issues s h g { reads := reads, writes := writes }) :
    taskWord i g reads writes hold fault effect s = .next (stopHere s h (faultHere s h i cause 0 0)) :=
  runWord_stops (by rwa [hhold]) (by simp [hfault, hcause])

/-- A slot that the strand does not hold RESERVED. -/
theorem misuse_of_other
    (hother : ∀ q, namedSlot a h s = some q → q.state ≠ .reserved ∨ q.cord ≠ h.sel.cord ∨ q.lane ≠ some h.sel.lane) : misuse a h s = 15 := by
  unfold misuse
  cases hq : namedSlot a h s with
  | none => rfl
  | some q =>
    have hmine : mineReserved h q = false := by simpa [mineReserved, Bool.and_assoc, imp_iff_not_or] using hother q hq
    simp [hmine]

section
variable (hstores : storesPerformed h = true) (hi : Issues s h g { reads := pair a })
include hstores hi

theorem qcmt_stops (hmisuse : misuse a h s = 15) (hclear : hzClear h.now h.st = true) :
    execQcmt g a s = .next (stopHere s h (faultHere s h (.qcmt g a) 15 0 0)) := by
  unfold execQcmt
  exact taskWord_stops (h := h) (by simp [hclear, hstores]) hmisuse (by decide) hi

theorem qdrop_stops (hmisuse : misuse a h s = 15) : execQdrop g a s = .next (stopHere s h (faultHere s h (.qdrop g a) 15 0 0)) := by
  unfold execQdrop
  exact taskWord_stops (h := h) (by simp [hstores]) hmisuse (by decide) hi

theorem qfree_stops (hnone : namedSlot a h s = none) (hloads : loadsReturned h = true) :
    execQfree g a s = .next (stopHere s h (faultHere s h (.qfree g a) 15 0 0)) := by
  unfold execQfree
  exact taskWord_stops (h := h) (by simp [hloads, hstores]) (by simp [hnone]) (by decide) hi

end

end

/-! ### Descriptors of the fabric -/

section
variable {c : Cord} {ds : List (BitVec 64)} {add : Bool}

/-- A send of no bytes, or of more than 2^24. -/
theorem sendFault_of_length (hlen : sendLen ds = 0 ∨ 2 ^ 24 < sendLen ds) : sendFault c add ds = some (19, 0) := by
  rcases hlen with hlen | hlen <;> simp [sendFault, hlen, -Nat.reducePow]

/-- A send of part of an element. -/
theorem sendFault_of_part (hpart : sendLen ds % addSize (sendType ds) ≠ 0) : sendFault c true ds = some (19, 0) := by
  simp [sendFault, hpart]

variable (hzero : bitsOf (dreg ds 2) 52 12 = 0) (hpos : 0 < sendLen ds) (hmax : sendLen ds ≤ 2 ^ 24)
include hzero hpos hmax

/-- A source beyond the grant of a send without elements. -/
theorem sendFault_of_source (hssp : sendSsp ds = true) (hsource : scratchOk c (dreg ds 0).toNat (sendLen ds) = false) :
    sendFault c false ds = some (8, dreg ds 0) := by
  simp [sendFault, hzero, Nat.ne_of_gt hpos, Nat.not_lt.mpr hmax, hssp, hsource, -Nat.reducePow]

variable (htype : sendType ds ≠ 3) (hwhole : sendLen ds % addSize (sendType ds) = 0)
include htype hwhole

theorem sendFault_of_misaligned (halign : (dreg ds 1).toNat % addSize (sendType ds) ≠ 0) : sendFault c true ds = some (7, dreg ds 1) := by
  simp [sendFault, hzero, Nat.ne_of_gt hpos, Nat.not_lt.mpr hmax, htype, hwhole, halign, -Nat.reducePow]

/-- A source beyond the grant of a send of elements. -/
theorem sendFault_of_add_source (halign : (dreg ds 1).toNat % addSize (sendType ds) = 0) (hssp : sendSsp ds = true)
    (hsource : scratchOk c (dreg ds 0).toNat (sendLen ds) = false) : sendFault c true ds = some (8, dreg ds 0) := by
  simp [sendFault, hzero, Nat.ne_of_gt hpos, Nat.not_lt.mpr hmax, htype, hwhole, halign, hssp, hsource, -Nat.reducePow]

end

/-- The fault of a trigger, if it has one: its own reserved bits, its send, its sync word. -/
def armFault (m : SMap (BitVec 8)) (c : Cord) (ds : List (BitVec 64)) : Option (Nat × BitVec 64) :=
  if bitsOf (dreg ds 3) 20 12 != 0 then some (19, 0)
  else
    match sendFault c (trigAdd ds) ds with
    | some f => some f
    | none =>
      if trigOff ds % 16 != 0 then some (7, BitVec.ofNat 64 (trigOff ds))
      else if !scratchOk c (trigOff ds) 16 then some (8, BitVec.ofNat 64 (trigOff ds))
      else if word32 m (scrBase c + trigOff ds) != 0 && decide (word32 m (scrBase c + trigOff ds) < trigThresh ds) then some (19, 0)
      else none

section
variable {m : SMap (BitVec 8)} {c : Cord} {ds : List (BitVec 64)}

theorem armFault_of_send (hzero : bitsOf (dreg ds 3) 20 12 = 0) {f : Nat × BitVec 64} (hsend : sendFault c (trigAdd ds) ds = some f) :
    armFault m c ds = some f := by
  simp [armFault, hzero, hsend]

/-- A field value of the send and one of the trigger are the same fault. -/
theorem armFault_of_field (hsend : sendFault c (trigAdd ds) ds = some (19, 0)) : armFault m c ds = some (19, 0) := by
  by_cases hzero : bitsOf (dreg ds 3) 20 12 = 0
  · exact armFault_of_send hzero hsend
  · simp [armFault, hzero]

variable (hzero : bitsOf (dreg ds 3) 20 12 = 0) (hsend : sendFault c (trigAdd ds) ds = none)
include hzero hsend

theorem armFault_of_misaligned (halign : trigOff ds % 16 ≠ 0) : armFault m c ds = some (7, BitVec.ofNat 64 (trigOff ds)) := by
  simp [armFault, hzero, hsend, halign]

theorem armFault_of_outside (halign : trigOff ds % 16 = 0) (hgrant : scratchOk c (trigOff ds) 16 = false) :
    armFault m c ds = some (8, BitVec.ofNat 64 (trigOff ds)) := by
  simp [armFault, hzero, hsend, halign, hgrant]

end

/-- The fault of an Ethernet send, if it has one: its fields and its peer, its spray list, its source. -/
def esendFault (x : Context) (c : Cord) (ds : List (BitVec 64)) : Option (Nat × BitVec 64) :=
  if bitsOf (dreg ds 2) 55 9 != 0 || bitsOf (dreg ds 3) 35 29 != 0 || sendLen ds == 0 || decide (2 ^ 24 < sendLen ds) ||
      (mget x.peers (esendPeer ds)).isNone then some (19, 0)
  else if esendOff ds % 2 != 0 then some (7, BitVec.ofNat 64 (esendOff ds))
  else if !scratchOk c (esendOff ds) (2 * esendSet ds) then some (8, BitVec.ofNat 64 (esendOff ds))
  else if (dreg ds 2).getLsbD 48 && !scratchOk c (dreg ds 0).toNat (sendLen ds) then some (8, dreg ds 0)
  else none

section
variable {x : Context} {c : Cord} {ds : List (BitVec 64)}

theorem esendFault_of_length (hlen : sendLen ds = 0 ∨ 2 ^ 24 < sendLen ds) : esendFault x c ds = some (19, 0) := by
  rcases hlen with hlen | hlen <;> simp [esendFault, hlen, -Nat.reducePow]

variable (hzero : bitsOf (dreg ds 2) 55 9 = 0) (hzero' : bitsOf (dreg ds 3) 35 29 = 0) (hpos : 0 < sendLen ds)
  (hmax : sendLen ds ≤ 2 ^ 24) (hpeer : (mget x.peers (esendPeer ds)).isSome = true)
include hzero hzero' hpos hmax hpeer

/-- A send whose fields and peer are good meets the checks of its ranges. -/
theorem esendFault_of_fields : esendFault x c ds =
    if esendOff ds % 2 ≠ 0 then some (7, BitVec.ofNat 64 (esendOff ds))
    else if scratchOk c (esendOff ds) (2 * esendSet ds) = false then some (8, BitVec.ofNat 64 (esendOff ds))
    else if (dreg ds 2).getLsbD 48 = true ∧ scratchOk c (dreg ds 0).toNat (sendLen ds) = false then some (8, dreg ds 0)
    else none := by
  simp [esendFault, hzero, hzero', Nat.ne_of_gt hpos, Nat.not_lt.mpr hmax, Option.ne_none_iff_isSome.mpr hpeer, -Nat.reducePow]

end

/-! ### Faults that the words for the fabric check -/

section
variable {s : State} {h : Here} {i : Instr} {g : Guard} {d a : BitVec 7} {f : Nat × BitVec 64}

theorem sendWord_stops {add : Bool} (hfault : sendFault h.cord add (sRegs h.cord a 3) = some f) (hroom : counterFull h .fabric = false)
    (hi : Issues s h g { reads := descRegs a 3, fallible := true }) :
    sendWord i g a add s = .next (stopHere s h (faultHere s h i f.1 f.2 0)) := by
  unfold sendWord
  exact runWord_stops (h := h) (by rwa [hroom]) (by simp [hfault])

theorem tsend_stops (hfault : armFault (coreOfCord s h.cord).scratch h.cord (sRegs h.cord a 4) = some f)
    (hi : Issues s h g { reads := descRegs a 4, writes := [.s (sReg d)] }) :
    execTsend g d a s = .next (stopHere s h (faultHere s h (.tsend g d a) f.1 f.2 0)) := by
  unfold execTsend
  exact runWord_stops (h := h) hi (congrArg (Option.map (fun f => faultHere s h (.tsend g d a) f.1 f.2 0)) hfault)

theorem esend_stops (hfault : esendFault (ctxOf s h.cord.ctx) h.cord (sRegs h.cord a 4) = some f) (hroom : counterFull h .fabric = false)
    (hi : Issues s h g { reads := descRegs a 4, fallible := true }) :
    execEsend g a s = .next (stopHere s h (faultHere s h (.esend g a) f.1 f.2 0)) := by
  unfold execEsend
  exact runWord_stops (h := h) (by rwa [hroom]) (congrArg (Option.map (fun f => faultHere s h (.esend g a) f.1 f.2 0)) hfault)

theorem syncCheck_of_misaligned {o : Nat} (halign : o % 16 ≠ 0) : syncCheck i h s (some o) = some (faultHere s h i 7 (BitVec.ofNat 64 o) 0) := by
  simp [syncCheck, halign]

theorem syncCheck_of_outside {o : Nat} (halign : o % 16 = 0) (hgrant : scratchOk h.cord o 16 = false) :
    syncCheck i h s (some o) = some (faultHere s h i 8 (BitVec.ofNat 64 o) 0) := by
  simp [syncCheck, halign, hgrant]

/-- A landing whose descriptor has no reserved bit meets the check of its sync word. -/
theorem erecv_stops {p : PFault} (hzero : bitsOf (dreg (sRegs h.cord a 3) 1) 49 15 = 0) (hzero' : bitsOf (dreg (sRegs h.cord a 3) 2) 19 45 = 0)
    (hsync : syncCheck (.erecv g a) h s (some (bitsOf (dreg (sRegs h.cord a 3) 2) 0 19)) = some p) (hroom : counterFull h .fabric = false)
    (hi : Issues s h g { reads := descRegs a 3, fallible := true }) : execErecv g a s = .next (stopHere s h p) := by
  unfold execErecv
  exact runWord_stops (h := h) (by rwa [hroom]) (by simp [hzero, hzero', hsync])

end

/-! ### The statement -/

/-- Settles O38: the faults of every word, and each word's own checks in their order. -/
theorem preciseFaults : Obligations.PreciseFaults := by
  unfold Obligations.PreciseFaults
  refine ⟨fun h sp rs => ⟨boundFault_iff, stallFault_iff⟩, ?every, ?named, ?memory, ?slots, ?fabric⟩
  case every =>
    intro i g spec check leave effect s h hh hable hheld sp stops
    exact ⟨runWord_stops_at_guard hh hable hheld, fun hguard hpred => ⟨runWord_stops_at_bound hh hable hheld hguard hpred,
      runWord_stops_at_stall hh hable hheld hguard hpred⟩⟩
  case named =>
    intro s h g d a b m hh hable hpoll hheld hguard hpred stops
    have hword : AtWord s h g := ⟨hh, hable, hpoll, hheld, hguard, hpred⟩
    exact ⟨iadd_stops_beyond hword, fun hbound => ⟨ld_stops_beyond hword hbound, st_stops_beyond hword hbound⟩, tld_stops_beyond hword,
      skbind_stops_beyond hword, iadd_stops_early hword⟩
  case memory =>
    intro s h g d a z k va off sp stops atom scr amos
    refine ⟨?_, ?_, ?_, ?_, ?_, ?_⟩
    · intro halign
      exact ⟨fun hi => memWord_stops rfl halign hi, fun hi => memWord_stops rfl halign hi, fun hi => memWord_stops rfl halign hi⟩
    · intro halign
      and_intros
      all_goals exact fun hi => memWord_stops rfl halign hi
    · intro halign
      exact ⟨fun hi => memWord_stops rfl halign hi, fun hi => memWord_stops rfl halign hi, fun hi => memWord_stops rfl halign hi⟩
    · intro hgrant
      exact ⟨lds_stops hgrant, sts_stops hgrant⟩
    · intro halign
      and_intros
      all_goals exact fun hi => amosWord_stops_misaligned hi halign
    · intro halign hgrant
      and_intros
      all_goals exact fun hi => amosWord_stops_outside hi halign hgrant
  case slots =>
    intro s h g a other stops
    exact ⟨fun hother hclear hstores hi => qcmt_stops hstores hi (misuse_of_other hother) hclear,
      fun hother hstores hi => qdrop_stops hstores hi (misuse_of_other hother),
      fun hnone hstores hloads hi => qfree_stops hstores hi hnone hloads⟩
  case fabric =>
    intro s h g d a ds n e qs stops arms out sync
    have hsend {i : Instr} {add : Bool} {f : Nat × BitVec 64} (hf : sendFault h.cord add ds = some f) (hexec : exec i s = sendWord i g a add s) :
        stops i 3 f.1 f.2 := fun hroom hi => hexec.trans (sendWord_stops hf hroom hi)
    have harms {f : Nat × BitVec 64} (hf : armFault (coreOfCord s h.cord).scratch h.cord qs = some f) : arms f.1 f.2 := tsend_stops hf
    have hesend {f : Nat × BitVec 64} (hf : esendFault (ctxOf s h.cord.ctx) h.cord qs = some f) : stops (.esend g a) 4 f.1 f.2 := esend_stops hf
    refine ⟨?length, ?lengths, ?part, ?armPart, ?ranges, ?trigger, ?ethernet, ?landing⟩
    case length => exact fun hlen => ⟨hsend (add := false) (sendFault_of_length hlen) rfl, hsend (add := true) (sendFault_of_length hlen) rfl⟩
    case lengths => exact fun hlen => ⟨hesend (esendFault_of_length hlen), harms (armFault_of_field (sendFault_of_length hlen))⟩
    case part => exact fun _ _ hpart => hsend (add := true) (sendFault_of_part hpart) rfl
    case armPart => exact fun _ _ hadd hpart => harms (armFault_of_field (by rw [hadd]; exact sendFault_of_part hpart))
    case ranges =>
      intro hzero hpos hmax
      refine ⟨fun hssp hout => hsend (add := false) (sendFault_of_source hzero hpos hmax hssp hout) rfl, fun htype hwhole => ⟨?_, ?_⟩⟩
      · exact fun halign => hsend (add := true) (sendFault_of_misaligned hzero hpos hmax htype hwhole halign) rfl
      · exact fun halign hssp hout => hsend (add := true) (sendFault_of_add_source hzero hpos hmax htype hwhole halign hssp hout) rfl
    case trigger =>
      intro hzero
      refine ⟨fun f hf => harms (armFault_of_send hzero hf), fun hnone => ⟨?_, ?_⟩⟩
      · exact fun halign => harms (armFault_of_misaligned hzero hnone halign)
      · exact fun halign hgrant => harms (armFault_of_outside hzero hnone halign hgrant)
    case ethernet =>
      intro hzero hzero' hpos hmax hpeer
      have hfields := esendFault_of_fields (c := h.cord) hzero hzero' hpos hmax hpeer
      refine ⟨fun halign => hesend (f := (7, BitVec.ofNat 64 (esendOff qs))) ?_,
        fun halign hgrant => hesend (f := (8, BitVec.ofNat 64 (esendOff qs))) ?_,
        fun halign hgrant hssp hout => hesend (f := (8, dreg qs 0)) ?_⟩
      · exact hfields.trans (if_pos halign)
      · rw [hfields, if_neg (not_not.mpr halign), if_pos hgrant]
      · rw [hfields, if_neg (not_not.mpr halign), if_neg (ne_false_of_eq_true hgrant), if_pos ⟨hssp, hout⟩]
    case landing =>
      intro hzero hzero'
      refine ⟨fun halign hroom hi => ?_, fun halign hgrant hroom hi => ?_⟩
      · exact erecv_stops hzero hzero' (syncCheck_of_misaligned halign) hroom hi
      · exact erecv_stops hzero hzero' (syncCheck_of_outside halign hgrant) hroom hi

end Sys2Proof.Laws

/-!
O47, pre-emption, save and restore. It fails in its last clause, that a restored cord has every strand as saved: the core that takes the cord
up makes an acquire (R226, R263), and the acquire takes from every load of its core's cords, the restored one's among them, the words that the
load was performed with and has not made valid (log 71). A cord can be saved with such a load, one performed behind a failure that its strand,
arrived at a barrier, cannot record yet (R363, R435); the clause does not leave it out.
-/
namespace Sys2Proof.Laws
open Sys2Proof.Machine

/-- A load that has failed, and a younger one that has been performed and would make a word valid. -/
def failedLoad : Op := { blankOp with uid := 6, seq := some 0, state := .failed, cause := 9 }
def performedLoad : Op := { blankOp with uid := 7, seq := some 1, state := .performed, line := [(16384, 5)] }

/-- The cord's one strand has arrived at a barrier of the quad, and cannot record the failure of its older load. -/
def failingState : State :=
  modStrand (State.reset.withFetchWord 32 0) 0 0 (fun st => { st with wait := .bar 2, ops := [failedLoad, performedLoad], next := 2 })

/-- The cord, pre-empted. -/
def preemptedState : State := modCord failingState 0 (fun c => { c with preempt := some .save })

/-- The cord, saved. -/
def savedState : State := { modCord failingState 0 (fun c => { c with life := .saved }) with todo := [] }

/-- A bind record for the save area, on the core the cord had. -/
def restoreRecord : BindRec :=
  ⟨1, 0, 1, BitVec.ofNat 64 (2 ^ 32 + 2 ^ 26), 1, 0, 0, 255, 0, 0⟩

/-- The core that takes the cord up. -/
def restoreCore : CoreId := ⟨0, 0, 0⟩

/-- The words that the loads of a cord would make valid, by strand. -/
def cordLines (c : Cord) : List (List (List (Nat × BitVec 32))) := c.strands.map (fun p => p.2.ops.map (·.line))

/-- Those of cord 0 after an event. -/
def linesAfter (o : Out) : Option (List (List (List (Nat × BitVec 32)))) :=
  match o with
  | .next t => (mget t.cords 0).map cordLines
  | _ => none

section
set_option maxRecDepth 4000

/-- R363 lets the cord be saved as it stands. -/
theorem preemptedState_savable : (mget preemptedState.cords 0).any (savable preemptedState 0) = true := by decide

theorem restoreRecord_accepted : bindReason savedState restoreCore 0 restoreRecord = 0 := by decide

/-- The record names the cord. -/
theorem restoreRecord_names : ∃ c w, mget savedState.cords 0 = some c ∧ workOf savedState restoreCore restoreRecord = some w ∧
    w.cord = some (0, c) ∧ c.life = .saved ∧ resident savedState c.ctx 0 c.hdr.leases = true ∧ seedsWait savedState c.ctx c.graph = false ∧
    c.debug = false ∧ (ctxOf savedState c.ctx).landings.filter (fun l => l.cord == 0) = [] ∧ armedSends c = [] ∧
    cordLines c = [[[], [(16384, 5)]]] :=
  ⟨_, _, rfl, rfl, rfl, rfl, rfl, rfl, rfl, rfl, rfl, rfl⟩

/-- The restored cord's load would make no word valid. -/
theorem restored_lines : linesAfter (exec (.restore restoreCore 0 restoreRecord) savedState) = some [[[], []]] := by decide

end

/-- Refutes O47: a load of the saved cord, performed with a word it has not made valid, has lost it in the restored one. -/
theorem not_cordEvents : ¬ Obligations.CordEvents := by
  unfold Obligations.CordEvents
  intro h
  obtain ⟨c, w, hc, hw, hcord, hlife, hresident, hseeds, hdebug, hlandings, hsends, hlines⟩ := restoreRecord_names
  obtain ⟨-, -, -, -, -, hrestore⟩ := h savedState 0 c hc
  obtain ⟨-, hkeeps⟩ := hrestore restoreCore 0 restoreRecord w restoreRecord_accepted hw hcord hlife
  obtain ⟨t, d, hnext, -, -, hd, -, hstrands, -⟩ := hkeeps rfl (by decide) hresident hseeds hdebug hlandings hsends
  have hrestored : linesAfter (.next t) = some [[[], []]] := hnext ▸ restored_lines
  have hsame : linesAfter (.next t) = some (cordLines c) := by simp [linesAfter, hd, cordLines, hstrands]
  rw [hrestored, hlines] at hsame
  exact absurd hsame (by decide)

end Sys2Proof.Laws

/-!
O23, the results of the cross-lane words (R188 to R192). An instance has bits 26:0 of its word, and the model reads them as one number. What a
member is written is said once for each major opcode, by the fields of the word; the fields of an encoding are those it was built from.
-/
namespace Sys2Proof.Laws
open Sys2Proof.Machine

/-! ### The fields of bits 26:0 of a word, as numbers -/

section
variable (w : Word)

theorem low27_major : (w.extractLsb' 0 27).toNat / 2 ^ 21 = (majorOf w).toNat := by
  simp only [majorOf, BitVec.extractLsb'_toNat, Nat.shiftRight_eq_div_pow]
  omega

/-- The form of a move, a reduction or a scan. -/
theorem low27_form : (w.extractLsb' 0 27).toNat % 128 / 32 = (w.extractLsb' 5 2).toNat := by
  simp only [BitVec.extractLsb'_toNat, Nat.shiftRight_eq_div_pow]
  omega

theorem low27_operation : (w.extractLsb' 0 27).toNat % 128 % 32 = (w.extractLsb' 0 5).toNat := by
  simp only [BitVec.extractLsb'_toNat, Nat.shiftRight_eq_div_pow]
  omega

/-- The form of a vote or an election. -/
theorem low27_voteForm : (w.extractLsb' 0 27).toNat % 128 / 8 = (w.extractLsb' 3 4).toNat := by
  simp only [BitVec.extractLsb'_toNat, Nat.shiftRight_eq_div_pow]
  omega

end

/-! ### The fields of an encoding -/

section
variable (g : Guard) (q : BitVec 6) (d r : BitVec 7)

theorem mkWord_form (k : BitVec 2) (m : BitVec 5) : (mkWord g q (d ++ r ++ k ++ m)).extractLsb' 5 2 = k :=
  (mk_payload g q _ (by decide)).trans (pay_7_7_2_5_at_5_2 d r k m)

theorem mkWord_operation (k : BitVec 2) (o : BitVec 5) : (mkWord g q (d ++ r ++ k ++ o)).extractLsb' 0 5 = o :=
  (mk_payload g q _ (by decide)).trans (pay_7_7_2_5_at_0_5 d r k o)

theorem mkWord_voteForm (k : BitVec 4) (p : BitVec 3) : (mkWord g q (d ++ r ++ k ++ p)).extractLsb' 3 4 = k :=
  (mk_payload g q _ (by decide)).trans (pay_7_7_4_3_at_3_4 d r k p)

theorem mkWord_electForm (n : BitVec 7) : (mkWord g q (d ++ r ++ n)).extractLsb' 3 4 = n.extractLsb' 3 4 :=
  (mk_payload g q _ (by decide)).trans (pay_7_7_7_at_3_4 d r n)

end

/-! ### What a member is written, by major opcode -/

/-- The arrived member on a lane, from which a move takes its value (R188). -/
def moveSource (c : Cord) (x : Inst) (l : Nat) : Option Arrival :=
  if l ≤ 63 && laneIn (members c x) l then arrivalOf x l else none

/-- What a move writes in a member whose source is given: the source's value, or 0, and whether there is a source (R188). -/
def moved (a : Arrival) (source : Option Arrival) : List (Reg × BitVec 64) × Flags :=
  (toV a.d ((source.map (·.x)).getD 0) ++ a.pd.elim [] (fun p => toP p source.isSome), 0)

/-- The mode of every node of a reduction, that of the lowest arrived member (R190). -/
def leadMode (x : Inst) (a : Arrival) : RMode :=
  let lead := (arrivalOf x (lowestArrived x)).getD a
  ⟨fp32, lead.mod_.extractLsb' 0 2, lead.mod_.getLsbD 2, lead.ftz⟩

/-- What a member is written by the reduction over the members below a lane, with the flags of its nodes (R190, R191). -/
def reduced (c : Cord) (x : Inst) (a : Arrival) (o below : Nat) : List (Reg × BitVec 64) × Flags :=
  let v := reduceBelow c x o (leadMode x a) below
  (toV a.d (BitVec.ofNat 32 v.1), v.2)

/-- The lane below which the members take part in the result of lane l, by the form of the word: red, then the inclusive and the exclusive
scan (R190). -/
def reductionBound (form l : Nat) : Nat := if form < 2 then 64 else if form % 2 == 1 then l else l + 1

section
variable {c : Cord} {x : Inst} {a b : Arrival} {w : Word}

theorem moveSource_eq_some {l : Nat} (hl : l ≤ 63) (hmember : laneIn (members c x) l = true) (hb : arrivalOf x l = some b) :
    moveSource c x l = some b := by
  simp [moveSource, hl, hmember, hb]

theorem moveSource_eq_none {l : Nat} (hl : 63 < l ∨ laneIn (members c x) l = false ∨ arrivalOf x l = none) :
    moveSource c x l = none := by
  obtain hl | hl | hl := hl
  · simp [moveSource, Nat.not_le.mpr hl]
  · simp [moveSource, hl]
  · simp [moveSource, hl]

/-- xlm (R188). -/
theorem crossResult_move (hw : x.word = w.extractLsb' 0 27) (hmajor : majorOf w = 0x31#6) :
    crossResult c x a = moved a (moveSource c x (xlmSource (w.extractLsb' 5 2).toNat a.lane a.y.toNat)) := by
  unfold crossResult
  dsimp only
  rw [hw, low27_major, hmajor, low27_form, if_pos (by decide), moveSource]
  split
  · next b hb => rw [hb]; rfl
  · next hnone => rw [hnone]; rfl

/-- red and scan (R190). -/
theorem crossResult_reduction (hw : x.word = w.extractLsb' 0 27) (hmajor : majorOf w = 0x32#6) :
    crossResult c x a = reduced c x a (w.extractLsb' 0 5).toNat (reductionBound (w.extractLsb' 5 2).toNat a.lane) := by
  have hred : (w.extractLsb' 0 27).toNat % 128 < 64 ↔ (w.extractLsb' 5 2).toNat < 2 := by
    rw [← low27_form]
    omega
  unfold crossResult
  dsimp only
  rw [hw, low27_major, hmajor, low27_form, low27_operation]
  simp only [hred, ← apply_ite (reduceBelow c x (w.extractLsb' 0 5).toNat _)]
  rfl

/-- vote and elect (R189, R192). -/
theorem crossResult_vote (hw : x.word = w.extractLsb' 0 27) (hmajor : majorOf w = 0x33#6) :
    crossResult c x a =
      if w.extractLsb' 3 4 = 0#4 then (toP (pReg a.d) (a.lane == lowestArrived x), 0)
      else if w.extractLsb' 3 4 = 5#4 then (toP (pReg a.d) (ballot x != 0), 0)
      else if w.extractLsb' 3 4 = 6#4 then (toP (pReg a.d) (ballot x == members c x), 0)
      else (toS (sReg a.d) (ballot x), 0) := by
  unfold crossResult
  dsimp only
  rw [hw, low27_major, hmajor, low27_voteForm]
  simp [← BitVec.toNat_inj]

/-- An encoded move from the lane src, where it is one, or from no lane. -/
theorem crossResult_move_from {g : Guard} {d r : BitVec 7} {form : BitVec 2} {m : BitVec 5} {src : Option Nat}
    (hw : x.word = (mkWord g 0x31#6 (d ++ r ++ form ++ m)).extractLsb' 0 27)
    (hsrc : xlmSource form.toNat a.lane a.y.toNat = src.getD 64) :
    (∀ l, src = some l → l ≤ 63 → laneIn (members c x) l = true → arrivalOf x l = some b →
      crossResult c x a = (toV a.d b.x ++ a.pd.elim [] (fun p => toP p true), 0)) ∧
    ((∀ l, src = some l → 63 < l ∨ laneIn (members c x) l = false ∨ arrivalOf x l = none) →
      crossResult c x a = (toV a.d 0 ++ a.pd.elim [] (fun p => toP p false), 0)) := by
  rw [crossResult_move hw (mk_major ..), mkWord_form, hsrc]
  constructor
  · rintro l rfl hl hmember hb
    rw [Option.getD_some, moveSource_eq_some hl hmember hb]
    rfl
  · intro hnone
    have hsource : moveSource c x (src.getD 64) = none := by
      cases src with
      | none => exact moveSource_eq_none (.inl (by decide))
      | some l => exact moveSource_eq_none (hnone l rfl)
    rw [hsource]
    rfl

end

/-- Settles O23, by the fields of each encoding. -/
theorem crossLaneResults : Obligations.CrossLaneResults := by
  unfold Obligations.CrossLaneResults
  intro c x a b g d r m o p is from_ lead md red
  refine ⟨?idx, ?xor, ?up, ?dn, ?red, ?scan, ?scanExcl, ?elect, ?any, ?all, ?ballot⟩
  case idx | dn => exact fun hw => crossResult_move_from hw rfl
  case xor => exact fun hw => crossResult_move_from hw (by simp [xlmSource])
  case up => exact fun hw => crossResult_move_from hw (by rw [apply_ite (Option.getD · 64)]; rfl)
  case red | scan | scanExcl =>
    intro hw
    rw [crossResult_reduction hw (mk_major ..), encode, mkWord_form, mkWord_operation]
    rfl
  case elect =>
    intro hw
    rw [crossResult_vote hw (mk_major ..), encode, mkWord_electForm]
    rfl
  case any | all | ballot =>
    intro hw
    rw [crossResult_vote hw (mk_major ..), encode, mkWord_voteForm]
    rfl

end Sys2Proof.Laws

/-!
O27 and O29, knots at their arbiter (R206, R217 to R220, R224, R225, R231 to R234). First the answer to each event in each state of the
knot, then one rule for each thing that becomes of an event from another die and of a woken waiter, then the statements.
-/
namespace Sys2Proof.Laws
open Sys2Proof.Machine

/-! ### The answer to an event -/

section
variable {k : Knot} (v : BitVec 64)

theorem breakKnot_of_pending (hk : k.state = .pending) : breakKnot k = wakeAll none { k with state := .broken } := by
  simp [breakKnot, hk]

theorem breakKnot_of_settled (hk : k.state ≠ .pending) : breakKnot k = k := by simp [breakKnot, hk]

theorem knset_of_pending (hk : k.state = .pending) :
    knotAct 0 v true k = (wakeAll (some v) { k with value := v, state := .resolved }, {}) := by
  simp [knotAct, hk]

/-- A contribution to a knot without a count is added, and the knot stays pending. -/
theorem knadd_of_uncounted (hk : k.state = .pending) (hexpect : k.expect = 0) :
    knotAct 1 v true k = ({ k with value := k.value + v }, {}) := by
  simp [knotAct, hk, hexpect]

/-- The last contribution resolves the knot with the sum. -/
theorem knadd_of_last (hk : k.state = .pending) (hexpect : k.expect = 1) :
    knotAct 1 v true k = (wakeAll (some (k.value + v)) { k with value := k.value + v, expect := 0, state := .resolved }, {}) := by
  simp [knotAct, hk, hexpect]

theorem knadd_of_counted (hk : k.state = .pending) (hexpect : 1 < k.expect) :
    knotAct 1 v true k = ({ k with value := k.value + v, expect := k.expect - 1 }, {}) := by
  have hzero : k.expect ≠ 0 := by omega
  have hone : k.expect ≠ 1 := by omega
  simp [knotAct, hk, hzero, hone]

/-- A knot that is not pending takes no value and does not break (R232, R234). -/
theorem settled_of_not_pending (hk : k.state ≠ .pending) :
    knotAct 0 v true k = (k, {}) ∧ knotAct 1 v true k = (k, {}) ∧ knotAct 2 v true k = (k, {}) := by
  simp [knotAct, hk, breakKnot_of_settled hk]

theorem knbrk_of_pending (hk : k.state = .pending) : knotAct 2 v true k = (wakeAll none { k with state := .broken }, {}) := by
  simp [knotAct, breakKnot_of_pending hk]

theorem knfree_live : knotAct 3 v true k = ({ breakKnot k with state := .free, gen := nextGen k.gen }, {}) := rfl

theorem knget_of_resolved (hk : k.state = .resolved) : knotAct 5 v true k = (k, { val := some k.value, p := some true, acq := true }) := by
  simp [knotAct, hk]

theorem knget_of_unresolved {live : Bool} (hk : live = true → k.state ≠ .resolved) : knotAct 5 v live k = (k, { p := some false }) := by
  simpa [knotAct] using hk

theorem knpoll_answer (live : Bool) : knotAct 6 v live k = (k, { p := some (!(live && k.state == .pending)) }) := rfl

theorem knwait_of_resolved (hk : k.state = .resolved) : knotAct 7 v true k = (k, { val := some k.value, acq := true }) := by
  simp [knotAct, hk]

theorem knwait_of_broken (hk : k.state = .broken) : knotAct 7 v true k = (k, { fault := 17 }) := by
  simp [knotAct, hk]

theorem knwait_sleeps (hresolved : k.state ≠ .resolved) (hbroken : k.state ≠ .broken) : knotAct 7 v true k = (k, { sleep := true }) := by
  simp [knotAct, hresolved, hbroken]

/-- Every event but knget and knpoll faults on a stale handle (R225). -/
theorem knotAct_stale {op : Nat} (hop : op = 0 ∨ op = 1 ∨ op = 2 ∨ op = 3 ∨ op = 7) : knotAct op v false k = (k, { fault := 16 }) := by
  rcases hop with rfl | rfl | rfl | rfl | rfl <;> rfl

end

/-- Settles O27: the answers, event by event. -/
theorem knotEvents : Obligations.KnotEvents := by
  unfold Obligations.KnotEvents
  intro k v pending knset knadd
  exact ⟨knset_of_pending v, knadd_of_uncounted v, knadd_of_last v, knadd_of_counted v, settled_of_not_pending v, knbrk_of_pending v,
    knfree_live v, knget_of_resolved v, fun hk => knget_of_unresolved v fun _ => hk, knget_of_unresolved v nofun, knpoll_answer v,
    knwait_of_resolved v, knwait_of_broken v, knwait_sleeps v, fun _ => knotAct_stale v⟩

/-! ### Strands beside a knot -/

theorem strandOf_of_cords {s t : State} (h : t.cords = s.cords) (k l : Nat) : strandOf t k l = strandOf s k l := by
  simp only [strandOf, h]

theorem knotRelease_cords (s : State) (p : Party) (ctx dev op : Nat) (w : BitVec 32) : (knotRelease s p ctx dev op w).cords = s.cords := by
  unfold knotRelease
  split <;> rfl

/-- Nothing has reached the strand, so its wait goes on. -/
theorem abandonWait_of_undisturbed {s : State} {k l : Nat} {st : Strand} (hst : strandOf s k l = some st) (hfault : st.fault = none)
    (hops : ∀ o ∈ st.ops, o.state ≠ .failed) : abandonWait s k l = s := by
  obtain ⟨c, hc, hl⟩ := Option.bind_eq_some_iff.mp hst
  have hnone : st.ops.any (opFailed (cycOf s c.dev c.die)) = false := by
    simpa [opFailed] using fun o ho hfailed => absurd hfailed (hops o ho)
  simp [abandonWait, hc, hl, hnone, hfault]

@[simp] theorem setKnot_cords (s : State) (ctx key : Nat) (k : Knot) : (setKnot s ctx key k).cords = s.cords := rfl

/-! ### An event from another die -/

/-- The answer to the event. -/
abbrev eventAnswer (s : State) (c : Cord) (e : KnotEv) : Knot × KnotRes := knotAnswer s c.ctx c.dev e.op e.handle e.val

/-- The key of the entry it names. -/
abbrev eventKey (c : Cord) (e : KnotEv) : Nat := knotKey c.dev e.handle

/-- The die whose arbiter the event goes to. -/
abbrev arbiterDie (s : State) (c : Cord) (e : KnotEv) : Die := dieOf s c.dev (knotDie (eventKey c e))

/-- The event may be answered: it is behind no other of its braid, and the arbiter has taken none in this cycle that the rule puts after
it (R206, R224). -/
def ArbiterTurn (s : State) (c : Cord) (e : KnotEv) : Prop :=
  knotBehind s c e = false ∧ ((arbiterDie s c e).arbAt = (arbiterDie s c e).cyc → (arbiterDie s c e).arbKey ≤ knotOrder c e)

/-- The machine as the arbiter takes the event: its place in the cycle noted, the event no longer on its way, its release made. -/
def arbiterTook (s : State) (c : Cord) (e : KnotEv) : State :=
  let u := modDie s c.dev (knotDie (eventKey c e)) (fun d => { d with arbAt := d.cyc, arbKey := knotOrder c e })
  knotRelease { u with knotEvs := u.knotEvs.filter (·.id != e.id) } (partyOf c e.lane) c.ctx c.dev e.op e.handle

theorem arbiterTook_cords (s : State) (c : Cord) (e : KnotEv) : (arbiterTook s c e).cords = s.cords := knotRelease_cords ..

section
variable {s : State} {e : KnotEv} {c : Cord}

/-- What the arbiter checks before it takes an event. -/
theorem arbiterTurn_iff :
    (knotBehind s c e || ((arbiterDie s c e).arbAt == (arbiterDie s c e).cyc && decide (knotOrder c e < (arbiterDie s c e).arbKey))) = false ↔
      ArbiterTurn s c e := by
  simp [ArbiterTurn]

/-- The entry of the strand of an event in the pool of the knot it waits for. -/
abbrev eventWaiter (e : KnotEv) : Waiter := ⟨e.cord, e.lane, e.d, e.pc, e.word, e.hint, none⟩

/-- The machine with the strand of a knwait asleep on its knot. -/
abbrev asleepOn (s : State) (c : Cord) (e : KnotEv) : State :=
  let k := (eventAnswer s c e).1
  modStrand (setKnot (arbiterTook s c e) c.ctx (eventKey c e) { k with waiters := k.waiters ++ [eventWaiter e] }) e.cord e.lane
    (fun st => { st with wait := .knot c.dev (eventKey c e % 2 ^ 20) })

/-- The machine with the strand of an event answered. -/
abbrev answeredWith (s : State) (c : Cord) (e : KnotEv) : State :=
  let r := eventAnswer s c e
  let t := setKnot (arbiterTook s c e) c.ctx (eventKey c e) r.1
  let t := if r.2.acq then acquireStep t (coreIdOf c) 4 else t
  deliver (modStrand t e.cord e.lane (fun st => { st with wait := .none })) e.cord e.lane e.id (knotWrites e.d e.x r.2)

theorem poolWaits_of_awake (hawake : (eventAnswer s c e).2.sleep = false) : poolWaits s c e = false := by
  simp [poolWaits, hawake]

variable (he : s.knotEvs.find? (·.id == e.id) = some e) (hc : mget s.cords e.cord = some c)
include he hc

theorem remoteKnotEvent_waits (hturn : ¬ ArbiterTurn s c e) : execRemoteKnotEvent e.id s = .next s := by
  have hcheck := Bool.eq_true_of_not_eq_false (mt arbiterTurn_iff.mp hturn)
  simp only [execRemoteKnotEvent, he, hc, hcheck, if_true]

variable (hturn : ArbiterTurn s c e)
include hturn

theorem remoteKnotEvent_goes_back (hpool : poolWaits s c e = true) : execRemoteKnotEvent e.id s = .next (sendBack s e) := by
  simp only [execRemoteKnotEvent, he, hc, arbiterTurn_iff.mpr hturn, hpool, if_true, Bool.false_eq_true, if_false]

theorem remoteKnotEvent_sleeps (hsleep : (eventAnswer s c e).2.sleep = true) (hpool : poolWaits s c e = false) :
    execRemoteKnotEvent e.id s = .next (abandonWait (asleepOn s c e) e.cord e.lane) := by
  simp only [execRemoteKnotEvent, he, hc, arbiterTurn_iff.mpr hturn, hpool, hsleep, if_true, Bool.false_eq_true, if_false]
  rfl

/-- A strand that nothing has reached sleeps on the knot. -/
theorem remoteKnotEvent_leaves_asleep (hsleep : (eventAnswer s c e).2.sleep = true) (hpool : poolWaits s c e = false)
    {st : Strand} (hst : strandOf s e.cord e.lane = some st) (hfault : st.fault = none) (hops : ∀ o ∈ st.ops, o.state ≠ .failed) :
    execRemoteKnotEvent e.id s = .next (asleepOn s c e) ∧
      strandOf (asleepOn s c e) e.cord e.lane = some { st with wait := .knot c.dev (eventKey c e % 2 ^ 20) } := by
  have hasleep : strandOf (asleepOn s c e) e.cord e.lane = some { st with wait := .knot c.dev (eventKey c e % 2 ^ 20) } :=
    strandOf_modStrand_of _ ((strandOf_of_cords (arbiterTook_cords s c e) ..).trans hst)
  rw [remoteKnotEvent_sleeps he hc hturn hsleep hpool, abandonWait_of_undisturbed hasleep hfault hops]
  exact ⟨rfl, hasleep⟩

variable (hawake : (eventAnswer s c e).2.sleep = false)
include hawake

theorem remoteKnotEvent_faults (hfault : (eventAnswer s c e).2.fault ≠ 0) :
    execRemoteKnotEvent e.id s = .next (faultLeft (setKnot (arbiterTook s c e) c.ctx (eventKey c e) (eventAnswer s c e).1)
      e.cord e.lane (eventAnswer s c e).2.fault e.pc e.word e.hint 0) := by
  simp only [execRemoteKnotEvent, he, hc, arbiterTurn_iff.mpr hturn, poolWaits_of_awake hawake, hawake, Bool.false_eq_true, if_false]
  exact if_pos (bne_iff_ne.mpr hfault)

theorem remoteKnotEvent_answers (hfault : (eventAnswer s c e).2.fault = 0) : execRemoteKnotEvent e.id s = .next (answeredWith s c e) := by
  simp only [execRemoteKnotEvent, he, hc, arbiterTurn_iff.mpr hturn, poolWaits_of_awake hawake, hawake, Bool.false_eq_true, if_false]
  exact if_neg (by simp [hfault])

end

/-! ### A woken waiter -/

/-- The machine with the first waiter of a knot taken from it in this cycle. -/
abbrev wakeTaken (s : State) (ctx dev slot : Nat) (ws : List Waiter) : State :=
  let key := dev * 2 ^ 20 + slot
  setKnot s ctx key { knotOf (ctxOf s ctx) key with waiters := ws, wokeAt := cycOf s dev (knotDie key) }

section
variable {s : State} {c : Cord} {ctx dev slot : Nat} {w : Waiter} {ws : List Waiter}
variable (hws : (knotOf (ctxOf s ctx) (dev * 2 ^ 20 + slot)).waiters = w :: ws)
variable (hnow : (knotOf (ctxOf s ctx) (dev * 2 ^ 20 + slot)).wokeAt < cycOf s dev (knotDie (dev * 2 ^ 20 + slot)))
variable (hc : mget s.cords w.cord = some c)
include hws hnow hc

theorem waiterWake_answers {x : BitVec 64} (hwoken : w.woken = some (some x)) :
    execWaiterWake ctx dev slot s =
      let t := acquireStep (wakeTaken s ctx dev slot ws) (coreIdOf c) 4
      .next (deliver (modStrand t w.cord w.lane (fun st => { st with wait := .none })) w.cord w.lane t.uid (toV2 w.d x)) := by
  simp only [execWaiterWake, hws, hwoken, setKnot_cords, hc, beq_false_of_ne hnow.ne, Bool.false_and, Bool.false_eq_true, if_false]

theorem waiterWake_faults (hwoken : w.woken = some none) :
    execWaiterWake ctx dev slot s = .next (faultLeft (wakeTaken s ctx dev slot ws) w.cord w.lane 17 w.pc w.word w.hint 0) := by
  simp only [execWaiterWake, hws, hwoken, setKnot_cords, hc, beq_false_of_ne hnow.ne, Bool.false_and, Bool.false_eq_true, if_false]

end

/-- Settles O29: what becomes of an event from another die, by its turn and its answer, and of a woken waiter. -/
theorem remoteKnotResults : Obligations.RemoteKnotResults := by
  unfold Obligations.RemoteKnotResults
  intro s e c ctx dev slot w ws x r at_ d turn u t key k now
  refine ⟨?answers, ?goesBack, ?sleeps, ?faults, ?waits, ?woken, ?broken⟩
  case answers => exact remoteKnotEvent_answers
  case goesBack => exact remoteKnotEvent_goes_back
  case sleeps =>
    intro he hc hturn hsleep hpool
    refine ⟨remoteKnotEvent_sleeps he hc hturn hsleep hpool, fun st hst hfault hops => ?_⟩
    obtain ⟨hexec, hasleep⟩ := remoteKnotEvent_leaves_asleep he hc hturn hsleep hpool hst hfault hops
    exact ⟨_, _, hexec, hasleep, rfl⟩
  case faults => exact remoteKnotEvent_faults
  case waits => exact remoteKnotEvent_waits
  case woken => exact fun hws hwoken hnow hc => waiterWake_answers hws hnow hc hwoken
  case broken => exact fun hws hwoken hnow hc => waiterWake_faults hws hnow hc hwoken

end Sys2Proof.Laws

/-!
O26 and O28, the task words (R212, R217, R224 to R234): the rule of a task word that issues, then slots, then knots. A word on slots has
the effect its answer names. A word on a knot asks its arbiter on the strand's own die, or sends its event to another.
-/
namespace Sys2Proof.Laws
open Sys2Proof.Machine Sys2Proof.Safety

/-- The machine with the choice made of how late a task word's answer comes (R224). -/
abbrev lateChosen (s : State) : State := { s with choices := s.choices + 1 }

/-- How the strand leaves a task word: it waits for the answer (R224). -/
abbrev taskLeave (s : State) : Leave := { late := Config.delay s.choices }

/-- The choice of how late the answer comes leaves the contexts. -/
theorem ctxOf_lateChosen (s : State) (ctx : Nat) : ctxOf (lateChosen s) ctx = ctxOf s ctx := rfl

/-- A task word that need not wait and finds no fault of its own. -/
theorem taskWord_issues {s : State} {h : Here} {i : Instr} {g : Guard} {reads writes : List Reg} {hold : Here → State → Bool}
    {fault : Here → State → Nat} {effect : Here → State → State}
    (hhold : hold h s = false) (hfault : fault h s = 0) (hi : Issues s h g { reads := reads, writes := writes }) :
    taskWord i g reads writes hold fault effect s =
      .next (left (effect h (lateChosen s)) h g { reads := reads, writes := writes } (taskLeave s)) := by
  rw [taskWord, runWord_issues (h := h) (by rwa [hhold]) (by simp [hfault]), hhold]

/-! ### Slots -/

section
variable {x : Context} {c : Cord} {k l depth n : Nat}

theorem reserve_of_no_node (hnode : nodeOf x c.graph n = none) : reserve x c k l depth n = .inl 4 := by
  unfold reserve
  cases hgr : graphOf x c.graph with
  | none => rfl
  | some gr =>
    have hnd : gr.nodes[n]? = none := by simpa [nodeOf, hgr] using hnode
    simp only [hnd]

variable {gr : Graph} {nd : NodeHdr} (hgr : graphOf x c.graph = some gr) (hnd : gr.nodes[n]? = some nd)
include hgr hnd

theorem reserve_of_closed (hclosed : gr.closed = true) : reserve x c k l depth n = .inl 3 := by
  simp only [reserve, hgr, hnd, hclosed, if_true]

variable (hopen : gr.closed = false)
include hopen

theorem reserve_of_too_deep (hdepth : nd.limit < if n ≤ c.node then depth + 1 else depth) : reserve x c k l depth n = .inl 2 := by
  simp only [reserve, hgr, hnd, hopen, Bool.false_eq_true, if_false, hdepth, if_true]

variable (hdepth : (if n ≤ c.node then depth + 1 else depth) ≤ nd.limit)
include hdepth

theorem reserve_of_full (hfull : 4 ≤ reservedBy x k l ∨ lowestFree x c.graph n c.dev c.die = none) :
    reserve x c k l depth n = .inl 1 := by
  simp only [reserve, hgr, hnd, hopen, Bool.false_eq_true, if_false, hdepth.not_gt]
  split
  · rfl
  · next hfew => rw [hfull.resolve_left hfew]

theorem reserve_of_free {q : Slot} (hfew : reservedBy x k l < 4) (hq : lowestFree x c.graph n c.dev c.die = some q) :
    reserve x c k l depth n = .inr (q, if n ≤ c.node then depth + 1 else depth) := by
  simp only [reserve, hgr, hnd, hopen, Bool.false_eq_true, if_false, hdepth.not_gt, hfew.not_ge, hq]

end

/-- What the arbiter answers to a qrsv of the strand for the node that S[a] names (R227). -/
abbrev reserveAnswer (s : State) (h : Here) (a : BitVec 7) : Nat ⊕ (Slot × Nat) :=
  reserve (ctxOf s h.cord.ctx) h.cord h.sel.cord h.sel.lane h.st.depth (rdS h.cord (sReg a)).toNat

/-- The machine with a slot of the strand's context changed by a task word. -/
abbrev slotChanged (s : State) (h : Here) (q : Slot) (f : Slot → Slot) : State :=
  modCtx (lateChosen s) h.cord.ctx (fun x => setSlot x q.dev q.addr f)

section
variable {s : State} {h : Here} {g : Guard} {d a : BitVec 7} {p : BitVec 3} {q : Slot}

/-- A slot that the strand holds RESERVED. -/
theorem misuse_of_mine (hslot : namedSlot a h s = some q) (hstate : q.state = .reserved) (hcord : q.cord = h.sel.cord)
    (hlane : q.lane = some h.sel.lane) : misuse a h s = 0 := by
  simp [misuse, hslot, mineReserved, hstate, hcord, hlane]

/-- The choice leaves the slot that the strand names. -/
theorem namedSlot_lateChosen : namedSlot a h (lateChosen s) = namedSlot a h s := rfl

section
variable (hi : Issues s h g { reads := [.s (sReg a)], writes := pair d ++ [.p p] })
include hi

theorem qrsv_refuses {v : Nat} (hanswer : reserveAnswer s h a = .inl v) :
    execQrsv g d a p s =
      .next (left (writeRegs (lateChosen s) h (toV2 d (BitVec.ofNat 64 v) ++ toP p false) (h.now + 1) false) h g
        { reads := [.s (sReg a)], writes := pair d ++ [.p p] } (taskLeave s)) := by
  rw [execQrsv, taskWord_issues (h := h) rfl rfl hi]
  simp only [ctxOf_lateChosen, hanswer]

theorem qrsv_reserves {depth : Nat} (hanswer : reserveAnswer s h a = .inr (q, depth)) :
    execQrsv g d a p s =
      .next (left (writeRegs (slotChanged s h q (fun q =>
          { q with state := .reserved, cord := h.sel.cord, lane := some h.sel.lane, depth := depth })) h
        (toV2 d (BitVec.ofNat 64 q.addr) ++ toP p true) (h.now + 1) false) h g
        { reads := [.s (sReg a)], writes := pair d ++ [.p p] } (taskLeave s)) := by
  rw [execQrsv, taskWord_issues (h := h) rfl rfl hi]
  simp only [ctxOf_lateChosen, hanswer]

end

section
variable (hslot : namedSlot a h s = some q) (hstores : storesPerformed h = true) (hi : Issues s h g { reads := pair a })
include hslot hstores hi

theorem qcmt_commits (hmine : misuse a h s = 0) (hclear : hzClear h.now h.st = true) :
    execQcmt g a s = .next (left (commitHere h q (lateChosen s)) h g { reads := pair a } (taskLeave s)) := by
  rw [execQcmt, taskWord_issues (h := h) (by simp [hclear, hstores]) hmine hi, namedSlot_lateChosen, hslot]

theorem qdrop_frees (hmine : misuse a h s = 0) :
    execQdrop g a s = .next (left (slotChanged s h q freeSlot) h g { reads := pair a } (taskLeave s)) := by
  rw [execQdrop, taskWord_issues (h := h) (by simp [hstores]) hmine hi, namedSlot_lateChosen, hslot]

theorem qfree_frees_held (hloads : loadsReturned h = true) :
    execQfree g a s = .next (left (if q.state == .held && q.cord == h.sel.cord then slotChanged s h q freeSlot else lateChosen s) h g
      { reads := pair a } (taskLeave s)) := by
  rw [execQfree, taskWord_issues (h := h) (by simp [hstores, hloads]) (by simp [hslot]) hi, namedSlot_lateChosen, hslot]

end

theorem qstat_reads (hi : Issues s h g { reads := [.s (sReg a)], writes := [.v d] }) :
    execQstat g d a s =
      .next (left (writeRegs (lateChosen s) h (toV d (nodeStatus (ctxOf s h.cord.ctx) h.cord (rdS h.cord (sReg a)).toNat)) (h.now + 1) false)
        h g { reads := [.s (sReg a)], writes := [.v d] } (taskLeave s)) :=
  taskWord_issues (h := h) (hold := noHold) (fault := noFault) rfl rfl hi

end

/-- Settles O26: qrsv by the answer to it in each case, the other words by the slot they name. -/
theorem slotWordResults : Obligations.SlotWordResults := by
  unfold Obligations.SlotWordResults
  intro s h g d a p q x n late s' sp depth refuses change mine
  refine ⟨?noNode, ?node, ?qcmt, ?qdrop, ?qfree, qstat_reads, regWord_issues⟩
  case noNode => exact fun hnode hi => qrsv_refuses hi (reserve_of_no_node hnode)
  case node =>
    intro gr nd hgr hnd
    refine ⟨?closed, ?tooDeep, ?full, ?free⟩
    case closed => exact fun hclosed hi => qrsv_refuses hi (reserve_of_closed hgr hnd hclosed)
    case tooDeep => exact fun hopen hdepth hi => qrsv_refuses hi (reserve_of_too_deep hgr hnd hopen hdepth)
    case full => exact fun hopen hdepth hfull hi => qrsv_refuses hi (reserve_of_full hgr hnd hopen hdepth hfull)
    case free => exact fun hopen hdepth hfew hq hi => qrsv_reserves hi (reserve_of_free hgr hnd hopen hdepth hfew hq)
  case qcmt =>
    rintro ⟨hslot, hstate, hcord, hlane⟩ hclear hstores hi
    exact qcmt_commits hslot hstores hi (misuse_of_mine hslot hstate hcord hlane) hclear
  case qdrop =>
    rintro ⟨hslot, hstate, hcord, hlane⟩ hstores hi
    exact qdrop_frees hslot hstores hi (misuse_of_mine hslot hstate hcord hlane)
  case qfree => exact fun hslot hstores hloads hi => qfree_frees_held hslot hstores hi hloads

/-! ### Knots -/

/-- The die of an entry does not depend on the module. -/
theorem knotDie_knotKey (dev : Nat) (w : BitVec 32) : knotDie (knotKey dev w) = knotDie (knotKey 0 w) := by
  simp [knotDie, knotKey]

/-- When a knot event is a release (R226, R274). -/
theorem knotRelease_eq (s : State) (p : Party) (ctx dev op : Nat) (w : BitVec 32) :
    knotRelease s p ctx dev op w =
      if op ≤ 1 ∧ knotLive (knotOf (ctxOf s ctx) (knotKey dev w)) w = true ∧ (knotOf (ctxOf s ctx) (knotKey dev w)).state = .pending
      then releaseStep s p else s := by
  simp [knotRelease, knotReleases, and_assoc]

/-- A release leaves every knot. -/
theorem knotAnswer_knotRelease (s : State) (p : Party) (ctx dev op ctx' dev' op' : Nat) (w w' : BitVec 32) (v : BitVec 64) :
    knotAnswer (knotRelease s p ctx dev op w) ctx' dev' op' w' v = knotAnswer s ctx' dev' op' w' v := by
  unfold knotRelease
  split <;> rfl

/-- The answer to a knot word of operation op on the handle in V[a], with its value in V2[d]. -/
abbrev wordAnswer (s : State) (h : Here) (op : Nat) (d a : BitVec 7) : Knot × KnotRes :=
  knotAnswer s h.cord.ctx h.cord.dev op (rdV h.st a) (rdV2 h.st d)

/-- The entry that the handle in V[a] names on the strand's module. -/
abbrev wordKey (h : Here) (a : BitVec 7) : Nat := knotKey h.cord.dev (rdV h.st a)

/-- The machine as the arbiter of the strand's own die leaves it: the release made, the knot changed with the strand among its waiters
if it sleeps, the acquire made and the answer written (R226, R232, R233). -/
def answeredHere (s : State) (h : Here) (i : Instr) (op : Nat) (d a : BitVec 7) (p : BitVec 3) : State :=
  let r := wordAnswer s h op d a
  let k := knotOf (ctxOf s h.cord.ctx) (wordKey h a)
  let t := if op ≤ 1 ∧ knotLive k (rdV h.st a) = true ∧ k.state = .pending then releaseStep s (partyOf h.cord h.sel.lane) else s
  let t := setKnot t h.cord.ctx (wordKey h a)
    (if r.2.sleep then { r.1 with waiters := r.1.waiters ++ [⟨h.sel.cord, h.sel.lane, d, pcOf h.st, wordOf t h i, h.st.hint, none⟩] } else r.1)
  let t := if r.2.sleep then modHere t h (fun st => { st with wait := .knot h.cord.dev (wordKey h a % 2 ^ 20) }) else t
  let t := if r.2.acq then acquireStep t (coreIdOf h.cord) 4 else t
  writeRegs t h (knotWrites d p r.2) (h.now + 1) false

/-- The machine with the event on its way to the die of the knot, and the strand waiting for its answer (R224). -/
def sentAway (s : State) (h : Here) (i : Instr) (op : Nat) (d a : BitVec 7) (p : BitVec 3) : State :=
  modHere { s with uid := s.uid + 1, knotEvs := s.knotEvs ++ [⟨s.uid, h.sel.cord, h.sel.lane, op, rdV h.st a, rdV2 h.st d, d, p, pcOf h.st,
    wordOf s h i, h.st.hint, h.now, h.sel.br⟩] } h (fun st => { st with wait := .answer })

section
variable {s : State} {h : Here} {i : Instr} {g : Guard} {op : Nat} {d a : BitVec 7} {p : BitVec 3} {reads writes : List Reg}
  {hold : Here → Bool}

/-- A word that would sleep has a waiter entry. -/
theorem pool_does_not_hold {die : Nat} (hpool : (wordAnswer s h op d a).2.sleep = true → poolFree s h.cord.ctx h.cord.dev die = true) :
    ((wordAnswer s h op d a).2.sleep && !poolFree s h.cord.ctx h.cord.dev die) = false := by
  simpa using hpool

variable (hhold : hold h = false)
  (hpool : (wordAnswer s h op d a).2.sleep = true → poolFree s h.cord.ctx h.cord.dev (knotDie (wordKey h a)) = true)
  (hi : Issues s h g { reads := reads, writes := writes })
include hhold hpool hi

/-- A knot word whose knot is the strand's own die's. -/
theorem knotWord_answers_here (hdie : knotDie (knotKey 0 (rdV h.st a)) = h.cord.die) (hfault : (wordAnswer s h op d a).2.fault = 0) :
    knotWord i g op d a p reads writes hold s =
      .next (left (answeredHere (lateChosen s) h i op d a p) h g { reads := reads, writes := writes } (taskLeave s)) := by
  unfold knotWord
  refine (taskWord_issues (h := h) ?noHold ?noFault hi).trans ?effect
  case noHold => rw [hhold, Bool.false_or, pool_does_not_hold hpool]
  case noFault => rw [if_pos (beq_iff_eq.mpr hdie), hfault]
  case effect =>
    rw [if_pos (beq_iff_eq.mpr hdie), answeredHere, ← knotRelease_eq]
    simp only [knotAnswer_knotRelease]

/-- A knot word whose knot is another die's. -/
theorem knotWord_sends_away (hdie : knotDie (knotKey 0 (rdV h.st a)) ≠ h.cord.die) :
    knotWord i g op d a p reads writes hold s =
      .next (left (sentAway (lateChosen s) h i op d a p) h g { reads := reads, writes := writes } (taskLeave s)) := by
  unfold knotWord
  refine (taskWord_issues (h := h) ?noHold ?noFault hi).trans ?effect
  case noHold => rw [hhold, Bool.false_or, pool_does_not_hold hpool]
  case noFault => rw [if_neg (by simpa using hdie)]
  case effect => rw [if_neg (by simpa using hdie)]; rfl

end

/-- A new knot of a count: it is pending, and its owner is the cord, or the graph if it counts (R218, R231). -/
abbrev createdKnot (h : Here) (k : Knot) (count : Nat) : Knot :=
  { k with
    value := 0
    state := .pending
    expect := count
    owner := if count == 0 then ownerOf h.sel.cord else graphOwner
    graph := h.cord.graph }

/-- The entry a new knot of a count gets on the strand's die: none if the count is too large or the quarter of the die is full (R231). -/
abbrev newEntry (s : State) (h : Here) (count : Nat) : Option Nat :=
  if 65535 < count then none else lowestKnot (ctxOf s h.cord.ctx) h.cord.dev h.cord.die

section
variable {s : State} {h : Here} {g : Guard} {d : BitVec 7} {p : BitVec 3} (hi : Issues s h g { reads := [.v d], writes := [.v d, .p p] })
include hi

theorem knnew_refuses (hentry : newEntry s h (rdV h.st d).toNat = none) :
    execKnnew g d p s = .next (left (writeRegs (lateChosen s) h (toV d 0 ++ toP p false) (h.now + 1) false) h g
      { reads := [.v d], writes := [.v d, .p p] } (taskLeave s)) := by
  rw [execKnnew, taskWord_issues (h := h) rfl rfl hi]
  simp only [ctxOf_lateChosen, hentry]

theorem knnew_creates {slot : Nat} (hentry : newEntry s h (rdV h.st d).toNat = some slot) :
    let key := h.cord.dev * 2 ^ 20 + slot
    let k := knotOf (ctxOf s h.cord.ctx) key
    execKnnew g d p s = .next (left (writeRegs (setKnot (lateChosen s) h.cord.ctx key (createdKnot h k (rdV h.st d).toNat)) h
        (toV d (BitVec.ofNat 32 (slot * 4096 + k.gen.toNat)) ++ toP p true) (h.now + 1) false) h g
      { reads := [.v d], writes := [.v d, .p p] } (taskLeave s)) := by
  rw [execKnnew, taskWord_issues (h := h) rfl rfl hi]
  simp only [ctxOf_lateChosen, hentry]

end

/-- Settles O28: every knot word but knnew is answered here or sent away; knnew by the entry it gets. -/
theorem knotWordResults : Obligations.KnotWordResults := by
  unfold Obligations.KnotWordResults
  refine ⟨fun s h g d a p => ?words, fun s h g d p slot => ⟨?refuses, ?creates⟩⟩
  case refuses => exact fun hnone hi => knnew_refuses hi (ite_eq_left_iff.mpr hnone.resolve_left)
  case creates => exact fun hcount hslot hi => knnew_creates hi ((if_neg hcount.not_gt).trans hslot)
  intro w ctx dev key late s' ans here away does done
  have hdoes (i : Instr) (op : Nat) (dst : BitVec 7) (pd : BitVec 3) (reads writes : List Reg) (hold : Here → Bool)
      (hexec : exec i s = knotWord i g op dst a pd reads writes hold s) (hhold : hold h = false) : does i op dst pd reads writes := by
    refine ⟨fun hdie hfault hpool hi => ?here, fun hdie hpool hi => ?away⟩
    case here =>
      rw [← hdie, ← knotDie_knotKey dev] at hpool
      exact hexec.trans (knotWord_answers_here hhold hpool hi hdie hfault)
    case away => exact hexec.trans (knotWord_sends_away hhold hpool hi hdie)
  have hsettled : done → allSettled h = false := fun ⟨hclear, hstores⟩ => by simp [allSettled, hclear, hstores]
  refine ⟨?knset, ?knadd, ?knget, ?knwait, ?knpoll, ?knfree, ?knbrk⟩
  case knset => exact fun hdone => hdoes _ 0 d 7 _ _ allSettled rfl (hsettled hdone)
  case knadd => exact fun hdone => hdoes _ 1 d 7 _ _ allSettled rfl (hsettled hdone)
  case knget => exact hdoes _ 5 d p _ _ (fun _ => false) rfl rfl
  case knwait => exact hdoes _ 7 d 7 _ _ (fun _ => false) rfl rfl
  case knpoll => exact hdoes _ 6 0 p _ _ (fun _ => false) rfl rfl
  case knfree =>
    exact fun hstores hloads => hdoes _ 3 0 7 _ _ (fun h => !storesPerformed h || !loadsReturned h) rfl (by simp [hstores, hloads])
  case knbrk => exact hdoes _ 2 0 7 _ _ (fun _ => false) rfl rfl

end Sys2Proof.Laws

/-!
O54 and O60. First, what leaves the bytes of memory: every operation but the ones that write. One lemma per operation, so that a later proof
sees through all of them by `simp`.
-/
namespace Sys2Proof.Laws
open Sys2Proof.Machine Sys2Proof.Safety

@[simp] theorem mem_foldl {α : Type} {f : State → α → State} (hf : ∀ s a, (f s a).mem = s.mem) (s : State) (xs : List α) :
    (xs.foldl f s).mem = s.mem := by
  induction xs generalizing s with
  | nil => rfl
  | cons x xs ih => exact (ih _).trans (hf s x)

@[simp] theorem mem_ite (c : Prop) [Decidable c] (s t : State) : (if c then s else t).mem = if c then s.mem else t.mem :=
  apply_ite State.mem c s t

/-! ### Strands and operations -/

@[simp] theorem freshUid_mem (s : State) : (freshUid s).2.mem = s.mem := rfl
@[simp] theorem choose_mem (s : State) (n : Nat) : (choose s n).2.mem = s.mem := rfl
@[simp] theorem abandonWait_mem (s : State) (k l : Nat) : (abandonWait s k l).mem = s.mem := (abandonWait_keeps s k l).1

@[simp] theorem writeVar_mem (s : State) (h : Here) (ws : List (Reg × BitVec 64)) : (writeVar s h ws).mem = s.mem := by simp [writeVar]

/-! ### Flags -/

@[simp] theorem flagWrite_mem (i : Instr) (lat : Nat) (can : Flags) (r : List (Reg × BitVec 64) × Flags) (h : Here) (s : State) :
    (flagWrite i lat can r h s).mem = s.mem := by
  unfold flagWrite
  dsimp only
  split <;> split <;> simp

@[simp] theorem divWrite_mem (i : Instr) (d : BitVec 7) (can : Flags) (r : BitVec 32 × Flags) (h : Here) (s : State) :
    (divWrite i d can r h s).mem = s.mem := by
  unfold divWrite
  split <;> rfl

@[simp] theorem divideDone_mem (s : State) (k l : Nat) : (divideDone s k l).mem = s.mem := by
  unfold divideDone
  split
  · rfl
  · split
    · rfl
    · split
      · rfl
      · dsimp only
        split
        · split <;> rfl
        · rfl

/-! ### Homes and packets -/

@[simp] theorem setToken_mem (s : State) (a : Nat) (t : Token) : (setToken s a t).mem = s.mem := rfl
@[simp] theorem releaseStep_mem (s : State) (p : Party) : (releaseStep s p).mem = s.mem := rfl
@[simp] theorem giveUp_mem (s : State) (p : Party) (region : Nat) : (giveUp s p region).mem = s.mem := rfl
@[simp] theorem recallStale_mem (s : State) (mine : Party → Bool) : (recallStale s mine).mem = s.mem := rfl
@[simp] theorem dropL1_mem (s : State) (c : CoreId) : (dropL1 s c).mem = s.mem := rfl
@[simp] theorem dropRegion_mem (s : State) (c : CoreId) (region : Nat) : (dropRegion s c region).mem = s.mem := rfl
@[simp] theorem forgetLines_mem (s : State) (c : CoreId) : (forgetLines s c).mem = s.mem := rfl

@[simp] theorem acquireStep_mem (s : State) (c : CoreId) (scope : Nat) : (acquireStep s c scope).mem = s.mem := by
  unfold acquireStep
  split <;> rfl

@[simp] theorem modStation_mem (s : State) (dev st : Nat) (f : Station → Station) : (modStation s dev st f).mem = s.mem := rfl
@[simp] theorem fillReplay_mem (s : State) (dev st : Nat) : (fillReplay s dev st).mem = s.mem := rfl

@[simp] theorem dropPacket_mem (s : State) (p : Packet) : (dropPacket s p).mem = s.mem := by
  unfold dropPacket
  split <;> rfl

@[simp] theorem takeSlot_mem (s : State) (p : Packet) : (takeSlot s p).mem = s.mem := by
  unfold takeSlot
  split <;> rfl

@[simp] theorem portEnqueue_mem (s : State) (read : Bool) (bytes : List (Nat × BitVec 8)) : (portEnqueue s read bytes).mem = s.mem :=
  (portEnqueue_same ..).mem

@[simp] theorem checkWords_mem (s : State) (ws : List Nat) : (checkWords s ws).mem = s.mem := (checkWords_same ..).mem
@[simp] theorem llcDrop_mem (s : State) (dev die region : Nat) : (llcDrop s dev die region).mem = s.mem := (llcDrop_same ..).mem

@[simp] theorem llcPut_mem (s : State) (hint : BitVec 32) (as dirty : List Nat) : (llcPut s hint as dirty).mem = s.mem :=
  (llcPut_same ..).mem

@[simp] theorem portRegions_mem (s : State) (read : Bool) (as : List Nat) : (portRegions s read as).mem = s.mem :=
  (portRegions_same ..).mem

@[simp] theorem homeRead_mem (s : State) (hint : BitVec 32) (as : List Nat) : (homeRead s hint as).mem = s.mem := (homeRead_same ..).mem

@[simp] theorem directoryWrite_mem (s : State) (c : CoreId) (as : List Nat) : (directoryWrite s c as).mem = s.mem :=
  (directoryWrite_same ..).mem

@[simp] theorem directoryRead_mem (s : State) (c : CoreId) (hint : BitVec 32) (as : List Nat) : (directoryRead s c hint as).mem = s.mem :=
  (directoryRead_same ..).mem

@[simp] theorem readTouch_mem (s : State) (c : CoreId) (hint : BitVec 32) (as : List Nat) : (readTouch s c hint as).mem = s.mem :=
  (readTouch_same ..).mem

@[simp] theorem walkTouch_mem (s : State) (c : CoreId) (ctx va : Nat) : (walkTouch s c ctx va).mem = s.mem := (walkTouch_same ..).mem
@[simp] theorem walkFor_mem (s : State) (c : CoreId) (ctx va : Nat) : (walkFor s c ctx va).mem = s.mem := (walkFor_same ..).mem

@[simp] theorem arbitrate_mem (s : State) (kind : OpKind) (p : Option Party) (as : List Nat) : (arbitrate s kind p as).mem = s.mem :=
  (arbitrate_same ..).mem

@[simp] theorem shareLoad_mem (s : State) (grp : Nat) (as : List Nat) (bs : List (BitVec 8)) : (shareLoad s grp as bs).2.mem = s.mem := by
  unfold shareLoad
  split <;> rfl

@[simp] theorem withdraw_mem (s : State) (r : Req) (gone : Req → Bool) : (withdraw s r gone).mem = s.mem := by
  unfold withdraw
  simp only [modOp_mem]
  refine mem_foldl (fun s q => ?_) _ _
  cases packetOf s q <;> simp

@[simp] theorem requestRace_mem (s : State) (r : Req) : (requestRace s r).2.mem = s.mem := (requestRace_cases s r).1.mem
@[simp] theorem pendTake_mem (s : State) (c : CoreId) (bs : List (Nat × BitVec 8)) : (pendTake s c bs).mem = s.mem := rfl
@[simp] theorem coreTake_mem (s : State) (c : CoreId) (bs : List (Nat × BitVec 8)) : (coreTake s c bs).mem = s.mem := rfl
@[simp] theorem mshrLeave_mem (s : State) (c : Cord) (u : Nat) : (mshrLeave s c u).mem = s.mem := rfl

@[simp] theorem applyReply_mem (s : State) (r : Req) (y : Reply) : (applyReply s r y).mem = s.mem := by
  unfold applyReply
  split
  · rfl
  · dsimp only
    split <;> simp

@[simp] theorem tlbForget_mem (s : State) (core : CoreId) (ctx : Nat) (vas : List Nat) : (tlbForget s core ctx vas).mem = s.mem :=
  (tlbForget_same ..).mem

@[simp] theorem resend_mem (s : State) (r : Req) : (resend s r).mem = s.mem := by
  unfold resend
  dsimp only
  split
  · simp
  · split <;> simp

@[simp] theorem sendPacket_mem (s : State) (core : CoreId) (ctx k l op chunk a : Nat) (p : Payload) :
    (sendPacket s core ctx k l op chunk a p).mem = s.mem := by
  unfold sendPacket
  dsimp only
  split <;> simp

@[simp] theorem sendReq_mem (s : State) (r : Req) : (sendReq s r).mem = s.mem := by
  unfold sendReq
  split <;> simp

@[simp] theorem repack_mem (s : State) : (repack s).mem = s.mem := by
  unfold repack
  exact mem_foldl (fun _ _ => by split <;> simp) _ _

/-! ### Slots, batts and knots -/

@[simp] theorem commitHere_mem (h : Here) (q : Slot) (s : State) : (commitHere h q s).mem = s.mem := rfl
@[simp] theorem setKnot_mem (s : State) (ctx key : Nat) (k : Knot) : (setKnot s ctx key k).mem = s.mem := rfl

@[simp] theorem knotRelease_mem (s : State) (p : Party) (ctx dev op : Nat) (w : BitVec 32) :
    (knotRelease s p ctx dev op w).mem = s.mem := by
  unfold knotRelease
  split <;> rfl

@[simp] theorem faultLeft_mem (s : State) (k l cause : Nat) (pc : BitVec 64) (word hint : BitVec 32) (detail : BitVec 64) :
    (faultLeft s k l cause pc word hint detail).mem = s.mem :=
  rfl

@[simp] theorem sendBack_mem (s : State) (e : KnotEv) : (sendBack s e).mem = s.mem := rfl

/-! ### Tiles, counters and sync words -/

@[simp] theorem issueTag_mem (s : State) (k : Nat) : (issueTag s k).2.mem = s.mem := by
  unfold issueTag
  split <;> rfl

@[simp] theorem stampScale_mem (s : State) (k j : Nat) (rb : Bool) : (stampScale s k j rb).mem = s.mem := by
  unfold stampScale
  dsimp only
  split
  · simp
  · split <;> simp

@[simp] theorem issueEngine_mem (i : Instr) (h : Here) (e : EOp) (s : State) : (issueEngine i h e s).mem = s.mem := rfl

@[simp] theorem numberFired_mem (s : State) (k : Nat) : (numberFired s k).mem = s.mem := by
  unfold numberFired
  split
  · rfl
  · refine mem_foldl (fun s e => ?_) _ _
    split
    · rfl
    · split <;> rfl

@[simp] theorem fireSend_mem (s : State) (k n : Nat) : (fireSend s k n).mem = s.mem := by
  unfold fireSend
  split
  · rfl
  · split
    · rfl
    · simp

@[simp] theorem fireOn_mem (s : State) (k sw : Nat) (p : Nat → Bool) : (fireOn s k sw p).mem = s.mem := by
  unfold fireOn
  split <;> simp

@[simp] theorem creditAt_mem (s : State) (k sw n : Nat) : (creditAt s k sw n).1.mem = s.mem := by
  unfold creditAt
  split <;> simp

@[simp] theorem cancelSends_mem (s : State) (k : Nat) (p : Nat → Trig → Bool) : (cancelSends s k p).mem = s.mem := by
  unfold cancelSends
  split <;> rfl

/-! ### Cross-lane results and barriers -/

@[simp] theorem crossDeliver_mem (s : State) (k : Nat) (x : Inst) (c : Cord) (a : Arrival) : (crossDeliver s k x c a).mem = s.mem := by
  unfold crossDeliver
  dsimp only
  split
  · split <;> simp
  · simp

@[simp] theorem checkGroup_mem (s : State) (ctx : Nat) (g : BarGroup) : (checkGroup s ctx g).mem = s.mem := by
  unfold checkGroup
  dsimp only
  split
  · exact mem_foldl (fun _ _ => modCord_mem ..) _ _
  · rfl

@[simp] theorem refuseArrivals_mem (s : State) (k : Nat) (x : Inst) (cause : Nat) (detail : Nat → BitVec 64) :
    (refuseArrivals s k x cause detail).mem = s.mem :=
  mem_foldl (fun _ _ => by simp) s x.arr

@[simp] theorem groupArrive_mem (s : State) (k : Nat) (c : Cord) (x : Inst) : (groupArrive s k c x).mem = s.mem := by
  unfold groupArrive
  dsimp only
  split <;> simp

@[simp] theorem finishInst_mem (s : State) (k : Nat) (x : Inst) : (finishInst s k x).mem = s.mem := by
  unfold finishInst
  split
  · rfl
  · split
    · rfl
    · dsimp only
      split
      · simp
      · split <;> simp

@[simp] theorem finishInsts_mem (s : State) (k : Nat) : (finishInsts s k).mem = s.mem := by
  unfold finishInsts
  split <;> simp

@[simp] theorem signersFault_mem (s : State) (k : Nat) (uid cause : Nat) (sigs : List (Nat × BitVec 64 × BitVec 32 × Bool)) :
    (signersFault s k uid cause sigs).mem = s.mem :=
  mem_foldl (fun _ _ => by simp) s sigs

@[simp] theorem mmaIssue_mem (s : State) (k : Nat) (c : Cord) (v : Conv) : (mmaIssue s k c v).mem = s.mem := by
  unfold mmaIssue
  exact mem_foldl (fun _ _ => by split <;> simp) _ _

@[simp] theorem signRound_mem (s : State) (k j : Nat) : (signRound s k j).mem = s.mem := by
  unfold signRound
  split
  · rfl
  · split
    · rfl
    · split
      · rfl
      · dsimp only
        split
        · simp
        · split <;> simp

/-! ### Ends -/

@[simp] theorem modFrames_mem (s : State) (fs : List Nat) (f : Frame → Frame) : (modFrames s fs f).mem = s.mem := rfl
@[simp] theorem clearTokens_mem (s : State) (fs : List Nat) : (clearTokens s fs).mem = s.mem := rfl
@[simp] theorem shootdown_mem (s : State) (ctx : Nat) : (shootdown s ctx).mem = s.mem := rfl

@[simp] theorem advanced_mem (s : State) (ctx : Nat) (fs : List Nat) : (advanced s ctx fs).mem = s.mem := by
  unfold advanced
  split <;> rfl

@[simp] theorem appendLog_mem (s : State) (ctx : Nat) (r : LogRec) : (appendLog s ctx r).mem = s.mem := rfl
@[simp] theorem note_mem (s : State) (ctx : Nat) (r : LogRec) : (note s ctx r).mem = s.mem := rfl
@[simp] theorem freeEntry_mem (s : State) (c : Cord) : (freeEntry s c).mem = s.mem := rfl

@[simp] theorem endGroups_mem (s : State) (k : Nat) (c : Cord) : (endGroups s k c).mem = s.mem :=
  mem_foldl (fun _ _ => checkGroup_mem ..) s c.groups

@[simp] theorem mshrLeaveAll_mem (s : State) (c : Cord) : (mshrLeaveAll s c).mem = s.mem := by
  unfold mshrLeaveAll
  exact mem_foldl (fun _ _ => mem_foldl (fun _ _ => mshrLeave_mem ..) _ _) s _

/-! ### Instruction fetch -/

@[simp] theorem freshTrans_mem (s : State) (core : CoreId) (ctx va : Nat) : (freshTrans s core ctx va).mem = s.mem :=
  (freshTrans_same ..).mem

@[simp] theorem fillSpan_mem (s : State) (core : CoreId) (ctx base : Nat) (bs : List (BitVec 8)) :
    (fillSpan s core ctx base bs).mem = s.mem :=
  rfl

@[simp] theorem askSpan_mem (s : State) (core : CoreId) (ctx base : Nat) (data : Bool) : (askSpan s core ctx base data).mem = s.mem := by
  unfold askSpan
  split
  · rfl
  · dsimp only
    split <;> simp

@[simp] theorem askDone_mem (s : State) (core : CoreId) (ctx base : Nat) : (askDone s core ctx base).mem = s.mem := rfl

@[simp] theorem fetchFails_mem (s : State) (core : CoreId) (ctx base cause : Nat) (detail : BitVec 64) :
    (fetchFails s core ctx base cause detail).mem = s.mem := by
  unfold fetchFails
  exact mem_foldl (fun _ _ => by split <;> simp) _ _

@[simp] theorem dataDone_mem (s : State) (core : CoreId) (ctx base : Nat) : (dataDone s core ctx base).mem = s.mem := rfl

/-! ### Memory words -/

@[simp] theorem mshrJoin_mem (s : State) (h : Here) (u : Nat) (va : BitVec 64) (size : Nat) : (mshrJoin s h u va size).mem = s.mem := by
  unfold mshrJoin
  split <;> rfl

/-! ### Accesses and translation -/

@[simp] theorem failOp_mem (s : State) (k l : Nat) (a : Acc) (cause : Nat) (addr detail : BitVec 64) :
    (failOp s k l a cause addr detail).mem = s.mem :=
  by simp [failOp]

@[simp] theorem sendPiece_mem (k l : Nat) (a : Acc) (covers : List Nat) (s : State) (offs : List Nat) :
    (sendPiece k l a covers s offs).mem = s.mem := by
  unfold sendPiece
  dsimp only
  split
  · simp
  · split <;> simp

@[simp] theorem takeL1_mem (k l : Nat) (a : Acc) (bs : List (BitVec 8)) (s : State) : (takeL1 k l a bs s).mem = s.mem := by simp [takeL1]

@[simp] theorem walkAccess_mem (s : State) (c : Cord) (va : BitVec 64) (size : Nat) : (walkAccess s c va size).mem = s.mem :=
  by simp [walkAccess]

@[simp] theorem l1Victim_mem (s : State) (co : Core) : (l1Victim s co).2.mem = s.mem := by
  unfold l1Victim
  split
  · rfl
  · simp

@[simp] theorem l1Take_mem (s : State) (c : Cord) (early : Bool) (ws : List (Nat × BitVec 32)) : (l1Take s c early ws).mem = s.mem := by
  refine mem_foldl (fun s w => ?_) _ _
  dsimp only
  split <;> simp

@[simp] theorem settleEffect_mem (k l : Nat) (a : Acc) (s : State) : (settleEffect k l a s).mem = s.mem := by
  unfold settleEffect
  dsimp only
  split <;> simp

@[simp] theorem sendAgain_mem (k l : Nat) (a : Acc) (s : State) : (sendAgain k l a s).mem = s.mem := rfl
@[simp] theorem modPort_mem (s : State) (p : PortId) (f : Port → Port) : (modPort s p f).mem = s.mem := rfl

/-! ### Parallel words -/

@[simp] theorem arrive_mem (i : Instr) (kind : Nat) (mask : BitVec 64) (a : Arrival) (h : Here) (s : State) :
    (arrive i kind mask a h s).mem = s.mem := by
  unfold arrive
  split <;> simp

@[simp] theorem onceWrite_mem (h : Here) (key : Nat) (f : Cord → Cord) (s : State) : (onceWrite h key f s).mem = s.mem := by
  unfold onceWrite
  split <;> rfl

/-! ### Copies -/

@[simp] theorem engineTrans_mem (s : State) (c : Cord) (vas : List Nat) : (engineTrans s c vas).mem = s.mem := (engineTrans_same ..).mem

@[simp] theorem engineTouch_mem (s : State) (c : Cord) (hint : BitVec 32) (vas : List Nat) : (engineTouch s c hint vas).mem = s.mem :=
  (engineTouch_same ..).mem

@[simp] theorem askBytes_mem (s : State) (k : Nat) (c : Cord) (e : EOp) (n : Nat) (ms : List (Nat × Nat × BitVec 8)) :
    (askBytes s k c e n ms).mem = s.mem := by
  unfold askBytes
  split
  · rfl
  · exact mem_foldl (fun _ _ => sendPacket_mem ..) s _

@[simp] theorem giveBytes_mem (s : State) (k : Nat) (c : Cord) (e : EOp) (n : Nat)
    (ms : List ((Nat × Nat × BitVec 8) × BitVec 8)) : (giveBytes s k c e n ms).mem = s.mem :=
    mem_foldl (fun _ _ => sendPacket_mem ..) s _

@[simp] theorem modEop_mem (s : State) (k u : Nat) (f : EOp → EOp) : (modEop s k u f).mem = s.mem := rfl

@[simp] theorem finishEop_mem (s : State) (k u : Nat) : (finishEop s k u).mem = s.mem := by
  unfold finishEop
  split
  · rfl
  · split
    · rfl
    · simp

@[simp] theorem landPiece_mem (s : State) (k u n cause : Nat) (addr detail : BitVec 64) :
    (landPiece s k u n cause addr detail).mem = s.mem := by
  unfold landPiece
  dsimp only
  split
  · split <;> simp
  · simp

@[simp] theorem dropGot_mem (s : State) (k u : Nat) (vas : List Nat) : (dropGot s k u vas).mem = s.mem := rfl

@[simp] theorem creditChunk_mem (s : State) (k u n : Nat) (e : EOp) (is : List Nat) : (creditChunk s k u n e is).mem = s.mem := by
  unfold creditChunk
  split
  · simp
  · split
    · simp
    · dsimp only
      split <;> simp

@[simp] theorem startCopy_mem (s : State) (k : Nat) (c : Cord) (e : EOp) : (startCopy s k c e).mem = s.mem := by
  unfold startCopy
  dsimp only
  split
  · split
    · simp
    · split <;> simp
  · split
    · split <;> simp
    · simp

/-! ### Presses and products -/

@[simp] theorem failEop_mem (s : State) (k u cause : Nat) (addr detail : BitVec 64) : (failEop s k u cause addr detail).mem = s.mem :=
  by simp [failEop]

@[simp] theorem issuePress_mem (i : Instr) (m : Nat) (e : EOp) (h : Here) (s : State) : (issuePress i m e h s).mem = s.mem := rfl
@[simp] theorem spoilProducts_mem (s : State) (k : Nat) (c : Cord) (e : EOp) : (spoilProducts s k c e).mem = s.mem := rfl

@[simp] theorem pressTouch_mem (s : State) (c : Cord) (vas : List Nat) : (pressTouch s c vas).mem = s.mem := by simp [pressTouch]

@[simp] theorem signHere_mem (i : Instr) (j : Nat) (accs : List Reg) (h : Here) (s : State) : (signHere i j accs h s).mem = s.mem := by
  unfold signHere
  dsimp only
  split <;> simp

@[simp] theorem passDeliver_mem (s : State) (k : Nat) (c : Cord) (e : EOp) (l : Nat) : (passDeliver s k c e l).mem = s.mem := by
  unfold passDeliver
  split
  · rfl
  · dsimp only
    split <;> simp

@[simp] theorem skAll_mem (f : Nat → Nat → Nat) (d a : Nat) (rb : BitVec 1) (h : Here) (s : State) : (skAll f d a rb h s).mem = s.mem :=
  by simp [skAll]

/-! ### The fabric -/

@[simp] theorem armEntry_mem (i : Instr) (n : Nat) (ds : List (BitVec 64)) (h : Here) (s : State) : (armEntry i n ds h s).mem = s.mem :=
  by simp [armEntry]

@[simp] theorem sendArrival_mem (k u : Nat) (c : Cord) (e : EOp) (keys : List Nat) (data : List (BitVec 8)) (s : State) (x : (Nat × Nat) × Nat) :
    (sendArrival k u c e keys data s x).mem = s.mem :=
  by simp [sendArrival]

@[simp] theorem startSend_mem (s : State) (k : Nat) (c : Cord) (e : EOp) : (startSend s k c e).mem = s.mem := by
  unfold startSend
  split
  · simp
  · dsimp only
    split <;> simp

@[simp] theorem startErecv_mem (s : State) (k : Nat) (c : Cord) (e : EOp) : (startErecv s k c e).mem = s.mem := by
  unfold startErecv
  dsimp only
  split
  · split <;> simp
  · split <;> simp

@[simp] theorem modPacket_mem (s : State) (n : Nat) (f : Packet → Packet) : (modPacket s n f).mem = s.mem := rfl

@[simp] theorem reachStation_mem (s : State) (p : Packet) : (reachStation s p).mem = s.mem := by
  unfold reachStation
  split <;> simp

@[simp] theorem answerPacket_mem (s : State) (p : Packet) (y : Reply) : (answerPacket s p y).mem = s.mem := rfl

@[simp] theorem noteEngine_mem (s : State) (p : Packet) (write : Bool) (vas : List Nat) (got : List EByte) (cause : Nat) (detail : BitVec 64) :
    (noteEngine s p write vas got cause detail).mem = s.mem :=
  rfl

@[simp] theorem redirectEngine_mem (s : State) (c : Cord) (p : Packet) (vas : List Nat) (data : List (BitVec 8)) (write : Bool) :
    (redirectEngine s c p vas data write).mem = s.mem := by
  unfold redirectEngine
  dsimp only
  split
  · simp
  · split
    · split <;> simp
    · simp

@[simp] theorem readFor_mem (s : State) (p : Packet) (direct : Bool) (hint : BitVec 32) (vas as : List Nat) :
    (readFor s p direct hint vas as).1.mem = s.mem := by
  unfold readFor
  split <;> simp

@[simp] theorem creditLanding_mem (s : State) (ctx dev tag n : Nat) : (creditLanding s ctx dev tag n).1.mem = s.mem := by
  unfold creditLanding
  split
  · rfl
  · split <;> simp

@[simp] theorem creditArrival_mem (s : State) (ctx dev : Nat) (tag : Option Nat) (n : Nat) (y : Reply) :
    (creditArrival s ctx dev tag n y).1.mem = s.mem := by
  unfold creditArrival
  split <;> simp

@[simp] theorem settlePiece_mem (s : State) (p : Packet) (y : Reply) (addr : BitVec 64) : (settlePiece s p y addr).mem = s.mem :=
  by simp [settlePiece]

@[simp] theorem redirect_mem (s : State) (c : Cord) (p : Packet) (va : BitVec 64) (len : Nat) (add : Bool) (re : List Nat → BitVec 8 → Payload) :
    (redirect s c p va len add re).mem = s.mem := by
  unfold redirect
  dsimp only
  split
  · simp
  · split <;> simp

@[simp] theorem failPacket_mem (s : State) (down : Bool) (p : Packet) : (failPacket s down p).mem = s.mem := by
  unfold failPacket
  split
  · rfl
  · dsimp only
    split
    · simp
    · simp
    · simp
    · split <;> simp
    · simp

/-! ### The horizon -/

@[simp] theorem trrecWrite_mem (h : Here) (x y : BitVec 32) (s : State) : (trrecWrite h x y s).mem = s.mem := by
  unfold trrecWrite
  split
  · rfl
  · split
    · split
      · split <;> rfl
      · rfl
    · split
      · split <;> rfl
      · rfl

@[simp] theorem abandonWaits_mem (s : State) (k l : Nat) : (abandonWaits s k l).mem = s.mem := rfl

@[simp] theorem recordFailure_mem (s : State) (k l : Nat) : (recordFailure s k l).mem = s.mem := by
  unfold recordFailure
  split
  · rfl
  · dsimp only
    split
    · rfl
    · simp only [modStrand_mem, modCord_mem]
      exact mem_foldl (fun _ _ => mshrLeave_mem ..) _ _

@[simp] theorem recordFault_mem (s : State) (k l : Nat) (f : PFault) : (recordFault s k l f).mem = s.mem := by
  unfold recordFault
  dsimp only
  split
  · split <;> simp
  · simp

/-! ### Binding, launching and saving -/

@[simp] theorem setSlotEntry_mem (s : State) (c : CoreId) (entry : Nat) (e : SlotEntry) : (setSlotEntry s c entry e).mem = s.mem := rfl
@[simp] theorem reportRefusal_mem (s : State) (c : CoreId) (entry reason : Nat) : (reportRefusal s c entry reason).mem = s.mem := rfl

@[simp] theorem dropPieces_mem (s : State) (k : Nat) : (dropPieces s k).mem = s.mem := mem_foldl dropPacket_mem s _

@[simp] theorem applyHeld_mem (k : Nat) (s : State) (l : Landing) : (applyHeld k s l).mem = s.mem :=
  mem_foldl (fun s n => creditAt_mem s k l.sw n) s l.held

@[simp] theorem resumeSaved_mem (s : State) (c : CoreId) (entry : Nat) (b : BindRec) (k : Nat) (old : Cord) :
    (resumeSaved s c entry b k old).mem = s.mem := by
  unfold resumeSaved
  simp

@[simp] theorem resumeCord_mem (s : State) (c : CoreId) (entry : Nat) (b : BindRec) (k : Nat) : (resumeCord s c entry b k).mem = s.mem := by
  unfold resumeCord
  split
  · rfl
  · split
    · rfl
    · split <;> simp [launchPhase_mem]

@[simp] theorem releaseAll_mem (s : State) (c : Cord) : (releaseAll s c).mem = s.mem := by
  unfold releaseAll
  exact mem_foldl (fun _ _ => by split <;> simp) _ _

@[simp] theorem dropLandings_mem (s : State) (k : Nat) (c : Cord) (keep : Bool) : (dropLandings s k c keep).mem = s.mem := by
  unfold dropLandings
  split <;> simp

/-! ### Requests for tables -/

@[simp] theorem modRing_mem (s : State) (q : RingId) (f : Ring → Ring) : (modRing s q f).mem = s.mem := rfl
@[simp] theorem refuseReq_mem (s : State) (q : RingId) (result : Nat) : (refuseReq s q result).mem = s.mem := rfl

@[simp] theorem serveExport_mem (q : RingId) (r : ReqRec) (s : State) : (serveExport q r s).mem = s.mem := by
  unfold serveExport
  dsimp only
  split
  · rfl
  · split <;> simp

/-! ### Requests for graphs, windows and settings -/

@[simp] theorem modModule_mem (s : State) (dev : Nat) (f : Module → Module) : (modModule s dev f).mem = s.mem := rfl

@[simp] theorem resendTo_mem (s : State) (dev : Nat) : (resendTo s dev).mem = s.mem := by
  unfold resendTo
  exact mem_foldl (fun _ _ => by split <;> simp) _ _

@[simp] theorem stopModule_mem (s : State) (dev : Nat) : (stopModule s dev).mem = s.mem := by simp [stopModule]

@[simp] theorem serveWindow_mem (q : RingId) (r : ReqRec) (s : State) : (serveWindow q r s).mem = s.mem := by
  unfold serveWindow
  split
  · split <;> simp
  · simp

@[simp] theorem serveSet_mem (q : RingId) (r : ReqRec) (s : State) : (serveSet q r s).mem = s.mem := by
  unfold serveSet
  dsimp only
  split
  · split
    · simp
    · split <;> simp
  · split <;> simp

@[simp] theorem sendOut_mem (s : State) (q : RingId) (bs : List (BitVec 8)) : (sendOut s q bs).mem = s.mem := rfl
@[simp] theorem serveLog_mem (q : RingId) (ctx : Nat) (r : ReqRec) (s : State) : (serveLog q ctx r s).mem = s.mem := rfl

/-! ### A cycle -/

@[simp] theorem tableBraids_mem (s : State) (bs : List Braid) : (tableBraids s bs).2.mem = s.mem := by
  unfold tableBraids
  dsimp only
  split
  · rfl
  · simp

@[simp] theorem pickBraid_mem (s : State) (bs : List Braid) : (pickBraid s bs).2.mem = s.mem := by
  unfold pickBraid
  dsimp only
  split
  · rfl
  · split
    · rfl
    · simp

@[simp] theorem stuckStrand_mem (s : State) (k l : Nat) : (stuckStrand s k l).mem = s.mem := by
  unfold stuckStrand
  split
  · rfl
  · split <;> rfl

@[simp] theorem raiseStuck_mem (s : State) (k : Nat) : (raiseStuck s k).mem = s.mem := by
  unfold raiseStuck
  split
  · rfl
  · dsimp only
    split <;> simp

@[simp] theorem abandonCord_mem (s : State) (k : Nat) : (abandonCord s k).mem = s.mem := by
  unfold abandonCord
  split <;> simp

@[simp] theorem placeRing_mem (s : State) (q : RingId) (size : Nat) : (placeRing s q size).mem = s.mem := by
  unfold placeRing
  split <;> rfl

@[simp] theorem doorbell_mem (s : State) (q : RingId) (r : ReqRec) : (doorbell s q r).mem = s.mem := rfl

end Sys2Proof.Laws

/-!
What a home does with one request (R265, R267, R281 to R285): the cases of `performBytes`, each with the state it leaves. The home first
arbitrates and reads; `fetched` names the state it then works on, and `written` what a write makes of it.
-/
namespace Sys2Proof.Laws
open Sys2Proof.Machine Sys2Proof.Safety

/-- The state a home works on once it has arbitrated a request and read the bytes that its kind reads. -/
def fetched (s : State) (r : Req) : State :=
  let s := arbitrate (requestRace s r).2 r.kind (some r.party) r.addrs
  if kindReads r.kind && !(r.kind != .atomic && r.addrs.all (holderHas s r.core)) then homeRead s r.hint r.addrs else s

/-- The first byte of a reading request that lies in a poisoned word, with its offset. -/
def firstPoisoned (u : State) (r : Req) : Option (Nat × Nat) :=
  if kindReads r.kind then (r.addrs.zip r.offs).find? (fun p => poisoned u p.1) else none

/-- The home, its directory and the core of a request after a write of its bytes. -/
def written (u : State) (r : Req) (token : Token) (covers late : List Nat) (bs : List (BitVec 8)) : State :=
  coreTake (directoryWrite (homeWrite u token r.hint covers late r.addrs bs).1 r.core r.addrs) r.core (r.addrs.zip bs)

theorem fetched_same (s : State) (r : Req) : SameData s (fetched s r) := by
  have harb := (requestRace_cases s r).1.trans (arbitrate_same (requestRace s r).2 r.kind (some r.party) r.addrs)
  unfold fetched
  dsimp only
  split
  · exact harb.trans (homeRead_same ..)
  · exact harb

/-! ### A write at the home -/

theorem homeWrite_mem (s : State) (token : Token) (hint : BitVec 32) (covers late as : List Nat) (bs : List (BitVec 8)) :
    (homeWrite s token hint covers late as bs).1.mem = writeCells s.mem as bs := by
  have hread : ∀ b : Bool, ∀ part, (if b then homeRead s hint part else checkWords s (part.map (· / 8)).eraseDups).mem = s.mem := by
    intro b part
    split <;> simp
  simp only [homeWrite, portRegions_mem, llcPut_mem, mem_foldl (fun _ _ => setToken_mem ..), hread]

theorem written_mem (u : State) (r : Req) (token : Token) (covers late : List Nat) (bs : List (BitVec 8)) :
    (written u r token covers late bs).mem = writeCells u.mem r.addrs bs := by
  rw [written, coreTake_mem, directoryWrite_mem, homeWrite_mem]

/-! ### The cases -/

theorem performBytes_races {s : State} {r : Req} {o : Nat} {d : BitVec 64} (hrace : (requestRace s r).1 = some (o, d)) :
    performBytes s r = (arbitrate (requestRace s r).2 r.kind (some r.party) r.addrs, failReply 12 o d) := by
  have h : requestRace s r = (some (o, d), (requestRace s r).2) := Prod.ext hrace rfl
  unfold performBytes
  rw [h]

section
variable {s : State} {r : Req} (hfree : (requestRace s r).1 = none)
include hfree

/-- A request that meets no race goes by what its kind does with the bytes read. -/
theorem performBytes_free : performBytes s r =
    let u := fetched s r
    let old := r.addrs.map (readCell u.mem)
    match firstPoisoned u r with
    | some p => (u, failReply 11 p.2 0)
    | none =>
      if r.kind == .atomic then
        match r.atom with
        | none => (u, okReply old)
        | some a =>
          let n := atomNew a r.addrs.length (leNat old)
          if (n.2 &&& a.en) != 0#5 then (u, { failReply 13 0 (n.2.zeroExtend 64) with flags := n.2 })
          else if atomWrites a r.addrs.length (leNat old) n.2 then
            (written u r ⟨none, .none, 0⟩ [] [] (leBytes r.addrs.length n.1), { okReply old with flags := n.2 })
          else (u, { okReply old with flags := n.2 })
      else if kindWrites r.kind then
        let v := if r.kind == .relStore then releaseStep u r.party else u
        let token : Token := if kindOrdinary r.kind then ⟨some r.party, .unrel, r.grp⟩ else ⟨none, .none, 0⟩
        let w := written v r token r.covers (lateWords v r) r.data
        match (homeWrite v token r.hint r.covers (lateWords v r) r.addrs r.data).2 with
        | none => (w, okReply [])
        | some a => (w, failReply 11 (((r.addrs.zip r.offs).find? (·.1 == a)).elim 0 (·.2)) 0)
      else
        let x := shareLoad u r.grp r.addrs old
        (directoryRead x.2 r.core r.hint r.addrs,
          { okReply x.1 with words := if kindOrdinary r.kind then wordsTake (lineWords x.2.mem r.addrs) (r.addrs.zip x.1) else [] }) := by
  have h : requestRace s r = (none, (requestRace s r).2) := Prod.ext hfree rfl
  unfold performBytes
  rw [h]
  rfl
end
end Sys2Proof.Laws

/-!
O54 and O60. The operations that write bytes keep the canonical form of the memory (R239, R261): at the bottom each write is one of the four of
`Laws/Memory.lean`, a write of cells, a write upward, a write of one cell or a filter.
-/
namespace Sys2Proof.Laws
open Sys2Proof.Machine Sys2Proof.Safety

/-- What leaves the bytes keeps their form. -/
theorem inv_of_mem {s t : State} (h : t.mem = s.mem) (hs : Safety.Inv s) : Safety.Inv t := by
  unfold Safety.Inv
  rwa [h]

theorem inv_foldl {α : Type} {f : State → α → State} (hf : ∀ s a, Safety.Inv s → Safety.Inv (f s a)) {s : State} (hs : Safety.Inv s) (xs : List α) :
    Safety.Inv (xs.foldl f s) := by
  induction xs generalizing s with
  | nil => exact hs
  | cons x xs ih => exact ih (hf s x hs)

theorem inv_foldl_fst {α β : Type} {f : State × β → α → State × β} (hf : ∀ r a, Safety.Inv r.1 → Safety.Inv (f r a).1) {r : State × β}
    (hr : Safety.Inv r.1) (xs : List α) : Safety.Inv (xs.foldl f r).1 := by
  induction xs generalizing r with
  | nil => exact hr
  | cons x xs ih => exact ih (hf r x hr)

section
variable {s : State} (hs : Safety.Inv s)
include hs

/-! ### Homes -/

theorem homeWrite_inv (token : Token) (hint : BitVec 32) (covers late as : List Nat) (bs : List (BitVec 8)) :
    Safety.Inv (homeWrite s token hint covers late as bs).1 :=
  inv_of_mem (s := { s with mem := writeCells s.mem as bs }) (homeWrite_mem ..) (writeCells_wf _ hs _ _)

theorem engineWrite_inv (core : CoreId) (hint : BitVec 32) (bs : List (Nat × BitVec 8)) : Safety.Inv (engineWrite s core hint bs).1 := by
  unfold engineWrite
  refine inv_foldl_fst (fun r g hr => ?_) hs _
  exact inv_of_mem (directoryWrite_mem ..) (homeWrite_inv (inv_of_mem (arbitrate_mem ..) hr) ..)

theorem written_inv (r : Req) (token : Token) (covers late : List Nat) (bs : List (BitVec 8)) :
    Safety.Inv (written s r token covers late bs) :=
  inv_of_mem (s := { s with mem := writeCells s.mem r.addrs bs }) (written_mem ..) (writeCells_wf _ hs _ _)

theorem performBytes_inv (r : Req) : Safety.Inv (performBytes s r).1 := by
  cases hrace : (requestRace s r).1 with
  | some d =>
    rw [performBytes_races hrace]
    exact inv_of_mem (by simp) hs
  | none =>
    have hu := inv_of_mem (fetched_same s r).mem hs
    rw [performBytes_free hrace]
    generalize fetched s r = u at hu
    dsimp only
    split
    · exact hu
    · split
      · split
        · exact hu
        · split
          · exact hu
          · split
            · exact written_inv hu ..
            · exact hu
      · split
        · have hv : Safety.Inv (if r.kind == .relStore then releaseStep u r.party else u) := inv_of_mem (by simp) hu
          split <;> exact written_inv hv ..
        · exact inv_of_mem (by simp) hu

theorem decideOne_inv (r : Req) : Safety.Inv (decideOne s r) := by
  unfold decideOne
  split
  · exact hs
  · exact inv_of_mem (by simp) hs
  · have hperform := performBytes_inv (s := { s with arrivals := s.arrivals.filter (·.uid != r.uid) }) hs r
    dsimp only
    split
    · exact inv_of_mem (by simp) hperform
    · exact inv_of_mem (by simp) hperform

theorem decideGroup_inv (g : List Req) : Safety.Inv (decideGroup s g) := by
  refine inv_of_mem (repack_mem _) ?_
  split
  · exact inv_foldl (fun _ r h => decideOne_inv h r) hs g
  · exact inv_of_mem (by simp) hs

omit hs in
theorem performDrain_inv (n : Nat) {s : State} (hs : Safety.Inv s) (r : Req) : Safety.Inv (performDrain n s r) := by
  induction n generalizing s r with
  | zero => exact hs
  | succ n ih =>
    have hdrain : Safety.Inv ((drained s r).foldl (fun s q => if s.arrivals.any (·.uid == q.uid) then performDrain n s q else s) s) := by
      refine inv_foldl (fun s q h => ?_) hs _
      split
      · exact ih h q
      · exact h
    unfold performDrain
    split
    · exact hs
    · dsimp only
      split
      · exact decideGroup_inv hdrain _
      · exact hdrain

theorem performGroup_inv (r : Req) : Safety.Inv (performGroup s r) := performDrain_inv _ hs r

/-! ### Drains, recalls and migrations -/

theorem drain_inv (near : Bool) (fs : List Nat) : Safety.Inv (drain s near fs) := by
  refine inv_foldl (fun s r h => ?_) hs _
  split
  · exact performGroup_inv h r
  · exact h

theorem drainFrames_inv (fs : List Nat) : Safety.Inv (drainFrames s fs) := drain_inv hs true fs

theorem recallNow_inv (rc : Recall) : Safety.Inv (recallNow rc s) := by
  have hdrain := drain_inv hs false (recallFrames s rc)
  unfold recallNow
  dsimp only
  split
  · exact hdrain
  · exact inv_of_mem (by simp) hdrain

theorem startRecall_inv (rc : Recall) : Safety.Inv (startRecall s rc) :=
  recallNow_inv (s := { s with recalls := s.recalls ++ [rc] }) hs rc

theorem moveHold_inv (m : Migration) : Safety.Inv (moveHold m s) := by
  have hdrain := drainFrames_inv hs [m.old]
  unfold moveHold
  dsimp only
  split <;> exact hdrain

theorem copyFrame_inv (old new : Nat) : Safety.Inv (copyFrame s old new) := by
  have hwrites : ∀ (cs m : List Host.Cell) (f : Nat → Nat), Memory.wf m → Memory.wf (cs.foldl (fun m p => writeCell m (f p.1) p.2) m) := by
    intro cs m f hm
    induction cs generalizing m with
    | nil => exact hm
    | cons c cs ih => exact ih _ (writeCell_wf m hm _ _)
  exact hwrites _ _ (fun a => a - old * 2 ^ 16 + new * 2 ^ 16) (filter_wf _ hs _)

/-! ### Tables, frames and the ends of cords -/

theorem writeMem_inv (a : Nat) (bs : List (BitVec 8)) : Safety.Inv { s with mem := writeMem s.mem a bs } := writeMem_wf _ hs _ _

theorem setEntry_inv (dev dpa : Nat) (e : BitVec 64) : Safety.Inv (setEntry s dev dpa e) := writeMem_inv hs _ _

theorem discardUnrel_inv (fs : List Nat) : Safety.Inv (discardUnrel s fs) := by
  have hwrites : ∀ (as : List Nat) (m : List Host.Cell), Memory.wf m → Memory.wf (as.foldl (fun m a => writeCell m a unlisted) m) := by
    intro as m hm
    induction as generalizing m with
    | nil => exact hm
    | cons a as ih => exact ih _ (writeCell_wf m hm _ _)
  exact hwrites _ _ hs

theorem unmapPage_inv (ctx dev va : Nat) : Safety.Inv (unmapPage s ctx dev va) := by
  unfold unmapPage
  split
  · exact hs
  · split
    · exact hs
    · refine setEntry_inv ?_ _ _ _
      unfold Safety.Inv
      rw [advanced_mem, modFrames_mem, clearTokens_mem]
      exact discardUnrel_inv (drainFrames_inv hs _) _

theorem releaseGraph_inv (ctx g : Nat) : Safety.Inv (releaseGraph s ctx g) := by
  unfold releaseGraph
  split
  · exact hs
  · split
    · exact hs
    · dsimp only
      split
      · exact drainFrames_inv hs _
      · exact inv_of_mem (modCtx_mem ..) (inv_foldl (fun _ _ h => unmapPage_inv h _ _ _) (drainFrames_inv hs _) _)

theorem endCord_inv (k : Nat) : Safety.Inv (endCord s k) := by
  unfold endCord
  split
  · exact hs
  · exact releaseGraph_inv (inv_of_mem (by simp) hs) _ _

theorem endStrand_inv (k l : Nat) : Safety.Inv (endStrand s k l) := by
  unfold endStrand
  split
  · exact hs
  · dsimp only
    split
    · exact inv_of_mem (by simp) hs
    · split
      · exact endCord_inv (inv_of_mem (by simp) hs) k
      · exact inv_of_mem (by simp) hs

theorem killCord_inv (k : Nat) : Safety.Inv (killCord s k) := by
  unfold killCord
  split
  · exact hs
  · refine endCord_inv ?_ k
    unfold Safety.Inv
    rw [modCtx_mem, mshrLeaveAll_mem]
    exact startRecall_inv hs _

theorem fatalEnd_inv (k lane kind : Nat) (pc va : BitVec 64) (cause : Nat) : Safety.Inv (fatalEnd s k lane kind pc va cause) := by
  unfold fatalEnd
  split
  · exact hs
  · exact killCord_inv (inv_of_mem (appendLog_mem ..) hs) k

theorem contextError_inv (ctx lane node : Nat) (pc : BitVec 64) (cause : Nat) (core : CoreId) :
    Safety.Inv (contextError s ctx lane node pc cause core) := by
  unfold contextError
  extract_lets s₁ s₂ s₃ hs' s₄ s₅ s₆
  have h₃ : Safety.Inv s₃ := inv_foldl (fun _ p h => killCord_inv h p.1) (inv_of_mem (by simp [s₂, s₁]) hs) _
  have h₄ : Safety.Inv s₄ := inv_foldl (fun _ rc h => startRecall_inv h rc) h₃ _
  have h₅ : Safety.Inv s₅ := inv_of_mem (modCtx_mem ..) h₄
  have h₆ : Safety.Inv s₆ := inv_foldl (fun _ g h => releaseGraph_inv h ctx g) h₅ _
  exact h₆

theorem missError_inv (ctx lane node : Nat) (pc : BitVec 64) (a : Nat) (core : CoreId) : Safety.Inv (missError s ctx lane node pc a core) :=
  contextError_inv (inv_of_mem (by simp) hs) ..

theorem closeGraph_inv (ctx graph : Nat) : Safety.Inv (closeGraph s ctx graph) := releaseGraph_inv (inv_of_mem (by simp) hs) ctx graph

/-! ### Leased accesses -/

theorem leased_inv (h : Here) (k : OpKind) (va : BitVec 64) (size : Nat) {f : State → State} (hf : (f s).mem = s.mem) :
    Safety.Inv (leased h k va size f s) := by
  unfold leased
  split
  · exact fatalEnd_inv hs ..
  · exact inv_of_mem hf hs

theorem leasedIssue_inv (h : Here) (bad : Option (BitVec 64)) {f : State → State} (hf : (f s).mem = s.mem) :
    Safety.Inv (leasedIssue h bad f s) := by
  unfold leasedIssue
  split
  · exact fatalEnd_inv hs ..
  · exact inv_of_mem hf hs

theorem rsPush_inv (i : Instr) (h : Here) : Safety.Inv (rsPush i h s) := by
  unfold rsPush
  split
  · exact leased_inv hs _ _ _ _ (by simp)
  · exact inv_of_mem (modHere_mem ..) hs

/-! ### Copies, sends and arrivals -/

theorem moveChunk_inv (k : Nat) (c : Cord) (e : EOp) (n : Nat) (is : List Nat) : Safety.Inv (moveChunk s k c e n is).1 := by
  unfold moveChunk
  dsimp only
  have hwrite : ∀ f bs, Safety.Inv (engineWrite (modCoreOf s c f) (coreIdOf c) e.hint bs).1 :=
    fun f bs => engineWrite_inv (inv_of_mem (modCoreOf_mem ..) hs) _ _ _
  split
  · exact inv_of_mem (giveBytes_mem ..) (hwrite _ _)
  · exact hwrite _ _

theorem openPaths_inv (c : Cord) (e : EOp) : Safety.Inv (openPaths s c e) := by
  refine inv_foldl (fun s x h => ?_) hs _
  split
  · split
    · exact writeMem_wf _ h _ _
    · exact h
  · exact h

theorem startEsend_inv (k : Nat) (c : Cord) (e : EOp) : Safety.Inv (startEsend s k c e) := by
  have hopen := openPaths_inv (inv_of_mem (engineTouch_mem s c e.hint (sendReads e)) hs) c e
  unfold startEsend
  dsimp only
  split
  · exact inv_of_mem (failEop_mem ..) hopen
  · exact inv_of_mem (modEop_mem ..) hopen

theorem startKind_inv (k : Nat) (c : Cord) (e : EOp) : Safety.Inv (startKind s k c e) := by
  unfold startKind
  dsimp only
  split
  case h_8 => exact startEsend_inv hs k c e
  all_goals exact inv_of_mem (by simp) hs

theorem fatalMiss_inv (p : Packet) (pc : BitVec 64) (a : Nat) : Safety.Inv (fatalMiss s p pc a) := missError_inv hs ..

theorem serveReq_inv (p : Packet) (r : Req) : Safety.Inv (serveReq s p r) := by
  unfold serveReq
  split
  · exact performGroup_inv hs r
  · split
    · exact hs
    · exact fatalMiss_inv hs ..

theorem serveEngine_inv (c : Cord) (p : Packet) (vas as : List Nat) (data : List (BitVec 8)) (write : Bool) (gen : BitVec 8) :
    Safety.Inv (serveEngine s c p vas as data write gen) := by
  unfold serveEngine
  dsimp only
  split
  · exact hs
  · split
    · exact fatalMiss_inv hs ..
    · exact hs
    · exact inv_of_mem (redirectEngine_mem ..) hs
    · split
      · exact inv_of_mem (answerPacket_mem ..) (engineWrite_inv hs _ _ _)
      · exact inv_of_mem (by simp) hs

theorem serveFetch_inv (p : Packet) (base : Nat) (as : List Nat) (gen : BitVec 8) (data : Bool) : Safety.Inv (serveFetch s p base as gen data) := by
  unfold serveFetch
  dsimp only
  split
  · split
    · exact inv_of_mem (by simp) hs
    · exact fatalMiss_inv hs ..
  · exact hs
  · exact inv_of_mem (by simp) hs
  · exact inv_of_mem (by simp) hs

theorem addElement_inv (core : CoreId) (hint : BitVec 32) (as : List Nat) (data : List (BitVec 8)) (t : Nat) (ftz : Bool) (en : BitVec 5)
    (y : Reply) (i : Nat) : Safety.Inv (addElement core hint as data t ftz en (s, y) i).1 := by
  unfold addElement
  extract_lets w ks s₀ y₀ keep s₁ old x sum
  have hread : Safety.Inv s₁ := inv_of_mem ((homeRead_mem ..).trans (arbitrate_mem ..)) hs
  split
  · exact hread
  · split
    · exact hread
    · split
      · exact hread
      · exact inv_of_mem (directoryWrite_mem ..) (homeWrite_inv hread ..)

theorem performArrival_inv (core : CoreId) (hint : BitVec 32) (as : List Nat) (data : List (BitVec 8)) (etype : Option Nat) (ftz : Bool)
    (en : BitVec 5) : Safety.Inv (performArrival s core hint as data etype ftz en).1 := by
  unfold performArrival
  split
  · exact engineWrite_inv hs ..
  · exact inv_foldl_fst (fun r i h => addElement_inv h _ _ _ _ _ _ _ r.2 i) hs _

/-! ### Launches -/

theorem writeVa_inv (ctx dev va : Nat) (bs : List (BitVec 8)) : Safety.Inv (writeVa s ctx dev va bs) := writeCells_wf _ hs _ _

theorem launchBatt_inv (c : CoreId) (entry : Nat) (b : BindRec) (t : Batt) : Safety.Inv (launchBatt s c entry b t) := by
  unfold launchBatt
  dsimp only
  split
  · split
    · exact hs
    · unfold Safety.Inv
      rw [acquireStep_mem, setSlotEntry_mem, modCore_mem]
      exact writeVa_inv (inv_of_mem (by simp) hs) _ _ _ _
  · exact hs

/-! ### Mapping -/

theorem clearFrame_inv (f : Nat) : Safety.Inv (clearFrame s f) := filter_wf _ hs _

theorem loseBytes_inv (dev : Nat) (weight : Bool) : Safety.Inv (loseBytes s dev weight) := filter_wf _ hs _

theorem newTable_inv (ctx dev : Nat) {a : Nat} {t : State} (ht : newTable s ctx dev = some (a, t)) : Safety.Inv t := by
  unfold newTable at ht
  dsimp only at ht
  split at ht
  · cases ht
  · cases ht
    exact clearFrame_inv hs _

theorem subTable_inv (ctx dev entry : Nat) {a : Nat} {t : State} (ht : subTable s ctx dev entry = some (a, t)) : Safety.Inv t := by
  unfold subTable at ht
  dsimp only at ht
  split at ht
  · cases ht
    exact hs
  · obtain ⟨⟨b, u⟩, hu, hp⟩ := Option.map_eq_some_iff.mp ht
    cases hp
    exact setEntry_inv (newTable_inv hs ctx dev hu) _ _ _

theorem putLeaf_inv (ctx dev va : Nat) (big : Bool) (e : BitVec 64) {t : State} (ht : putLeaf s ctx dev va big e = some t) : Safety.Inv t := by
  obtain ⟨root, -, ht⟩ := Option.bind_eq_some_iff.mp ht
  obtain ⟨⟨a, u⟩, hu, ht⟩ := Option.bind_eq_some_iff.mp ht
  have hinv := subTable_inv hs ctx dev _ hu
  dsimp only at ht
  split at ht
  · cases ht
    exact setEntry_inv hinv _ _ _
  · obtain ⟨⟨b, v⟩, hv, rfl⟩ := Option.map_eq_some_iff.mp ht
    exact setEntry_inv (subTable_inv hinv ctx dev _ hv) _ _ _

theorem validate_inv (fs : List Nat) (g : BitVec 8) : Safety.Inv (validate s fs g) :=
  inv_of_mem ((modFrames_mem ..).trans (clearTokens_mem ..)) (inv_foldl (fun _ f h => clearFrame_inv h f) hs _)

theorem mapPage_inv (ctx dev : Nat) (r : ReqRec) (i : Nat) {t : State} (ht : mapPage s ctx dev r i = some t) : Safety.Inv t := by
  refine putLeaf_inv ?_ _ _ _ _ _ ht
  split
  · exact hs
  · exact validate_inv hs _ _

omit hs in
theorem mapPages_inv (ctx dev : Nat) (r : ReqRec) (is : List Nat) {s t : State} (hs : Safety.Inv s) (ht : mapPages ctx dev r is s = .inl t) :
    Safety.Inv t := by
  induction is generalizing s with
  | nil =>
    cases ht
    exact hs
  | cons i is ih =>
    unfold mapPages at ht
    split at ht
    · rename_i u hu
      exact ih (mapPage_inv hs ctx dev r i hu) ht
    · cases ht

theorem serveMap_inv (q : RingId) (ctx : Nat) (r : ReqRec) : Safety.Inv (serveMap q ctx r s) := by
  unfold serveMap
  dsimp only
  split
  · exact inv_of_mem (refuseReq_mem ..) hs
  · split
    · exact hs
    · split
      · exact inv_of_mem (refuseReq_mem ..) hs
      · split
        · rename_i t ht
          exact inv_of_mem (completeReq_mem ..) (mapPages_inv _ _ _ _ hs ht)
        · exact inv_of_mem (refuseReq_mem ..) hs

theorem rewriteImporters_inv (dev : Nat) (fs : List Nat) (new : Nat → Nat → BitVec 64 → BitVec 64) :
    Safety.Inv (rewriteImporters s dev fs new) := by
  refine inv_foldl (fun s l h => ?_) hs _
  split
  · exact h
  · exact setEntry_inv h _ _ _

theorem advanceFar_inv (ctx dev : Nat) (e : BitVec 64) : Safety.Inv (advanceFar s ctx dev e).1 := by
  unfold advanceFar
  dsimp only
  split
  · exact hs
  · exact inv_of_mem ((advanced_mem ..).trans (modFrames_mem ..))
      (inv_foldl (fun _ l h => setEntry_inv h _ _ _) (rewriteImporters_inv hs _ _ _) _)

theorem protectPage_inv (ctx dev : Nat) (t : BitVec 64) (l : Nat × Nat × BitVec 64 × Bool) : Safety.Inv (protectPage s ctx dev t l) := by
  unfold protectPage
  dsimp only
  split
  · exact setEntry_inv (advanceFar_inv hs _ _ _) _ _ _
  · refine setEntry_inv (inv_of_mem ((advanced_mem ..).trans (modFrames_mem ..)) ?_) _ _ _
    exact rewriteImporters_inv (drainFrames_inv hs _) _ _ _

theorem serveProtect_inv (q : RingId) (ctx : Nat) (r : ReqRec) : Safety.Inv (serveProtect q ctx r s) := by
  unfold serveProtect
  dsimp only
  split
  · exact inv_of_mem (refuseReq_mem ..) hs
  · split
    · exact inv_of_mem (refuseReq_mem ..) hs
    · split
      · exact hs
      · split
        · exact drainFrames_inv hs _
        · exact inv_of_mem (completeReq_mem ..) (inv_foldl (fun _ l h => protectPage_inv h _ _ _ l) (drainFrames_inv hs _) _)

theorem serveUnmap_inv (q : RingId) (ctx : Nat) (r : ReqRec) : Safety.Inv (serveUnmap q ctx r s) := by
  have hpage : ∀ (s : State) (l : Nat × Nat × BitVec 64 × Bool), Safety.Inv s →
      Safety.Inv (unmapPage (rewriteImporters (advanceFar s ctx q.dev l.2.2.1).1 q.dev (ownFrames q.dev l.2.2.1) (fun _ _ _ => 0)) ctx q.dev
        (l.1 * 2 ^ 16)) :=
    fun s l h => unmapPage_inv (rewriteImporters_inv (advanceFar_inv h _ _ _) _ _ _) _ _ _
  unfold serveUnmap
  dsimp only
  split
  · exact inv_of_mem (refuseReq_mem ..) hs
  · split
    · exact inv_of_mem (refuseReq_mem ..) hs
    · split
      · exact hs
      · split
        · exact drainFrames_inv hs _
        · exact inv_of_mem (completeReq_mem ..) (inv_foldl hpage (drainFrames_inv hs _) _)

/-! ### Graphs -/

theorem mapQueuePage_inv (ctx dev : Nat) (p : Nat × Nat × Bool) {t : State} (ht : mapQueuePage s ctx dev p = some t) : Safety.Inv t :=
  putLeaf_inv (validate_inv (clearFrame_inv hs _) _ _) _ _ _ _ _ ht

omit hs in
theorem mapQueuePages_inv (ctx dev : Nat) (ps : List (Nat × Nat × Bool)) {s t : State} (hs : Safety.Inv s)
    (ht : mapQueuePages ctx dev ps s = some t) : Safety.Inv t := by
  have hfold : ∀ (ps : List (Nat × Nat × Bool)) (o : Option State), (∀ u, o = some u → Safety.Inv u) →
      ∀ t, ps.foldl (fun s p => s.bind (fun s => mapQueuePage s ctx dev p)) o = some t → Safety.Inv t := by
    intro ps
    induction ps with
    | nil => exact fun o ho t ht => ho t ht
    | cons p ps ih =>
      refine fun o ho t ht => ih _ (fun u hu => ?_) t ht
      obtain ⟨v, hv, hu⟩ := Option.bind_eq_some_iff.mp hu
      exact mapQueuePage_inv (ho v hv) ctx dev p hu
  exact hfold ps (some s) (fun u hu => Option.some.inj hu ▸ hs) t ht

theorem serveLoad_inv (q : RingId) (ctx : Nat) (r : ReqRec) : Safety.Inv (serveLoad q ctx r s) := by
  unfold serveLoad
  dsimp only
  split
  · exact inv_of_mem (refuseReq_mem ..) hs
  · split
    · exact inv_of_mem (refuseReq_mem ..) hs
    · split
      · exact inv_of_mem (refuseReq_mem ..) hs
      · rename_i t ht
        have hmap := mapQueuePages_inv _ _ _ hs ht
        exact inv_of_mem (completeReq_mem ..)
          (inv_foldl (fun _ x h => writeVa_inv h _ _ _ _) (inv_of_mem ((modCtx_mem ..).trans (freshUid_mem ..)) hmap) _)

theorem serveSeed_inv (q : RingId) (ctx : Nat) (r : ReqRec) : Safety.Inv (serveSeed q ctx r s) := by
  unfold serveSeed
  dsimp only
  split
  · split
    · exact inv_of_mem (refuseReq_mem ..) hs
    · split
      · exact inv_of_mem (refuseReq_mem ..) hs
      · split
        · exact inv_of_mem (refuseReq_mem ..) hs
        · split
          · exact hs
          · exact inv_of_mem ((completeReq_mem ..).trans ((modCtx_mem ..).trans (freshUid_mem ..))) (writeVa_inv hs _ _ _ _)
  · exact inv_of_mem (refuseReq_mem ..) hs

end

end Sys2Proof.Laws

/-!
O54 and O60. Every instruction and every event answers a next state, but for one PERFORM (O60), and that state has the bytes of memory in
canonical form if the one before has (O54): one predicate on answers says both, so that each word and each event is looked at once.
-/
namespace Sys2Proof.Laws
open Sys2Proof.Machine Sys2Proof.Safety

/-- The answer o of s is a next state, which has the bytes of memory in canonical form if s has. -/
def AnswersInv (s : State) (o : Out) : Prop := ∃ t, o = .next t ∧ (Safety.Inv s → Safety.Inv t)

theorem AnswersInv.next {s t : State} (h : Safety.Inv s → Safety.Inv t) : AnswersInv s (.next t) := ⟨t, rfl, h⟩

theorem AnswersInv.same {s t : State} (h : t.mem = s.mem) : AnswersInv s (.next t) := .next (inv_of_mem h)

/-- An answer of a state that has the bytes of s is one of s. -/
theorem AnswersInv.of_same {s t : State} {o : Out} (h : t.mem = s.mem) (ho : AnswersInv t o) : AnswersInv s o := by
  obtain ⟨u, rfl, hu⟩ := ho
  exact .next (fun hs => hu (inv_of_mem h hs))

theorem elim_mem {α : Type} {s t : State} (o : Option α) {f : α → State} (ht : t.mem = s.mem) (hf : ∀ x, (f x).mem = s.mem) :
    (o.elim t f).mem = s.mem := by
  cases o with
  | none => exact ht
  | some x => exact hf x

/-! ### The families of words -/

/-- A word whose effect keeps the form of memory keeps it whatever it does. -/
theorem runWord_answersInv {i : Instr} {g : Guard} {spec : Here → State → WSpec} {check : Here → State → Option PFault}
    {leave : Here → State → Leave} {effect : Here → State → State} {s : State}
    (he : ∀ h, Safety.Inv s → Safety.Inv (effect h s)) : AnswersInv s (runWord i g spec check leave effect s) := by
  cases hh : here s with
  | none =>
    rw [runWord_none hh]
    exact .same rfl
  | some h =>
    rcases runWord_cases (i := i) (g := g) (spec := spec) (check := check) (leave := leave) (effect := effect) hh with
      hpop | ⟨_, hpass⟩ | hskip | ⟨_, hstop⟩ | ⟨_, hleft⟩
    · exact hpop ▸ .same rfl
    · exact hpass ▸ .same rfl
    · exact hskip ▸ .same rfl
    · exact hstop ▸ .same rfl
    · exact hleft ▸ .next (fun hs => inv_of_mem (s := effect h s) rfl (he h hs))

/-- A word whose effect leaves the bytes of memory. -/
theorem runWord_same {i : Instr} {g : Guard} {spec : Here → State → WSpec} {check : Here → State → Option PFault}
    {leave : Here → State → Leave} {effect : Here → State → State} {s : State}
    (he : ∀ h, (effect h s).mem = s.mem) : AnswersInv s (runWord i g spec check leave effect s) :=
  runWord_answersInv (fun h => inv_of_mem (he h))

section
variable {s : State} {i : Instr} {g : Guard} {d a b : BitVec 7} {reads writes : List Reg} {lat : Nat} {can : Flags}

theorem regWord_answers {f} : AnswersInv s (regWord i g reads writes lat f s) := runWord_same (fun _ => writeRegs_mem ..)

theorem flagWord_answers {f} : AnswersInv s (flagWord i g reads writes lat can f s) := runWord_same (fun _ => flagWrite_mem ..)

theorem divWord_answers {f} : AnswersInv s (divWord i g reads d can f s) := runWord_same (fun _ => divWrite_mem ..)

theorem branchWord_answers {taken target f} : AnswersInv s (Machine.branchWord i g reads writes taken target f s) :=
  runWord_same (fun _ => writeRegs_mem ..)

/-- A call spills anew or pushes its return address. -/
theorem call_answers {target} : AnswersInv s (if respilling s then respill i g s else callWord i g reads target s) := by
  split
  · refine runWord_answersInv (fun h hs => ?_)
    dsimp only
    split
    · exact leased_inv hs _ _ _ _ (pushOp_mem ..)
    · exact hs
  · exact runWord_answersInv (fun h hs => rsPush_inv hs i h)

theorem raiseWord_answers {cause n} : AnswersInv s (raiseWord i g cause n s) := runWord_same (fun _ => rfl)

theorem memWord_answers {align va op} : AnswersInv s (memWord i g reads writes align va op s) := by
  refine runWord_answersInv (fun h hs => leased_inv hs _ _ _ _ ?_)
  split
  · rw [mshrJoin_mem, holdRegs_mem, pushOp_mem]
  · rw [holdRegs_mem, pushOp_mem]

theorem scratchWord_answers {align size f} (hf : ∀ h o, (f h s o).mem = s.mem) :
    AnswersInv s (scratchWord i g reads writes align size a f s) := by
  unfold scratchWord
  exact runWord_same (fun h => hf h _)

theorem amosWord_answers {op y} : AnswersInv s (amosWord i g op d a reads y s) :=
  scratchWord_answers (fun _ _ => (writeVar_mem ..).trans (modHereCore_mem ..))

theorem stepWordOp_answers {fallible op} : AnswersInv s (stepWordOp i g reads fallible op s) := by
  unfold stepWordOp
  exact runWord_same (fun _ => pushOp_mem ..)

theorem crossWord_answers {mask f} : AnswersInv s (crossWord i g reads writes mask can f s) :=
  runWord_same (fun _ => by simp)

theorem redWord_answers {o} : AnswersInv s (redWord i g d a o s) := by
  unfold redWord
  exact crossWord_answers

theorem voteWord_answers {x} : AnswersInv s (voteWord i g writes d a x s) := by
  unfold voteWord
  exact crossWord_answers

theorem xlmWord_answers {m} : AnswersInv s (xlmWord i g d a m s) := by
  unfold xlmWord
  exact runWord_same (fun _ => by simp)

theorem taskWord_answers {hold fault effect} (he : ∀ h t, (effect h t).mem = t.mem) :
    AnswersInv s (taskWord i g reads writes hold fault effect s) :=
  runWord_same (fun h => he h _)

theorem knotWord_answers {op x hold} : AnswersInv s (knotWord i g op d a x reads writes hold s) := by
  unfold knotWord
  refine taskWord_answers (fun h t => ?_)
  split <;> simp

theorem swWord_answers {hold polls f} (hf : ∀ h o, (f h s o).mem = s.mem) : AnswersInv s (swWord i g d a writes hold polls f s) :=
  runWord_same (fun h => hf h _)

theorem skWord_answers {r f} : AnswersInv s (skWord i g d a r f s) := runWord_same (fun _ => skAll_mem ..)

theorem tileWord_answers {prune ok} : AnswersInv s (tileWord i g d a prune ok s) := runWord_same (fun _ => rfl)

theorem sendWord_answers {add} : AnswersInv s (sendWord i g a add s) := by
  unfold sendWord
  exact runWord_answersInv (fun h hs => leasedIssue_inv hs _ _ (issueEngine_mem ..))

theorem returnWord_answers {rerun} : AnswersInv s (returnWord i g rerun s) := by
  have hword := runWord_same (i := i) (g := g) (spec := fun h _ => { hold := h.st.stat.getLsbD 3 && !hzClear h.now h.st })
    (check := fun h s => if h.st.stat.getLsbD 3 then none else some (faultHere s h i 1 0 0)) (leave := plainLeave)
    (effect := fun _ s => s) (s := s) (fun _ => rfl)
  unfold returnWord
  obtain ⟨t, ht, hinv⟩ := hword
  rw [ht]
  split
  · rename_i u hu
    cases hu
    split
    · exact .next (fun hs => inv_of_mem (modCord_mem ..) (hinv hs))
    · exact .next hinv
  · exact .next hinv

end
/-! ### Events of accesses -/

/-- Older loads that read from L1 with a younger one leave the bytes of memory. -/
theorem readPassed_mem {k l : Nat} {us : List Nat} {s t : State} (ht : readPassed k l us s = some t) : t.mem = s.mem := by
  induction us generalizing s with
  | nil =>
    cases ht
    rfl
  | cons u us ih =>
    unfold readPassed at ht
    split at ht
    · cases ht
    · split at ht
      · cases ht
      · exact (ih ht).trans (takeL1_mem ..)

theorem execL1Read_answers (k l u : Nat) (s : State) : AnswersInv s (execL1Read k l u s) := by
  unfold execL1Read
  split
  · exact .same rfl
  · split
    · exact .same rfl
    · split
      · exact .same rfl
      · exact .same (takeL1_mem ..)

theorem execSend_answers (k l u : Nat) (s : State) : AnswersInv s (execSend k l u s) := by
  unfold execSend
  split
  · exact .same rfl
  · dsimp only
    split
    · exact .same rfl
    · split
      · exact .same (by simp)
      · split <;> exact .same (by simp)

theorem execFill_answers (k l u : Nat) (s : State) : AnswersInv s (execFill k l u s) := by
  unfold execFill
  split
  · exact .same rfl
  · dsimp only
    split
    · rename_i a _ _
      cases hread : readPassed k l ((unreadBefore s a).map (·.uid))
        (l1Take (modOp s k l u (fun o => { o with filled := true })) a.cord (hintEarly a.op.hint) a.op.line) with
      | none => exact .same rfl
      | some t => exact .same ((readPassed_mem hread).trans ((l1Take_mem ..).trans (modOp_mem ..)))
    · exact .same rfl

theorem execRelease_answers (k l u : Nat) (s : State) : AnswersInv s (execRelease k l u s) := by
  unfold execRelease
  split
  · exact .same rfl
  · extract_lets o p s₁ s₂ s₃
    split
    · have hwalk : s₂.mem = s.mem := (walkFor_mem ..).trans (releaseStep_mem ..)
      have hgive : s₃.mem = s.mem := by
        unfold s₃
        split
        · exact elim_mem _ hwalk (fun _ => (giveUp_mem ..).trans hwalk)
        · rfl
      exact .same ((modOp_mem ..).trans hgive)
    · exact .same rfl

theorem execAcquire_answers (k l u : Nat) (s : State) : AnswersInv s (execAcquire k l u s) := by
  unfold execAcquire
  split
  · exact .same rfl
  · split
    · exact .same (by simp)
    · exact .same rfl

theorem execDrop_answers (k l u : Nat) (s : State) : AnswersInv s (execDrop k l u s) := by
  unfold execDrop
  split
  · exact .same rfl
  · extract_lets o s₁ s₂
    have hwalk : s₂.mem = s.mem := (walkFor_mem ..).trans (modOp_mem ..)
    split
    · exact .same rfl
    · split
      · exact .same ((dropL1_mem ..).trans (modOp_mem ..))
      · exact .same (elim_mem _ hwalk (fun _ => (dropRegion_mem ..).trans hwalk))

theorem execSettle_answers (k l u : Nat) (s : State) : AnswersInv s (execSettle k l u s) := by
  unfold execSettle
  split
  · exact .same rfl
  · split
    · exact .same rfl
    · split <;> exact .same (by simp)

/-- A PERFORM answers a next state unless its request names a byte where there is no storage. -/
theorem execPerform_answers (u : Nat) (s : State) : AnswersInv s (execPerform u s) ∨
    execPerform u s = .fault .noStorage ∧ ∃ r, s.arrivals.find? (·.uid == u) = some r ∧ r.addrs.any (fun a => (homeDie a).isNone) = true := by
  unfold execPerform
  split
  · exact .inl (.same rfl)
  · rename_i r hr
    split
    · rename_i hnone
      exact .inr ⟨rfl, r, hr, hnone⟩
    · split
      · exact .inl (.same rfl)
      · split
        · exact .inl (.same (sendReq_mem ..))
        · exact .inl (.next (fun hs => performGroup_inv hs r))

/-! ### Events of strands, knots and translations -/

theorem execInstructionFill_answers (c : CoreId) (va : BitVec 64) (ctx : Nat) (s : State) :
    AnswersInv s (execInstructionFill c va ctx s) := by
  unfold execInstructionFill
  dsimp only
  split
  · exact .same rfl
  · split
    · exact .same (by simp)
    · exact .same (freshTrans_mem ..)
    · split <;> exact .same (by simp)

theorem serveData_answers (core : CoreId) (ctx base : Nat) (s : State) : AnswersInv s (serveData core ctx base s) := by
  unfold serveData
  dsimp only
  split
  · exact .same rfl
  · split
    · exact .same (by simp)
    · split
      · exact .same (by simp)
      · split <;> exact .same (by simp)

theorem execBattTimerExpiry_answers (ctx graph node dev die : Nat) (s : State) :
    AnswersInv s (execBattTimerExpiry ctx graph node dev die s) := by
  unfold execBattTimerExpiry
  split
  · exact .same rfl
  · split <;> exact .same rfl

theorem execRemoteKnotEvent_answers (n : Nat) (s : State) : AnswersInv s (execRemoteKnotEvent n s) := by
  unfold execRemoteKnotEvent
  split
  · exact .same rfl
  · split
    · exact .same rfl
    · dsimp only
      split
      · exact .same rfl
      · split
        · exact .same rfl
        · split
          · exact .same (by simp)
          · split <;> exact .same (by simp)

theorem execWaiterWake_answers (ctx dev slot : Nat) (s : State) : AnswersInv s (execWaiterWake ctx dev slot s) := by
  unfold execWaiterWake
  dsimp only
  split
  · exact .same rfl
  · split
    · exact .same rfl
    · split
      · exact .same rfl
      · split <;> exact .same (by simp)

theorem execTileWrite_answers (k l : Nat) (s : State) : AnswersInv s (execTileWrite k l s) := by
  unfold execTileWrite
  split
  · exact .same rfl
  · split
    · exact .same rfl
    · split <;> exact .same rfl

theorem execMigration_answers (ctx : Nat) (va : BitVec 64) (frame : Nat) (s : State) : AnswersInv s (execMigration ctx va frame s) := by
  unfold execMigration
  split
  · dsimp only
    split
    · exact .same rfl
    · split
      · exact .next (fun hs => moveHold_inv (s := { s with moves := s.moves ++ [_] }) hs _)
      · exact .same rfl
  · rename_i m _
    dsimp only
    split
    · exact .next (fun hs => moveHold_inv hs m)
    · split
      · exact .next (fun hs => copyFrame_inv hs m.old m.new_)
      · split
        · split
          · exact .same rfl
          · exact .next (fun hs => setEntry_inv hs _ _ _)
        · exact .same (advanced_mem ..)

/-! ### Events of the base die -/

theorem execReadPacket_answers (p : PortId) (tag : Nat) (s : State) : AnswersInv s (execReadPacket p tag s) := by
  unfold execReadPacket
  split
  · exact .same rfl
  · split <;> exact .same rfl

theorem execWritePacket_answers (p : PortId) (tag : Nat) (s : State) : AnswersInv s (execWritePacket p tag s) := by
  unfold execWritePacket
  split
  · exact .same rfl
  · split <;> exact .same rfl

theorem execPortReply_answers (p : PortId) (tag : Nat) (s : State) : AnswersInv s (execPortReply p tag s) := by
  unfold execPortReply
  split
  · exact .same rfl
  · split <;> exact .same rfl

theorem execRefreshWindowStart_answers (dev die g : Nat) (s : State) : AnswersInv s (execRefreshWindowStart dev die g s) := by
  unfold execRefreshWindowStart
  split <;> exact .same rfl

theorem execRefreshWindowEnd_answers (dev die g : Nat) (s : State) : AnswersInv s (execRefreshWindowEnd dev die g s) := by
  unfold execRefreshWindowEnd
  split <;> exact .same rfl

theorem execWriteWindowOpens_answers (dev win : Nat) (s : State) : AnswersInv s (execWriteWindowOpens dev win s) := by
  unfold execWriteWindowOpens
  split
  · exact .same rfl
  · split <;> exact .same rfl

theorem execClockStep_answers (dev die : Nat) (x : Sensors) (s : State) : AnswersInv s (execClockStep dev die x s) := by
  unfold execClockStep
  dsimp only
  split <;> exact .same (by simp)

/-! ### Events of engines -/

theorem execEngineStart_answers (k u : Nat) (s : State) : AnswersInv s (execEngineStart k u s) := by
  unfold execEngineStart
  split
  · exact .same rfl
  · split
    · exact .same rfl
    · extract_lets first vas s₁ s₂ ms
      have hread : s₂.mem = s.mem := by simp [s₂, s₁]
      split
      · exact .same rfl
      · split
        · exact .next (fun hs => startKind_inv (inv_of_mem hread hs) ..)
        · exact .same ((askBytes_mem ..).trans ((modEop_mem ..).trans hread))

theorem execChunkCredit_answers (k u n : Nat) (s : State) : AnswersInv s (execChunkCredit k u n s) := by
  unfold execChunkCredit
  split
  · exact .same rfl
  · split
    · exact .same rfl
    · rename_i c _ _ e _
      extract_lets is fate s₁ ms s₂
      have htrans : s₁.mem = s.mem := by simp [s₁]
      have hread : s₂.mem = s.mem := by simp [s₂, htrans]
      have hmove : Safety.Inv s → Safety.Inv (moveChunk s₂ k c e n is).1 := fun hs => moveChunk_inv (inv_of_mem hread hs) ..
      generalize moveChunk s₂ k c e n is = moved at hmove ⊢
      split
      · exact .same rfl
      · split
        · exact .same (creditChunk_mem ..)
        · split
          · exact .same rfl
          · split
            · exact .same ((askBytes_mem ..).trans htrans)
            · split
              · exact .same ((landPiece_mem ..).trans ((dropGot_mem ..).trans hread))
              · dsimp only
                split
                · exact .next (fun hs => inv_of_mem ((landPiece_mem ..).trans (dropGot_mem ..)) (hmove hs))
                · split
                  · exact .next (fun hs => inv_of_mem ((modEop_mem ..).trans (dropGot_mem ..)) (hmove hs))
                  · exact .next (fun hs => inv_of_mem ((creditChunk_mem ..).trans (dropGot_mem ..)) (hmove hs))

theorem execPressComplete_answers (k u : Nat) (s : State) : AnswersInv s (execPressComplete k u s) := by
  unfold execPressComplete
  split
  · exact .same rfl
  · split
    · exact .same rfl
    · extract_lets vas wide s₁ ms keep s₂ s₃ co lines cells s₄
      have htrans : s₁.mem = s.mem := by simp [s₁]
      have htouch : s₂.mem = s.mem := by simp [s₂, htrans]
      split
      · exact .same htrans
      · split
        · exact .same ((askBytes_mem ..).trans htrans)
        · split
          · exact .same ((failEop_mem ..).trans ((spoilProducts_mem ..).trans htouch))
          · exact .same ((finishEop_mem ..).trans htouch)

theorem execCbldComplete_answers (k u : Nat) (s : State) : AnswersInv s (execCbldComplete k u s) := by
  unfold execCbldComplete
  split
  · exact .same rfl
  · split
    · exact .same rfl
    · dsimp only
      split
      · exact .same rfl
      · split
        · exact .same (by simp)
        · split <;> exact .same (by simp)

theorem execPassStart_answers (k u : Nat) (s : State) : AnswersInv s (execPassStart k u s) := by
  unfold execPassStart
  split
  · exact .same rfl
  · split
    · exact .same rfl
    · dsimp only
      split
      · exact .same rfl
      · split
        · exact .same (by simp)
        · split <;> exact .same rfl

theorem execPassWriteback_answers (k u : Nat) (s : State) : AnswersInv s (execPassWriteback k u s) := by
  unfold execPassWriteback
  split
  · exact .same rfl
  · split
    · exact .same rfl
    · split
      · exact .same rfl
      · exact .same (by simp)

theorem execEngineRetire_answers (k : Nat) (cls : EngClass) (s : State) : AnswersInv s (execEngineRetire k cls s) := by
  unfold execEngineRetire
  split
  · exact .same rfl
  · split <;> exact .same rfl

/-! ### Events of cords -/

theorem execPhaseEnd_answers (k : Nat) (s : State) : AnswersInv s (execPhaseEnd k s) := by
  unfold execPhaseEnd
  split
  · exact .same rfl
  · extract_lets s₁ s₂ s₃
    split
    · exact .same rfl
    · refine .next (fun hs => inv_of_mem ((modCtx_mem ..).trans ((modCord_mem ..).trans (freeEntry_mem ..))) ?_)
      have hleft : s₁.mem = s.mem := (dropLandings_mem ..).trans (releaseAll_mem ..)
      exact writeMem_inv (inv_of_mem hleft hs) _ _

theorem execBindRecord_answers (c : CoreId) (entry : Nat) (b : BindRec) (s : State) : AnswersInv s (execBindRecord c entry b s) := by
  unfold execBindRecord
  split
  · exact .same (bindWork_mem _)
  · exact .same (reportRefusal_mem ..)

theorem execLaunch_answers (c : CoreId) (entry : Nat) (s : State) : AnswersInv s (execLaunch c entry s) := by
  unfold execLaunch
  split
  · split
    · exact .same (resumeCord_mem ..)
    · split
      · exact .next (fun hs => launchBatt_inv hs _ _ _ _)
      · exact .same rfl
    · exact .same rfl
  · exact .same rfl

theorem execRestore_answers (c : CoreId) (entry : Nat) (b : BindRec) (s : State) : AnswersInv s (execRestore c entry b s) := by
  unfold execRestore
  split
  · split
    · split
      · exact .same ((resumeCord_mem ..).trans (bindWork_mem _))
      · exact .same (reportRefusal_mem ..)
    · exact .same (reportRefusal_mem ..)
  · exact .same (reportRefusal_mem ..)

theorem execFailure_answers (k l : Nat) (s : State) : AnswersInv s (execFailure k l s) := by
  unfold execFailure
  split
  · exact .same rfl
  · split
    · exact .same rfl
    · dsimp only
      split
      · exact .same rfl
      · split
        · split
          · exact .same rfl
          · split
            · exact .next (fun hs => contextError_inv hs ..)
            · split
              · exact .same rfl
              · exact .same ((recordFailure_mem ..).trans (abandonWaits_mem ..))
        · split
          · exact .same rfl
          · split
            · exact .next (fun hs => contextError_inv hs ..)
            · split
              · exact .same rfl
              · exact .same ((recordFault_mem ..).trans (abandonWaits_mem ..))
        · exact .same rfl

theorem execTrapEntry_answers (k : Nat) (s : State) : AnswersInv s (execTrapEntry k s) := by
  unfold execTrapEntry
  split
  · exact .same rfl
  · split
    · exact .same rfl
    · split
      · exact .same rfl
      · dsimp only
        split
        · exact .next (fun hs => fatalEnd_inv hs ..)
        · split
          · exact .same rfl
          · split
            · exact .next (fun hs => contextError_inv hs ..)
            · exact .same rfl

theorem execFlush_answers (k : Nat) (s : State) : AnswersInv s (execFlush k s) := by
  unfold execFlush
  split
  · exact .same rfl
  · split
    · exact .same rfl
    · exact .same (by simp)

theorem execSave_answers (k : Nat) (s : State) : AnswersInv s (execSave k s) := by
  unfold execSave
  split
  · exact .same rfl
  · extract_lets im s₁ s₂ s₃
    split
    · exact .same rfl
    · have hnoted : s₂.mem = s₁.mem := by simp [s₂]
      have hsaved : s₃.mem = s₁.mem := (modCord_mem ..).trans ((freeEntry_mem ..).trans ((dropPieces_mem ..).trans hnoted))
      exact .next (fun hs => inv_of_mem ((modCtx_mem ..).trans hsaved) (writeMem_inv hs _ _))

/-! ### Events of packets and links -/

theorem execRemoteRequest_answers (n : Nat) (s : State) : AnswersInv s (execRemoteRequest n s) := by
  unfold execRemoteRequest
  split
  · exact .same rfl
  · rename_i p _
    have hreach : Safety.Inv s → Safety.Inv (reachStation s p) := inv_of_mem (reachStation_mem ..)
    split
    · exact .same rfl
    · split
      · exact .same rfl
      · exact .same rfl
      · rename_i q _
        cases s.arrivals.find? (·.uid == q.uid) with
        | none => exact .same rfl
        | some r => exact .next (fun hs => serveReq_inv (hreach hs) p r)
      · cases mget s.cords p.cord with
        | none => exact .same (dropPacket_mem ..)
        | some c => exact .next (fun hs => serveEngine_inv (hreach hs) ..)
      · exact .next (fun hs => serveFetch_inv (hreach hs) ..)

theorem execAcknowledgement_answers (n : Nat) (s : State) : AnswersInv s (execAcknowledgement n s) := by
  unfold execAcknowledgement
  split
  · exact .same rfl
  · split
    · exact .same rfl
    · dsimp only
      split
      · exact .same rfl
      · split <;> exact .same (by simp)

theorem execEndToEndTimeout_answers (n : Nat) (s : State) : AnswersInv s (execEndToEndTimeout n s) := by
  unfold execEndToEndTimeout
  split
  · exact .same rfl
  · split
    · exact .same rfl
    · split
      · exact .same rfl
      · exact .same (by simp)

theorem execLinkDownDeclared_answers (dev st : Nat) (s : State) : AnswersInv s (execLinkDownDeclared dev st s) := by
  unfold execLinkDownDeclared
  dsimp only
  split
  · exact .same rfl
  · exact .same (by simp)

theorem execPlaneRetire_answers (dev plane : Nat) (s : State) : AnswersInv s (execPlaneRetire dev plane s) := by
  unfold execPlaneRetire
  split
  · exact .same rfl
  · split
    · exact .same rfl
    · split <;> exact .same rfl

theorem execFabricArrival_answers (n : Nat) (s : State) : AnswersInv s (execFabricArrival n s) := by
  unfold execFabricArrival
  split
  · exact .same rfl
  · rename_i p _
    have hreach : Safety.Inv s → Safety.Inv (reachStation s p) := inv_of_mem (reachStation_mem ..)
    split
    · split
      · exact .same rfl
      · dsimp only
        split
        · exact .same (reachStation_mem ..)
        · split
          · exact .next (fun hs => fatalMiss_inv (hreach hs) ..)
          · exact .same (reachStation_mem ..)
          · exact .same ((redirect_mem ..).trans (reachStation_mem ..))
          · split
            · exact .same ((answerPacket_mem ..).trans (reachStation_mem ..))
            · exact .next (fun hs => inv_of_mem ((answerPacket_mem ..).trans (creditArrival_mem ..)) (performArrival_inv (hreach hs) ..))
    · exact .same rfl

theorem execEthernetPacket_answers (n : Nat) (s : State) : AnswersInv s (execEthernetPacket n s) := by
  unfold execEthernetPacket
  split
  · exact .same rfl
  · split
    · exact .same rfl
    · exact .same rfl
    · exact .same rfl
    · exact .same rfl
    · dsimp only
      split
      · exact .same rfl
      · split
        · exact .same rfl
        · split
          · exact .same rfl
          · split
            · exact .same rfl
            · split
              · exact .same rfl
              · split
                · exact .same rfl
                · exact .same rfl
                · exact .next (fun hs => inv_of_mem ((modPacket_mem ..).trans (creditArrival_mem ..)) (performArrival_inv hs ..))

theorem execSprayPacketSend_answers (k u : Nat) (s : State) : AnswersInv s (execSprayPacketSend k u s) := by
  unfold execSprayPacketSend
  split
  · exact .same rfl
  · split
    · exact .same rfl
    · split
      · exact .same rfl
      · dsimp only
        split
        · split
          · exact .same rfl
          · exact .next (fun hs => writeMem_inv hs _ _)
        · exact .same rfl

theorem execEsendRetryLimit_answers (k u : Nat) (s : State) : AnswersInv s (execEsendRetryLimit k u s) := by
  unfold execEsendRetryLimit
  split
  · exact .same rfl
  · split
    · exact .same rfl
    · dsimp only
      split
      · exact .same rfl
      · exact .same (by simp)

theorem execTransportRetransmission_answers (n : Nat) (s : State) : AnswersInv s (execTransportRetransmission n s) := by
  unfold execTransportRetransmission
  split
  · exact .same rfl
  · split
    · exact .same rfl
    · exact .same rfl
    · exact .same rfl
    · exact .same rfl
    · split
      · exact .next (fun hs => writeMem_inv hs _ _)
      · exact .same rfl

theorem execTransportAcknowledgement_answers (n cwnd srtt : Nat) (s : State) :
    AnswersInv s (execTransportAcknowledgement n cwnd srtt s) := by
  unfold execTransportAcknowledgement
  split
  · exact .same rfl
  · split
    · dsimp only
      split
      · exact .next (fun hs => inv_of_mem ((settlePiece_mem ..).trans (dropPacket_mem ..)) (writeMem_wf _ (writeMem_wf _ hs _ _) _ _))
      · exact .same (by simp)
    · exact .same rfl

theorem execLinkCreditReturn_answers (dev st ctx : Nat) (s : State) : AnswersInv s (execLinkCreditReturn dev st ctx s) := by
  unfold execLinkCreditReturn
  split <;> exact .same rfl

/-! ### Starts and requests -/

theorem execColdStart_answers (dev : Nat) (fail : Option Nat) (s : State) : AnswersInv s (execColdStart dev fail s) := by
  unfold execColdStart
  split
  · exact .same rfl
  · refine .next (fun hs => inv_of_mem ((retime_mem ..).trans (modModule_mem ..)) ?_)
    have hlost := loseBytes_inv (inv_of_mem ((stopModule_mem (coldBase s dev fail) dev).trans rfl) hs) dev false
    split
    · exact loseBytes_inv hlost _ _
    · exact hlost

theorem execWarmStart_answers (dev : Nat) (s : State) : AnswersInv s (execWarmStart dev s) := by
  unfold execWarmStart
  split
  · exact .same rfl
  · split
    · exact .next (fun hs => inv_of_mem ((retime_mem ..).trans (modModule_mem ..)) (loseBytes_inv (inv_of_mem (stopModule_mem ..) hs) _ _))
    · exact execColdStart_answers dev none s

theorem execContextCreation_answers (x : CtxSpec) (s : State) : AnswersInv s (execContextCreation x s) := by
  unfold execContextCreation
  split
  · exact .same rfl
  · extract_lets room c s₁
    refine .next (fun hs => inv_foldl (fun t m ht => ?_) (inv_of_mem (t := s₁) rfl hs) _)
    have hvalid := fun fs g => validate_inv (clearFrame_inv (clearFrame_inv ht (byteKey m.1 m.2.1 / 2 ^ 16)) (byteKey m.1 m.2.2 / 2 ^ 16)) fs g
    dsimp only
    cases hput : putLeaf _ _ _ _ _ _ with
    | none => exact hvalid _ _
    | some v => exact putLeaf_inv (hvalid _ _) _ _ _ _ _ hput

theorem serve_answers {s : State} {q : RingId} {code : Nat} {f : ReqRec → State → State}
    (hf : ∀ r, Safety.Inv s → Safety.Inv (f r s)) : AnswersInv s (serve s q code f) := by
  unfold serve
  split
  · exact .same rfl
  · split
    · exact .same rfl
    · split
      · exact .same (completeReq_mem ..)
      · exact .next (hf _)

theorem serveCtx_answers {s : State} {q : RingId} {code : Nat} {f : Nat → ReqRec → State → State}
    (hf : ∀ ctx r, Safety.Inv s → Safety.Inv (f ctx r s)) : AnswersInv s (serveCtx s q code f) := by
  refine serve_answers (fun r hs => ?_)
  split
  · exact hf _ r hs
  · exact inv_of_mem (completeReq_mem ..) hs

theorem execHealthReq_answers (q : RingId) (s : State) : AnswersInv s (execHealthReq q s) := by
  refine serve_answers (fun r hs => ?_)
  split
  · exact inv_of_mem ((completeReq_mem ..).trans (sendOut_mem ..)) hs
  · exact hs

theorem execMalformedRequest_answers (q : RingId) (s : State) : AnswersInv s (execMalformedRequest q s) := by
  unfold execMalformedRequest
  split
  · exact .same rfl
  · split <;> exact .same rfl


/-! ### Every instruction and every event -/

/-- Every word answers a next state, which keeps the form of memory. -/
theorem execWord_answers (i : Instr) (hi : i.isWord = true) (s : State) : AnswersInv s (exec i s) := by
  cases i with unfold exec
  | iadd | isub | imul | imad | and | or | xor | shl | shr | sel | bfi | idp4 | imulh | imulhUns | imin | iminUns | imax | imaxUns
  | andn | sar | rotl | bfx | bfxUns | iaddD | isubD | imulD | andD | orD | xorD | andnD | iminD | iminDUns | imaxD | imaxDUns
  | shlD | shrD | sarD | rotlD | mov | iabs | ineg | not | popc | clz | ctz | brev | shlImm | shrImm | sarImm | rotlImm
  | movD | iabsD | inegD | notD | brevD | popcD | clzD | ctzD | batt | fclass | mvs | mvsD | movs | movsD | hzrd | hzseq
  | icmp | lea | iaddImm | movi | movhi | pand | por | pxor | pnot => exact regWord_answers
  | fadd | fsub | fmul | ffma | fcmp | cvt | fmin | fmax | hadd2Hf | hadd2Bf | hmul2Hf | hmul2Bf | hfma2Hf | hfma2Bf
  | frcp | frsq | fexp2 | flog2 => exact flagWord_answers
  | fdiv | fsqrt | idiv | idivUns | irem | iremUns => exact divWord_answers
  | bra | brp | bdec | jmpv | hzbrClr | hzbrNclr => exact branchWord_answers
  | call => exact call_answers
  | callv => exact call_answers
  | trap | bkpt => exact raiseWord_answers
  | rte | rteRerun => exact returnWord_answers
  | ldW | stW | ld | ldAcq | st | stRel | ldo | ldoAcq | acas | acasD | amoAdd | amoSub | amoMin | amoMax | amoMinUns | amoMaxUns
  | amoAnd | amoOr | amoXor | amoSwp | amoAddF | amoAddD | amoSwpD => exact memWord_answers
  | lds => exact scratchWord_answers (fun _ _ => writeVar_mem ..)
  | sts => exact scratchWord_answers (fun _ _ => modHereCore_mem ..)
  | amosAdd | amosSub | amosMin | amosMax | amosMinUns | amosMaxUns | amosAnd | amosOr | amosXor | amosSwp | amosCas =>
    exact amosWord_answers
  | fenceAcq | fenceRel | fence | invl1 | invl1All | tkrel => exact stepWordOp_answers
  | xlmIdx | xlmXor | xlmUp | xlmDn => exact xlmWord_answers
  | red | scan | scanExcl => exact redWord_answers
  | elect => exact crossWord_answers
  | voteAny | voteAll | voteBallot => exact voteWord_answers
  | qstat => exact taskWord_answers (fun _ _ => writeRegs_mem ..)
  | qrsv => exact taskWord_answers (fun _ _ => by split <;> simp)
  | qcmt => exact taskWord_answers (fun _ _ => by split <;> simp)
  | qdrop => exact taskWord_answers (fun _ _ => by split <;> simp)
  | qfree => exact taskWord_answers (fun _ _ => by split <;> simp)
  | knnew => exact taskWord_answers (fun _ _ => by dsimp only; split <;> simp)
  | knset | knadd | knget | knwait | knpoll | knfree | knbrk => exact knotWord_answers
  | swinit => exact swWord_answers (fun _ _ => (writeVar_mem ..).trans (modHereCore_mem ..))
  | swait => unfold execSwait; exact swWord_answers (fun _ _ => (writeVar_mem ..).trans (acquireStep_mem ..))
  | swadd => exact swWord_answers (fun _ _ => by dsimp only; split <;> simp)
  | skadd | sksub | skmax | skmin | skmov => exact skWord_answers
  | cmpr | sbmap => exact tileWord_answers
  | rsend | rsendAdd => exact sendWord_answers
  | exit => exact runWord_answersInv (fun _ hs => endStrand_inv (inv_of_mem (releaseStep_mem ..) hs) _ _)
  | hintWait | hintExt | hintMod | hintCache | nop | hzwait => exact runWord_same (fun _ => rfl)
  | rep => unfold execRep; exact runWord_same (fun _ => rfl)
  | hintFetchI | cbldDef | mts | skbind => exact runWord_same (fun _ => rfl)
  | tdef => unfold execTdef; exact runWord_same (fun _ => rfl)
  | hintFetchD => exact runWord_same (fun _ => by dsimp only; split <;> simp)
  | trrec => exact runWord_same (fun _ => by dsimp only; split <;> simp)
  | barcfg | yieldp => exact runWord_same (fun _ => by split <;> simp)
  | cvset => unfold execCvset; exact runWord_same (fun _ => by dsimp only; split <;> simp)
  | waito | cbdec | mfs | skset | skext | skins | tscncl => exact runWord_same (fun _ => by simp)
  | bar => unfold execBar; exact runWord_same (fun _ => by simp)
  | phase => unfold execPhase; exact runWord_same (fun _ => by simp)
  | press => unfold execPress; exact runWord_same (fun _ => by simp)
  | mma => unfold execMma; exact runWord_same (fun _ => by simp)
  | erecv => unfold execErecv; exact runWord_same (fun _ => by simp)
  | ret => exact runWord_answersInv (fun h hs => by
      split
      · exact leased_inv hs h _ _ _ rfl
      · exact inv_of_mem rfl hs)
  | tcopy => unfold execTcopy; exact runWord_answersInv (fun h hs => leasedIssue_inv hs h _ (issueEngine_mem ..))
  | tst => unfold execTst; exact runWord_answersInv (fun h hs => leasedIssue_inv hs h _ (issueEngine_mem ..))
  | cbld => unfold execCbld; exact runWord_answersInv (fun h hs => leasedIssue_inv hs h _ (issueEngine_mem ..))
  | esend => unfold execEsend; exact runWord_answersInv (fun h hs => leasedIssue_inv hs h _ (issueEngine_mem ..))
  | pressw => unfold execPressw; exact runWord_answersInv (fun h hs => leasedIssue_inv hs h _ (issuePress_mem ..))
  | tld => unfold execTld; exact runWord_answersInv (fun h hs => leasedIssue_inv hs h _ (by simp))
  | tsend => unfold execTsend; exact runWord_answersInv (fun h hs => leasedIssue_inv hs h _ (by split <;> simp))
  | _ => cases hi

/-- Every event but PERFORM, and a word that is no instruction, answers a next state, which keeps the form of memory. -/
theorem execEvent_answers (i : Instr) (hi : i.isWord = false) (hp : ∀ u, i ≠ .perform u) (s : State) : AnswersInv s (exec i s) := by
  cases i with unfold exec
  | perform u => exact absurd rfl (hp u)
  | illegalInstruction => exact runWord_same (fun _ => rfl)
  | divideResult => exact .same (divideDone_mem ..)
  | tableWalk => exact .same (walkFor_mem ..)
  | tlbShootdown | evict | preempt | drainLimitExpiry | stompedPacket | linkRetrain | linkLevelReplay => exact .same (by simp)
  | linkReturn => exact .same (by split <;> simp)
  | l1Read => exact execL1Read_answers ..
  | send => exact execSend_answers ..
  | fill => exact execFill_answers ..
  | release => exact execRelease_answers ..
  | acquire => exact execAcquire_answers ..
  | drop => exact execDrop_answers ..
  | settle => exact execSettle_answers ..
  | instructionFill => exact execInstructionFill_answers ..
  | battTimerExpiry => exact execBattTimerExpiry_answers ..
  | remoteKnotEvent => exact execRemoteKnotEvent_answers ..
  | waiterWake => exact execWaiterWake_answers ..
  | migration => exact execMigration_answers ..
  | readPacket => exact execReadPacket_answers ..
  | writePacket => exact execWritePacket_answers ..
  | portReply => exact execPortReply_answers ..
  | refreshWindowStart => exact execRefreshWindowStart_answers ..
  | refreshWindowEnd => exact execRefreshWindowEnd_answers ..
  | writeWindowOpens => exact execWriteWindowOpens_answers ..
  | clockStep => exact execClockStep_answers ..
  | engineStart => exact execEngineStart_answers ..
  | chunkCredit => exact execChunkCredit_answers ..
  | pressComplete => exact execPressComplete_answers ..
  | cbldComplete => exact execCbldComplete_answers ..
  | passStart => exact execPassStart_answers ..
  | passWriteback => exact execPassWriteback_answers ..
  | engineRetire => exact execEngineRetire_answers ..
  | phaseEnd => exact execPhaseEnd_answers ..
  | bindRecord => exact execBindRecord_answers ..
  | launch => exact execLaunch_answers ..
  | restore => exact execRestore_answers ..
  | failure => exact execFailure_answers ..
  | trapEntry => exact execTrapEntry_answers ..
  | flush => exact execFlush_answers ..
  | save => exact execSave_answers ..
  | remoteRequest => exact execRemoteRequest_answers ..
  | acknowledgement => exact execAcknowledgement_answers ..
  | endToEndTimeout => exact execEndToEndTimeout_answers ..
  | linkDownDeclared => exact execLinkDownDeclared_answers ..
  | planeRetire => exact execPlaneRetire_answers ..
  | fabricArrival => exact execFabricArrival_answers ..
  | ethernetPacket => exact execEthernetPacket_answers ..
  | sprayPacketSend => exact execSprayPacketSend_answers ..
  | esendRetryLimit => exact execEsendRetryLimit_answers ..
  | transportRetransmission => exact execTransportRetransmission_answers ..
  | transportAcknowledgement => exact execTransportAcknowledgement_answers ..
  | linkCreditReturn => exact execLinkCreditReturn_answers ..
  | coldStart => exact execColdStart_answers ..
  | warmStart => exact execWarmStart_answers ..
  | contextCreation => exact execContextCreation_answers ..
  | healthReq => exact execHealthReq_answers ..
  | malformedRequest => exact execMalformedRequest_answers ..
  | mapReq q => exact serveCtx_answers (fun ctx r hs => serveMap_inv hs q ctx r)
  | unmapReq q => exact serveCtx_answers (fun ctx r hs => serveUnmap_inv hs q ctx r)
  | protectReq q => exact serveCtx_answers (fun ctx r hs => serveProtect_inv hs q ctx r)
  | graphLoad q => exact serveCtx_answers (fun ctx r hs => serveLoad_inv hs q ctx r)
  | graphSeed q => exact serveCtx_answers (fun ctx r hs => serveSeed_inv hs q ctx r)
  | graphClose => exact serveCtx_answers (fun _ _ hs => inv_of_mem (completeReq_mem ..) (closeGraph_inv hs _ _))
  | resetReq => exact serveCtx_answers (fun _ _ hs => inv_of_mem (completeReq_mem ..) (contextError_inv hs ..))
  | exportFrame => exact serve_answers (fun _ => inv_of_mem (serveExport_mem ..))
  | windowOpen => exact serve_answers (fun _ => inv_of_mem (serveWindow_mem ..))
  | setReq => exact serve_answers (fun _ => inv_of_mem (serveSet_mem ..))
  | windowClose => exact serve_answers (fun _ => inv_of_mem (by simp))
  | peerSet => exact serveCtx_answers (fun _ _ => inv_of_mem (by simp))
  | logRead => exact serveCtx_answers (fun _ _ => inv_of_mem (serveLog_mem ..))
  | _ => cases hi

/-- Every instruction and every event but PERFORM answers a next state, which keeps the form of memory. -/
theorem exec_answersInv (i : Instr) (hp : ∀ u, i ≠ .perform u) (s : State) : AnswersInv s (exec i s) := by
  cases hi : i.isWord with
  | true => exact execWord_answers i hi s
  | false => exact execEvent_answers i hi hp s

/-- Settles O60: every word and every event but PERFORM answers a next state, and PERFORM stops only where there is no storage. -/
theorem execAnswers : Obligations.ExecAnswers := by
  unfold Obligations.ExecAnswers
  intro i s
  by_cases hp : ∃ u, i = .perform u
  · obtain ⟨u, rfl⟩ := hp
    rcases execPerform_answers u s with ⟨t, ht, -⟩ | ⟨hstop, r, hr, hnone⟩
    · exact .inl ⟨t, ht⟩
    · exact .inr ⟨hstop, u, r, rfl, hr, hnone⟩
  · obtain ⟨t, ht, -⟩ := exec_answersInv i (fun u hu => hp ⟨u, hu⟩) s
    exact .inl ⟨t, ht⟩

/-! ### The moves of the machine -/

/-- A move whose next states have the bytes of memory in canonical form if the state it starts from has. -/
def KeepsForm (m : Move) : Prop := ∀ s t, m s = .next t → Safety.Inv s → Safety.Inv t

/-- A list of such moves. -/
def AllKeep (ms : List Move) : Prop := ∀ m ∈ ms, KeepsForm m

theorem KeepsForm.of_answers {m : Move} (h : ∀ s, AnswersInv s (m s)) : KeepsForm m := by
  intro s t ht
  obtain ⟨u, hu, hinv⟩ := h s
  cases ht.symm.trans hu
  exact hinv

theorem KeepsForm.of_next {f : State → State} (h : ∀ s, Safety.Inv s → Safety.Inv (f s)) : KeepsForm (fun s => .next (f s)) :=
  .of_answers (fun s => .next (h s))

theorem AllKeep.nil : AllKeep [] := fun _ h => absurd h List.not_mem_nil

theorem AllKeep.cons {m : Move} {ms : List Move} (h : KeepsForm m) (hs : AllKeep ms) : AllKeep (m :: ms) :=
  List.forall_mem_cons.2 ⟨h, hs⟩

theorem AllKeep.one {m : Move} (h : KeepsForm m) : AllKeep [m] := .cons h .nil

theorem AllKeep.append {ms ns : List Move} (hm : AllKeep ms) (hn : AllKeep ns) : AllKeep (ms ++ ns) :=
  List.forall_mem_append.2 ⟨hm, hn⟩

theorem AllKeep.map {α : Type} {xs : List α} {f : α → Move} (h : ∀ x, KeepsForm (f x)) : AllKeep (xs.map f) :=
  List.forall_mem_map.2 (fun x _ => h x)

theorem AllKeep.flatMap {α : Type} {xs : List α} {f : α → List Move} (h : ∀ x, AllKeep (f x)) : AllKeep (xs.flatMap f) :=
  List.forall_mem_flatMap.2 (fun x _ => h x)

theorem AllKeep.ite {c : Prop} [Decidable c] {ms ns : List Move} (hm : AllKeep ms) (hn : AllKeep ns) : AllKeep (if c then ms else ns) := by
  split
  · exact hm
  · exact hn

theorem AllKeep.option {α : Type} {o : Option α} {f : α → Move} (h : ∀ x, KeepsForm (f x)) : AllKeep (o.map f).toList := by
  cases o with
  | none => exact .nil
  | some x => exact .one (h x)

theorem execPerform_keeps (u : Nat) : KeepsForm (execPerform u) := by
  intro s t ht hs
  rcases execPerform_answers u s with ⟨v, hv, hinv⟩ | ⟨hstop, -⟩
  · cases ht.symm.trans hv
    exact hinv hs
  · cases ht.symm.trans hstop

theorem exec_keeps (i : Instr) : KeepsForm (exec i) := by
  by_cases hp : ∃ u, i = .perform u
  · obtain ⟨u, rfl⟩ := hp
    exact execPerform_keeps u
  · exact .of_answers (exec_answersInv i (fun u hu => hp ⟨u, hu⟩))

theorem dueTimers_keep (s : State) (dev die : Nat) : AllKeep (dueTimers s dev die) :=
  .flatMap fun _ => .map fun _ => exec_keeps (.battTimerExpiry ..)

theorem dueRefresh_keep (s : State) (dev die : Nat) : AllKeep (dueRefresh s dev die) :=
  .append (.map fun _ => exec_keeps (.refreshWindowStart ..)) (.map fun _ => exec_keeps (.refreshWindowEnd ..))

theorem strandEvents_keep (k : Nat) (c : Cord) (l : Nat) (st : Strand) (now : Nat) : AllKeep (strandEvents k c l st now) := by
  refine .append (.append (.append (.append ?_ ?_) ?_) ?_) ?_
  · exact .ite .nil (.one (exec_keeps (.divideResult ..)))
  · exact .ite (.one (.of_answers fun _ => execTileWrite_answers ..)) .nil
  · exact .ite (.one (exec_keeps (.failure ..))) .nil
  · refine .flatMap fun o => ?_
    exact .cons (exec_keeps (.l1Read ..)) <| .cons (exec_keeps (.send ..)) <|
      .cons (exec_keeps (.fill ..)) <| .cons (exec_keeps (.release ..)) <|
      .cons (exec_keeps (.acquire ..)) <| .cons (exec_keeps (.drop ..)) <|
      .cons (exec_keeps (.settle ..)) <| .cons (exec_keeps (.tableWalk ..)) <| .one (exec_keeps (.tableWalk ..))
  · exact .ite (.append (.map fun _ => exec_keeps (.instructionFill ..)) (.one (exec_keeps (.instructionFill ..)))) .nil

theorem engineEvents_keep (k : Nat) (e : EOp) : AllKeep (engineEvents k e) := by
  refine .append ?_ (.map fun _ => exec_keeps (.chunkCredit ..))
  exact .cons (exec_keeps (.engineStart ..)) <| .cons (exec_keeps (.pressComplete ..)) <|
    .cons (exec_keeps (.cbldComplete ..)) <| .cons (exec_keeps (.passStart ..)) <|
    .cons (exec_keeps (.passWriteback ..)) <| .cons (exec_keeps (.sprayPacketSend ..)) <|
    .one (exec_keeps (.esendRetryLimit ..))

theorem cordEvents_keep (k : Nat) (c : Cord) (now : Nat) : AllKeep (cordEvents k c now) := by
  refine .append (.append (.append (.append ?_ ?_) ?_) ?_) ?_
  · exact .flatMap fun _ => strandEvents_keep _ _ _ _ _
  · exact .flatMap fun _ => engineEvents_keep _ _
  · exact .map fun _ => exec_keeps (.engineRetire ..)
  · exact .cons (exec_keeps (.phaseEnd ..)) (.one (exec_keeps (.trapEntry ..)))
  · exact .ite (.cons (exec_keeps (.save ..)) <| .cons (exec_keeps (.flush ..)) <|
      .one (exec_keeps (.drainLimitExpiry ..))) .nil

theorem replaceLlc_keeps (dev die : Nat) : KeepsForm (replaceLlc dev die) :=
  .of_next fun s => inv_of_mem (by split <;> simp)

theorem stewardBind_keeps (dev die : Nat) : KeepsForm (stewardBind dev die) := by
  refine .of_answers fun s => ?_
  unfold stewardBind
  extract_lets d
  split
  · exact .same rfl
  · exact (execBindRecord_answers ..).of_same (modDie_mem ..)

theorem dieEvents_keep (s : State) (dev die : Nat) : AllKeep (dieEvents s dev die) := by
  refine .append (.append (.append (.append ?_ ?_) ?_) (dueTimers_keep _ _ _)) (dueRefresh_keep _ _ _)
  · exact .flatMap fun _ => .flatMap fun _ => .cons (exec_keeps (.readPacket ..)) <|
      .cons (exec_keeps (.writePacket ..)) <| .one (exec_keeps (.portReply ..))
  · exact .cons (replaceLlc_keeps _ _) (.one (stewardBind_keeps _ _))
  · exact .flatMap fun _ => .append (.append (.append (.map fun _ => exec_keeps (.instructionFill ..))
      (.map fun _ => .of_answers fun _ => serveData_answers ..)) (.map fun w => exec_keeps (.evict ..)))
      (.map fun _ => exec_keeps (.launch ..))

theorem linkEvents_keep (s : State) (m : Module) : AllKeep (linkEvents s m) :=
  .map fun _ => exec_keeps (.linkDownDeclared ..)

theorem moduleEvents_keep (s : State) (m : Module) : AllKeep (moduleEvents s m) := by
  refine .append (.append (.flatMap fun _ => dieEvents_keep _ _ _) (.map fun _ => exec_keeps (.writeWindowOpens ..)))
    (.flatMap fun j => ?_)
  exact .append (.append (.append (.ite (.one (exec_keeps (.linkReturn ..))) .nil)
    (.ite .nil (.one (exec_keeps (.linkLevelReplay ..))))) (.map fun _ => exec_keeps (.linkCreditReturn ..)))
    (.ite (.one (exec_keeps (.planeRetire ..))) .nil)

theorem packetEvents_keep (s : State) (p : Packet) : AllKeep (packetEvents s p) := by
  refine .append ?_ (.ite (.one (exec_keeps (.stompedPacket ..))) .nil)
  exact .cons (exec_keeps (.remoteRequest ..)) <| .cons (exec_keeps (.fabricArrival ..)) <|
    .cons (exec_keeps (.ethernetPacket ..)) <| .cons (exec_keeps (.acknowledgement ..)) <|
    .cons (exec_keeps (.endToEndTimeout ..)) <| .cons (exec_keeps (.transportRetransmission ..)) <|
    .one (exec_keeps (.transportAcknowledgement ..))

theorem contextEvents_keep (s : State) (n : Nat) (x : Context) : AllKeep (contextEvents s n x) :=
  .append (.append (.map fun _ => exec_keeps (.waiterWake ..)) (.map fun _ => exec_keeps (.migration ..)))
    (.map fun _ => .of_next fun _ hs => releaseGraph_inv hs _ _)

theorem requestEvent_keeps (q : RingId) (r : ReqRec) : KeepsForm (requestEvent q r) := by
  unfold requestEvent
  split
  · exact exec_keeps (.malformedRequest ..)
  · split
    · exact exec_keeps (.mapReq ..)
    · exact exec_keeps (.unmapReq ..)
    · exact exec_keeps (.protectReq ..)
    · exact exec_keeps (.exportFrame ..)
    · exact exec_keeps (.graphLoad ..)
    · exact exec_keeps (.graphSeed ..)
    · exact exec_keeps (.graphClose ..)
    · exact exec_keeps (.windowOpen ..)
    · exact exec_keeps (.windowClose ..)
    · exact exec_keeps (.peerSet ..)
    · exact exec_keeps (.setReq ..)
    · exact exec_keeps (.logRead ..)
    · exact exec_keeps (.healthReq ..)
    · exact exec_keeps (.resetReq ..)

theorem events_keep (s : State) : AllKeep (events s) := by
  refine .append (.append (.append (.append (.append (.append (.append ?_ ?_) ?_) ?_) ?_) ?_) ?_) ?_
  · exact .flatMap fun _ => cordEvents_keep _ _ _
  · exact .map fun _ => exec_keeps (.perform _)
  · exact .flatMap fun _ => .append (linkEvents_keep _ _) (.ite (moduleEvents_keep _ _) .nil)
  · exact .flatMap fun _ => packetEvents_keep _ _
  · exact .map fun _ => .of_next fun _ hs => recallNow_inv hs _
  · exact .flatMap fun _ => contextEvents_keep _ _ _
  · exact .map fun _ => exec_keeps (.remoteKnotEvent ..)
  · exact .flatMap fun _ => .option fun _ => requestEvent_keeps _ _

/-! ### A cycle of a die -/

theorem runSelected_keeps : KeepsForm runSelected := by
  intro s t ht hs
  unfold runSelected at ht
  split at ht
  · cases ht
    exact hs
  · split at ht
    · cases ht
      exact hs
    · exact exec_keeps _ _ _ ht hs

theorem lookAgain_inv {s : State} (hs : Safety.Inv s) (x : Cand) : Safety.Inv (lookAgain s x) := by
  unfold lookAgain
  split
  · rename_i t ht
    exact runSelected_keeps _ t ht hs
  · exact hs

theorem selectCore_inv {s : State} (hs : Safety.Inv s) (dev die core : Nat) : Safety.Inv (selectCore s dev die core).2 := by
  unfold selectCore
  extract_lets able ready s1
  have h1 : Safety.Inv s1 := inv_foldl (fun _ x h => lookAgain_inv h x) hs _
  clear_value s1
  have h2 : Safety.Inv (tableBraids s1 (ready.foldl (fun bs x => joinBraid x bs) [])).2 := inv_of_mem (tableBraids_mem ..) h1
  generalize tableBraids s1 (ready.foldl (fun bs x => joinBraid x bs) []) = q2 at h2 ⊢
  obtain ⟨bs, s2⟩ := q2
  have h3 : Safety.Inv (pickBraid s2 bs).2 := inv_of_mem (pickBraid_mem ..) h2
  dsimp only
  generalize pickBraid s2 bs = q3 at h3 ⊢
  obtain ⟨b0, s3⟩ := q3
  cases b0 with
  | none => exact h3
  | some b0 =>
    dsimp only
    have h4 := inv_of_mem (pickBraid_mem s3 (bs.filter (fun b => b != b0 && apart s3 b0 b))) h3
    exact inv_of_mem (mem_foldl (fun _ _ => modStrand_mem ..) _ _) h4

theorem tickDie_inv {s : State} (hs : Safety.Inv s) (dev die : Nat) : Safety.Inv (tickDie dev die s) := by
  unfold tickDie
  extract_lets s1 now mine s2 ks s3 s4 s5 r
  have h2 : Safety.Inv s2 := hs
  have h3 : Safety.Inv s3 := inv_of_mem (mem_foldl (fun _ _ => abandonCord_mem ..) _ _) h2
  have h4 : Safety.Inv s4 := inv_of_mem (mem_foldl (fun _ _ => raiseStuck_mem ..) _ _) h3
  have h5 : Safety.Inv s5 := inv_of_mem (mem_foldl (fun _ _ => numberFired_mem ..) _ _) h4
  suffices h : ∀ (ns : List Nat) (q : List Sel × State), Safety.Inv q.2 →
      Safety.Inv (ns.foldl (fun (r : List Sel × State) n => let q := selectCore r.2 dev die n; (r.1 ++ q.1, q.2)) q).2 from h _ _ h5
  intro ns
  induction ns with
  | nil => exact fun q hq => hq
  | cons n ns ih => exact fun q hq => ih _ (selectCore_inv hq dev die n)

theorem takeInput_keeps (i : Input) : KeepsForm (takeInput i) := by
  cases i with
  | event i => exact exec_keeps i
  | ring q size => exact .of_next fun _ => inv_of_mem (placeRing_mem ..)
  | doorbell q r image bytes => exact .of_next fun _ => inv_of_mem (doorbell_mem ..)

theorem moves_keep (s : State) : AllKeep (moves s) := by
  refine .append (.append (events_keep s) (.map fun p => .of_next fun _ hs => tickDie_inv hs p.1 p.2)) (.option fun i => ?_)
  exact fun u t ht hu => takeInput_keeps i { u with inputs := u.inputs.tail } t ht hu

theorem idleStep_keeps : KeepsForm idleStep := by
  intro s t ht hs
  unfold idleStep at ht
  have hmem : (chooseMove s).2.mem = s.mem := rfl
  have hkeep : ∀ m, (chooseMove s).1 = some m → KeepsForm m := fun m hm => moves_keep _ m (List.mem_of_getElem? hm)
  generalize chooseMove s = q at ht hmem hkeep
  obtain ⟨m, u⟩ := q
  have hu : Safety.Inv u := inv_of_mem hmem hs
  cases m with
  | none =>
    cases ht
    exact hu
  | some m => exact hkeep m rfl u t ht hu

/-- Settles O54: a step executes the word of a selected strand or makes one of the moves at hand, and every word and move keeps the
canonical form. -/
theorem stepKeepsInv : Obligations.StepKeepsInv := by
  unfold Obligations.StepKeepsInv
  intro s t hs ht
  unfold Machine.step at ht
  split at ht
  · exact runSelected_keeps s t ht hs
  · exact idleStep_keeps s t ht hs

end Sys2Proof.Laws

/-!
O42. The base die: the packets of a port, the refresh windows of a bank group, the write windows of a module and the clock of a die.
-/
namespace Sys2Proof.Laws
open Sys2Proof.Machine Sys2Proof.Safety

/-! ### The packets of a port -/

section
variable {s : State} {p : PortId} {tag : Nat} {q : PPkt}

theorem execReadPacket_of_waiting (hq : portPacket s p tag = some q) (hread : q.read = true) (hnew : q.served = false) :
    execReadPacket p tag s = .next (modPort s p (fun x => { x with sent := x.sent.map (fun y =>
      if y.tag == tag then { y with served := true, poison := (packetWords q).any s.poison.contains } else y) })) := by
  simp [execReadPacket, hq, hread, hnew]

theorem execWritePacket_of_waiting (hq : portPacket s p tag = some q) (hwrite : q.read = false) (hnew : q.served = false)
    (hfirst : olderWrite s p q = false) :
    execWritePacket p tag s = .next (modPort s p (fun x => { x with sent := x.sent.map (fun y =>
      if y.tag == tag then { y with
        served := true
        poison := ((packetWords q).filter (fun w => !(wholeWords (q.bytes.map (·.1))).contains w)).any s.poison.contains } else y) })) := by
  simp [execWritePacket, hq, hwrite, hnew, hfirst]

theorem execPortReply_of_served (hq : portPacket s p tag = some q) (hserved : q.served = true) :
    execPortReply p tag s = .next (modPort s p (fun x => portSend { x with sent := x.sent.filter (fun y => y.tag != tag) })) := by
  simp [execPortReply, hq, hserved]

end

/-! ### Refresh windows and write windows -/

theorem execRefreshWindowStart_of_due {s : State} {dev die g : Nat} (hg : g < 8) (hout : (dieOf s dev die).refAct.getLsbD g = false)
    (hcyc : (dieOf s dev die).cyc % 4096 = 512 * g) :
    execRefreshWindowStart dev die g s = .next (modDie s dev die (fun d => { d with
      refAct := d.refAct ||| BitVec.ofNat 8 (2 ^ g)
      refLong := if 85 < d.sensors.baseT then d.refLong ||| BitVec.ofNat 8 (2 ^ g) else d.refLong &&& ~~~(BitVec.ofNat 8 (2 ^ g))
      refEnd := d.refEnd.setIfInBounds g (d.cyc + if 85 < d.sensors.baseT then 128 else 64) })) := by
  have hdue : refreshDue (dieOf s dev die) g = true := by simp only [refreshDue, hg, hout, hcyc, decide_true, Bool.not_false, beq_self_eq_true, Bool.and_self]
  simp only [execRefreshWindowStart, hdue, if_true, decide_eq_true_eq]

theorem execRefreshWindowEnd_of_over {s : State} {dev die g : Nat} (hg : g < 8) (hin : (dieOf s dev die).refAct.getLsbD g = true)
    (hend : (dieOf s dev die).refEnd[g]?.getD 0 ≤ (dieOf s dev die).cyc) :
    execRefreshWindowEnd dev die g s =
      .next (modDie s dev die (fun d => { d with refAct := d.refAct &&& ~~~(BitVec.ofNat 8 (2 ^ g)) })) := by
  have hover : refreshOver (dieOf s dev die) g = true := by simp only [refreshOver, hg, hin, hend, decide_true, Bool.and_self]
  simp only [execRefreshWindowEnd, hover, if_true]

theorem execWriteWindowOpens_of_quiet {s : State} {dev win : Nat} {w : Window}
    (hw : (mget s.modules dev).bind (fun m => m.windows.find? (fun w => w.id == win)) = some w) (hshut : w.open_ = false)
    (hquiet : windowBusy s dev w = false) :
    execWriteWindowOpens dev win s = .next { s with modules := mmod s.modules dev (fun m =>
      { m with windows := m.windows.map (fun v => if v.id == win then { v with open_ := true } else v) }) } := by
  simp [execWriteWindowOpens, hw, hshut, hquiet]

/-! ### The clock -/

/-- The sensors demand a stop just when one of them is past the last row of the table (R430). -/
theorem clockDemand_eq_stop_iff (x : Sensors) : clockDemand x 0 = 3 ↔ 115 < x.macroT ∨ 105 < x.baseT := by
  simp only [clockDemand, Nat.add_zero, Bool.or_eq_true, decide_eq_true_eq]
  split
  · simpa using ‹_›
  · rename_i hcool
    have hother : ∀ n < 3, (n = 3 ↔ 115 < x.macroT ∨ 105 < x.baseT) := fun n hn => iff_of_false (by omega) hcool
    split
    · exact hother 2 (by decide)
    · split
      · exact hother 1 (by decide)
      · exact hother 0 (by decide)

/-- A clock that has not changed yet follows its sensors at once. -/
theorem execClockStep_of_first {s : State} {dev die : Nat} {x : Sensors} (hmacro : x.macroT ≤ 115) (hbase : x.baseT ≤ 105)
    (hfirst : (dieOf s dev die).clockAt = none) :
    execClockStep dev die x s = .next (modDie s dev die (fun e => { e with
      sensors := x
      clock := clockNext (dieOf s dev die).clock x
      clockAt := if clockNext (dieOf s dev die).clock x == e.clock then e.clockAt else some s.wall })) := by
  have hrun : clockDemand x 0 ≠ 3 := fun h => by
    have := (clockDemand_eq_stop_iff x).1 h
    omega
  simp [execClockStep, hrun, hfirst]

theorem execClockStep_of_stop {s : State} {dev die : Nat} {x : Sensors} (hhot : 115 < x.macroT ∨ 105 < x.baseT) :
    execClockStep dev die x s = .next (modModule (stopModule s dev) dev (fun m => { m with powered := false })) := by
  have hstop : clockDemand x 0 = 3 := (clockDemand_eq_stop_iff x).2 hhot
  simp [execClockStep, hstop]

/-- What the shutdown of a module leaves: the bytes, no cord of the module, and its record stopped and without power. -/
theorem shutdown_leaves {s : State} {dev : Nat} {m : Module} (hm : mget s.modules dev = some m) :
    let t := modModule (stopModule s dev) dev (fun m => { m with powered := false })
    t.mem = s.mem ∧ mget t.modules dev = some { stoppedModule s.wall m with powered := false } ∧ ∀ p ∈ t.cords, p.2.dev ≠ dev := by
  have hstopped := stopModule_stopped s dev
  refine ⟨hstopped.mem, ?_, fun p hp => ?_⟩
  · simp [modModule, hstopped.module, hm]
  · have hp : p ∈ (stopModule s dev).cords := hp
    rw [hstopped.cords] at hp
    simpa using (List.mem_filter.1 hp).2

/-- Settles O42, one event at a time. -/
theorem dieEvents : Obligations.DieEvents := by
  unfold Obligations.DieEvents
  intro s p tag dev die g win q w x served d bit part
  refine ⟨execReadPacket_of_waiting, execWritePacket_of_waiting, execPortReply_of_served, execRefreshWindowStart_of_due,
    execRefreshWindowEnd_of_over, execWriteWindowOpens_of_quiet, execClockStep_of_first, fun hhot => ?_⟩
  have hexec : exec (.clockStep dev die x) s = .next (modModule (stopModule s dev) dev (fun m => { m with powered := false })) :=
    execClockStep_of_stop hhot
  refine ⟨hexec, fun m hm => ?_⟩
  obtain ⟨hmem, hmod, hcords⟩ := shutdown_leaves hm
  exact ⟨_, _, hexec, hmem, hmod, rfl, rfl, rfl, hcords⟩

end Sys2Proof.Laws

/-!
O40. What a home's read and write leave of the requests and operations under way, and what they do to tokens, poisoned words and bytes.
-/
namespace Sys2Proof.Laws
open Sys2Proof.Machine Sys2Proof.Safety

/-! ### Poisoned words, seen loads and packets -/

/-- The poisoned words, the loads seen by the strands of a braid and the packets are the same. -/
structure SameMarks (s t : State) : Prop where
  poison : t.poison = s.poison
  loads : t.loads = s.loads
  packets : t.packets = s.packets

theorem SameMarks.refl (s : State) : SameMarks s s := ⟨rfl, rfl, rfl⟩

theorem SameMarks.trans {s t u : State} (h : SameMarks s t) (k : SameMarks t u) : SameMarks s u :=
  ⟨k.1.trans h.1, k.2.trans h.2, k.3.trans h.3⟩

theorem SameMarks.foldl {α : Type} {f : State → α → State} (hf : ∀ s a, SameMarks s (f s a)) (s : State) (xs : List α) :
    SameMarks s (xs.foldl f s) := by
  induction xs generalizing s with
  | nil => exact .refl s
  | cons x xs ih => exact (hf s x).trans (ih _)

theorem modDie_sameMarks (s : State) (dev die : Nat) (f : Die → Die) : SameMarks s (modDie s dev die f) := ⟨rfl, rfl, rfl⟩

theorem portEnqueue_sameMarks (s : State) (read : Bool) (bs : List (Nat × BitVec 8)) : SameMarks s (portEnqueue s read bs) := by
  unfold portEnqueue
  split
  · exact .refl s
  · split
    · exact .refl s
    · exact modDie_sameMarks ..

theorem portRegions_sameMarks (s : State) (read : Bool) (as : List Nat) : SameMarks s (portRegions s read as) :=
  .foldl (fun s _ => portEnqueue_sameMarks s ..) s _

theorem llcDrop_sameMarks (s : State) (dev die r : Nat) : SameMarks s (llcDrop s dev die r) := by
  unfold llcDrop
  split
  · exact (portEnqueue_sameMarks ..).trans (modDie_sameMarks ..)
  · exact ⟨rfl, rfl, rfl⟩

theorem llcFit_sameMarks (n : Nat) (s : State) (dev die : Nat) : SameMarks s (llcFit n s dev die) := by
  induction n generalizing s with
  | zero => exact .refl s
  | succ n ih =>
    unfold llcFit
    split
    · exact .refl s
    · split
      · exact (llcDrop_sameMarks ..).trans (ih _)
      · exact .refl s

theorem llcPut_sameMarks (s : State) (hint : BitVec 32) (as dirty : List Nat) : SameMarks s (llcPut s hint as dirty) := by
  refine .foldl (fun s r => ?_) s _
  split
  · exact .refl s
  · exact (modDie_sameMarks ..).trans (llcFit_sameMarks ..)

theorem directoryRead_sameMarks (s : State) (c : CoreId) (hint : BitVec 32) (as : List Nat) : SameMarks s (directoryRead s c hint as) := by
  simp only [directoryRead]
  split
  · exact .refl s
  · refine SameMarks.trans ?_ (llcFit_sameMarks ..)
    refine SameMarks.foldl (fun t r => ?_) s _
    exact ⟨rfl, rfl, rfl⟩

theorem arbitrate_sameMarks (s : State) (kind : OpKind) (p : Option Party) (as : List Nat) : SameMarks s (arbitrate s kind p as) :=
  ⟨rfl, rfl, rfl⟩

/-- Words taken from DRAM may be found poisoned; the loads seen and the packets stay. -/
theorem checkWords_loads_packets (s : State) (ws : List Nat) : (checkWords s ws).loads = s.loads ∧ (checkWords s ws).packets = s.packets := by
  unfold checkWords
  induction ws generalizing s with
  | nil => exact ⟨rfl, rfl⟩
  | cons w ws ih =>
    obtain ⟨hloads, hpackets⟩ := ih _
    rw [List.foldl_cons, hloads, hpackets]
    dsimp only
    split
    · exact ⟨rfl, rfl⟩
    · split <;> exact ⟨rfl, rfl⟩

theorem homeRead_loads_packets (s : State) (hint : BitVec 32) (as : List Nat) :
    (homeRead s hint as).loads = s.loads ∧ (homeRead s hint as).packets = s.packets := by
  have hchecked := checkWords_loads_packets s ((as.filter (fun a => !llcHolds s a)).map (· / 8)).eraseDups
  have hput : SameMarks (checkWords s ((as.filter (fun a => !llcHolds s a)).map (· / 8)).eraseDups) (homeRead s hint as) :=
    (portRegions_sameMarks ..).trans (llcPut_sameMarks ..)
  exact ⟨hput.loads.trans hchecked.1, hput.packets.trans hchecked.2⟩

/-- A read of bytes the LLC holds takes none from DRAM. -/
theorem homeRead_of_held {s : State} {as : List Nat} (hint : BitVec 32) (h : ∀ a ∈ as, llcHolds s a = true) :
    SameMarks s (homeRead s hint as) := by
  have hmiss : as.filter (fun a => !llcHolds s a) = [] := List.filter_eq_nil_iff.2 (fun a ha => by simp [h a ha])
  unfold homeRead
  rw [hmiss]
  exact llcPut_sameMarks ..

/-! ### A request before its bytes are touched -/

theorem requestRace_marks (s : State) (r : Req) : SameMarks s (requestRace s r).2 ∧ (requestRace s r).2.modules = s.modules := by
  unfold requestRace
  split
  · exact ⟨.refl s, rfl⟩
  · exact ⟨⟨rfl, rfl, rfl⟩, rfl⟩

theorem requestRace_alone {s : State} {r : Req} (h : besideOf s r = []) : requestRace s r = (raceOf s r, s) := by
  simp [requestRace, h]

theorem requestRace_beside {s : State} {r : Req} (h : besideOf s r ≠ []) :
    (requestRace s r).2 = { s with choices := s.choices + 1 } ∧
    ((requestRace s r).1 = raceOf s r ∨ (requestRace s r).1 = (r :: besideOf s r).findSome? (raceOf s)) := by
  refine ⟨?_, (requestRace_cases s r).2.imp_right And.right⟩
  have hsome : (besideOf s r).isEmpty = false := by simpa using h
  simp [requestRace, hsome, choose]

theorem llcHolds_of_modules {s t : State} (h : t.modules = s.modules) (a : Nat) : llcHolds t a = llcHolds s a := by
  simp only [llcHolds, dieOf, h]

theorem fetched_loads_packets (s : State) (r : Req) : (fetched s r).loads = s.loads ∧ (fetched s r).packets = s.packets := by
  obtain ⟨⟨-, hloads, hpackets⟩, -⟩ := requestRace_marks s r
  unfold fetched
  dsimp only
  split
  · obtain ⟨hloads', hpackets'⟩ := homeRead_loads_packets (arbitrate (requestRace s r).2 r.kind (some r.party) r.addrs) r.hint r.addrs
    exact ⟨hloads'.trans hloads, hpackets'.trans hpackets⟩
  · exact ⟨hloads, hpackets⟩

/-- A request for bytes the LLC holds finds no word poisoned that was not. -/
theorem fetched_of_held {s : State} {r : Req} (h : ∀ a ∈ r.addrs, llcHolds s a = true) : SameMarks s (fetched s r) := by
  obtain ⟨hmarks, hmodules⟩ := requestRace_marks s r
  unfold fetched
  dsimp only
  split
  · refine (hmarks.trans (arbitrate_sameMarks ..)).trans (homeRead_of_held r.hint fun a ha => ?_)
    rw [llcHolds_of_modules (s := s) (t := arbitrate (requestRace s r).2 r.kind (some r.party) r.addrs) hmodules]
    exact h a ha
  · exact hmarks.trans (arbitrate_sameMarks ..)

theorem firstPoisoned_eq_none {u : State} {r : Req} (h : ∀ a ∈ r.addrs, poisoned u a = false) : firstPoisoned u r = none := by
  unfold firstPoisoned
  split
  · exact List.find?_eq_none.2 (fun p hp => by simp [h p.1 (List.of_mem_zip hp).1])
  · rfl

theorem firstPoisoned_of_store {u : State} {r : Req} (h : kindReads r.kind = false) : firstPoisoned u r = none := by
  simp [firstPoisoned, h]

/-- Bytes of which the strands of the braid have seen none are seen as they are. -/
theorem shareLoad_of_unseen {s : State} {grp : Nat} {as : List Nat} (f : Nat → BitVec 8) (h : ∀ a ∈ as, loadSeen s grp a = none) :
    (shareLoad s grp as (as.map f)).1 = as.map f := by
  have hzip : as.zip (as.map f) = as.map (fun a => (a, f a)) := by simpa using List.zip_map' (f := id) (g := f) (l := as)
  unfold shareLoad
  split
  · rfl
  · simp only [hzip, List.map_map]
    exact List.map_congr_left (fun a ha => by simp [h a ha])

theorem shareLoad_same (s : State) (grp : Nat) (as : List Nat) (bs : List (BitVec 8)) :
    SameData s (shareLoad s grp as bs).2 ∧ (shareLoad s grp as bs).2.poison = s.poison ∧ (shareLoad s grp as bs).2.packets = s.packets := by
  unfold shareLoad
  split
  · exact ⟨.refl s, rfl, rfl⟩
  · exact ⟨⟨rfl, rfl, rfl, rfl, rfl, rfl⟩, rfl, rfl⟩

/-! ### Tokens -/

theorem mget_mdel_same {α : Type} (m : SMap α) (k : Nat) : mget (mdel m k) k = none := by
  induction m with
  | nil => rfl
  | cons p m ih =>
    obtain ⟨k', v⟩ := p
    unfold mdel
    split
    · exact ih
    · rename_i hk
      simpa [mget, hk] using ih

theorem mget_mdel_other {α : Type} (m : SMap α) {k j : Nat} (h : k ≠ j) : mget (mdel m k) j = mget m j := by
  induction m with
  | nil => rfl
  | cons p m ih =>
    obtain ⟨k', v⟩ := p
    unfold mdel
    split
    · rename_i hk
      subst hk
      simpa [mget, h] using ih
    · simp [mget, ih]

/-- A token that reads as it was set: the free one is recorded by nothing. -/
def Settable (t : Token) : Prop := (t.mark == .none && t.holder.isNone) = true → t = ⟨none, .none, 0⟩

theorem tokenOf_setToken {t : Token} (ht : Settable t) (s : State) (a b : Nat) :
    tokenOf (setToken s a t) b = if a = b then t else tokenOf s b := by
  unfold tokenOf setToken
  dsimp only
  split
  · rename_i hfree
    split
    · rename_i hab
      rw [← hab, mget_mdel_same, ht hfree]
      rfl
    · rename_i hab
      rw [mget_mdel_other _ hab]
  · split
    · rename_i hab
      rw [← hab, mget_mset_same]
      rfl
    · rename_i hab
      rw [mget_mset_other _ _ hab]

/-- Setting one token at every byte of a list leaves the other bytes' tokens. -/
theorem tokenOf_setTokens {t : Token} (ht : Settable t) (as : List Nat) (s : State) (b : Nat) :
    tokenOf (as.foldl (fun s a => setToken s a t) s) b = if b ∈ as then t else tokenOf s b := by
  induction as generalizing s with
  | nil => simp
  | cons a as ih =>
    rw [List.foldl_cons, ih, tokenOf_setToken ht]
    by_cases hmem : b ∈ as
    · simp [hmem]
    · simp [hmem, eq_comm]

theorem setTokens_only (t : Token) (as : List Nat) (s : State) :
    ∃ ts, as.foldl (fun s a => setToken s a t) s = { s with tokens := ts } := by
  induction as generalizing s with
  | nil => exact ⟨s.tokens, rfl⟩
  | cons a as ih =>
    obtain ⟨ts, hts⟩ := ih (setToken s a t)
    exact ⟨ts, hts⟩

/-! ### A write at the home -/

/-- The bytes a write takes from DRAM first: those of words it does not write whole and the LLC does not hold. -/
def partBytes (s : State) (covers as : List Nat) : List Nat :=
  as.filter (fun a => !(wholeWords as ++ covers).contains (a / 8) && !llcHolds s a)

/-- The state a write of the home works on. -/
def partFetched (s : State) (hint : BitVec 32) (covers as : List Nat) : State :=
  if (partBytes s covers as).any (llcTakes hint) then homeRead s hint (partBytes s covers as)
  else checkWords s ((partBytes s covers as).map (· / 8)).eraseDups

theorem partFetched_same (s : State) (hint : BitVec 32) (covers as : List Nat) : SameData s (partFetched s hint covers as) := by
  unfold partFetched
  split
  · exact homeRead_same ..
  · exact checkWords_same ..

theorem partFetched_packets (s : State) (hint : BitVec 32) (covers as : List Nat) : (partFetched s hint covers as).packets = s.packets := by
  unfold partFetched
  split
  · exact (homeRead_loads_packets ..).2
  · exact (checkWords_loads_packets ..).2

theorem partFetched_of_held {s : State} {as : List Nat} (hint : BitVec 32) (covers : List Nat) (h : ∀ a ∈ as, llcHolds s a = true) :
    partFetched s hint covers as = s := by
  have hpart : partBytes s covers as = [] := List.filter_eq_nil_iff.2 (fun a ha => by simp [h a ha])
  simp [partFetched, hpart, checkWords]

/-- The bytes, the poisoned words and the tokens of a write, before its bytes go to the LLC and the ports. -/
def putBytes (u : State) (token : Token) (poison as : List Nat) (bs : List (BitVec 8)) : State :=
  as.foldl (fun s a => setToken s a token) { u with mem := writeCells u.mem as bs, poison := poison }

/-- A write puts its bytes into the state it fetched; what follows moves them to the LLC and the ports. -/
theorem homeWrite_puts (s : State) (token : Token) (hint : BitVec 32) (covers late as : List Nat) (bs : List (BitVec 8)) :
    ∃ poison, SameData (putBytes (partFetched s hint covers as) token poison as bs) (homeWrite s token hint covers late as bs).1 ∧
      (homeWrite s token hint covers late as bs).1.packets = (putBytes (partFetched s hint covers as) token poison as bs).packets :=
  ⟨_, (llcPut_same ..).trans (portRegions_same ..), ((llcPut_sameMarks ..).trans (portRegions_sameMarks ..)).packets⟩

theorem homeWrite_tokens {token : Token} (ht : Settable token) (s : State) (hint : BitVec 32) (covers late as : List Nat)
    (bs : List (BitVec 8)) {a : Nat} (ha : a ∈ as) : tokenOf (homeWrite s token hint covers late as bs).1 a = token := by
  obtain ⟨poison, hsame, -⟩ := homeWrite_puts s token hint covers late as bs
  have hput := tokenOf_setTokens ht as { partFetched s hint covers as with mem := writeCells (partFetched s hint covers as).mem as bs, poison := poison } a
  rw [if_pos ha] at hput
  rw [tokenOf, hsame.tokens]
  exact hput

/-- A write leaves the cords, the requests and the packets. -/
theorem homeWrite_queues (s : State) (token : Token) (hint : BitVec 32) (covers late as : List Nat) (bs : List (BitVec 8)) :
    (homeWrite s token hint covers late as bs).1.cords = s.cords ∧ (homeWrite s token hint covers late as bs).1.arrivals = s.arrivals ∧
    (homeWrite s token hint covers late as bs).1.packets = s.packets := by
  obtain ⟨poison, hsame, hpackets⟩ := homeWrite_puts s token hint covers late as bs
  obtain ⟨ts, hts⟩ := setTokens_only token as
    { partFetched s hint covers as with mem := writeCells (partFetched s hint covers as).mem as bs, poison := poison }
  have hput : putBytes (partFetched s hint covers as) token poison as bs = _ := hts
  have hfetched := partFetched_same s hint covers as
  rw [hput] at hsame hpackets
  exact ⟨hsame.cords.trans hfetched.cords, hsame.arrivals.trans hfetched.arrivals, hpackets.trans (partFetched_packets ..)⟩

/-- A write into words the LLC holds, none of them poisoned, meets no failing byte. -/
theorem homeWrite_meets_none {s : State} {as : List Nat} (token : Token) (hint : BitVec 32) (covers late : List Nat) (bs : List (BitVec 8))
    (hheld : ∀ a ∈ as, llcHolds s a = true) (hclean : ∀ a ∈ as, poisoned s a = false) :
    (homeWrite s token hint covers late as bs).2 = none := by
  have hfind : (homeWrite s token hint covers late as bs).2 =
      as.find? (fun a => poisoned (partFetched s hint covers as) a && !(wholeWords as ++ covers).contains (a / 8)) := rfl
  rw [hfind, partFetched_of_held hint covers hheld]
  exact List.find?_eq_none.2 (fun a ha => by simp [hclean a ha])

theorem written_tokens {token : Token} (ht : Settable token) (u : State) (r : Req) (covers late : List Nat) (bs : List (BitVec 8)) {a : Nat}
    (ha : a ∈ r.addrs) : tokenOf (written u r token covers late bs) a = token := homeWrite_tokens ht _ _ _ _ _ _ ha

/-! ### Bytes written at a list of addresses -/

theorem writeCells_cons (m : List Host.Cell) (a : Nat) (as : List Nat) (b : BitVec 8) (bs : List (BitVec 8)) :
    writeCells m (a :: as) (b :: bs) = writeCells (writeCell m a b) as bs := rfl

theorem readCell_writeCells_other {as : List Nat} {j : Nat} (hj : j ∉ as) (m : List Host.Cell) (bs : List (BitVec 8)) :
    readCell (writeCells m as bs) j = readCell m j := by
  induction as generalizing m bs with
  | nil => rfl
  | cons a as ih =>
    cases bs with
    | nil => rfl
    | cons b bs =>
      rw [writeCells_cons, ih (fun h => hj (List.mem_cons_of_mem a h)), readCell_writeCell_other]
      exact fun h => hj (h ▸ List.mem_cons_self)

/-- At distinct addresses each byte reads as written. -/
theorem readCell_writeCells_at {as : List Nat} (hnd : as.Nodup) {m : List Host.Cell} (hm : Memory.wf m) {bs : List (BitVec 8)}
    (hlen : bs.length = as.length) {i j : Nat} (hi : as[i]? = some j) : readCell (writeCells m as bs) j = bs.getD i 0 := by
  induction as generalizing m bs i with
  | nil => simp at hi
  | cons a as ih =>
    obtain ⟨hnew, hnd⟩ := List.nodup_cons.1 hnd
    cases bs with
    | nil => simp at hlen
    | cons b bs =>
      rw [writeCells_cons]
      cases i with
      | zero =>
        obtain rfl : a = j := by simpa using hi
        rw [readCell_writeCells_other hnew, readCell_writeCell_same m hm]
        rfl
      | succ i => exact ih hnd (writeCell_wf m hm a b) (by simpa using hlen) (by simpa using hi)

theorem length_leBytes (n x : Nat) : (leBytes n x).length = n := by
  induction n generalizing x with
  | zero => rfl
  | succ n ih => exact congrArg (· + 1) (ih _)

end Sys2Proof.Laws

/-!
O40. A home performs a request: the answer and the bytes by the request's kind, and the operation of a request of one piece.
-/
namespace Sys2Proof.Laws
open Sys2Proof.Machine Sys2Proof.Safety

/-! ### The kinds of requests -/

theorem kindLoads_of_reads {k : OpKind} (hread : kindReads k = true) (hne : k ≠ .atomic) : kindLoads k = true := by
  cases k with
  | atomic => exact absurd rfl hne
  | load | obs | acqLoad | refill => rfl
  | _ => cases hread

theorem kindLoads_facts {k : OpKind} (h : kindLoads k = true) : (k == .atomic) = false ∧ kindWrites k = false := by
  cases k with
  | load | obs | acqLoad | refill => exact ⟨rfl, rfl⟩
  | _ => cases h

/-- A store, a release store or a spill. -/
def Stores (k : OpKind) : Prop := k = .store ∨ k = .relStore ∨ k = .spill

theorem Stores.facts {k : OpKind} (h : Stores k) : (k == .atomic) = false ∧ kindWrites k = true ∧ kindReads k = false := by
  rcases h with rfl | rfl | rfl <;> exact ⟨rfl, rfl, rfl⟩

theorem kindOrdinary_of_stores {k : OpKind} (h : Stores k) : kindOrdinary k = !(k == .relStore) := by
  rcases h with rfl | rfl | rfl <;> rfl

/-! ### The answer by kind -/

section
variable {s : State} {r : Req} (hfree : (requestRace s r).1 = none)
include hfree

theorem performBytes_poisoned {p : Nat × Nat} (hp : firstPoisoned (fetched s r) r = some p) :
    performBytes s r = (fetched s r, failReply 11 p.2 0) := by
  rw [performBytes_free hfree]
  simp only [hp]

/-- A load or observation answers the bytes at the home, as its braid has seen them. -/
theorem performBytes_loads (hk : kindLoads r.kind = true) (hp : firstPoisoned (fetched s r) r = none) :
    let x := shareLoad (fetched s r) r.grp r.addrs (r.addrs.map (readCell (fetched s r).mem))
    performBytes s r = (directoryRead x.2 r.core r.hint r.addrs,
      { okReply x.1 with words := if kindOrdinary r.kind then wordsTake (lineWords x.2.mem r.addrs) (r.addrs.zip x.1) else [] }) := by
  obtain ⟨hatom, hwrite⟩ := kindLoads_facts hk
  rw [performBytes_free hfree]
  simp only [hp, hatom, hwrite, Bool.false_eq_true, if_false]

/-- A load changes no byte and no token, and finds poisoned what its home read did. -/
theorem performBytes_loads_same (hk : kindLoads r.kind = true) :
    SameData s (performBytes s r).1 ∧ (performBytes s r).1.poison = (fetched s r).poison ∧ (performBytes s r).1.packets = s.packets := by
  have hfetched := fetched_same s r
  have hpackets := (fetched_loads_packets s r).2
  cases hp : firstPoisoned (fetched s r) r with
  | some p =>
    rw [performBytes_poisoned hfree hp]
    exact ⟨hfetched, rfl, hpackets⟩
  | none =>
    rw [performBytes_loads hfree hk hp]
    obtain ⟨hshare, hpoison, hkept⟩ := shareLoad_same (fetched s r) r.grp r.addrs (r.addrs.map (readCell (fetched s r).mem))
    have hdir := directoryRead_sameMarks (shareLoad (fetched s r) r.grp r.addrs (r.addrs.map (readCell (fetched s r).mem))).2 r.core r.hint r.addrs
    exact ⟨(hfetched.trans hshare).trans (directoryRead_same ..), hdir.poison.trans hpoison, (hdir.packets.trans hkept).trans hpackets⟩

/-- Where the home read found no poisoned word, a load answers the bytes, if its braid has seen none of them yet. -/
theorem performBytes_loads_answer (hk : kindLoads r.kind = true) (hclean : ∀ a ∈ r.addrs, poisoned (performBytes s r).1 a = false) :
    (performBytes s r).2.cause = 0 ∧
    ((∀ a ∈ r.addrs, loadSeen s r.grp a = none) → (performBytes s r).2.bytes = r.addrs.map (readCell s.mem)) := by
  have hp : firstPoisoned (fetched s r) r = none := firstPoisoned_eq_none fun a ha => by
    rw [poisoned, ← (performBytes_loads_same hfree hk).2.1]
    exact hclean a ha
  rw [performBytes_loads hfree hk hp]
  refine ⟨rfl, fun hunseen => ?_⟩
  rw [(fetched_same s r).mem]
  refine shareLoad_of_unseen _ fun a ha => ?_
  rw [loadSeen, (fetched_loads_packets s r).1]
  exact hunseen a ha

end

/-- A release store first marks its party's bytes released. -/
def releasing (u : State) (r : Req) : State := if r.kind == .relStore then releaseStep u r.party else u

/-- The token a store leaves at its bytes. -/
def storeToken (r : Req) : Token := if kindOrdinary r.kind then ⟨some r.party, .unrel, r.grp⟩ else ⟨none, .none, 0⟩

/-- The answer to a store, whose write may have met a poisoned word. -/
def storeReply (r : Req) : Option Nat → Reply
  | none => okReply []
  | some a => failReply 11 (((r.addrs.zip r.offs).find? (·.1 == a)).elim 0 (·.2)) 0

/-- The home after a store. -/
def stored (s : State) (r : Req) : State :=
  written (releasing (fetched s r) r) r (storeToken r) r.covers (lateWords (releasing (fetched s r) r) r) r.data

theorem releasing_mem (u : State) (r : Req) : (releasing u r).mem = u.mem := by
  unfold releasing
  split <;> rfl

theorem releasing_queues (u : State) (r : Req) : (releasing u r).cords = u.cords ∧ (releasing u r).arrivals = u.arrivals ∧
    (releasing u r).packets = u.packets ∧ (releasing u r).modules = u.modules ∧ (releasing u r).poison = u.poison := by
  unfold releasing
  split <;> exact ⟨rfl, rfl, rfl, rfl, rfl⟩

theorem stored_mem (s : State) (r : Req) : (stored s r).mem = writeCells s.mem r.addrs r.data := by
  rw [stored, written_mem, releasing_mem, (fetched_same s r).mem]

theorem storeToken_settable (r : Req) : Settable (storeToken r) := by
  unfold storeToken
  split
  · exact nofun
  · exact fun _ => rfl

section
variable {s : State} {r : Req} (hfree : (requestRace s r).1 = none)
include hfree

theorem performBytes_stores (hk : Stores r.kind) :
    performBytes s r = (stored s r, storeReply r (homeWrite (releasing (fetched s r) r) (storeToken r) r.hint r.covers
      (lateWords (releasing (fetched s r) r) r) r.addrs r.data).2) := by
  obtain ⟨hatom, hwrite, hread⟩ := hk.facts
  rw [performBytes_free hfree]
  simp only [firstPoisoned_of_store hread, hatom, hwrite, Bool.false_eq_true, if_false, if_true]
  change (match (homeWrite (releasing (fetched s r) r) (storeToken r) r.hint r.covers
    (lateWords (releasing (fetched s r) r) r) r.addrs r.data).2 with
    | none => (stored s r, okReply [])
    | some a => (stored s r, storeReply r (some a))) = _
  generalize (homeWrite _ _ _ _ _ _ _).2 = bad
  cases bad with
  | none => rfl
  | some a => rfl

/-- An atomic that meets no poisoned word: its flags are refused, or its new bytes are written where it writes, with the old bytes
answered. -/
theorem performBytes_atomic {x : AtomSpec} (hk : r.kind = .atomic) (hx : r.atom = some x) (hp : firstPoisoned (fetched s r) r = none) :
    let old := r.addrs.map (readCell s.mem)
    let n := atomNew x r.addrs.length (leNat old)
    (n.2 &&& x.en ≠ 0#5 → performBytes s r = (fetched s r, { failReply 13 0 (n.2.zeroExtend 64) with flags := n.2 })) ∧
    (n.2 &&& x.en = 0#5 → performBytes s r =
      (if atomWrites x r.addrs.length (leNat old) n.2 then
        written (fetched s r) r ⟨none, .none, 0⟩ [] [] (leBytes r.addrs.length n.1) else fetched s r, { okReply old with flags := n.2 })) := by
  have hatom : (r.kind == .atomic) = true := beq_iff_eq.2 hk
  intro old n
  rw [performBytes_free hfree]
  simp only [hp, hatom, hx, if_true, (fetched_same s r).mem]
  refine ⟨fun hen => ?_, fun hen => ?_⟩
  · exact if_pos (bne_iff_ne.2 hen)
  · refine (if_neg (by simpa using hen)).trans ?_
    split <;> rfl

/-- A failure with cause 11 is a poisoned word. -/
theorem firstPoisoned_of_cause (hcause : (performBytes s r).2.cause ≠ 11) : firstPoisoned (fetched s r) r = none := by
  cases hp : firstPoisoned (fetched s r) r with
  | none => rfl
  | some p =>
    rw [performBytes_poisoned hfree hp] at hcause
    exact absurd rfl hcause

end

/-! ### The bytes changed -/

/-- From s to t the bytes of the request take new values, and no others change. -/
def StoresBytes (s t : State) (r : Req) (bs : List (BitVec 8)) : Prop :=
  (∀ b, b ∉ r.addrs → readCell t.mem b = readCell s.mem b) ∧ ∀ i < r.addrs.length, ∀ b, r.addrs[i]? = some b → readCell t.mem b = bs.getD i 0

theorem storesBytes_of_mem {s t : State} {r : Req} {bs : List (BitVec 8)} (hs : Memory.wf s.mem) (hnd : r.addrs.Nodup)
    (hlen : bs.length = r.addrs.length) (ht : t.mem = writeCells s.mem r.addrs bs) : StoresBytes s t r bs := by
  unfold StoresBytes
  rw [ht]
  exact ⟨fun b hb => readCell_writeCells_other hb _ _, fun i _ b hi => readCell_writeCells_at hnd hs hlen hi⟩

section
variable {s : State} {r : Req} (hs : Memory.wf s.mem) (hnd : r.addrs.Nodup) (hfree : (requestRace s r).1 = none)
include hs hnd hfree

theorem performBytes_store_bytes (hk : Stores r.kind) (hlen : r.data.length = r.addrs.length) :
    StoresBytes s (performBytes s r).1 r r.data ∧
    ∀ a ∈ r.addrs, tokenOf (performBytes s r).1 a = if r.kind = .relStore then ⟨none, .none, 0⟩ else ⟨some r.party, .unrel, r.grp⟩ := by
  have htoken : storeToken r = if r.kind = .relStore then ⟨none, .none, 0⟩ else ⟨some r.party, .unrel, r.grp⟩ := by
    unfold storeToken
    rw [kindOrdinary_of_stores hk]
    by_cases hrel : r.kind = .relStore
    · simp [hrel]
    · simp [hrel]
  rw [performBytes_stores hfree hk, ← htoken]
  exact ⟨storesBytes_of_mem hs hnd hlen (stored_mem s r), fun a ha => written_tokens (storeToken_settable r) _ _ _ _ _ ha⟩

theorem performBytes_atomic_bytes {x : AtomSpec} (hk : r.kind = .atomic) (hx : r.atom = some x) (hcause : (performBytes s r).2.cause ≠ 11) :
    let old := r.addrs.map (readCell s.mem)
    let n := atomNew x r.addrs.length (leNat old)
    let t := (performBytes s r).1; let y := (performBytes s r).2
    (n.2 &&& x.en ≠ 0#5 → y.cause = 13 ∧ y.flags = n.2 ∧ t.mem = s.mem) ∧
    (n.2 &&& x.en = 0#5 → y.cause = 0 ∧ y.bytes = old ∧ y.flags = n.2 ∧
      (atomWrites x r.addrs.length (leNat old) n.2 = true → StoresBytes s t r (leBytes r.addrs.length n.1)) ∧
      (atomWrites x r.addrs.length (leNat old) n.2 = false → t.mem = s.mem)) := by
  obtain ⟨hrefused, hdone⟩ := performBytes_atomic hfree hk hx (firstPoisoned_of_cause hfree hcause)
  have hmem := (fetched_same s r).mem
  refine ⟨fun hen => ?_, fun hen => ?_⟩
  · rw [hrefused hen]
    exact ⟨rfl, rfl, hmem⟩
  · rw [hdone hen]
    refine ⟨rfl, rfl, rfl, fun hwrites => ?_, fun hkeeps => ?_⟩
    · refine storesBytes_of_mem hs hnd (length_leBytes ..) ?_
      rw [if_pos hwrites, written_mem, hmem]
    · rw [if_neg (by simpa using hkeeps)]
      exact hmem

end

/-! ### The queue of a home -/

/-- A request that waits at its home, with storage under each byte and no packet under way. -/
def Waits (s : State) (r : Req) : Prop :=
  s.arrivals.find? (·.uid == r.uid) = some r ∧ (∀ a ∈ r.addrs, (homeDie a).isSome = true) ∧ packetOf s r = none

/-- The bytes of the request lie in its module, or it loads bytes that its die holds. -/
def Near (s : State) (r : Req) : Prop :=
  (∀ a ∈ r.addrs, keyDev a = r.core.dev) ∨ kindLoads r.kind = true ∧ ∀ a ∈ r.addrs, holderHas s r.core a = true

theorem execPerform_stops {s : State} {r : Req} (hr : s.arrivals.find? (·.uid == r.uid) = some r) (hnone : ∃ a ∈ r.addrs, homeDie a = none) :
    execPerform r.uid s = .fault .noStorage := by
  have hany : r.addrs.any (fun a => (homeDie a).isNone) = true := by simpa using hnone
  simp only [execPerform, hr, hany, if_true]

section
variable {s : State} {r : Req} (hw : Waits s r)
include hw

theorem execPerform_of_waits : execPerform r.uid s =
    if r.addrs.any (fun a => keyDev a != r.core.dev) && !(kindLoads r.kind && r.addrs.all (holderHas s r.core)) then .next (sendReq s r)
    else .next (performGroup s r) := by
  obtain ⟨hr, hhome, hpacket⟩ := hw
  have hany : r.addrs.any (fun a => (homeDie a).isNone) = false := by
    simpa [Option.isNone_iff_eq_none, Option.isSome_iff_ne_none] using hhome
  simp only [execPerform, hr, hany, hpacket, Option.isSome_none, Bool.false_eq_true, if_false]

theorem execPerform_of_near (hnear : Near s r) : execPerform r.uid s = .next (performGroup s r) := by
  rw [execPerform_of_waits hw, if_neg]
  rcases hnear with hdev | ⟨hk, hholds⟩
  · simpa using fun a ha hne => absurd (hdev a ha) hne
  · simpa [hk] using fun _ _ _ => hholds

theorem execPerform_of_far (hfar : ¬ Near s r) : execPerform r.uid s = .next (sendReq s r) := by
  rw [execPerform_of_waits hw, if_pos]
  obtain ⟨hdev, hholds⟩ := not_or.1 hfar
  simp only [Bool.and_eq_true, Bool.not_eq_true', List.any_eq_true, bne_iff_ne]
  refine ⟨by simpa using hdev, ?_⟩
  simpa [← Bool.not_eq_true] using hholds

/-- The queue of a waiting request is not empty, so there is a round to perform. -/
theorem performGroup_eq : ∃ n, performGroup s r = performDrain (n + 1) s r := by
  have hlen : 0 < s.arrivals.length := List.length_pos_of_mem (List.mem_of_find?_eq_some hw.1)
  exact ⟨s.arrivals.length - 1, by rw [performGroup, Nat.sub_add_cancel hlen]⟩

theorem performGroup_of_ready (hready : ∀ q ∈ atomGroup s r, requestReady s q = true) (hdrained : drained s r = [])
    (hdone : drainDone s r = true) : performGroup s r = decideGroup s (atomGroup s r) := by
  obtain ⟨n, hn⟩ := performGroup_eq hw
  have hall : (atomGroup s r).all (requestReady s) = true := List.all_eq_true.2 hready
  simp [hn, performDrain, hall, hdrained, hdone]

theorem performGroup_of_held (hheld : ∃ q ∈ atomGroup s r, requestReady s q = false) : performGroup s r = s := by
  obtain ⟨n, hn⟩ := performGroup_eq hw
  have hall : (atomGroup s r).all (requestReady s) = false := by simpa [List.all_eq_false] using hheld
  simp [hn, performDrain, hall]

end

/-! ### The operation of a request -/

/-- The operation of a request is under way in its strand. -/
def Underway (s : State) (r : Req) (p : Op → Prop) : Prop := ∃ st o, strandOf s r.cord r.lane = some st ∧ opOf st r.op = some o ∧ p o

theorem Underway.of_cords {s t : State} {r : Req} {p : Op → Prop} (h : t.cords = s.cords) (hs : Underway s r p) : Underway t r p := by
  obtain ⟨st, o, hst, ho, hp⟩ := hs
  exact ⟨st, o, (strandOf_of_cords h ..).trans hst, ho, hp⟩

theorem opOf_map {f : Op → Op} (hf : ∀ o, (f o).uid = o.uid) (st : Strand) (u : Nat) :
    opOf { st with ops := st.ops.map f } u = (opOf st u).map f := by
  have hcomp : ((fun o : Op => o.uid == u) ∘ f) = (fun o => o.uid == u) := funext fun o => by simp [hf]
  simp only [opOf, List.find?_map, hcomp]

/-- What a core takes of written bytes updates lines of operations alone. -/
theorem pendTake_underway {s : State} {r : Req} {p : Op → Prop} (c : CoreId) (bs : List (Nat × BitVec 8))
    (hp : ∀ o line, p o → p { o with line := line }) (h : Underway s r p) : Underway (pendTake s c bs) r p := by
  obtain ⟨st, o, hst, ho, hpo⟩ := h
  obtain ⟨d, hd, hl⟩ := Option.bind_eq_some_iff.mp hst
  let take (o : Op) : Op := { o with line := wordsTake o.line bs }
  have hcord := mget_map_entries s.cords (fun p => (p.1, if coreIdOf p.2 == c then
      { p.2 with strands := p.2.strands.map (fun q => (q.1, { q.2 with ops := q.2.ops.map take })) } else p.2)) r.cord (fun _ => rfl)
  rw [hd, Option.map_some] at hcord
  by_cases hc : (coreIdOf d == c) = true
  · have hstrand := mget_map_entries d.strands (fun q => (q.1, { q.2 with ops := q.2.ops.map take })) r.lane (fun _ => rfl)
    rw [hl, Option.map_some] at hstrand
    refine ⟨{ st with ops := st.ops.map take }, take o, ?_, ?_, hp o _ hpo⟩
    · refine Option.bind_eq_some_iff.mpr ⟨_, hcord, ?_⟩
      simpa only [if_pos hc] using hstrand
    · rw [opOf_map (f := take) (fun _ => rfl), ho, Option.map_some]
  · refine ⟨st, o, Option.bind_eq_some_iff.mpr ⟨_, hcord, ?_⟩, ho, hpo⟩
    simpa only [if_neg hc] using hl

theorem packetOf_eq_none_of_map {s t : State} {r : Req} {f : Packet → Packet} (hf : ∀ p, (f p).payload = p.payload)
    (ht : t.packets = s.packets.map f) (h : packetOf s r = none) : packetOf t r = none := by
  have hnone := List.find?_eq_none.1 h
  refine List.find?_eq_none.2 fun q hq => ?_
  rw [ht] at hq
  obtain ⟨p, hp, rfl⟩ := List.mem_map.1 hq
  simpa only [hf] using hnone p hp

/-- The strand of a request after its wait is looked at has the operations it had. -/
theorem abandonWait_underway {s : State} {r : Req} {p : Op → Prop} (h : Underway s r p) :
    Underway (abandonWait s r.cord r.lane) r p := by
  obtain ⟨st, o, hst, ho, hpo⟩ := h
  have hkept : ∀ (t : State) (f : Strand → Strand), t.cords = s.cords → (∀ st, (f st).ops = st.ops) →
      Underway (modStrand t r.cord r.lane f) r p := by
    intro t f ht hf
    refine ⟨f st, o, strandOf_modStrand_of f ((strandOf_of_cords ht ..).trans hst), ?_, hpo⟩
    simpa only [opOf, hf] using ho
  have hsame : Underway s r p := ⟨st, o, hst, ho, hpo⟩
  unfold abandonWait
  split
  · exact hsame
  · split
    · exact hsame
    · dsimp only
      split
      · exact hsame
      · split
        · exact hkept _ _ rfl (fun _ => rfl)
        · exact hkept _ _ rfl (fun _ => rfl)
        · exact hkept _ _ rfl (fun _ => rfl)
        · exact hsame
        · exact hsame
        · exact hsame
        · exact hsame
        · exact hsame

/-! ### The reply to a request of one piece -/

/-- An operation with one piece left and no failure yet, that has got some bytes. -/
def LastPiece (got : List (Nat × BitVec 8)) (o : Op) : Prop := o.left = 1 ∧ o.cause = 0 ∧ o.got = got

/-- An operation that has been performed, with the bytes it has got. -/
def Performed (got : List (Nat × BitVec 8)) (o : Op) : Prop := o.state = .performed ∧ o.got = got

theorem Underway.modStrand {s : State} {r : Req} {p q : Op → Prop} {f : Strand → Strand} (h : Underway s r p)
    (hf : ∀ st o, opOf st r.op = some o → p o → ∃ o', opOf (f st) r.op = some o' ∧ q o') :
    Underway (modStrand s r.cord r.lane f) r q := by
  obtain ⟨st, o, hst, ho, hpo⟩ := h
  obtain ⟨o', ho', hqo⟩ := hf st o ho hpo
  exact ⟨f st, o', strandOf_modStrand_of f hst, ho', hqo⟩

theorem Underway.modOp {s : State} {r : Req} {p q : Op → Prop} {f : Op → Op} (hid : ∀ o, (f o).uid = o.uid) (h : Underway s r p)
    (hf : ∀ o, p o → q (f o)) : Underway (modOp s r.cord r.lane r.op f) r q := by
  refine h.modStrand fun st o ho hpo => ⟨f o, ?_, hf o hpo⟩
  rw [opOf_map_ops st r.op f hid, ho, Option.map_some]

/-- A reply without failure to the last piece of an operation performs it. -/
theorem applyReply_performs {s : State} {r : Req} {y : Reply} {got : List (Nat × BitVec 8)} (hy : y.cause = 0)
    (h : Underway s r (LastPiece got)) : Underway (applyReply s r y) r (Performed (got ++ r.offs.zip y.bytes)) := by
  obtain ⟨c, hc⟩ : ∃ c, mget s.cords r.cord = some c := by
    obtain ⟨st, -, hst, -⟩ := h
    obtain ⟨c, hc, -⟩ := Option.bind_eq_some_iff.mp hst
    exact ⟨c, hc⟩
  have hraised : Underway (modStrand s r.cord r.lane (fun st => if (opOf st r.op).isSome then raiseFlags y.flags st else st)) r
      (LastPiece got) := h.modStrand fun st o ho hpo => by
    have hsome : (opOf st r.op).isSome = true := by rw [ho]; rfl
    rw [if_pos hsome]
    exact ⟨o, ho, hpo⟩
  have hok : (y.cause == 0) = true := beq_iff_eq.2 hy
  unfold applyReply
  simp only [hc, hok, if_true]
  refine abandonWait_underway (hraised.modOp (fun o => ?_) fun o ⟨hleft, hcause, hgot⟩ => ?_)
  · split <;> rfl
  · simp [Performed, hleft, hcause, hgot, hy]

end Sys2Proof.Laws

/-!
O40, its last clause and its proof: a request of one piece is taken from the queue, performed and answered.
-/
namespace Sys2Proof.Laws
open Sys2Proof.Machine Sys2Proof.Safety

/-! ### What the home leaves of the queues once it has answered -/

theorem sendReq_queues (s : State) (r : Req) : (sendReq s r).cords = s.cords ∧ (sendReq s r).arrivals = s.arrivals := by
  unfold sendReq
  split
  · exact ⟨rfl, rfl⟩
  · unfold sendPacket
    dsimp only
    split <;> exact ⟨rfl, rfl⟩

theorem repack_queues (s : State) : (repack s).cords = s.cords ∧ (repack s).arrivals = s.arrivals := by
  unfold repack
  extract_lets t
  suffices h : ∀ (rs : List Req) (u : State), u.cords = s.cords → u.arrivals = s.arrivals →
      (rs.foldl (fun s r => if r.tries == 0 || keyDev (r.addrs.headD 0) == r.core.dev || (packetOf s r).isSome then s else sendReq s r) u).cords
        = s.cords ∧
      (rs.foldl (fun s r => if r.tries == 0 || keyDev (r.addrs.headD 0) == r.core.dev || (packetOf s r).isSome then s else sendReq s r) u).arrivals
        = s.arrivals from h _ t rfl rfl
  intro rs
  induction rs with
  | nil => exact fun u hc ha => ⟨hc, ha⟩
  | cons r rs ih =>
    intro u hc ha
    rw [List.foldl_cons]
    split
    · exact ih u hc ha
    · exact ih _ ((sendReq_queues u r).1.trans hc) ((sendReq_queues u r).2.trans ha)

theorem abandonWait_arrivals (s : State) (k l : Nat) : (abandonWait s k l).arrivals = s.arrivals := by
  obtain ⟨-, -, -, harrivals, -⟩ := abandonWait_keeps s k l
  exact harrivals

theorem applyReply_arrivals {s : State} {r : Req} {y : Reply} (hy : y.cause = 0) : (applyReply s r y).arrivals = s.arrivals := by
  have hok : (y.cause == 0) = true := beq_iff_eq.2 hy
  unfold applyReply
  split
  · rfl
  · simp only [hok, if_true, abandonWait_arrivals]
    rfl

/-! ### A request taken from the queue -/

/-- The state without the request. -/
def taken (s : State) (r : Req) : State := { s with arrivals := s.arrivals.filter (·.uid != r.uid) }

theorem not_mem_taken (s : State) (r : Req) : ∀ q ∈ (taken s r).arrivals, q.uid ≠ r.uid :=
  fun q hq => by simpa using (List.mem_filter.1 hq).2

/-- The rest of an access is what it was before its request was taken. -/
theorem restOf_taken (s : State) (r : Req) : restOf (taken s r) r = restOf s r := by
  simp only [restOf, taken, List.filter_filter]
  refine List.filter_congr fun q _ => ?_
  by_cases h : q.uid = r.uid
  · simp [h]
  · simp [h]

theorem besideOf_taken (s : State) (r : Req) : besideOf (taken s r) r = besideOf s r := by
  rw [besideOf, restOf_taken, besideOf]

theorem requestRace_taken {s : State} {r : Req} (h : (requestRace s r).1 = none) : (requestRace (taken s r) r).1 = none := by
  have hchosen : besideOf (choose (taken s r) 2).2 r = besideOf (choose s 2).2 r := besideOf_taken (choose s 2).2 r
  have hsame : (requestRace (taken s r) r).1 = (requestRace s r).1 := by
    simp only [requestRace, besideOf_taken, hchosen]
    split
    · rfl
    · rfl
  exact hsame.trans h

theorem decideOne_of_local {s : State} {r : Req} (hfate : frameFate s r.gen r.addrs = .perform)
    (hpacket : packetOf (performBytes (taken s r) r).1 r = none) :
    decideOne s r = applyReply (performBytes (taken s r) r).1 r (performBytes (taken s r) r).2 := by
  unfold taken at *
  unfold decideOne
  simp only [hfate, hpacket]

theorem decideGroup_of_local {s : State} {r : Req} (hfate : frameFate s r.gen r.addrs = .perform) :
    decideGroup s [r] = repack (decideOne s r) := by
  have hold : ([r].filter (fun q => frameFate s q.gen q.addrs == .refuse)) = [] := by
    rw [List.filter_eq_nil_iff]
    simp [hfate]
  simp only [decideGroup, hold]
  rfl

theorem atomGroup_of_plain {s : State} {r : Req} (hk : (r.kind == .atomic) = false) : atomGroup s r = [r] := by
  simp [atomGroup, hk]

/-- The piece is gone from the queue and its operation is performed, with these bytes more. -/
theorem decideGroup_performs {s : State} {r : Req} {got : List (Nat × BitVec 8)} (hfate : frameFate s r.gen r.addrs = .perform)
    (hpacket : packetOf (performBytes (taken s r) r).1 r = none) (harrivals : (performBytes (taken s r) r).1.arrivals = (taken s r).arrivals)
    (hcause : (performBytes (taken s r) r).2.cause = 0) (hop : Underway (performBytes (taken s r) r).1 r (LastPiece got)) :
    (decideGroup s [r]).mem = (performBytes (taken s r) r).1.mem ∧ (∀ q ∈ (decideGroup s [r]).arrivals, q.uid ≠ r.uid) ∧
    Underway (decideGroup s [r]) r (Performed (got ++ r.offs.zip (performBytes (taken s r) r).2.bytes)) := by
  rw [decideGroup_of_local hfate, decideOne_of_local hfate hpacket]
  obtain ⟨hcords, harr⟩ := repack_queues (applyReply (performBytes (taken s r) r).1 r (performBytes (taken s r) r).2)
  refine ⟨(repack_mem _).trans (applyReply_mem ..), ?_, (applyReply_performs hcause hop).of_cords hcords⟩
  rw [harr, applyReply_arrivals hcause, harrivals]
  exact not_mem_taken s r

/-! ### What a store leaves of the queues -/

/-- A packet whose answer for the core takes the written bytes. -/
def answerTakes (c : CoreId) (bs : List (Nat × BitVec 8)) (p : Packet) : Packet :=
  if p.src == c then { p with answer := p.answer.map (fun y => { y with words := wordsTake y.words bs }) } else p

theorem answerTakes_payload (c : CoreId) (bs : List (Nat × BitVec 8)) (p : Packet) : (answerTakes c bs p).payload = p.payload := by
  unfold answerTakes
  split <;> rfl

/-- A store leaves the requests, the packets of requests and how far operations are. -/
theorem stored_queues (s : State) (r : Req) : (stored s r).arrivals = s.arrivals ∧ (packetOf s r = none → packetOf (stored s r) r = none) ∧
    ∀ got, Underway s r (LastPiece got) → Underway (stored s r) r (LastPiece got) := by
  have hfetched := fetched_same s r
  obtain ⟨hcords, harrivals, hpackets, -⟩ := releasing_queues (fetched s r) r
  obtain ⟨hcords', harrivals', hpackets'⟩ := homeWrite_queues (releasing (fetched s r) r) (storeToken r) r.hint r.covers
    (lateWords (releasing (fetched s r) r) r) r.addrs r.data
  refine ⟨(harrivals'.trans harrivals).trans hfetched.arrivals, fun hnone => ?_, fun got hop => ?_⟩
  · refine packetOf_eq_none_of_map (answerTakes_payload r.core (r.addrs.zip r.data)) ?_ hnone
    exact congrArg (List.map _) ((hpackets'.trans hpackets).trans (fetched_loads_packets s r).2)
  · have hhome := hop.of_cords ((hcords'.trans hcords).trans hfetched.cords)
    exact (pendTake_underway r.core (r.addrs.zip r.data) (fun _ _ h => h) (hhome.of_cords (t := directoryWrite _ r.core r.addrs) rfl)).of_cords rfl

theorem fetched_of_store {s : State} {r : Req} (hk : Stores r.kind) : (fetched s r).modules = s.modules := by
  obtain ⟨-, -, hread⟩ := hk.facts
  simp only [fetched, hread, Bool.false_and, Bool.false_eq_true, if_false]
  exact (requestRace_marks s r).2

/-- A store into words the LLC holds, none of them poisoned, answers without failure. -/
theorem performBytes_store_of_held {s : State} {r : Req} (hfree : (requestRace s r).1 = none) (hk : Stores r.kind)
    (hheld : ∀ a ∈ r.addrs, llcHolds s a = true) (hclean : ∀ a ∈ r.addrs, poisoned s a = false) :
    performBytes s r = (stored s r, okReply []) := by
  obtain ⟨-, -, -, hmodules, hpoison⟩ := releasing_queues (fetched s r) r
  rw [performBytes_stores hfree hk, homeWrite_meets_none]
  · rfl
  · intro a ha
    rw [llcHolds_of_modules (hmodules.trans (fetched_of_store hk))]
    exact hheld a ha
  · intro a ha
    rw [poisoned, hpoison, (fetched_of_held hheld).poison]
    exact hclean a ha

/-! ### A load or a store of words the LLC holds -/

section
variable {s : State} {r : Req} {got : List (Nat × BitVec 8)} (hfree : (requestRace s r).1 = none) (hpacket : packetOf s r = none)
  (hop : Underway s r (LastPiece got)) (hfate : frameFate s r.gen r.addrs = .perform) (hheld : ∀ a ∈ r.addrs, llcHolds s a = true)
  (hclean : ∀ a ∈ r.addrs, poisoned s a = false)
include hfree hpacket hop hfate hheld hclean

theorem decideGroup_load (hk : kindLoads r.kind = true) (hunseen : ∀ a ∈ r.addrs, loadSeen s r.grp a = none) :
    (decideGroup s [r]).mem = s.mem ∧ (∀ q ∈ (decideGroup s [r]).arrivals, q.uid ≠ r.uid) ∧
    Underway (decideGroup s [r]) r (Performed (got ++ r.offs.zip (r.addrs.map (readCell s.mem)))) := by
  have hfree' := requestRace_taken hfree
  obtain ⟨hsame, hpoison, hpackets⟩ := performBytes_loads_same hfree' hk
  have hheld' : ∀ a ∈ r.addrs, llcHolds (taken s r) a = true := fun a ha => hheld a ha
  have hpoison' : (performBytes (taken s r) r).1.poison = s.poison := hpoison.trans (fetched_of_held hheld').poison
  obtain ⟨hcause, hbytes⟩ := performBytes_loads_answer hfree' hk fun a ha => by
    rw [poisoned, hpoison']
    exact hclean a ha
  have hnone : packetOf (performBytes (taken s r) r).1 r = none := by
    rw [packetOf, hpackets]
    exact hpacket
  obtain ⟨hmem, hgone, hdone⟩ := decideGroup_performs hfate hnone hsame.arrivals hcause (hop.of_cords hsame.cords)
  rw [hbytes hunseen] at hdone
  exact ⟨hmem.trans hsame.mem, hgone, hdone⟩

theorem decideGroup_store (hk : Stores r.kind) :
    (decideGroup s [r]).mem = writeCells s.mem r.addrs r.data ∧ (∀ q ∈ (decideGroup s [r]).arrivals, q.uid ≠ r.uid) ∧
    Underway (decideGroup s [r]) r (Performed got) := by
  have hperform := performBytes_store_of_held (s := taken s r) (requestRace_taken hfree) hk hheld hclean
  obtain ⟨harrivals, hnone, hunder⟩ := stored_queues (taken s r) r
  have hperformed := decideGroup_performs (got := got) hfate
  rw [hperform] at hperformed
  obtain ⟨hmem, hgone, hdone⟩ := hperformed (hnone hpacket) harrivals rfl (hunder got (hop.of_cords rfl))
  exact ⟨hmem.trans (stored_mem ..), hgone, by simpa [okReply] using hdone⟩

end

/-- Settles O40. The queue's clauses follow the branches of `execPerform`, those of one request the kinds of `performBytes`, and the last
one what becomes of the request's operation. -/
theorem homePerforms : Obligations.HomePerforms := by
  unfold Obligations.HomePerforms
  intro s r free t y old stored near waits ready
  have hgroup : ready → exec (.perform r.uid) s = .next (decideGroup s (atomGroup s r)) := by
    rintro ⟨hw, hnear, hready, hdrained, hdone⟩
    exact (execPerform_of_near hw hnear).trans (congrArg _ (performGroup_of_ready hw hready hdrained hdone))
  refine ⟨execPerform_stops, hgroup, fun hw hnear hheld => ?_, execPerform_of_far, fun _ => rfl, requestRace_alone, requestRace_beside,
    fun o d hrace => ?_, fun hfree hread hne => ?_, fun hs hnd hfree => ⟨?_, ?_⟩, ?_⟩
  · exact (execPerform_of_near hw hnear).trans (congrArg _ (performGroup_of_held hw hheld))
  · have hcase := performBytes_races hrace
    have hsame := (requestRace_cases s r).1
    refine ⟨hcase, ?_, ?_⟩
    · exact (congrArg (fun x => x.1.mem) hcase).trans hsame.mem
    · exact (congrArg (fun x => x.1.tokens) hcase).trans hsame.tokens
  · have hk := kindLoads_of_reads hread hne
    have hsame := (performBytes_loads_same hfree hk).1
    exact ⟨hsame.mem, hsame.tokens, performBytes_loads_answer hfree hk⟩
  · exact fun hk hlen => performBytes_store_bytes hs hnd hfree hk hlen
  · exact fun x hk hx hcause => performBytes_atomic_bytes hs hnd hfree hk hx hcause
  · intro st o hready hfree hst ho hleft hcause hfate hbytes performed
    have hexec := hgroup hready
    obtain ⟨⟨-, -, hpacket⟩, -⟩ := hready
    have hop : Underway s r (LastPiece o.got) := ⟨st, o, hst, ho, hleft, hcause, rfl⟩
    have hheld : ∀ a ∈ r.addrs, llcHolds s a = true := fun a ha => (hbytes a ha).1
    have hclean : ∀ a ∈ r.addrs, poisoned s a = false := fun a ha => (hbytes a ha).2.1
    have hunseen : ∀ a ∈ r.addrs, loadSeen s r.grp a = none := fun a ha => (hbytes a ha).2.2
    refine ⟨fun hk => ?_, fun hk => ?_⟩
    · have hload : kindLoads r.kind = true := by
        rcases hk with h | h | h | h <;> rw [h] <;> rfl
      rw [atomGroup_of_plain (kindLoads_facts hload).1] at hexec
      obtain ⟨hmem, hgone, hdone⟩ := decideGroup_load hfree hpacket hop hfate hheld hclean hload hunseen
      exact ⟨_, hexec, hmem, hgone, hdone⟩
    · have hstore : Stores r.kind := hk.imp_right Or.symm
      rw [atomGroup_of_plain hstore.facts.1] at hexec
      obtain ⟨hmem, hgone, st', o', hst', ho', hstate, hgot⟩ := decideGroup_store hfree hpacket hop hfate hheld hclean hstore
      exact ⟨_, hexec, hmem, hgone, st', o', hst', ho', hstate, by simpa using hgot⟩

end Sys2Proof.Laws

/-!
O59, no word writes memory at its issue (R263, R265, R295, R299). The register words change only their strand (O58). Of the other words, only
the end of a cord changes bytes at issue, since its page tables change then (R222). Two kinds of word can end one: `exit`, which the
statement leaves out, and an access outside the leases of its cord (R257), which a cord that declares none cannot make.
-/
namespace Sys2Proof.Laws
open Sys2Proof.Machine Sys2Proof.Safety

/-! ### A cord without leases breaks none -/

section
variable {c : Cord} (hnone : c.hdr.leases = [])
include hnone

theorem leaseMiss_of_none (s : State) (k : Nat) (vs : List Nat) (write : Bool) : leaseMiss s k c vs write = none := by
  simp [leaseMiss, hnone]

theorem boxLease_of_none (s : State) (k : Nat) (ds : List (BitVec 64)) (space base first : Nat) (write : Bool) :
    boxLease s k c ds space base first write = none := by
  simp [boxLease, hnone]

theorem tileLease_of_none (s : State) (k : Nat) (ds : List (BitVec 64)) (lines line plane : Nat) (write : Bool) :
    tileLease s k c ds lines line plane write = none := by
  simp [tileLease, hnone]

theorem sendLease_of_none (s : State) (k : Nat) (ds : List (BitVec 64)) (dst : Bool) : sendLease s k c ds dst = none := by
  simp [sendLease, hnone]

end

section
variable {s : State} {h : Here} {f : State → State} (hf : (f s).mem = s.mem)
include hf

/-- An access of a cord without leases goes on. -/
theorem leased_mem (hnone : h.cord.hdr.leases = []) (k : OpKind) (va : BitVec 64) (size : Nat) :
    (leased h k va size f s).mem = s.mem := by
  rw [leased_of_free (leaseMiss_of_none hnone ..), hf]

theorem leasedIssue_mem {bad : Option (BitVec 64)} (hbad : bad = none) : (leasedIssue h bad f s).mem = s.mem := by
  rw [hbad]
  exact hf

end

/-! ### The families of words -/

/-- A next state that o answers has the bytes of s. -/
def LeavesBytes (s : State) (o : Out) : Prop := ∀ t, o = .next t → t.mem = s.mem

/-- The current cord, if there is one, declares no leases. -/
def Unleased (s : State) : Prop := ∀ h, here s = some h → h.cord.hdr.leases = []

section
variable {s : State} {i : Instr} {g : Guard} {d a : BitVec 7} {reads writes : List Reg}

/-- A word leaves the bytes if its effect does. -/
theorem runWord_leaves {spec : Here → State → WSpec} {check : Here → State → Option PFault} {leave : Here → State → Leave}
    {effect : Here → State → State} (he : ∀ h, (effect h s).mem = s.mem) :
    LeavesBytes s (runWord i g spec check leave effect s) :=
  fun _ => runWord_mem fun h _ => he h

/-- A word whose effect looks at the leases leaves the bytes if its effect in a cord without leases does. -/
theorem runWord_leaves_of_unleased (hs : Unleased s) {spec : Here → State → WSpec} {check : Here → State → Option PFault}
    {leave : Here → State → Leave} {effect : Here → State → State}
    (he : ∀ h, h.cord.hdr.leases = [] → (effect h s).mem = s.mem) : LeavesBytes s (runWord i g spec check leave effect s) :=
  fun _ => runWord_mem fun h hh => he h (hs h hh)

theorem regWord_leaves {lat f} : LeavesBytes s (regWord i g reads writes lat f s) := runWord_leaves fun _ => writeRegs_mem ..

theorem branchWord_leaves {taken target f} : LeavesBytes s (Machine.branchWord i g reads writes taken target f s) :=
  runWord_leaves fun _ => writeRegs_mem ..

theorem raiseWord_leaves {cause n} : LeavesBytes s (raiseWord i g cause n s) := runWord_leaves fun _ => rfl

/-- Words for the scratchpad change a core, not the memory. -/
theorem scratchWord_leaves {align size f} (hf : ∀ h o, (f h s o).mem = s.mem) :
    LeavesBytes s (scratchWord i g reads writes align size a f s) := by
  unfold scratchWord
  exact runWord_leaves fun h => hf h _

theorem amosWord_leaves {op y} : LeavesBytes s (amosWord i g op d a reads y s) :=
  scratchWord_leaves fun _ _ => (writeVar_mem ..).trans (modHereCore_mem ..)

theorem stepWordOp_leaves {fallible op} : LeavesBytes s (stepWordOp i g reads fallible op s) := by
  unfold stepWordOp
  exact runWord_leaves fun _ => pushOp_mem ..

theorem crossWord_leaves {mask can f} : LeavesBytes s (crossWord i g reads writes mask can f s) := runWord_leaves fun _ => by simp

theorem redWord_leaves {o} : LeavesBytes s (redWord i g d a o s) := by
  unfold redWord
  exact crossWord_leaves

theorem voteWord_leaves {x} : LeavesBytes s (voteWord i g writes d a x s) := by
  unfold voteWord
  exact crossWord_leaves

theorem xlmWord_leaves {m} : LeavesBytes s (xlmWord i g d a m s) := by
  unfold xlmWord
  exact runWord_leaves fun _ => by simp

theorem taskWord_leaves {hold fault effect} (he : ∀ h t, (effect h t).mem = t.mem) :
    LeavesBytes s (taskWord i g reads writes hold fault effect s) :=
  runWord_leaves fun h => he h _

theorem knotWord_leaves {op x hold} : LeavesBytes s (knotWord i g op d a x reads writes hold s) := by
  unfold knotWord
  exact taskWord_leaves fun _ _ => by split <;> simp

theorem swWord_leaves {hold polls f} (hf : ∀ h o, (f h s o).mem = s.mem) : LeavesBytes s (swWord i g d a writes hold polls f s) :=
  runWord_leaves fun h => hf h _

theorem skWord_leaves {r f} : LeavesBytes s (skWord i g d a r f s) := runWord_leaves fun _ => skAll_mem ..

theorem tileWord_leaves {prune ok} : LeavesBytes s (tileWord i g d a prune ok s) := runWord_leaves fun _ => rfl

/-- What a return word changes after its issue is strands of its cord. -/
theorem returnWord_leaves {rerun} : LeavesBytes s (returnWord i g rerun s) := by
  have hword : LeavesBytes s (runWord i g (fun h _ => { hold := h.st.stat.getLsbD 3 && !hzClear h.now h.st })
      (fun h s => if h.st.stat.getLsbD 3 then none else some (faultHere s h i 1 0 0)) plainLeave (fun _ s => s) s) :=
    runWord_leaves fun _ => rfl
  intro t ht
  unfold returnWord at ht
  split at ht
  · rename_i h u _ hu
    have hmem : u.mem = s.mem := hword u hu
    split at ht
    · cases ht
      exact (modCord_mem ..).trans hmem
    · cases ht
      exact hmem
  · exact hword t ht

section
variable (hs : Unleased s)
include hs

/-- A load, a store or an atomic joins the pending sequence. -/
theorem memWord_leaves {align va op} : LeavesBytes s (memWord i g reads writes align va op s) := by
  refine runWord_leaves_of_unleased hs fun h hnone => leased_mem ?_ hnone ..
  split <;> simp

/-- A call spills anew or pushes its return address, and the push may spill. -/
theorem call_leaves {target} : LeavesBytes s (if respilling s then respill i g s else callWord i g reads target s) := by
  split
  · refine runWord_leaves_of_unleased hs fun h hnone => ?_
    dsimp only
    split
    · exact leased_mem (pushOp_mem ..) hnone ..
    · rfl
  · refine runWord_leaves_of_unleased hs fun h hnone => ?_
    unfold rsPush
    split
    · exact leased_mem (by simp) hnone ..
    · exact modHere_mem ..

/-- A return pops an entry, or fills from the spill area. -/
theorem execRet_leaves : LeavesBytes s (execRet g s) :=
  runWord_leaves_of_unleased hs fun h hnone => by
    split
    · exact leased_mem (by simp) hnone ..
    · exact modHere_mem ..

theorem sendWord_leaves {add} : LeavesBytes s (sendWord i g a add s) := by
  unfold sendWord
  exact runWord_leaves_of_unleased hs fun _ hnone => leasedIssue_mem (issueEngine_mem ..) (sendLease_of_none hnone ..)

/-- A copy of a box has two sides, each with leases of its own. -/
theorem execTcopy_leaves : LeavesBytes s (execTcopy g a s) := by
  unfold execTcopy
  exact runWord_leaves_of_unleased hs fun _ hnone => leasedIssue_mem (issueEngine_mem ..) (by simp [boxLease_of_none hnone])

theorem execTld_leaves {m} : LeavesBytes s (execTld g d a m s) := by
  unfold execTld
  exact runWord_leaves_of_unleased hs fun _ hnone => leasedIssue_mem (by simp) (tileLease_of_none hnone ..)

theorem execTst_leaves : LeavesBytes s (execTst g d a s) := by
  unfold execTst
  exact runWord_leaves_of_unleased hs fun _ hnone => leasedIssue_mem (issueEngine_mem ..) (tileLease_of_none hnone ..)

theorem execPressw_leaves {m} : LeavesBytes s (execPressw g d a m s) := by
  unfold execPressw
  exact runWord_leaves_of_unleased hs fun _ hnone => leasedIssue_mem (issuePress_mem ..) (by simp [hnone])

theorem execCbld_leaves : LeavesBytes s (execCbld g a s) := by
  unfold execCbld
  exact runWord_leaves_of_unleased hs fun _ hnone => leasedIssue_mem (issueEngine_mem ..) (leaseMiss_of_none hnone ..)

theorem execTsend_leaves : LeavesBytes s (execTsend g d a s) := by
  unfold execTsend
  exact runWord_leaves_of_unleased hs fun _ hnone => leasedIssue_mem (by split <;> simp) (sendLease_of_none hnone ..)

theorem execEsend_leaves : LeavesBytes s (execEsend g a s) := by
  unfold execEsend
  exact runWord_leaves_of_unleased hs fun _ hnone => leasedIssue_mem (issueEngine_mem ..) (by simp [hnone])

end
end

/-! ### Every word -/

theorem onlyWrites_mem {s t : State} {h : Here} {rs : List Reg} (ht : OnlyWrites s t h rs) : t.mem = s.mem := by
  obtain ⟨st, rfl, -⟩ := ht
  rw [popTodo_mem, modHere_mem]

theorem onlyFlags_mem {s t : State} {h : Here} {r : Reg} (ht : OnlyFlags s t h r) : t.mem = s.mem := by
  obtain ⟨u, st, -, rfl, -⟩ := ht
  rw [popTodo_mem, modHere_mem]

/-- The words that do more than compute registers of their strand: those whose frame O58 does not state. -/
def actsBeyondRegisters (i : Instr) : Bool := i.isWord && (destRegs i).isNone && (flagDest i).isNone

/-- Every such word but `exit` leaves the bytes, where the current cord declares no leases. -/
theorem exec_leaves (i : Instr) (hi : actsBeyondRegisters i = true) (hexit : ∀ g, i ≠ .exit g) {s : State} (hs : Unleased s) :
    LeavesBytes s (exec i s) := by
  cases i with unfold exec
  | exit g => exact absurd rfl (hexit g)
  -- Words that read a special state, branch, trap or only issue.
  | batt | hzrd | hzseq | movs | movsD => exact regWord_leaves
  | bra | brp | bdec | jmpv | hzbrClr | hzbrNclr => exact branchWord_leaves
  | trap | bkpt => exact raiseWord_leaves
  | nop | hzwait | hintWait | hintExt | hintMod | hintCache | hintFetchI | mts => exact runWord_leaves fun _ => rfl
  | rep => unfold execRep; exact runWord_leaves fun _ => rfl
  | rte | rteRerun => exact returnWord_leaves
  | trrec => exact runWord_leaves fun _ => by dsimp only; split <;> simp
  -- Calls, returns and accesses, which the events of their operations perform later.
  | call | callv => exact call_leaves hs
  | ret => exact execRet_leaves hs
  | ldW | stW | ld | ldAcq | st | stRel | ldo | ldoAcq | acas | acasD | amoAdd | amoSub | amoMin | amoMax | amoMinUns | amoMaxUns
  | amoAnd | amoOr | amoXor | amoSwp | amoAddF | amoAddD | amoSwpD => exact memWord_leaves hs
  | fenceAcq | fenceRel | fence | invl1 | invl1All | tkrel => exact stepWordOp_leaves
  | hintFetchD => exact runWord_leaves fun _ => by dsimp only; split <;> simp
  -- The scratchpad and its sync words.
  | lds => exact scratchWord_leaves fun _ _ => writeVar_mem ..
  | sts => exact scratchWord_leaves fun _ _ => modHereCore_mem ..
  | amosAdd | amosSub | amosMin | amosMax | amosMinUns | amosMaxUns | amosAnd | amosOr | amosXor | amosSwp | amosCas =>
    exact amosWord_leaves
  | swinit => exact swWord_leaves fun _ _ => (writeVar_mem ..).trans (modHereCore_mem ..)
  | swait => unfold execSwait; exact swWord_leaves fun _ _ => (writeVar_mem ..).trans (acquireStep_mem ..)
  | swadd => exact swWord_leaves fun _ _ => by dsimp only; split <;> simp
  -- Words that arrive at the other lanes of their cord.
  | xlmIdx | xlmXor | xlmUp | xlmDn => exact xlmWord_leaves
  | red | scan | scanExcl => exact redWord_leaves
  | elect => exact crossWord_leaves
  | voteAny | voteAll | voteBallot => exact voteWord_leaves
  | barcfg | yieldp => exact runWord_leaves fun _ => by split <;> simp
  | bar => unfold execBar; exact runWord_leaves fun _ => by simp
  | phase => unfold execPhase; exact runWord_leaves fun _ => by simp
  | cvset => unfold execCvset; exact runWord_leaves fun _ => by dsimp only; split <;> simp
  -- Words of queues and knots.
  | qstat => exact taskWord_leaves fun _ _ => writeRegs_mem ..
  | qrsv | qcmt | qdrop | qfree => exact taskWord_leaves fun _ _ => by split <;> simp
  | knnew => exact taskWord_leaves fun _ _ => by dsimp only; split <;> simp
  | knset | knadd | knget | knwait | knpoll | knfree | knbrk => exact knotWord_leaves
  -- Engine words, whose operations wait to be started.
  | tdef => unfold execTdef; exact runWord_leaves fun _ => rfl
  | tcopy => exact execTcopy_leaves hs
  | tld => exact execTld_leaves hs
  | tst => exact execTst_leaves hs
  | press => unfold execPress; exact runWord_leaves fun _ => by simp
  | pressw => exact execPressw_leaves hs
  | cbld => exact execCbld_leaves hs
  | mma => unfold execMma; exact runWord_leaves fun _ => by simp
  | rsend | rsendAdd => exact sendWord_leaves hs
  | tsend => exact execTsend_leaves hs
  | esend => exact execEsend_leaves hs
  | erecv => unfold execErecv; exact runWord_leaves fun _ => by simp
  | skadd | sksub | skmax | skmin | skmov => exact skWord_leaves
  | cmpr | sbmap => exact tileWord_leaves
  | cbldDef | skbind => exact runWord_leaves fun _ => rfl
  | waito | cbdec | skset | skext | skins | tscncl => exact runWord_leaves fun _ => by simp
  | _ => cases hi

/-- Settles O59: a register word by its frame (O58), every other word by its effect. -/
theorem wordsLeaveMemory : Obligations.WordsLeaveMemory := by
  unfold Obligations.WordsLeaveMemory
  intro i s t h hh hi hexit hnone ht a
  have hs : Unleased s := fun h' hh' => by
    obtain rfl := Option.some.inj (hh.symm.trans hh')
    exact hnone
  have hmem : t.mem = s.mem := by
    cases hd : destRegs i with
    | some rs => exact onlyWrites_mem (exec_onlyWrites hh hd ht)
    | none =>
      cases hf : flagDest i with
      | some r => exact onlyFlags_mem (exec_onlyFlags hh hf ht)
      | none => exact exec_leaves i (by simp [actsBeyondRegisters, hi, hd, hf]) hexit hs t ht
  rw [hmem]

end Sys2Proof.Laws

/-!
O19 to O21, the atomics, the scratchpad words, the fences and the L1 drops (R107, R273, R279, R282 to R288).
-/
namespace Sys2Proof.Laws
open Sys2Proof.Machine Sys2Proof.Safety

/-! ### Atomics on global memory -/

section
variable {s : State} {h : Here} {i : Instr} {g : Guard} {d a : BitVec 7} {k : BitVec 3}

/-- The state in which an atomic of w bytes has joined the pending sequence. -/
def atomJoined (s : State) (h : Here) (i : Instr) (n w : Nat) (d a : BitVec 7) (k : BitVec 3) (dst : List Reg) (x y : BitVec 64) : State :=
  holdRegs (pushOp s h i true { blankOp with
    kind := .atomic, size := w, scope := k.toNat, dst := d, szc := if w == 8 then 5 else 4,
    atom := some ⟨n, x, y, ftzOf h.st, enables h.st⟩, va := rdV2 h.st a }) h s.uid dst

/-- An atomic is an access to memory that waits for no miss-status entry. -/
theorem atomWord_issues {n w : Nat} {src dst : List Reg} (x y : Here → BitVec 64)
    (hfree : leaseBad s h.sel.cord h.cord (rdV2 h.st a) w true = none) (halign : (rdV2 h.st a).toNat % w = 0)
    (hi : Issues s h g { reads := pair a ++ src, writes := dst, lat := 0, fallible := true }) :
    memWord i g (pair a ++ src) dst w (vaOf a) (atomicOp n w d k x y) s =
      .next (left (atomJoined s h i n w d a k dst (x h) (y h)) h g
        { reads := pair a ++ src, writes := dst, lat := 0, fallible := true } {}) :=
  memWord_issues rfl halign hfree hi

theorem amoWord_issues {n : Nat} (hfree : leaseBad s h.sel.cord h.cord (rdV2 h.st a) 4 true = none)
    (halign : (rdV2 h.st a).toNat % 4 = 0)
    (hi : Issues s h g { reads := pair a ++ [.v d], writes := [.v d], lat := 0, fallible := true }) :
    amoWord i g n d a k s = .next (left (atomJoined s h i n 4 d a k [.v d] ((rdV h.st d).zeroExtend 64) 0) h g
      { reads := pair a ++ [.v d], writes := [.v d], lat := 0, fallible := true } {}) :=
  atomWord_issues _ _ hfree halign hi

theorem amoWordD_issues {n : Nat} (hfree : leaseBad s h.sel.cord h.cord (rdV2 h.st a) 8 true = none)
    (halign : (rdV2 h.st a).toNat % 8 = 0)
    (hi : Issues s h g { reads := pair a ++ pair d, writes := pair d, lat := 0, fallible := true }) :
    amoWordD i g n d a k s = .next (left (atomJoined s h i n 8 d a k (pair d) (rdV2 h.st d) 0) h g
      { reads := pair a ++ pair d, writes := pair d, lat := 0, fallible := true } {}) :=
  atomWord_issues _ _ hfree halign hi

end

/-- Settles O19: the words of one operand by their widths, and the two compare-and-swaps. -/
theorem atomicIssueResults : Obligations.AtomicIssueResults := by
  unfold Obligations.AtomicIssueResults
  intro s h g d a k va x xx joins
  exact ⟨amoWord_issues, amoWord_issues, amoWord_issues, amoWord_issues, amoWord_issues, amoWord_issues, amoWord_issues, amoWord_issues,
    amoWord_issues, amoWord_issues, amoWord_issues, atomWord_issues _ _, amoWordD_issues, amoWordD_issues, atomWord_issues _ _⟩

/-! ### Scratchpad words -/

section
variable {s : State} {h : Here} {i : Instr} {g : Guard} {d a : BitVec 7} {reads writes : List Reg} {align size : Nat}

/-- A scratchpad access aligned as its word asks and within the cord's grant. -/
theorem scratchWord_issues {f : Here → State → Nat → State} (halign : (rdV h.st a).toNat % align = 0)
    (hgrant : scratchOk h.cord (rdV h.st a).toNat size = true) (hi : Issues s h g { reads := reads, writes := writes, lat := 0 }) :
    scratchWord i g reads writes align size a f s = .next (left (f h s (scrBase h.cord + (rdV h.st a).toNat)) h g
      { reads := reads, writes := writes, lat := 0 } {}) := by
  unfold scratchWord
  exact runWord_issues (h := h) hi (by simp [halign, hgrant])

theorem lds_issues {z : BitVec 3} (hgrant : scratchOk h.cord (rdV h.st a).toNat (sizeBytes z) = true)
    (hi : Issues s h g { reads := [.v a], writes := sizeRegs z d, lat := 0 }) :
    execLds g d a z s = .next (left
      (writeVar s h (loadWrites z d
        (getBytes (coreOfCord s h.cord).scratch (scrBase h.cord + (rdV h.st a).toNat) (sizeBytes z)))) h g
      { reads := [.v a], writes := sizeRegs z d, lat := 0 } {}) :=
  scratchWord_issues (Nat.mod_one _) hgrant hi

theorem sts_issues {z : BitVec 3} (hgrant : scratchOk h.cord (rdV h.st a).toNat (sizeBytes z) = true)
    (hi : Issues s h g { reads := [.v a] ++ sizeRegs z d, writes := [], lat := 0 }) :
    execSts g d a z s = .next (left
      (modHereCore s h (fun co => { co with
        scratch := Machine.putBytes co.scratch (scrBase h.cord + (rdV h.st a).toNat) (storeBytes h.st z d) })) h g
      { reads := [.v a] ++ sizeRegs z d, writes := [], lat := 0 } {}) :=
  scratchWord_issues (Nat.mod_one _) hgrant hi

/-- The new value of a scratchpad atomic on an old value, by the two operands its word takes. -/
def amosNew (op : Nat) (x : BitVec 32) (y : BitVec 64) (old : Nat) : Nat := (atomNew ⟨op, x.zeroExtend 64, y, false, 0⟩ 4 old).1

/-- A scratchpad atomic at an aligned offset within the grant. -/
theorem amosWord_issues {op : Nat} {y : Here → BitVec 64} {old new : Nat}
    (hold : leNat (getBytes (coreOfCord s h.cord).scratch (scrBase h.cord + (rdV h.st a).toNat) 4) = old)
    (hnew : amosNew op (rdV h.st d) (y h) old = new) (hgrant : scratchOk h.cord (rdV h.st a).toNat 4 = true)
    (halign : (rdV h.st a).toNat % 4 = 0) (hi : Issues s h g { reads := [.v a] ++ reads, writes := [.v d], lat := 0 }) :
    amosWord i g op d a reads y s = .next (left
      (writeVar (modHereCore s h (fun co =>
          { co with scratch := Machine.putBytes co.scratch (scrBase h.cord + (rdV h.st a).toNat) (leBytes 4 new) })) h (toV d (BitVec.ofNat 32 old)))
      h g { reads := [.v a] ++ reads, writes := [.v d], lat := 0 } {}) := by
  subst hold hnew
  exact scratchWord_issues halign hgrant hi

end

/-! ### The new values of the scratchpad atomics (R282, R283, R285) -/

theorem leNat_lt (bs : List (BitVec 8)) : leNat bs < 256 ^ bs.length := by
  induction bs with
  | nil => simp [leNat]
  | cons b bs ih =>
    have hb := b.isLt
    simp only [leNat, List.length_cons, pow_succ]
    omega

theorem leNat_getBytes_lt (m : SMap (BitVec 8)) (a n : Nat) : leNat (getBytes m a n) < 256 ^ n := by
  simpa [getBytes] using leNat_lt (getBytes m a n)

section
variable (x : BitVec 32) (y : BitVec 64) (old : Nat)

/-- An operand of 32 bits is itself among 4 bytes. -/
theorem wordOperand_mod : (x.zeroExtend 64).toNat % 2 ^ (8 * 4) = x.toNat := by
  have hx := x.isLt
  simp
  omega

theorem amosNew_add : amosNew 0 x y old = (old + x.toNat) % 2 ^ 32 := by
  simp only [amosNew, atomNew, wordOperand_mod]
  rfl

theorem amosNew_sub : amosNew 1 x y old = (old + 2 ^ 32 - x.toNat) % 2 ^ 32 := by
  have hx := x.isLt
  rw [Nat.add_sub_assoc hx.le]
  simp only [amosNew, atomNew, wordOperand_mod]
  rfl

theorem amosNew_min : amosNew 2 x y old = if x.toInt < (BitVec.ofNat 32 old).toInt then x.toNat else old := by
  simp only [amosNew, atomNew, wordOperand_mod, BitVec.ofNat_toNat, BitVec.setWidth_eq]
  rfl

theorem amosNew_max : amosNew 3 x y old = if (BitVec.ofNat 32 old).toInt < x.toInt then x.toNat else old := by
  simp only [amosNew, atomNew, wordOperand_mod, BitVec.ofNat_toNat, BitVec.setWidth_eq]
  rfl

theorem amosNew_minUns : amosNew 4 x y old = min old x.toNat := by
  simp only [amosNew, atomNew, wordOperand_mod]
  exact Nat.min_comm ..

theorem amosNew_maxUns : amosNew 5 x y old = max old x.toNat := by
  simp only [amosNew, atomNew, wordOperand_mod]
  exact Nat.max_comm ..

theorem amosNew_swp : amosNew 9 x y old = x.toNat := by
  simp only [amosNew, atomNew, wordOperand_mod]
  rfl

theorem amosNew_cas (z : BitVec 32) : amosNew 11 x (z.zeroExtend 64) old = if old = x.toNat then z.toNat else old := by
  simp only [amosNew, atomNew, wordOperand_mod, beq_iff_eq]
  rfl

section
variable {old} (hold : old < 2 ^ 32)
include hold

theorem amosNew_and : amosNew 6 x y old = old &&& x.toNat := by
  have hx := x.isLt
  simp only [amosNew, atomNew, wordOperand_mod]
  show (BitVec.ofNat 64 x.toNat &&& BitVec.ofNat 64 old).toNat = _
  simp
  rw [Nat.and_comm, Nat.mod_eq_of_lt (by omega), Nat.mod_eq_of_lt (by omega)]

theorem amosNew_or : amosNew 7 x y old = old ||| x.toNat := by
  have hx := x.isLt
  simp only [amosNew, atomNew, wordOperand_mod]
  show (BitVec.ofNat 64 x.toNat ||| BitVec.ofNat 64 old).toNat = _
  simp
  rw [Nat.or_comm, Nat.mod_eq_of_lt (by omega), Nat.mod_eq_of_lt (by omega)]

theorem amosNew_xor : amosNew 8 x y old = old ^^^ x.toNat := by
  have hx := x.isLt
  simp only [amosNew, atomNew, wordOperand_mod]
  show (BitVec.ofNat 64 x.toNat ^^^ BitVec.ofNat 64 old).toNat = _
  simp
  rw [Nat.xor_comm, Nat.mod_eq_of_lt (by omega), Nat.mod_eq_of_lt (by omega)]

end
end

/-- Settles O20: a load, a store or an atomic of the scratchpad at a good offset, the atomics by the new value of their operation. -/
theorem scratchpadResults : Obligations.ScratchpadResults := by
  unfold Obligations.ScratchpadResults
  refine ⟨?access, ?atomic⟩
  case access =>
    intro s h g d a z off m hgrant
    exact ⟨lds_issues hgrant, sts_issues hgrant⟩
  case atomic =>
    intro s h g d a off old x does hgrant halign
    have hold : old < 2 ^ 32 := leNat_getBytes_lt _ _ 4
    exact ⟨amosWord_issues rfl (amosNew_add ..) hgrant halign, amosWord_issues rfl (amosNew_sub ..) hgrant halign,
      amosWord_issues rfl (amosNew_min ..) hgrant halign, amosWord_issues rfl (amosNew_max ..) hgrant halign,
      amosWord_issues rfl (amosNew_minUns ..) hgrant halign, amosWord_issues rfl (amosNew_maxUns ..) hgrant halign,
      amosWord_issues rfl (amosNew_and _ _ hold) hgrant halign, amosWord_issues rfl (amosNew_or _ _ hold) hgrant halign,
      amosWord_issues rfl (amosNew_xor _ _ hold) hgrant halign, amosWord_issues rfl (amosNew_swp ..) hgrant halign,
      amosWord_issues rfl (amosNew_cas ..) hgrant halign⟩

/-! ### Fences and drops -/

theorem stepWordOp_issues {s : State} {h : Here} {i : Instr} {g : Guard} {reads : List Reg} {fallible : Bool} {op : Here → Op}
    (hi : Issues s h g { reads := reads, fallible := fallible }) :
    stepWordOp i g reads fallible op s =
      .next (left (pushOp s h i fallible (op h)) h g { reads := reads, fallible := fallible } {}) :=
  plainWord_issues (spec := fun _ _ => { reads := reads, fallible := fallible }) hi

/-- Settles O21: each is a word that joins the pending sequence. -/
theorem fenceAndDropIssueResults : Obligations.FenceAndDropIssueResults := by
  unfold Obligations.FenceAndDropIssueResults
  intro s h g a k op
  and_intros
  all_goals exact stepWordOp_issues

end Sys2Proof.Laws

/-!
O12 to O16, the horizon words, the words that raise a trap and return from it, trrec, yieldp and exit (R114, R147, R274, R358, R360, R369 to
R378).
-/
namespace Sys2Proof.Laws
open Sys2Proof.Machine Sys2Proof.Safety

/-! ### Horizon words -/

section
variable {s : State} {h : Here} {g : Guard} {a : BitVec 7}

/-- A word that has not issued takes its n and its NEXT now. -/
theorem hzTaken_of_fresh (hfresh : polling h.st = false) : hzTaken h a = ((rdV h.st a).setWidth 16, (beforeCycle h.now h.st).next) := by
  unfold hzTaken
  split
  · rename_i n next hw
    simp [polling, hw] at hfresh
  · rfl

/-- One that waits keeps those of its issue. -/
theorem hzTaken_of_waiting {n next : BitVec 16} (hw : h.st.wait = .horizon n next) : hzTaken h a = (n, next) := by
  simp [hzTaken, hw]

/-- What an hzwait asks of its strand once the horizon has passed what it took. -/
theorem hzwait_spec {n next : BitVec 16} (htaken : hzTaken h a = (n, next)) (hpast : horizonPast h.now h.st n next = true) :
    ({ reads := [.v a], hold := !horizonPast h.now h.st (hzTaken h a).1 (hzTaken h a).2,
       polls := .horizon (hzTaken h a).1 (hzTaken h a).2 } : WSpec) = { reads := [.v a], polls := .horizon n next } := by
  simp [htaken, hpast]

theorem hzwait_issues {n next : BitVec 16} (htaken : hzTaken h a = (n, next)) (hpast : horizonPast h.now h.st n next = true)
    (hi : Issues s h g { reads := [.v a], polls := .horizon n next }) :
    execHzwait g a s = .next (left s h g { reads := [.v a], polls := .horizon n next } {}) := by
  unfold execHzwait
  rw [plainWord_issues (h := h) (by rwa [hzwait_spec htaken hpast]), hzwait_spec htaken hpast]

theorem hzwait_polled {n next : BitVec 16} (hw : h.st.wait = .horizon n next) (hpast : horizonPast h.now h.st n next = true)
    (hp : Polled s h { reads := [.v a] }) : execHzwait g a s = .next (left s h { g with pred := 7 } {} {}) := by
  have hspec := hzwait_spec (hzTaken_of_waiting (a := a) hw) hpast
  have hp' : Polled s h { reads := [.v a], polls := .horizon n next } := hp
  unfold execHzwait
  rw [runWord_polled (h := h) (by rwa [hspec]) rfl, hspec]
  rfl

end

/-- Settles O12: two register words, and hzwait as it issues and as it is looked at again. -/
theorem horizonReadResults : Obligations.HorizonReadResults := by
  unfold Obligations.HorizonReadResults
  intro s h g d a b n
  refine ⟨regWord_issues, regWord_issues, ?issues, fun n next hw hpast hp => hzwait_polled hw hpast hp⟩
  case issues =>
    intro hpast hi
    obtain ⟨-, -, hfresh, -⟩ := id hi
    exact hzwait_issues (hzTaken_of_fresh hfresh) hpast hi

/-! ### Words that stop their strand -/

theorem raiseWord_stops {s : State} {h : Here} {i : Instr} {g : Guard} {cause : Nat} {n : BitVec 7} (hi : Issues s h g {}) :
    raiseWord i g cause n s = .next (stopHere s h { faultHere s h i cause 0 (n.zeroExtend 64) with after := true }) :=
  runWord_stops (h := h) hi rfl

theorem illegalInstruction_stops {s : State} {h : Here} {w : BitVec 32} (hi : Issues s h (guardOf w) {}) :
    execIllegalInstruction w s = .next (stopHere s h (faultHere s h (.illegalInstruction w) 1 0 0)) :=
  runWord_stops (h := h) hi rfl

/-- Settles O13: trap and bkpt raise their causes, and no instruction is cause 1. -/
theorem trapWordResults : Obligations.TrapWordResults := by
  unfold Obligations.TrapWordResults
  intro s h g n w
  exact ⟨raiseWord_stops, raiseWord_stops, illegalInstruction_stops⟩

/-! ### Returns -/

section
variable {s : State} {h : Here} {i : Instr} {g : Guard}

theorem leaveWord_issued (now : Nat) (g : Guard) (sp : WSpec) (lv : Leave) (skipped : Bool) (st : Strand) :
    (leaveWord now g sp lv skipped st).issued = st.issued + 1 := by
  unfold leaveWord
  simp only
  split
  · split <;> rfl
  · rfl
  · split
    · split <;> rfl
    · rfl

/-- The current strand is where its selection says. -/
theorem strandOf_here (hh : here s = some h) : strandOf s h.sel.cord h.sel.lane = some h.st := by
  obtain ⟨-, hc, hst, -⟩ := here_finds hh
  simp [strandOf, hc, hst]

/-- A return that issues takes its strands out of the handler. -/
theorem returnWord_returns {rerun : Bool} (hhandler : h.st.stat.getLsbD 3 = true) (hclear : hzClear h.now h.st = true)
    (hi : Issues s h g {}) :
    returnWord i g rerun s = .next (modCord (left s h g {} {}) h.sel.cord (returnStrands rerun h.sel.lane h.now)) := by
  obtain ⟨hh, -, -, -, -, hpred, -⟩ := id hi
  have hissued : strandOf (left s h g {} {}) h.sel.cord h.sel.lane = some (leaveWord h.now g {} {} false h.st) :=
    strandOf_modStrand_of _ (strandOf_here hh)
  unfold returnWord
  rw [runWord_issues (h := h) (by rwa [hhandler, hclear]) (by simp [hhandler]), hhandler, hclear, hh]
  simp only [Bool.not_true, Bool.and_false, plainLeave]
  rw [hissued, hpred]
  simp [leaveWord_issued]

/-- Outside handler mode a return is illegal. -/
theorem returnWord_stops {rerun : Bool} (hhandler : h.st.stat.getLsbD 3 = false) (hi : Issues s h g {}) :
    returnWord i g rerun s = .next (stopHere s h (faultHere s h i 1 0 0)) := by
  obtain ⟨hh, -⟩ := id hi
  have hissued : strandOf (stopHere s h (faultHere s h i 1 0 0)) h.sel.cord h.sel.lane =
      some { h.st with fault := some (faultHere s h i 1 0 0), wait := .none } :=
    strandOf_modStrand_of _ (strandOf_here hh)
  unfold returnWord
  rw [runWord_stops (h := h) (f := faultHere s h i 1 0 0) (by rwa [hhandler]) (by rw [hhandler]; rfl), hh]
  dsimp only
  rw [hissued]
  simp

end

/-- Settles O14: a return in handler mode and outside it. -/
theorem returnResults : Obligations.ReturnResults := by
  unfold Obligations.ReturnResults
  intro s h g ret
  exact ⟨fun hhandler hclear hi => ⟨returnWord_returns hhandler hclear hi, returnWord_returns hhandler hclear hi⟩,
    fun hhandler hi => ⟨returnWord_stops hhandler hi, returnWord_stops hhandler hi⟩⟩

/-! ### Trap records -/

section
variable {s : State} {h : Here} {g : Guard} {d a : BitVec 7} {x y : BitVec 32}

/-- A read selector writes what it reads. -/
theorem trrec_reads {v : BitVec 32} (hread : selWrites (rdV h.st a) = false) (hv : trrecRead h (rdV h.st a) = v)
    (hi : Issues s h g { reads := [.v a], writes := [.v d], lat := 0 }) :
    execTrrec g d a s = .next (left (writeVar s h (toV d v)) h g { reads := [.v a], writes := [.v d], lat := 0 } {}) := by
  subst hv
  unfold execTrrec
  rw [plainWord_issues (h := h) (by simpa [hread] using hi)]
  simp [hread]

/-- A write selector leaves the state its write gives. -/
theorem trrec_writes {t : State} (hwrite : selWrites (rdV h.st a) = true) (ht : trrecWrite h (rdV h.st a) (rdV h.st d) s = t)
    (hi : Issues s h g { reads := [.v a, .v d], writes := [.v d], lat := 0 }) :
    execTrrec g d a s = .next (left t h g { reads := [.v a, .v d], writes := [.v d], lat := 0 } {}) := by
  subst ht
  unfold execTrrec
  rw [plainWord_issues (h := h) (by simpa [hwrite] using hi)]
  simp [hwrite]

theorem selRsvd_eq_false_iff : selRsvd x = false ↔ x.toNat / 2 ^ 22 % 2 ^ 7 = 0 ∧ x.toNat % 2 ^ 8 = 0 := by
  simp [selRsvd]

theorem selRsvd_eq_true_iff : selRsvd x = true ↔ ¬ (x.toNat / 2 ^ 22 % 2 ^ 7 = 0 ∧ x.toNat % 2 ^ 8 = 0) := by
  rw [← selRsvd_eq_false_iff, Bool.not_eq_false]

/-- A selector with a reserved bit reads 0 and writes nothing. -/
theorem trrecRead_of_reserved (hr : selRsvd x = true) : trrecRead h x = 0 := if_pos hr

theorem trrecWrite_of_reserved (hr : selRsvd x = true) : trrecWrite h x y s = s := if_pos hr

/-- A word of a record, 0 where there is none. -/
def recordItem (t : Option TrapRec) (n : Nat) : BitVec 32 :=
  match t with
  | some r => (recordWords r).getD n 0
  | none => 0

/-! What a selector reaches. -/

/-- A strand stands faulted: masked off, or in its handler (R376). -/
abbrev Faulted (st : Strand) : Prop := st.mode = .masked ∨ st.mode = .handler

theorem selTarget_of_outside (hp2 : laneP2 h.cord h.sel.lane = false) : selTarget h x = none := by
  unfold selTarget inP2
  split
  · rfl
  · simp [hp2]

theorem selTarget_of_no_strand (hst : mget h.cord.strands (selLane x) = none) : selTarget h x = none := by
  simp [selTarget, hst]

section
variable {st : Strand} (hst : mget h.cord.strands (selLane x) = some st)
include hst

theorem selTarget_of_faulted (hp2 : laneP2 h.cord h.sel.lane = true) (hf : Faulted st) : selTarget h x = some (selLane x) := by
  rcases hf with hf | hf <;> simp [selTarget, hst, inP2, hp2, hf]

/-- The registers of a frozen strand are reached too. -/
theorem selTarget_of_registers (hp2 : laneP2 h.cord h.sel.lane = true) (hclass : selClass x ≠ 1) (hf : Faulted st ∨ st.mode = .frozen) :
    selTarget h x = some (selLane x) := by
  rcases hf with hf | hf
  · exact selTarget_of_faulted hst hp2 hf
  · simp [selTarget, hst, inP2, hp2, hf, hclass]

theorem selTarget_of_not_faulted (hf : ¬ Faulted st) (hclass : selClass x = 1 ∨ st.mode ≠ .frozen) : selTarget h x = none := by
  obtain ⟨hmasked, hhandler⟩ := not_or.mp hf
  rcases hclass with hclass | hclass <;> simp [selTarget, hst, hmasked, hhandler, hclass]

end

/-- The compatible handler is a handler. -/
theorem handler_of_laneP2 {c : Cord} {l : Nat} {st : Strand} (hp2 : laneP2 c l = true) (hst : mget c.strands l = some st) :
    st.mode = .handler := by
  unfold laneP2 at hp2
  rw [hst] at hp2
  simp at hp2
  exact hp2.1

/-- A selector of class 1 to 3 that reaches no strand reads 0 and writes nothing. -/
theorem trrecRead_of_no_target (hclass : 1 ≤ selClass x) (ht : selTarget h x = none) : trrecRead h x = 0 := by
  have hne : selClass x ≠ 0 := Nat.ne_of_gt hclass
  simp [trrecRead, recordLane, ht, hne]

theorem trrecWrite_of_no_target (hclass : 1 ≤ selClass x) (ht : selTarget h x = none) : trrecWrite h x y s = s := by
  have hne : selClass x ≠ 0 := Nat.ne_of_gt hclass
  simp [trrecWrite, recordLane, ht, hne]

section
variable (hclean : selRsvd x = false)
include hclean

/-- A selector of class 0 or 1 reads a word of the record of the strand it reaches. -/
theorem trrecRead_record (hclass : selClass x ≤ 1) {l : Nat} (hl : recordLane h x = some l) {st : Strand}
    (hst : mget h.cord.strands l = some st) : trrecRead h x = recordItem st.trap (selItem x) := by
  simp only [trrecRead, hclean, hclass, hl, hst, if_true, Option.bind_some]
  rfl

/-- A selector of class 0 or 1 patches RESUME of the strand it reaches. -/
theorem trrecWrite_resume (hclass : selClass x ≤ 1) {l : Nat} (hl : recordLane h x = some l) (hmode : h.st.mode = .handler)
    (hitem : selItem x = 4 ∨ selItem x = 5) : trrecWrite h x y s =
      modStrand s h.sel.cord l (fun st => { st with trap := st.trap.map (patchResume (selItem x == 5) y) }) := by
  have hresume : (selItem x == 4 || selItem x == 5) = true := by simpa using hitem
  simp [trrecWrite, hclean, hclass, hl, hmode, hresume]

theorem trrecWrite_of_other (hclass : selClass x ≤ 1) (hother : h.st.mode ≠ .handler ∨ (selItem x ≠ 4 ∧ selItem x ≠ 5)) :
    trrecWrite h x y s = s := by
  have hno : (h.st.mode == .handler && (selItem x == 4 || selItem x == 5)) = false := by
    simpa [imp_iff_not_or] using hother
  unfold trrecWrite
  rw [hclean, if_neg Bool.false_ne_true, if_pos hclass, hno]
  split <;> rfl

/-- A selector of class 2 reads a register of the strand it reaches and writes nothing. -/
theorem trrecRead_register (hclass : 1 < selClass x) {l : Nat} (hl : selTarget h x = some l) {st : Strand}
    (hst : mget h.cord.strands l = some st) : trrecRead h x = itemOf h.cord.hdr.vregs st (selItem x) := by
  simp [trrecRead, hclean, Nat.not_le.mpr hclass, hl, hst]

theorem trrecWrite_of_class_two (hclass : selClass x = 2) : trrecWrite h x y s = s := by
  simp [trrecWrite, hclean, hclass]

/-- One of class 3 writes a register of the strand it reaches. -/
theorem trrecWrite_register (hclass : selClass x = 3) {l : Nat} (hl : selTarget h x = some l) : trrecWrite h x y s =
    if hasItem h.cord.hdr.vregs (selItem x) then modStrand s h.sel.cord l (setItem (selItem x) y) else s := by
  simp [trrecWrite, hclean, hclass, hl]

end

/-! The registers by their items. -/

section
variable {st : Strand} {vregs n : Nat} {y : BitVec 32}

theorem itemOf_vector (hn : n < 128) : itemOf vregs st n = if n < vregs then rdV st (BitVec.ofNat 7 n) else 0 := by
  have hv : st.v[n]?.getD 0 = rdV st (BitVec.ofNat 7 n) := by
    simp [rdV, hn, Vector.get, Nat.mod_eq_of_lt hn]
  unfold itemOf
  rw [if_pos hn, hv]

/-- An item below 7 from the first predicate on names that predicate. -/
theorem toNat_item (hn : n < 7) : (BitVec.ofNat 3 n).toNat = n := by
  simp
  omega

theorem item_ne_seven (hn : n < 7) : (BitVec.ofNat 3 n == 7#3) = false := by
  simp [BitVec.toNat_eq]
  omega

theorem itemOf_predicate (hn : n < 7) : itemOf vregs st (128 + n) = if rdP st (BitVec.ofNat 3 n) then 1 else 0 := by
  have hlow : ¬ 128 + n < 0x80 := by omega
  have hhigh : 128 + n ≤ 0x86 := by omega
  unfold itemOf rdP
  rw [if_neg hlow, if_pos hhigh, Nat.add_sub_cancel_left, item_ne_seven hn, toNat_item hn, Bool.false_or]

theorem itemOf_unassigned (hn : 136 < n) : itemOf vregs st n = 0 := by
  have hlow : ¬ n < 0x80 := by omega
  have hhigh : ¬ n ≤ 0x86 := by omega
  simp [itemOf, hlow, hhigh, Nat.ne_of_gt hn]
  omega

theorem hasItem_beyond (hn : n < 128) (hv : vregs ≤ n) : hasItem vregs n = false := by simp [hasItem]; omega

theorem hasItem_unassigned (hn : 136 < n) : hasItem vregs n = false := by simp [hasItem]; omega

theorem hasItem_vector (hn : n < 128) (hv : n < vregs) : hasItem vregs n = true := by simp [hasItem]; omega

theorem hasItem_special (hlo : 128 ≤ n) (hhi : n ≤ 136) : hasItem vregs n = true := by simp [hasItem]; omega

theorem setItem_vector (hn : n < 128) : setItem n y = fun st => { st with v := st.v.setIfInBounds n y } := by
  funext st
  exact if_pos hn

theorem setItem_predicate (hn : n < 7) : setItem (128 + n) y = fun st => { st with
    preds := if y.getLsbD 0 then st.preds ||| (1#7 <<< n) else st.preds &&& ~~~(1#7 <<< n) } := by
  have hlow : ¬ 128 + n < 0x80 := by omega
  have hhigh : 128 + n ≤ 0x86 := by omega
  have hbit : (y.zeroExtend 64).getLsbD 0 = y.getLsbD 0 := by simp
  funext st
  unfold setItem
  rw [if_neg hlow, if_pos hhigh, Nat.add_sub_cancel_left, setReg, if_neg (by rw [item_ne_seven hn]; exact Bool.false_ne_true), hbit,
    toNat_item hn]

theorem setItem_fpf : setItem 135 y = fun st => { st with fpf := (st.fpf &&& ~~~0x1F1F#32) ||| (y &&& 0x1F1F#32) } := by
  funext st
  simp [setItem, writeSpecial]

theorem setItem_stat : setItem 136 y = fun st => { st with stat := (st.stat &&& ~~~7#32) ||| (y &&& 7#32) } := by
  funext st
  simp [setItem, writeSpecial]

end

/-! The statement, by class and mode. -/

/-- What a write selector to RESUME leaves of a strand (R377). -/
theorem patchResume_eq {x : BitVec 32} (hitem : selItem x = 4 ∨ selItem x = 5) (y : BitVec 32) : patchResume (selItem x == 5) y =
    fun r => { r with
      resume := (if selItem x = 4 then r.resume.extractLsb' 32 32 ++ y else y ++ r.resume.extractLsb' 0 32) &&& ~~~3#64
      repleft := 0, rep := none, hint := 0 } := by
  funext r
  rcases hitem with hitem | hitem <;> simp [patchResume, hitem, hiWord, loWord, wordAlign]

theorem selWrites_of_read (hclass : selClass x < 3) (hwr : x.getLsbD 29 = false) : selWrites x = false := by
  rw [selWrites, selWr, hwr, Bool.false_or, beq_eq_false_iff_ne]
  exact Nat.ne_of_lt hclass

theorem selWrites_of_write (hw : selClass x = 3 ∨ x.getLsbD 29 = true) : selWrites x = true := by
  rcases hw with hw | hw <;> simp [selWrites, selWr, hw]

end

/-- Settles O15: a selector reads and writes what its class reaches. -/
theorem trapRecordWordResults : Obligations.TrapRecordWordResults := by
  unfold Obligations.TrapRecordWordResults
  intro s h g d a hh x y cls lane item clean p2 faulted reads writes resume word
  have hreads {v : BitVec 32} (hv : trrecRead h x = v) : reads v :=
    fun hclass hwr => trrec_reads (selWrites_of_read hclass hwr) hv
  have hwrites {t : State} (ht : trrecWrite h x y s = t) : writes t := fun hw => trrec_writes (selWrites_of_write hw) ht
  have hnothing (hclass : 1 ≤ cls) (ht : selTarget h x = none) : reads 0 ∧ writes s :=
    ⟨hreads (trrecRead_of_no_target hclass ht), hwrites (trrecWrite_of_no_target hclass ht)⟩
  have hown : mget h.cord.strands h.sel.lane = some h.st := (here_finds hh).2.2.1
  refine ⟨?reserved, ?own, ?outside, ?absent, ?reached⟩
  case reserved =>
    intro hr
    have hr : selRsvd x = true := selRsvd_eq_true_iff.mpr hr
    exact ⟨hreads (trrecRead_of_reserved hr), hwrites (trrecWrite_of_reserved hr)⟩
  case own =>
    intro hclean hclass
    have hclean : selRsvd x = false := selRsvd_eq_false_iff.mpr hclean
    have hle : selClass x ≤ 1 := le_of_eq_of_le hclass (Nat.zero_le 1)
    have hl : recordLane h x = some h.sel.lane := if_pos (beq_iff_eq.mpr hclass)
    refine ⟨hreads (trrecRead_record hclean hle hl hown), fun hmode hitem => hwrites ?_, fun hother => hwrites ?_⟩
    · rw [trrecWrite_resume hclean hle hl hmode hitem, patchResume_eq hitem]
      rfl
    · exact trrecWrite_of_other hclean hle hother
  case outside =>
    exact fun _ hclass hp2 => hnothing hclass (selTarget_of_outside (Bool.not_eq_true _ ▸ hp2))
  case absent =>
    exact fun _ hclass hst => hnothing hclass (selTarget_of_no_strand hst)
  case reached =>
    intro hclean hp2 st hst
    have hclean : selRsvd x = false := selRsvd_eq_false_iff.mpr hclean
    have hmode : h.st.mode = .handler := handler_of_laneP2 hp2 hown
    refine ⟨?record, ?unfaulted, ?classTwo, ?unreached, ?readRegister, ?writeRegister⟩
    case record =>
      intro hclass hf
      have hone : selClass x = 1 := hclass
      have hle : selClass x ≤ 1 := le_of_eq hclass
      have hl : recordLane h x = some lane := (if_neg (by simp [hone])).trans (selTarget_of_faulted hst hp2 hf)
      refine ⟨hreads (trrecRead_record hclean hle hl hst), fun hitem => hwrites ?_, fun hlow hhigh => hwrites ?_⟩
      · rw [trrecWrite_resume hclean hle hl hmode hitem, patchResume_eq hitem]
        rfl
      · exact trrecWrite_of_other hclean hle (.inr ⟨hlow, hhigh⟩)
    case unfaulted =>
      exact fun hclass hf => hnothing (le_of_eq hclass.symm) (selTarget_of_not_faulted hst hf (.inl hclass))
    case classTwo => exact fun hclass => hwrites (trrecWrite_of_class_two hclean hclass)
    case unreached =>
      exact fun hclass hf hfrozen => hnothing (le_of_lt hclass) (selTarget_of_not_faulted hst hf (.inr hfrozen))
    case readRegister =>
      intro hclass hf
      have htwo : selClass x = 2 := hclass
      have hl : selTarget h x = some lane := selTarget_of_registers hst hp2 (by omega) hf
      have hread : trrecRead h x = itemOf h.cord.hdr.vregs st item := trrecRead_register hclean (by omega) hl hst
      refine ⟨fun hn => hreads ?_, fun n hn hitem => hreads ?_, fun hitem => hreads ?_, fun hitem => hreads ?_, fun hn => hreads ?_⟩
      · rw [hread, itemOf_vector hn]
      · rw [hread, hitem, itemOf_predicate hn]
      · rw [hread, hitem]
        rfl
      · rw [hread, hitem]
        rfl
      · rw [hread, itemOf_unassigned hn]
    case writeRegister =>
      intro hclass hf
      have hthree : selClass x = 3 := hclass
      have hl : selTarget h x = some lane := selTarget_of_registers hst hp2 (by omega) hf
      have hwrite := trrecWrite_register (s := s) (y := y) hclean hthree hl
      have hnone (hitem : hasItem h.cord.hdr.vregs item = false) : trrecWrite h x y s = s :=
        hwrite.trans (if_neg (ne_true_of_eq_false hitem))
      have hsome (hitem : hasItem h.cord.hdr.vregs item = true) : trrecWrite h x y s = modStrand s h.sel.cord lane (setItem item y) :=
        hwrite.trans (if_pos hitem)
      refine ⟨fun hn hv => hwrites (hnone (hasItem_beyond hn hv)), fun hn => hwrites (hnone (hasItem_unassigned hn)),
        fun hn hv => hwrites ?_, fun n hn hitem => hwrites ?_, fun hitem => hwrites ?_, fun hitem => hwrites ?_⟩
      · rw [hsome (hasItem_vector hn hv), setItem_vector hn]
      · rw [hsome (by rw [hitem]; exact hasItem_special (by omega) (by omega)), hitem, setItem_predicate hn]
      · rw [hsome (by rw [hitem]; exact hasItem_special (by decide) (by decide)), hitem, setItem_fpf]
      · rw [hsome (by rw [hitem]; exact hasItem_special (by decide) (by decide)), hitem, setItem_stat]

/-! ### Yield points and ends -/

section
variable {s : State} {h : Here} {g : Guard}

theorem yieldp_issues (hhold : (h.st.mode != .handler && (!hzClear h.now h.st || !countersZero h.cord)) = false) (hi : Issues s h g {}) :
    execYieldp g s = .next (left
      (if h.st.mode != .handler && h.cord.preempt == some .drain then modHere s h (fun st => { st with stopped := true }) else s)
      h g {} {}) := by
  unfold execYieldp
  rw [plainWord_issues (h := h) (by rwa [hhold]), hhold]

theorem exit_issues (hdrained : drainedStrand h = true) (hwaits : endWaits h.cord h.now h.sel.lane = false)
    (hi : Issues s h g { signs := exitSigns h }) :
    execExit g s = .next (left (endStrand (releaseStep s (partyOf h.cord h.sel.lane)) h.sel.cord h.sel.lane) h g
      { signs := exitSigns h } {}) := by
  unfold execExit
  rw [plainWord_issues (h := h) (by rwa [hdrained, hwaits]), hdrained, hwaits]
  rfl

end

/-- Settles O16: a yield point by its mode and its cord's pre-emption, and exit. -/
theorem yieldAndExitResults : Obligations.YieldAndExitResults := by
  unfold Obligations.YieldAndExitResults
  refine ⟨?yield, fun s h g hdrained hwaits hi => exit_issues hdrained hwaits hi⟩
  case yield =>
    intro s h g
    refine ⟨?handler, ?plain, ?drain⟩
    case handler =>
      intro hmode hi
      refine (yieldp_issues (by simp [hmode]) hi).trans ?_
      simp [hmode]
    case plain =>
      intro hclear hzero hdrain hi
      refine (yieldp_issues (by simp [hclear, hzero]) hi).trans ?_
      simp [hdrain]
    case drain =>
      intro hclear hzero hdrain hmode hi
      refine (yieldp_issues (by simp [hclear, hzero]) hi).trans ?_
      simp [hdrain, hmode]

end Sys2Proof.Laws

/-!
O35, the sync words and waito (R297, R298, R301 to R303, R329, R330, R397).
-/
namespace Sys2Proof.Laws
open Sys2Proof.Machine Sys2Proof.Safety

/-! ### Words on a sync word -/

section
variable {s : State} {h : Here} {i : Instr} {g : Guard} {d a : BitVec 7} {writes : List Reg}

/-- A word that has not issued names its sync word and its generation by its registers. -/
theorem swOff_of_fresh (hfresh : polling h.st = false) : swOff a h = (rdV h.st a).toNat := by
  unfold swOff
  split
  · rename_i x y hw
    simp [polling, hw] at hfresh
  · rfl

theorem swGen_of_fresh (hfresh : polling h.st = false) : swGen d h = rdV h.st d := by
  unfold swGen
  split
  · rename_i x y hw
    simp [polling, hw] at hfresh
  · rfl

/-- A range that lies within the cord's grant at a multiple of 16 bytes names a sync word. -/
theorem syncCheck_of_good {sw : Option Nat} (hgood : ∀ o, sw = some o → o % 16 = 0 ∧ scratchOk h.cord o 16 = true) :
    syncCheck i h s sw = none := by
  cases sw with
  | none => rfl
  | some o =>
    obtain ⟨halign, hgrant⟩ := hgood o rfl
    simp [syncCheck, halign, hgrant]

section
variable (halign : (rdV h.st a).toNat % 16 = 0) (hgrant : scratchOk h.cord (rdV h.st a).toNat 16 = true)
include halign hgrant

/-- A sync-word word at a good offset that finds what it waits for. -/
theorem swWord_issues {hold : Here → State → Bool} {polls : Here → Wait} {f : Here → State → Nat → State} (hhold : hold h s = false)
    (hi : Issues s h g { reads := [.v d, .v a], writes := writes, lat := if writes.isEmpty then 1 else 0, polls := polls h }) :
    swWord i g d a writes hold polls f s = .next (left (f h s (scrBase h.cord + (rdV h.st a).toNat)) h g
      { reads := [.v d, .v a], writes := writes, lat := if writes.isEmpty then 1 else 0, polls := polls h } {}) := by
  obtain ⟨-, -, hfresh, -⟩ := id hi
  have hoff := swOff_of_fresh (a := a) hfresh
  have hspec : (swOk a h && hold h s) = false := by rw [hhold, Bool.and_false]
  unfold swWord
  rw [runWord_issues (h := h) (by rwa [hspec]) (by rw [hoff]; exact syncCheck_of_good fun o ho => Option.some.inj ho ▸ ⟨halign, hgrant⟩),
    hspec, hoff]
  rfl

theorem swinit_issues (hi : Issues s h g { reads := [.v d, .v a], writes := [.v d], lat := 0 }) :
    let m := scratchOf s h; let o := scrBase h.cord + (rdV h.st a).toNat
    let m' := Machine.putBytes m o (leBytes 4 (rdV h.st d).toNat ++ leBytes 4 0)
    execSwinit g d a s = .next (left
      (writeVar (modHereCore s h (fun co => { co with scratch := Machine.putBytes m' (o + 12) [byteAt m' (o + 12) &&& ~~~1#8] })) h
        (toV d (BitVec.ofNat 32 (word32 m (o + 8) + 1)))) h g { reads := [.v d, .v a], writes := [.v d], lat := 0 } {}) :=
  swWord_issues halign hgrant rfl hi

/-- A swait whose generation has come acquires and reads it. -/
theorem swait_issues {gen : Nat} (hgen : word32 (scratchOf s h) (scrBase h.cord + (rdV h.st a).toNat + 8) = gen)
    (hcome : older (BitVec.ofNat 32 gen) (rdV h.st d) = false)
    (hi : Issues s h g { reads := [.v d, .v a], writes := [.v d], lat := 0, polls := .poll (rdV h.st a) (rdV h.st d) }) :
    execSwait g d a s = .next (left (writeVar (acquireStep s (coreIdOf h.cord) 3) h (toV d (BitVec.ofNat 32 gen))) h g
      { reads := [.v d, .v a], writes := [.v d], lat := 0, polls := .poll (rdV h.st a) (rdV h.st d) } {}) := by
  obtain ⟨-, -, hfresh, -⟩ := id hi
  unfold execSwait
  refine (swWord_issues (h := h) halign hgrant ?_ hi).trans ?_
  · dsimp only
    rw [swOff_of_fresh hfresh, swGen_of_fresh hfresh, hgen, hcome]
  · dsimp only
    rw [swOff_of_fresh hfresh, hgen]
    rfl

/-- A swadd releases and credits; a credit that overruns is its fault. -/
theorem swadd_issues (hdone : accessesDone h = true) (hi : Issues s h g { reads := [.v d, .v a], lat := 1 }) :
    let off := (rdV h.st a).toNat
    let after := creditAt (releaseStep s (partyOf h.cord h.sel.lane)) h.sel.cord off (rdV h.st d).toNat
    execSwadd g d a s = .next (left
      (if after.2 then after.1 else modHere after.1 h (fun st => { st with
        fault := some ⟨14, pcOf h.st, wordOf after.1 h (.swadd g d a), 0, BitVec.ofNat 64 off, 0, false, false, h.st.hint, false, true⟩ })) h g
      { reads := [.v d, .v a], lat := 1 } {}) := by
  obtain ⟨-, -, hfresh, -⟩ := id hi
  unfold execSwadd
  refine (swWord_issues (h := h) halign hgrant ?_ hi).trans ?_
  · rw [hdone, Bool.not_true]
  · dsimp only
    rw [swOff_of_fresh hfresh]
    rfl

end
end

/-! ### Credits -/

/-- A word whose generation has ended starts again from 0 (R302). -/
def restartedWord (m : SMap (BitVec 8)) (a : Nat) : SMap (BitVec 8) :=
  if word32 m a ≠ 0 ∧ word32 m (a + 4) = word32 m a then Machine.putBytes m (a + 4) (leBytes 4 0) else m

/-- A credit is judged against the TARGET the word has and the RUN it starts from. -/
theorem credit_eq (m : SMap (BitVec 8)) (a n : Nat) :
    credit m a n =
      if word32 m a = 0 ∨ word32 m a < word32 (restartedWord m a) (a + 4) + n then
        (Machine.putBytes (restartedWord m a) (a + 12) [byteAt (restartedWord m a) (a + 12) ||| 1], false)
      else
        let m' := Machine.putBytes (restartedWord m a) (a + 4) (leBytes 4 (word32 (restartedWord m a) (a + 4) + n))
        (if word32 (restartedWord m a) (a + 4) + n = word32 m a then Machine.putBytes m' (a + 8) (leBytes 4 (word32 m' (a + 8) + 1)) else m', true) := by
  have hword : (if (word32 m a != 0 && word32 m (a + 4) == word32 m a) = true then Machine.putBytes m (a + 4) (leBytes 4 0) else m) =
      restartedWord m a := by simp [restartedWord]
  unfold credit
  simp only [hword, Bool.or_eq_true, beq_iff_eq, decide_eq_true_eq]

/-! ### waito -/

theorem waitClass_eq (c : BitVec 2) :
    waitClass c = if c = 0#2 then .copy else if c = 1#2 then .press else if c = 2#2 then .matrix else .fabric := by
  simp [waitClass]

theorem waitClass_eq_fabric_iff (c : BitVec 2) : waitClass c = .fabric ↔ c = 3#2 := by
  revert c
  decide

theorem waito_issues {s : State} {h : Here} {g : Guard} {n : BitVec 7} {c : BitVec 2}
    (hfew : 64 ≤ n.toNat ∨ counter h.cord (waitClass c) ≤ n.toNat) (hi : Issues s h g { polls := .poll 0 0 }) :
    execWaito g n c s = .next (left (acquireStep s (coreIdOf h.cord) (if c = 3#2 then 5 else 3)) h g { polls := .poll 0 0 } {}) := by
  have hhold : (decide (n.toNat < 64) && decide (n.toNat < counter h.cord (waitClass c))) = false := by
    simp
    omega
  unfold execWaito
  rw [plainWord_issues (h := h) (by rwa [hhold]), hhold]
  simp only [beq_iff_eq, waitClass_eq_fabric_iff]

/-! ### The obligation -/

/-- Settles O35: a good offset passes syncCheck, so each word leaves the state of its one effect; a credit by its cases; the
class of waito by its code. -/
theorem syncWordResults : Obligations.SyncWordResults := by
  refine ⟨?_, ?_, ?_⟩
  · intro s h g d a m off o gen m1 rel after halign hgrant
    refine ⟨swinit_issues halign hgrant, fun hcome => swait_issues halign hgrant rfl hcome, ?_, ?_⟩
    · intro hdone hok hi
      refine (swadd_issues halign hgrant hdone hi).trans ?_
      rw [if_pos hok]
    · intro hdone hover hi
      refine (swadd_issues halign hgrant hdone hi).trans ?_
      rw [if_neg (ne_true_of_eq_false hover)]
  · intro m a n target m' run
    refine ⟨fun hover => (credit_eq m a n).trans (if_pos hover), ?_, ?_⟩
    · intro hset hless
      refine (credit_eq m a n).trans ((if_neg (not_or.2 ⟨hset, hless.not_gt⟩)).trans ?_)
      exact congrArg (·, true) (if_neg hless.ne)
    · intro hset hfull
      refine (credit_eq m a n).trans ((if_neg (not_or.2 ⟨hset, hfull.not_gt⟩)).trans ?_)
      rw [← hfull]
      exact congrArg (·, true) (if_pos hfull)
  · intro s h g n c k hfew
    refine waito_issues ?_
    rwa [waitClass_eq]

end Sys2Proof.Laws

/-!
O30 to O34, the tile, copy, press, scale and sparse words at their issue (R249, R305, R312, R318 to R328, R331 to R340).
-/
namespace Sys2Proof.Laws
open Sys2Proof.Machine Sys2Proof.Safety

/-! ### tdef -/

section
variable {s : State} {h : Here} {g : Guard} {d a : BitVec 7}

theorem tdef_issues {t : Tile} (ht : shapeTile (sRegs h.cord a 16) = t) (hshape : shapeOk t = true)
    (hgrant : scratchOk h.cord (tileEnd t) 0 = true) (hi : Issues s h g { reads := descRegs a 16 }) :
    execTdef g d a s = .next (left (modHereCord { s with uid := s.uid + 1 } h (newTile d.toNat s.uid t)) h g { reads := descRegs a 16 } {}) := by
  subst ht
  unfold execTdef
  rw [runWord_issues (h := h) hi (by rw [hshape, hgrant]; rfl)]
  rfl

theorem tdef_stops_shape (hshape : shapeOk (shapeTile (sRegs h.cord a 16)) = false) (hi : Issues s h g { reads := descRegs a 16 }) :
    execTdef g d a s = .next (stopHere s h (faultHere s h (.tdef g d a) 19 0 0)) := by
  unfold execTdef
  rw [runWord_stops (h := h) hi (by rw [hshape]; rfl)]

theorem tdef_stops_beyond {t : Tile} (ht : shapeTile (sRegs h.cord a 16) = t) (hshape : shapeOk t = true)
    (hgrant : scratchOk h.cord (tileEnd t) 0 = false) (hi : Issues s h g { reads := descRegs a 16 }) :
    execTdef g d a s = .next (stopHere s h (faultHere s h (.tdef g d a) 8 (BitVec.ofNat 64 t.base) 0)) := by
  subst ht
  unfold execTdef
  rw [runWord_stops (h := h) hi (by rw [hshape, hgrant]; rfl)]

end

/-- Settles O30: the two checks of tdef, in their order. -/
theorem tileDefinitionResults : Obligations.TileDefinitionResults := by
  unfold Obligations.TileDefinitionResults
  intro s h g d a t sp stops
  exact ⟨tdef_issues rfl, tdef_stops_shape, tdef_stops_beyond rfl⟩

/-! ### Copies -/

section
variable {s : State} {h : Here} {g : Guard} {d a : BitVec 7} {m : BitVec 5}

theorem leasedIssue_of_free {bad : Option (BitVec 64)} {f : State → State} (hfree : bad = none) : leasedIssue h bad f s = f s := by
  rw [hfree]
  rfl

theorem tcopy_issues {box : List (BitVec 64)} {src dst : Nat} (hbox : sRegs h.cord a 16 = box) (hsrc : bitsOf (dreg box 2) 0 2 = src)
    (hdst : bitsOf (dreg box 2) 2 2 = dst) (hok : boxOk box = true)
    (hsync : ∀ o, (if (dreg box 2).getLsbD 7 then some (bitsOf (dreg box 2) 8 19) else none) = some o →
      o % 16 = 0 ∧ scratchOk h.cord o 16 = true)
    (hreads : boxBeyond h.cord box src 0 6 = none) (hwrites : boxBeyond h.cord box dst 1 11 = none)
    (hreadLease : boxLease s h.sel.cord h.cord box src 0 6 false = none)
    (hwriteLease : boxLease s h.sel.cord h.cord box dst 1 11 true = none) (hroom : counterFull h .copy = false)
    (hi : Issues s h g { reads := descRegs a 16, fallible := true }) :
    execTcopy g a s = .next (left (issueEngine (.tcopy g a) h { blankEOp with kind := .tcopy, desc := box } s) h g
      { reads := descRegs a 16, fallible := true } {}) := by
  subst hbox hsrc hdst
  unfold execTcopy
  rw [runWord_issues (h := h) (by rwa [hroom]) ?check, hroom]
  case check =>
    dsimp only
    rw [syncCheck_of_good hsync, hreads, hwrites, hok]
    rfl
  dsimp only
  rw [leasedIssue_of_free (by rw [hreadLease, hwriteLease])]
  rfl

/-- The scale registers a tile names from m on. -/
def namedScales (t : Tile) (m : Nat) : List Nat := m :: (if twoScales t then [m + 1] else [])

/-- What issuing a tld stamps: its scale registers with the new tag x. -/
def stampLoad (c : Cord) (t : Tile) (m : Nat) (x : BitVec 12) (co : Core) : Core :=
  let co := modScale c m (fun y => { y with crown := x }) co
  if twoScales t then modScale c (m + 1) (fun y => { y with crown := x }) co else co

theorem beyond_of_twoScales {t : Tile} {n m : Nat} (hscales : twoScales t = true → n < m) : (twoScales t && decide (m ≤ n)) = false := by
  cases htwo : twoScales t with
  | false => rfl
  | true => simpa using hscales htwo

theorem tld_issues {ds : List (BitVec 64)} {t : Tile} {plane : Nat} (hds : sRegs h.cord a 3 = ds) (ht : tileOf h.cord d.toNat = t)
    (hplane : (if memFmt ds = t.fmt.toNat then planeBytes t else 0) = plane) (ha : a.toNat ≤ 61) (hdefined : t.state ≠ 0)
    (hdense : t.sparse = false) (hpair : loadPair (memFmt ds) t.fmt.toNat = true) (hdesc : loadDescOk ds = true)
    (hscales : twoScales t = true → m.toNat + 1 < h.cord.hdr.kregs)
    (hsync : ∀ o, loadSync ds = some o → o % 16 = 0 ∧ scratchOk h.cord o 16 = true)
    (hlease : tileLease s h.sel.cord h.cord ds (tileLines t) (memLine t (memFmt ds)) plane false = none)
    (hroom : counterFull h .copy = false) (hfree : scaleBusy h.cord (namedScales t m.toNat) = false)
    (hi : Issues s h g { reads := descRegs a 3, kregs := [m.toNat], fallible := true }) :
    let x := (issueTag s h.sel.cord).1
    let stamped := modHereCore (issueTag s h.sel.cord).2 h (stampLoad h.cord t m.toNat x)
    let t' : Tile := { t with state := 2, bk := m.toNat, btag := x }
    execTld g d a m s = .next (left
      (issueEngine (.tld g d a m) h { blankEOp with kind := .tld, desc := ds, tile := t', tileNo := d.toNat, kreg := m.toNat }
        (modHereCord stamped h (newTile d.toNat stamped.uid t'))) h g
      { reads := descRegs a 3, kregs := [m.toNat], fallible := true } {}) := by
  subst hds ht hplane
  have hspec : (counterFull h .copy || scaleBusy h.cord (namedScales (tileOf h.cord d.toNat) m.toNat)) = false := by rw [hroom, hfree]; rfl
  unfold namedScales at hspec
  unfold execTld
  rw [runWord_issues (h := h) (by rwa [if_pos ha, hspec]) ?check, if_pos ha, hspec]
  case check =>
    dsimp only
    simp only [beyond_of_twoScales hscales, syncCheck_of_good hsync, decide_eq_false (Nat.not_lt.2 ha), hdense, hpair, hdesc]
    simpa using hdefined
  dsimp only
  rw [leasedIssue_of_free (by simpa using hlease)]
  rfl

/-- The scale registers a tst reads. -/
def storedScales (t : Tile) : List Nat := if blocked t.fmt then namedScales t t.bk else []

theorem tst_issues {ds : List (BitVec 64)} {t : Tile} (hds : sRegs h.cord a 3 = ds) (ht : tileOf h.cord d.toNat = t)
    (ha : a.toNat ≤ 61) (hdefined : t.state ≠ 0) (hdense : t.sparse = false) (hpair : storePair t.fmt.toNat (memFmt ds) = true)
    (hdesc : loadDescOk ds = true) (hscales : twoScales t = true → t.bk + 1 < h.cord.hdr.kregs)
    (htag : blocked t.fmt = true → t.btag = (scaleOf (coreOfCord s h.cord) h.cord t.bk).crown)
    (hsync : ∀ o, loadSync ds = some o → o % 16 = 0 ∧ scratchOk h.cord o 16 = true)
    (hlease : tileLease s h.sel.cord h.cord ds (tileLines t) (memLine t (memFmt ds)) (planeBytes t) true = none)
    (hroom : counterFull h .copy = false) (hfree : scaleBusy h.cord (storedScales t) = false)
    (hi : Issues s h g { reads := descRegs a 3, fallible := true }) :
    execTst g d a s = .next (left
      (issueEngine (.tst g d a) h { blankEOp with
        kind := .tst, desc := ds, tile := t, tileNo := d.toNat, sb := readPlane (coreOfCord s h.cord) h.cord t } s) h g
      { reads := descRegs a 3, fallible := true } {}) := by
  subst hds ht
  have hspec : (counterFull h .copy || scaleBusy h.cord (storedScales (tileOf h.cord d.toNat))) = false := by rw [hroom, hfree]; rfl
  have hbound : (blocked (tileOf h.cord d.toNat).fmt &&
      (tileOf h.cord d.toNat).btag != (scaleOf (coreOfCord s h.cord) h.cord (tileOf h.cord d.toNat).bk).crown) = false := by
    cases hblocked : blocked (tileOf h.cord d.toNat).fmt with
    | false => rfl
    | true => simpa using htag hblocked
  unfold storedScales namedScales at hspec
  unfold execTst
  rw [runWord_issues (h := h) (by rwa [if_pos ha, hspec]) ?check, if_pos ha, hspec]
  case check =>
    dsimp only
    simp only [beyond_of_twoScales hscales, hbound, syncCheck_of_good hsync, decide_eq_false (Nat.not_lt.2 ha), hdense, hpair, hdesc]
    simpa using hdefined
  dsimp only
  rw [leasedIssue_of_free hlease]
  rfl

end

/-- Settles O31: each copy passes its descriptor checks, its sync word's and its leases. -/
theorem copyIssueResults : Obligations.CopyIssueResults := by
  unfold Obligations.CopyIssueResults
  intro s h g d a m box ds t src dst plane inBounds x stamped t' sp
  exact ⟨tcopy_issues rfl rfl rfl, tld_issues rfl rfl rfl, tst_issues rfl rfl⟩

end Sys2Proof.Laws

/-!
O32 to O34, the words of presses, the codebook, scales and sparse tiles at their issue, and the write of a sparse form (R305, R312, R331 to R340).
-/
namespace Sys2Proof.Laws
open Sys2Proof.Machine Sys2Proof.Safety

/-! ### Presses -/

section
variable {s : State} {h : Here} {g : Guard} {d a : BitVec 7} {m : BitVec 3}

theorem press_issues {t : Tile} (ht : tileOf h.cord d.toNat = t) (hgood : pressFault h s m.toNat 2 t = 0) (hroom : counterFull h .press = false)
    (hi : Issues s h g { fallible := true }) :
    execPress g d m s = .next (left
      (issueEngine (.press g d m) h { blankEOp with kind := .press, tile := t, tileNo := d.toNat, mac := m.toNat }
        (modHereCore s h (modMac h.cord m.toNat (pressMac (coreOfCord s h.cord) h.cord t)))) h g { fallible := true } {}) := by
  subst ht
  unfold execPress
  rw [runWord_issues (h := h) (by rwa [hroom]) (by rw [hgood]; rfl), hroom]
  rfl

theorem press_stops {f : Nat} (hfault : pressFault h s m.toNat 2 (tileOf h.cord d.toNat) = f) (hbad : f ≠ 0)
    (hroom : counterFull h .press = false) (hi : Issues s h g { fallible := true }) :
    execPress g d m s = .next (stopHere s h (faultHere s h (.press g d m) f 0 0)) := by
  unfold execPress
  exact runWord_stops (h := h) (by rwa [hroom]) (by simp [hfault, hbad])

theorem pressw_issues {t : Tile} {va : BitVec 64} {e : EOp} (ht : tileOf h.cord d.toNat = t) (hva : rdS h.cord (sReg a) = va)
    (he : e = { blankEOp with kind := .pressw, tile := t, tileNo := d.toNat, desc := [va] })
    (hgood : pressFault h s m.toNat 1 t = 0) (hroom : counterFull h .press = false)
    (hlease : ∀ r < tileLines t, leaseMiss s h.sel.cord h.cord ((List.range (lineBytes t)).map (presswAddr e r)) false = none)
    (hi : Issues s h g { reads := [.s (sReg a)], fallible := true }) :
    execPressw g d a m s = .next (left
      (issueEngine (.pressw g d a m) h { e with mac := m.toNat }
        (modHereCore s h (modMac h.cord m.toNat (pressMac (coreOfCord s h.cord) h.cord t)))) h g
      { reads := [.s (sReg a)], fallible := true } {}) := by
  subst ht hva he
  have hfree : (List.range (tileLines (tileOf h.cord d.toNat))).findSome? (fun r => leaseMiss s h.sel.cord h.cord
      ((List.range (lineBytes (tileOf h.cord d.toNat))).map (presswAddr { blankEOp with
        kind := .pressw, tile := tileOf h.cord d.toNat, tileNo := d.toNat, desc := [rdS h.cord (sReg a)] } r)) false) = none :=
    List.findSome?_eq_none_iff.2 fun r hr => hlease r (List.mem_range.1 hr)
  unfold execPressw
  rw [runWord_issues (h := h) (by rwa [hroom]) (by rw [hgood]; rfl), hroom]
  dsimp only
  rw [leasedIssue_of_free (by rw [hfree, ite_self])]
  rfl

/-! ### The codebook -/

theorem cbld_issues {va : BitVec 64} (hva : rdS h.cord (sReg a) = va) (halign : va.toNat % 16 = 0) (hroom : counterFull h .press = false)
    (hlease : leaseMiss s h.sel.cord h.cord (upFrom va 1024) false = none)
    (hi : Issues s h g { reads := [.s (sReg a)], fallible := true }) :
    execCbld g a s = .next (left (issueEngine (.cbld g a) h { blankEOp with kind := .cbld, desc := [va] } s) h g
      { reads := [.s (sReg a)], fallible := true } {}) := by
  subst hva
  unfold execCbld
  rw [runWord_issues (h := h) (by rwa [hroom]) (by rw [halign]; rfl), hroom]
  dsimp only
  rw [leasedIssue_of_free hlease]
  rfl

theorem cbld_stops {va : BitVec 64} (hva : rdS h.cord (sReg a) = va) (halign : va.toNat % 16 ≠ 0) (hroom : counterFull h .press = false)
    (hi : Issues s h g { reads := [.s (sReg a)], fallible := true }) :
    execCbld g a s = .next (stopHere s h (faultHere s h (.cbld g a) 1 0 0)) := by
  subst hva
  unfold execCbld
  exact runWord_stops (h := h) (by rwa [hroom]) (by simp [halign])

/-- No press of the cord is outstanding. -/
theorem cbldDef_issues (hidle : h.cord.eops.all (fun e => !(e.cls == .press && eopLive e)) = true) (hi : Issues s h g {}) :
    execCbldDef g s = .next (left (modHereCore s h (fun co => { co with owner := none })) h g {} {}) := by
  have hhold : h.cord.eops.any (fun e => e.cls == .press && eopLive e) = false := by
    simpa [imp_iff_not_or] using hidle
  unfold execCbldDef
  rw [plainWord_issues (h := h) (by rwa [hhold]), hhold]

theorem cbdec_issues (hi : Issues s h g { reads := [.v a], writes := [.v d], lat := 4 }) :
    execCbdec g d a s = .next (left (writeRegs s h
      (toV d (BitVec.ofNat 32 (decodeIndex (codeEntry (coreOfCord s h.cord) h.cord.ctx) ((rdV h.st a).toNat % 65536)))) (h.now + 4) false)
      h g { reads := [.v a], writes := [.v d], lat := 4 } {}) := by
  unfold execCbdec
  rw [plainWord_issues (h := h) hi]
  rfl

end

/-- Settles O32: each word by its one check. -/
theorem pressIssueResults : Obligations.PressIssueResults := by
  unfold Obligations.PressIssueResults
  intro s h g d a m t va co e marked
  exact ⟨press_issues rfl, pressw_issues rfl rfl rfl, cbld_issues rfl, cbld_stops rfl, cbldDef_issues, cbdec_issues,
    fun f hfault hbad hroom hi => press_stops hfault hbad hroom hi⟩

/-! ### Scales -/

section
variable {s : State} {h : Here} {g : Guard} {d a : BitVec 7} {r : BitVec 1}

/-- A word over two scale registers that no engine operation still has to use. -/
theorem skWord_issues {i : Instr} {f : Nat → Nat → Nat} (hfree : scaleBusy h.cord [d.toNat, a.toNat] = false)
    (hi : Issues s h g { kregs := [d.toNat, a.toNat] }) :
    skWord i g d a r f s = .next (left (skAll f d.toNat a.toNat r h s) h g { kregs := [d.toNat, a.toNat] } {}) := by
  unfold skWord
  rw [plainWord_issues (h := h) (by rwa [hfree]), hfree]

/-- The NaN scale, and the range of the scales otherwise, in the words of R336. -/
theorem skNan_eq (f : Nat → Nat → Nat) : skNan f = fun x y => if x = 255 ∨ y = 255 then 255 else f x y := by
  funext x y
  simp [skNan]

theorem sat_scale_eq (v : Int) : (sat v 0 254).toNat = if v < 0 then 0 else if 254 < v then 254 else v.toNat := by
  unfold sat
  split
  · rfl
  · split <;> rfl

theorem skset_issues (hfree : scaleBusy h.cord [d.toNat] = false) (hi : Issues s h g { reads := [.s (sReg a)], kregs := [d.toNat] }) :
    execSkset g d a r s = .next (left
      (stampScale (modHereCore s h (modScale h.cord d.toNat (fun y => { y with
        bytes := (List.range 1024).map (fun i => (i, BitVec.ofNat 8 ((rdS h.cord (sReg a)).toNat % 256))) }))) h.sel.cord d.toNat (r == 1#1))
      h g { reads := [.s (sReg a)], kregs := [d.toNat] } {}) := by
  unfold execSkset
  rw [plainWord_issues (h := h) (by rwa [hfree]), hfree]
  rfl

/-- Bits 25:16 name the byte. -/
theorem extract_place (x : BitVec 32) : (x.extractLsb' 16 10).toNat = x.toNat / 65536 % 1024 := by
  simp [BitVec.extractLsb'_toNat, Nat.shiftRight_eq_div_pow]

theorem skins_issues (hfree : scaleBusy h.cord [d.toNat] = false) (hi : Issues s h g { reads := [.v a], kregs := [d.toNat] }) :
    execSkins g d a r s = .next (left
      (stampScale (modHereCore s h (modScale h.cord d.toNat (fun y => { y with
        bytes := mset y.bytes ((rdV h.st a).toNat / 65536 % 1024) ((rdV h.st a).extractLsb' 0 8) }))) h.sel.cord d.toNat (r == 1#1))
      h g { reads := [.v a], kregs := [d.toNat] } {}) := by
  unfold execSkins
  rw [plainWord_issues (h := h) (by rwa [hfree]), hfree]
  simp only [extract_place]

theorem skext_issues {n : Nat} (hn : (rdV h.st d).toNat = n) (hfree : scaleBusy h.cord [a.toNat] = false)
    (hi : Issues s h g { reads := [.v d], writes := [.v d], lat := 4, kregs := [a.toNat] }) :
    execSkext g d a s = .next (left
      (writeRegs s h (toV d (if n ≤ 1023 then (byteAt (scaleOf (coreOfCord s h.cord) h.cord a.toNat).bytes n).setWidth 32 else 0)) (h.now + 4) false)
      h g { reads := [.v d], writes := [.v d], lat := 4, kregs := [a.toNat] } {}) := by
  subst hn
  unfold execSkext
  rw [plainWord_issues (h := h) (by rwa [hfree]), hfree]
  dsimp only
  by_cases hin : (rdV h.st d).toNat ≤ 1023
  · rw [if_neg (Nat.not_lt.2 hin), if_pos hin, BitVec.ofNat_toNat]
  · rw [if_pos (Nat.lt_of_not_le hin), if_neg hin]
    rfl

theorem skbind_issues {t : Tile} (ht : tileOf h.cord d.toNat = t) (hfree : scaleBusy h.cord [a.toNat] = false) (hdefined : t.state ≠ 0)
    (hi : Issues s h g { kregs := [a.toNat] }) :
    execSkbind g d a s = .next (left
      (modHereCord s h (setTile d.toNat { t with bk := a.toNat, btag := (scaleOf (coreOfCord s h.cord) h.cord a.toNat).crown, state := 2 }))
      h g { kregs := [a.toNat] } {}) := by
  subst ht
  unfold execSkbind
  rw [runWord_issues (h := h) (by rwa [hfree]) (by simpa using hdefined), hfree]
  rfl

theorem skbind_stops (hfree : scaleBusy h.cord [a.toNat] = false) (hundefined : (tileOf h.cord d.toNat).state = 0)
    (hi : Issues s h g { kregs := [a.toNat] }) :
    execSkbind g d a s = .next (stopHere s h (faultHere s h (.skbind g d a) 19 0 0)) := by
  unfold execSkbind
  exact runWord_stops (h := h) (by rwa [hfree]) (by rw [hundefined]; rfl)

end

/-- Settles O33: the words over two registers differ in one function of two scales; the others touch one register. -/
theorem scaleWordResults : Obligations.ScaleWordResults := by
  unfold Obligations.ScaleWordResults
  intro s h g d a r co D A n x nan clamp each sp t
  refine ⟨fun hfree => ?_, fun hfree => ⟨skset_issues hfree, skins_issues hfree⟩, skext_issues rfl, skbind_issues rfl, skbind_stops⟩
  have hword : ∀ (i : Instr) (f f' : Nat → Nat → Nat), f = f' → Issues s h g sp → skWord i g d a r f s = .next (left (each f') h g sp {}) := by
    rintro i f - rfl hi
    exact skWord_issues hfree hi
  clear_value each
  have hclamp : ∀ v : Int, (sat v 0 254).toNat = clamp v := sat_scale_eq
  refine ⟨hword _ _ _ ?_, hword _ _ _ ?_, hword _ _ _ (skNan_eq max), hword _ _ _ (skNan_eq min), hword _ _ _ rfl⟩
  · simp only [hclamp]
    exact skNan_eq _
  · simp only [hclamp]
    exact skNan_eq _

end Sys2Proof.Laws

/-!
O34 and O37, the sparse forms and the words for the fabric (R324, R339, R340, R406 to R415).
-/
namespace Sys2Proof.Laws
open Sys2Proof.Machine Sys2Proof.Safety

/-! ### Sparse forms -/

section
variable {s : State} {h : Here} {g : Guard} {d a : BitVec 7}

/-- A word from tile to tile, its tiles good, captures both and leaves the strand tiling. -/
theorem tileWord_issues {i : Instr} {prune : Bool} {ok : Here → Bool} (hok : ok h = true) (hi : Issues s h g {}) :
    tileWord i g d a prune ok s = .next (left
      (modHere { s with uid := s.uid + 1 } h (fun st => { st with
        tiling := some ⟨s.uid, prune, tileOf h.cord a.toNat, a.toNat, tileOf h.cord d.toNat, d.toNat⟩ })) h g {} {}) := by
  unfold tileWord
  rw [runWord_issues (h := h) hi (by rw [hok]; rfl)]
  rfl

theorem cmpr_issues {ts td : Tile} (hts : tileOf h.cord a.toNat = ts) (htd : tileOf h.cord d.toNat = td) (hloaded : ts.state = 2)
    (hdense : ts.sparse = false) (hfmt : ts.fmt = 10#4 ∨ ts.fmt = 11#4) (hrows : ts.rows = 256)
    (hsame : td.state ≠ 0 ∧ td.sparse = true ∧ td.fmt = ts.fmt ∧ td.rows = ts.rows ∧ td.cols = ts.cols ∧ tilesOverlap td ts = false)
    (hi : Issues s h g {}) :
    execCmpr g d a s = .next (left
      (modHere { s with uid := s.uid + 1 } h (fun st => { st with tiling := some ⟨s.uid, false, ts, a.toNat, td, d.toNat⟩ })) h g {} {}) := by
  obtain ⟨hdefined, hsparse, hfmts, hrowss, hcols, hapart⟩ := hsame
  subst hts htd
  refine tileWord_issues (h := h) ?_ hi
  dsimp only
  rw [hloaded, hdense, hsparse, hfmts, hrowss, hcols, hapart, hrows]
  simpa using ⟨hfmt, hdefined⟩

theorem sbmap_issues {ts td : Tile} (hts : tileOf h.cord a.toNat = ts) (htd : tileOf h.cord d.toNat = td) (hloaded : ts.state = 2)
    (hsparse : ts.sparse = true)
    (hdst : d = a ∨ td.state ≠ 0 ∧ td.sparse = true ∧ td.fmt = ts.fmt ∧ td.rows = ts.rows ∧ td.cols = ts.cols ∧ tilesOverlap td ts = false)
    (hi : Issues s h g {}) :
    execSbmap g d a s = .next (left
      (modHere { s with uid := s.uid + 1 } h (fun st => { st with tiling := some ⟨s.uid, true, ts, a.toNat, td, d.toNat⟩ })) h g {} {}) := by
  subst hts htd
  refine tileWord_issues (h := h) ?_ hi
  dsimp only
  rw [hloaded, hsparse]
  simpa [and_assoc] using hdst

end

section
variable {s : State} {k l : Nat} {c : Cord} {st : Strand} {t : Tiling}

/-- A strand whose tile is still being written issues nothing. -/
theorem ableStrand_of_tiling (ht : st.tiling = some t) (now : Nat) : ableStrand c st now = false := by
  simp [ableStrand, ht]

variable (hc : mget s.cords k = some c) (hst : mget c.strands l = some st) (ht : st.tiling = some t)
include hc hst ht

theorem execTileWrite_waits (hwait : c.life ≠ .running ∨ tilingReady c t = false) : execTileWrite k l s = .next s := by
  have hready : (c.life == .running && tilingReady c t) = false := by
    simpa [imp_iff_not_or] using hwait
  simp [execTileWrite, hc, hst, ht, hready]

theorem execTileWrite_writes (hrunning : c.life = .running) (hready : tilingReady c t = true) :
    execTileWrite k l s =
      let s := modCoreOf s c (fun co => { co with scratch := putRecords t.dst (scrBase c) (tilingRecords t co.scratch (scrBase c)) co.scratch })
      let s := modCord s k (setTile t.dstNo { tileOf c t.dstNo with state := 2, bk := t.src.bk, btag := t.src.btag })
      .next (modStrand s k l (fun st => { st with tiling := none, ready := max st.ready (cycOf s c.dev c.die + 1) })) := by
  simp [execTileWrite, hc, hst, ht, hrunning, hready]

end

theorem tilingRecords_eq (t : Tiling) (m : SMap (BitVec 8)) (b : Nat) :
    tilingRecords t m b =
      if t.prune then (List.range t.src.cols).map (fun n =>
        prunedRecord (if t.src.fmt = 10#4 then 8 else 4) (getBytes m (b + t.src.base + n * t.src.pitch) (lineBytes t.src)))
      else compactTile m b t.src := by
  unfold tilingRecords
  simp only [beq_iff_eq]

/-- Settles O34: the two words pass their shapes, and the write waits for its tiles. -/
theorem sparseFormResults : Obligations.SparseFormResults := by
  unfold Obligations.SparseFormResults
  refine ⟨?words, ?write⟩
  case words =>
    intro s h g d a ts td starts same
    exact ⟨cmpr_issues rfl rfl, sbmap_issues rfl rfl⟩
  case write =>
    intro s k l c st t hc hst ht
    refine ⟨ableStrand_of_tiling ht, execTileWrite_waits hc hst ht, fun hrunning hready => ?_⟩
    rw [execTileWrite_writes hc hst ht hrunning hready]
    simp only [tilingRecords_eq]

/-! ### Words for the fabric -/

section
variable {s : State} {h : Here} {g : Guard} {d a : BitVec 7}

theorem sendWord_issues {i : Instr} {add : Bool} {ds : List (BitVec 64)} (hds : sRegs h.cord a 3 = ds) (hgood : sendFault h.cord add ds = none)
    (hlease : sendLease s h.sel.cord h.cord ds true = none) (hroom : counterFull h .fabric = false)
    (hi : Issues s h g { reads := descRegs a 3, fallible := true }) :
    let f := (accessFate s (coreIdOf h.cord) h.cord.ctx (sendNeed add) (dreg ds 1) (sendLen ds)).getD (0, 0)
    sendWord i g a add s = .next (left
      (issueEngine i h { blankEOp with
        kind := if add then .rsendAdd else .rsend, desc := ds, cause := f.1, addr := BitVec.ofNat 64 f.2 } s) h g
      { reads := descRegs a 3, fallible := true } {}) := by
  subst hds
  unfold sendWord
  rw [runWord_issues (h := h) (by rwa [hroom]) (by rw [hgood]; rfl), hroom]
  dsimp only
  rw [leasedIssue_of_free hlease]
  rfl

/-- A trigger whose fields, send and sync word are good, with a threshold its word can reach. -/
structure Armable (m : SMap (BitVec 8)) (c : Cord) (ds : List (BitVec 64)) : Prop where
  reserved : bitsOf (dreg ds 3) 20 12 = 0
  send : sendFault c (trigAdd ds) ds = none
  aligned : trigOff ds % 16 = 0
  granted : scratchOk c (trigOff ds) 16 = true
  reachable : word32 m (scrBase c + trigOff ds) = 0 ∨ trigThresh ds ≤ word32 m (scrBase c + trigOff ds)

theorem armFault_of_armable {m : SMap (BitVec 8)} {c : Cord} {ds : List (BitVec 64)} (harm : Armable m c ds) : armFault m c ds = none := by
  obtain ⟨hreserved, hsend, halign, hgrant, hreach⟩ := harm
  have hlate : (word32 m (scrBase c + trigOff ds) != 0 && decide (word32 m (scrBase c + trigOff ds) < trigThresh ds)) = false := by
    simpa [imp_iff_not_or] using hreach
  simp [armFault, hreserved, hsend, halign, hgrant, hlate]

section
variable {qs : List (BitVec 64)} (hqs : sRegs h.cord a 4 = qs) (harm : Armable (coreOfCord s h.cord).scratch h.cord qs)
  (hlease : sendLease s h.sel.cord h.cord qs true = none)
include hqs harm hlease

/-- A tsend with a good trigger has the effect of the trigger entry it finds. -/
theorem tsend_issues (hi : Issues s h g { reads := descRegs a 4, writes := [.s (sReg d)] }) :
    execTsend g d a s = .next (left
      (match freeTrig h.cord with
      | none => writeRegs s h (toS (sReg d) 0) (h.now + 1) false
      | some n =>
        writeRegs (armEntry (.tsend g d a) n qs h s) h
          (toS (sReg d) (BitVec.ofNat 64 (n + 16 * (nextArming (h.cord.trig[n]?.getD blankTrig).count).toNat))) (h.now + 1) false) h g
      { reads := descRegs a 4, writes := [.s (sReg d)] } {}) := by
  subst hqs
  unfold execTsend
  rw [runWord_issues (h := h) hi
    (congrArg (Option.map (fun f => faultHere s h (.tsend g d a) f.1 f.2 0)) (armFault_of_armable harm))]
  dsimp only
  rw [leasedIssue_of_free hlease]
  rfl

end

theorem tscncl_issues (hi : Issues s h g { reads := [.s (sReg a)] }) :
    execTscncl g a s = .next (left
      (cancelSends s h.sel.cord (fun n t => n + 16 * t.count.toNat == (rdS h.cord (sReg a)).toNat)) h g { reads := [.s (sReg a)] } {}) := by
  unfold execTscncl
  rw [plainWord_issues (h := h) hi]

theorem esend_issues {qs : List (BitVec 64)} (hqs : sRegs h.cord a 4 = qs) (hgood : esendFault (ctxOf s h.cord.ctx) h.cord qs = none)
    (hlease : (dreg qs 2).getLsbD 48 = false → leaseMiss s h.sel.cord h.cord (upFrom (dreg qs 0) (sendLen qs)) false = none)
    (hroom : counterFull h .fabric = false) (hi : Issues s h g { reads := descRegs a 4, fallible := true }) :
    execEsend g a s = .next (left
      (issueEngine (.esend g a) h { blankEOp with
        kind := .esend
        desc := qs
        spray := (List.range (esendSet qs)).map (fun i =>
          BitVec.ofNat 16 (leNat (getBytes (coreOfCord s h.cord).scratch (scrBase h.cord + esendOff qs + 2 * i) 2))) } s) h g
      { reads := descRegs a 4, fallible := true } {}) := by
  subst hqs
  have hfree : (if ((dreg (sRegs h.cord a 4) 2).getLsbD 48 || h.cord.hdr.leases.isEmpty) = true then none
      else leaseMiss s h.sel.cord h.cord (upFrom (dreg (sRegs h.cord a 4) 0) (sendLen (sRegs h.cord a 4))) false) = none := by
    cases hside : (dreg (sRegs h.cord a 4) 2).getLsbD 48 with
    | true => rfl
    | false => rw [hlease hside, ite_self]
  unfold execEsend
  rw [runWord_issues (h := h) (by rwa [hroom])
    (congrArg (Option.map (fun f => faultHere s h (.esend g a) f.1 f.2 0)) hgood), hroom]
  dsimp only
  rw [leasedIssue_of_free hfree]
  rfl

theorem erecv_issues {ds : List (BitVec 64)} (hds : sRegs h.cord a 3 = ds) (hzero : bitsOf (dreg ds 1) 49 15 = 0)
    (hzero' : bitsOf (dreg ds 2) 19 45 = 0) (halign : bitsOf (dreg ds 2) 0 19 % 16 = 0) (hgrant : scratchOk h.cord (bitsOf (dreg ds 2) 0 19) 16 = true)
    (hroom : counterFull h .fabric = false) (hi : Issues s h g { reads := descRegs a 3, fallible := true }) :
    execErecv g a s = .next (left (issueEngine (.erecv g a) h { blankEOp with kind := .erecv, desc := ds } s) h g
      { reads := descRegs a 3, fallible := true } {}) := by
  subst hds
  unfold execErecv
  rw [runWord_issues (h := h) (by rwa [hroom]) ?check, hroom]
  · rfl
  case check =>
    dsimp only
    rw [syncCheck_of_good (fun o ho => Option.some.inj ho ▸ ⟨halign, hgrant⟩), hzero, hzero']
    rfl

end

/-- Settles O37: a good descriptor passes the faults of its word, and its leases let it join the fabric class. -/
theorem fabricIssueResults : Obligations.FabricIssueResults := by
  unfold Obligations.FabricIssueResults
  intro s h g d a ds qs m b sp send armable tsp
  refine ⟨sendWord_issues rfl, sendWord_issues rfl, ?full, ?armed, tscncl_issues, ?esend, erecv_issues rfl⟩
  case full =>
    rintro ⟨hreserved, hsend, halign, hgrant, hreach, hlease⟩ hfree hi
    have h := tsend_issues rfl ⟨hreserved, hsend, halign, hgrant, hreach⟩ hlease hi
    rwa [hfree] at h
  case armed =>
    rintro ⟨hreserved, hsend, halign, hgrant, hreach, hlease⟩ n hfree hi
    have h := tsend_issues rfl ⟨hreserved, hsend, halign, hgrant, hreach⟩ hlease hi
    rwa [hfree] at h
  case esend =>
    intro hzero hzero' hpos hmax hpeer halign hspray hsource hlease hroom
    refine esend_issues rfl ?_ hlease hroom
    rw [esendFault_of_fields hzero hzero' hpos hmax hpeer, if_neg (not_not.2 halign), if_neg (ne_false_of_eq_true hspray), if_neg]
    rintro ⟨hside, hbeyond⟩
    rw [hsource hside] at hbeyond
    exact Bool.noConfusion hbeyond

end Sys2Proof.Laws

/-!
O44 and O45, the recording of failures and faults, the entry of handler mode and what both leave of a strand (R352 to R360, R374, R435).
-/
namespace Sys2Proof.Laws
open Sys2Proof.Machine Sys2Proof.Safety

/-! ### What a trap and a return leave of a strand -/

/-- Every unsettled operation has a place in the sequence, so none is left where all those are gone. -/
theorem hzClear_maskOff (now : Nat) (r : TrapRec) (st : Strand) : hzClear now (maskOff r st) = true := by
  simp only [hzClear, unsettled, maskOff, List.filter_filter, List.isEmpty_iff, List.filter_eq_nil_iff]
  intro o _
  cases o.seq <;> simp

/-- A return that runs no sequence resumes at RESUME. -/
theorem leaveHandler_of_noRerun {b : Bool} {now : Nat} {st : Strand} {r : TrapRec} (htrap : st.trap = some r) (hnone : b = false ∨ rerunSeq r = []) :
    (leaveHandler b now st).pc = r.resume ∧ (leaveHandler b now st).hint = r.hint ∧ (leaveHandler b now st).rep = r.rep := by
  have hseq : (if b then rerunSeq r else []) = [] := by
    rcases hnone with rfl | hnone
    · rfl
    · rw [hnone, ite_self]
  simp [leaveHandler, htrap, hseq]

/-- A return that runs a sequence keeps RESUME for its end. -/
theorem leaveHandler_of_rerun {now : Nat} {st : Strand} {r : TrapRec} {x : Rerun} {xs : List Rerun} (htrap : st.trap = some r)
    (hseq : rerunSeq r = x :: xs) :
    (leaveHandler true now st).rerun = x :: xs ∧ (leaveHandler true now st).resume = some ⟨r.resume, r.rep, r.hint⟩ := by
  simp [leaveHandler, htrap, hseq]

/-- Settles O45: the records and the entry by definition, a return by whether it runs a sequence. -/
theorem trapAndReturnStrand : Obligations.TrapAndReturnStrand := by
  unfold Obligations.TrapAndReturnStrand
  intro st c now v f o os r m e same
  have hreturn : ∀ b, same (leaveHandler b now st) ∧ (leaveHandler b now st).mode = .running ∧
      (leaveHandler b now st).stat = st.stat &&& ~~~8#32 := by
    intro b
    obtain ⟨hv, hpreds, hrs, hcsp, hfpf, -, -, -, hnext, hsync, -, hmode, hstat⟩ := leaveHandler_keeps b now st
    exact ⟨⟨hv, hpreds, hrs, hcsp, hfpf, hsync, hnext⟩, hmode, hstat⟩
  have hsame : same m ∧ same e := ⟨⟨rfl, rfl, rfl, rfl, rfl, rfl, rfl⟩, ⟨rfl, rfl, rfl, rfl, rfl, rfl, rfl⟩⟩
  refine ⟨⟨hsame.1, rfl, rfl, rfl, hzClear_maskOff now r st⟩, ⟨hsame.2, rfl, rfl, rfl, ?trap⟩, ⟨rfl, rfl, rfl, rfl, rfl, ?resume⟩,
    ⟨rfl, rfl, rfl, rfl, rfl⟩, ?noRerun, ?rerun⟩
  case trap => exact Option.map_id' ..
  case resume =>
    intro hresume
    simp [failureRecord, resumeOf, hresume]
  case noRerun =>
    intro htrap b hnone
    obtain ⟨hkeep, hmode, hstat⟩ := hreturn b
    obtain ⟨hpc, hhint, hrep⟩ := leaveHandler_of_noRerun (now := now) htrap hnone
    exact ⟨hkeep, hmode, hpc, hstat, hhint, hrep⟩
  case rerun =>
    intro htrap x xs hseq
    exact ⟨(hreturn true).1, leaveHandler_of_rerun htrap hseq⟩

/-! ### Recording -/

/-- What the record of a failure finds of a strand whose waits it abandoned: its registers and its operations. -/
structure Abandoned (st t : Strand) : Prop where
  v : t.v = st.v
  preds : t.preds = st.preds
  fpf : t.fpf = st.fpf
  ops : t.ops = st.ops

/-- Taking back a phase changes a strand in what it waits for and where it stands. -/
theorem withdrawPhase_strand {l : Nat} {c : Cord} {st : Strand} (hst : mget c.strands l = some st) :
    ∃ t, mget (withdrawPhase l c).strands l = some t ∧ Abandoned st t := by
  unfold withdrawPhase
  split
  · exact ⟨st, hst, ⟨rfl, rfl, rfl, rfl⟩⟩
  · refine ⟨_, (mget_mmod_same ..).trans (congrArg _ hst), ⟨rfl, rfl, rfl, rfl⟩⟩

theorem withdrawPhase_place (l : Nat) (c : Cord) : (withdrawPhase l c).dev = c.dev ∧ (withdrawPhase l c).die = c.die := by
  unfold withdrawPhase
  split <;> exact ⟨rfl, rfl⟩

/-- A strand whose fault takes its word back stands at that word. -/
def backToFault (st : Strand) : Strand :=
  match st.fault with
  | some f => if f.here then { st with pc := f.pc, hint := f.hint, rep := none } else st
  | none => st

theorem backToFault_keeps (st : Strand) : Abandoned st (backToFault st) := by
  unfold backToFault
  split
  · split <;> exact ⟨rfl, rfl, rfl, rfl⟩
  · exact ⟨rfl, rfl, rfl, rfl⟩

theorem abandonWaits_eq (s : State) (k l : Nat) : abandonWaits s k l = modStrand (modCord s k (withdrawPhase l)) k l backToFault := rfl

theorem abandonWaits_strand {s : State} {k l : Nat} {c : Cord} {st : Strand} (hc : mget s.cords k = some c) (hst : mget c.strands l = some st) :
    ∃ c' t, mget (abandonWaits s k l).cords k = some c' ∧ c'.dev = c.dev ∧ c'.die = c.die ∧ mget c'.strands l = some t ∧ Abandoned st t := by
  obtain ⟨t, ht, hv, hpreds, hfpf, hops⟩ := withdrawPhase_strand hst
  obtain ⟨hv', hpreds', hfpf', hops'⟩ := backToFault_keeps t
  obtain ⟨hdev, hdie⟩ := withdrawPhase_place l c
  refine ⟨{ withdrawPhase l c with strands := mmod (withdrawPhase l c).strands l backToFault }, backToFault t, ?cord, hdev, hdie, ?strand,
    ⟨hv'.trans hv, hpreds'.trans hpreds, hfpf'.trans hfpf, hops'.trans hops⟩⟩
  case cord => simp only [abandonWaits_eq, modStrand, modCord, mget_mmod_same, hc, Option.map_some]
  case strand => simp only [mget_mmod_same, ht, Option.map_some]

/-- The failed operation is one of the strand's operations, whatever else the strand holds. -/
theorem failedOp_congr {st t : Strand} (hops : t.ops = st.ops) (now : Nat) : failedOp now t = failedOp now st := by
  simp [failedOp, hops]

theorem foldl_mshrLeave_cords (s : State) (c : Cord) (os : List Op) :
    (os.foldl (fun s o => mshrLeave s c o.uid) s).cords = s.cords := by
  induction os generalizing s with
  | nil => rfl
  | cons o os ih => exact (ih _).trans rfl

/-- The strand is masked off with a record of which p holds, its registers as they were. -/
def MaskedWith (t : State) (k l : Nat) (st : Strand) (p : TrapRec → Prop) : Prop :=
  ∃ st' r, strandOf t k l = some st' ∧ st'.mode = .masked ∧ st'.v = st.v ∧ st'.preds = st.preds ∧ st'.fpf = st.fpf ∧ st'.trap = some r ∧ p r

theorem undoRet_keeps (c : Cord) (now : Nat) (o : Op) (os : List Op) (st : Strand) :
    ∃ n, undoRet c now o os st = { st with issued := n } := by
  unfold undoRet
  split
  · exact ⟨_, rfl⟩
  · exact ⟨_, rfl⟩

/-- Recording a failure masks the strand off with the record of its failed operation. -/
theorem recordFailure_masks {s : State} {k l : Nat} {c : Cord} {st : Strand} {o : Op} {os : List Op} (hc : mget s.cords k = some c)
    (hst : mget c.strands l = some st) (hfailed : failedOp (cycOf s c.dev c.die) st = some (o, os)) :
    MaskedWith (recordFailure s k l) k l st
      (fun r => r.cause = BitVec.ofNat 32 o.cause ∧ r.pc = o.pc ∧ r.word = o.word ∧ r.addr = o.addr ∧ r.detail = o.detail) := by
  have hstrand : ∃ t, strandOf (recordFailure s k l) k l =
      some (undoRet c (cycOf s c.dev c.die) o os (maskOff (failureRecord c st (cycOf s c.dev c.die) o os) t)) ∧
      t.v = st.v ∧ t.preds = st.preds ∧ t.fpf = st.fpf := by
    simp only [recordFailure, hc, hst, Option.bind_some, hfailed, Option.map_some, strandOf_modStrand_same]
    simp only [strandOf, modCord, mget_mmod_same, foldl_mshrLeave_cords, hc, Option.map_some, Option.bind_some, dropDiscarded]
    rw [mget_map_entries, hst]
    · exact ⟨_, rfl, rfl, rfl, rfl⟩
    · exact fun _ => rfl
  obtain ⟨t, ht, hv, hpreds, hfpf⟩ := hstrand
  obtain ⟨n, hn⟩ := undoRet_keeps c (cycOf s c.dev c.die) o os (maskOff (failureRecord c st (cycOf s c.dev c.die) o os) t)
  rw [hn] at ht
  exact ⟨_, _, ht, rfl, hv, hpreds, hfpf, rfl, rfl, rfl, rfl, rfl, rfl⟩

/-- Recording a fault masks the strand off with its record. -/
theorem recordFault_masks {s : State} {k l : Nat} {st : Strand} (hst : strandOf s k l = some st) (f : PFault) :
    MaskedWith (recordFault s k l f) k l st
      (fun r => r.cause = BitVec.ofNat 32 f.cause ∧ r.pc = f.pc ∧ r.word = f.word ∧ r.addr = f.addr ∧ r.detail = f.detail) := by
  have hmasked := strandOf_modStrand_of (fun st => maskOff (faultRecord st f) st) hst
  refine ⟨maskOff (faultRecord st f) st, faultRecord st f, ?_, rfl, rfl, rfl, rfl, rfl, rfl, rfl, rfl, rfl, rfl⟩
  unfold recordFault
  dsimp only
  split
  · split
    · rename_i hcord hdebug
      simp only [strandOf, hcord, Option.bind_some] at hmasked
      simp only [strandOf, modCord, mget_mmod_same, hcord, Option.map_some, Option.bind_some, hmasked]
    · exact hmasked
  · exact hmasked

theorem MaskedWith.of_abandoned {t : State} {k l : Nat} {st st' : Strand} {p : TrapRec → Prop} (h : MaskedWith t k l st' p) (hkept : Abandoned st st') :
    MaskedWith t k l st p := by
  obtain ⟨x, r, hx, hmode, hv, hpreds, hfpf, htrap, hp⟩ := h
  exact ⟨x, r, hx, hmode, hv.trans hkept.v, hpreds.trans hkept.preds, hfpf.trans hkept.fpf, htrap, hp⟩

section
variable {s : State} {k l : Nat} {c : Cord} {st : Strand}
variable (hc : mget s.cords k = some c) (hst : mget c.strands l = some st) (hrunning : c.life = .running) (hfree : recordWaits s k l c st = false)
include hc hst hrunning hfree

/-- A failure whose younger operations have settled is recorded, or is a context error of a handler. -/
theorem execFailure_of_failed {o : Op} {os : List Op} (hfailed : failedOp (cycOf s c.dev c.die) st = some (o, os))
    (hsettled : failureSettled c (cycOf s c.dev c.die) os = true) :
    (st.mode = .running → execFailure k l s = .next (recordFailure (abandonWaits s k l) k l)) ∧
    (st.mode = .handler → execFailure k l s = .next (contextError s c.ctx l c.node o.pc o.cause (coreIdOf c))) := by
  constructor <;> intro hmode <;> simp [execFailure, hc, hst, hrunning, hfree, hmode, hfailed, hsettled]

/-- A fault with nothing older unsettled is recorded, or is a context error of a handler. -/
theorem execFailure_of_fault {f : PFault} (hnone : failedOp (cycOf s c.dev c.die) st = none) (hfault : st.fault = some f)
    (hclear : hzClear (cycOf s c.dev c.die) st = true) :
    (st.mode = .running → execFailure k l s = .next (recordFault (abandonWaits s k l) k l f)) ∧
    (st.mode = .handler → execFailure k l s = .next (contextError s c.ctx l c.node f.pc f.cause (coreIdOf c))) := by
  constructor <;> intro hmode <;> simp [execFailure, hc, hst, hrunning, hfree, hmode, hnone, hfault, hclear]

end

/-! ### Handler mode -/

section
variable {s : State} {k : Nat} {c : Cord} {v : BitVec 64}
variable (hc : mget s.cords k = some c) (htakes : takesTrap c = true) (hdebug : c.debug = false)

theorem maskedLanes_of_takesTrap (htakes : takesTrap c = true) : ∃ p, p ∈ maskedLanes c := by
  have hsome : maskedLanes c ≠ [] := by
    simp only [takesTrap, Bool.and_eq_true, Bool.not_eq_true', List.isEmpty_eq_false_iff] at htakes
    exact htakes.1.1.1.2
  exact List.exists_mem_of_ne_nil _ hsome

include hc htakes hdebug

theorem execTrapEntry_enters (hvector : (ctxOf s c.ctx).vector = some v) (hown : (maskedLanes c).all (fun p => !p.2.stat.getLsbD 2) = true) :
    execTrapEntry k s = .next (modCord s k (enterAll v (cycOf s c.dev c.die))) := by
  obtain ⟨p, hp⟩ := maskedLanes_of_takesTrap htakes
  have hflag : ∀ q ∈ maskedLanes c, q.2.stat.getLsbD 2 = false := fun q hq => by
    simpa using List.all_eq_true.1 hown q hq
  have hnotAll : (maskedLanes c).all (fun q => q.2.stat.getLsbD 2) = false :=
    List.all_eq_false.2 ⟨p, hp, by rw [hflag p hp]; exact Bool.false_ne_true⟩
  have hnotAny : (maskedLanes c).any (fun q => q.2.stat.getLsbD 2) = false :=
    List.any_eq_false.2 fun q hq => by rw [hflag q hq]; exact Bool.false_ne_true
  unfold execTrapEntry
  simp only [hc, htakes, hdebug, hvector, hnotAll, hnotAny]
  rfl

theorem execTrapEntry_enters_p2 (hvector : (ctxOf s c.ctx).vector = some v) (hp2 : (maskedLanes c).all (fun p => p.2.stat.getLsbD 2) = true) :
    execTrapEntry k s =
      .next (modCord s k (enterP2 v (cycOf s c.dev c.die) ((maskedLanes c).headD (0, startStrand 0 0 0 0)).1)) := by
  unfold execTrapEntry
  simp only [hc, htakes, hdebug, hvector, hp2]
  rfl

theorem execTrapEntry_ends (hvector : (ctxOf s c.ctx).vector = none) :
    let lead := (maskedLanes c).headD (0, startStrand 0 0 0 0)
    execTrapEntry k s = .next (fatalEnd s k lead.1 4 ((lead.2.trap.map (·.pc)).getD 0) 0 ((lead.2.trap.map (·.cause.toNat)).getD 0)) := by
  unfold execTrapEntry
  simp only [hc, htakes, hdebug, hvector]
  rfl

end

/-- Every masked strand of the cord is in its handler. -/
theorem strandOf_enterAll {s : State} {k j : Nat} {c : Cord} {x : Strand} (v : BitVec 64) (now : Nat) (hc : mget s.cords k = some c)
    (hx : mget c.strands j = some x) (hmasked : x.mode = .masked) :
    strandOf (modCord s k (enterAll v now)) k j = some (enterHandler v now false x) := by
  simp only [strandOf, modCord, mget_mmod_same, hc, Option.map_some, Option.bind_some, enterAll]
  rw [mget_map_entries, hx]
  · simp [hmasked]
  · exact fun _ => rfl

/-- Settles O44: a failure and a fault by what R352 and R353 wait for, an entry by the vector and P2. -/
theorem trapEvents : Obligations.TrapEvents := by
  unfold Obligations.TrapEvents
  intro s k l c st hc now lead pc masked
  refine ⟨fun hst hrunning hfree => ⟨?failure, ?fault⟩, fun htakes hdebug => ⟨?own, ?shared, ?none⟩⟩
  case failure =>
    intro o os hfailed hsettled
    obtain ⟨hrecords, herrs⟩ := execFailure_of_failed hc hst hrunning hfree hfailed hsettled
    refine ⟨fun hmode => ⟨hrecords hmode, _, hrecords hmode, by simp, ?_⟩, herrs⟩
    obtain ⟨c', t, hc', hdev, hdie, ht, hkept⟩ := abandonWaits_strand hc hst
    have hcycle : cycOf (abandonWaits s k l) c'.dev c'.die = now := by rw [hdev, hdie]; rfl
    exact (recordFailure_masks hc' ht (by rw [hcycle, failedOp_congr hkept.ops]; exact hfailed)).of_abandoned hkept
  case fault =>
    intro f hnone hfault hclear
    obtain ⟨hrecords, herrs⟩ := execFailure_of_fault hc hst hrunning hfree hnone hfault hclear
    refine ⟨fun hmode => ⟨hrecords hmode, _, hrecords hmode, by simp, ?_⟩, herrs⟩
    obtain ⟨c', t, hc', -, -, ht, hkept⟩ := abandonWaits_strand hc hst
    exact (recordFault_masks (by simp [strandOf, hc', ht]) f).of_abandoned hkept
  case own =>
    intro v hvector hown
    have henters := execTrapEntry_enters hc htakes hdebug hvector hown
    refine ⟨henters, _, henters, rfl, fun j x hx hmasked => ⟨_, strandOf_enterAll v now hc hx hmasked, rfl, rfl, rfl, rfl, ?_⟩⟩
    exact Option.map_id' ..
  case shared => exact fun v hvector hp2 => execTrapEntry_enters_p2 hc htakes hdebug hvector hp2
  case none => exact fun hvector => execTrapEntry_ends hc htakes hdebug hvector

end Sys2Proof.Laws

/-!
The outstanding engine operations of a cord: what a change of the machine makes of the one a name finds (R296, R300). The engine and the link
events both end operations.
-/
namespace Sys2Proof.Laws
open Sys2Proof.Machine Sys2Proof.Safety

/-- The engine operation of a name, of a cord. -/
def eopAt (s : State) (k u : Nat) : Option EOp := (mget s.cords k).bind (eopOf · u)

theorem eopAt_of {s : State} {k u : Nat} {c : Cord} {e : EOp} (hc : mget s.cords k = some c) (he : eopOf c u = some e) : eopAt s k u = some e := by
  rw [eopAt, hc]
  exact he

theorem eopAt_finds {s : State} {k u : Nat} {e : EOp} (h : eopAt s k u = some e) :
    ∃ c, mget s.cords k = some c ∧ eopOf c u = some e := Option.bind_eq_some_iff.1 h

theorem eopOf_uid {c : Cord} {u : Nat} {e : EOp} (he : eopOf c u = some e) : e.uid = u := by
  simpa using List.find?_some he

/-! ### Changes that leave the operations -/

theorem eopAt_of_cords {s t : State} (h : t.cords = s.cords) (k u : Nat) : eopAt t k u = eopAt s k u := by
  rw [eopAt, h]
  rfl

theorem eopAt_modCord_other {f : Cord → Cord} (hf : ∀ c, (f c).eops = c.eops) (s : State) (j k u : Nat) :
    eopAt (modCord s j f) k u = eopAt s k u := by
  by_cases h : j = k
  · subst h
    simp only [eopAt, modCord, mget_mmod_same]
    cases mget s.cords j with
    | none => rfl
    | some c => simp only [Option.map_some, Option.bind_some, eopOf, hf]
  · simp only [eopAt, modCord, mget_mmod_other _ _ h]

@[simp] theorem eopAt_modStrand (s : State) (j l k u : Nat) (f : Strand → Strand) : eopAt (modStrand s j l f) k u = eopAt s k u :=
  eopAt_modCord_other (f := fun c => { c with strands := mmod c.strands l f }) (fun _ => rfl) s j k u

@[simp] theorem eopAt_modOp (s : State) (j l v k u : Nat) (f : Op → Op) : eopAt (modOp s j l v f) k u = eopAt s k u :=
  eopAt_modStrand ..

@[simp] theorem eopAt_modCtx (s : State) (x k u : Nat) (f : Context → Context) : eopAt (modCtx s x f) k u = eopAt s k u := rfl

@[simp] theorem eopAt_modCoreOf (s : State) (c : Cord) (f : Core → Core) (k u : Nat) : eopAt (modCoreOf s c f) k u = eopAt s k u := rfl

@[simp] theorem eopAt_abandonWait (s : State) (j l k u : Nat) : eopAt (abandonWait s j l) k u = eopAt s k u := by
  unfold abandonWait
  split
  · rfl
  · split
    · rfl
    · split
      · rfl
      · split <;> simp

/-! ### Changes of one operation -/

/-- Changing the operations of a name changes the one that name finds. -/
theorem eopAt_modEop {f : EOp → EOp} {s : State} {k u : Nat} (hf : ∀ e, e.uid = u → (f e).uid = u) :
    eopAt (modEop s k u f) k u = (eopAt s k u).map f := by
  have hfind : ∀ es : List EOp, (es.map (fun e => if e.uid == u then f e else e)).find? (·.uid == u) = (es.find? (·.uid == u)).map f := by
    intro es
    induction es with
    | nil => rfl
    | cons e es ih =>
      by_cases h : e.uid = u
      · simp [h, hf e h]
      · simpa [h] using ih
  simp only [eopAt, modEop, modCord, mget_mmod_same]
  cases mget s.cords k with
  | none => rfl
  | some c => exact hfind c.eops

/-- The cause an operation ends with: its own, or that of its first failing byte. -/
def endCause (e : EOp) : Nat := if e.cause = 0 then (e.bad.headD (0, 0, 0, 0)).2.1 else e.cause

/-- An operation as it ends. -/
def endedEop (e : EOp) : EOp := { e with state := if endCause e = 0 then .complete else .failed }

@[simp] theorem eopAt_finishEop (s : State) (k u : Nat) : eopAt (finishEop s k u) k u = (eopAt s k u).map endedEop := by
  unfold finishEop
  split
  · rename_i hc
    simp [eopAt, hc]
  · rename_i c hc
    split
    · rename_i he
      simp [eopAt, hc, he]
    · rename_i e he
      have hcause : (if e.cause = 13 then (13, e.addr, e.flags.zeroExtend 64) else if e.cause ≠ 0 then (e.cause, e.addr, e.detail)
          else (e.bad.headD (0, 0, 0, 0)).2).1 = endCause e := by
        unfold endCause
        by_cases h13 : e.cause = 13
        · rw [if_pos h13, if_neg (by omega), h13]
        · rw [if_neg h13]
          by_cases h0 : e.cause = 0
          · rw [if_neg (not_not.2 h0), if_pos h0]
          · rw [if_pos h0, if_neg h0]
      simp only [beq_iff_eq, bne_iff_ne]
      rw [eopAt_abandonWait, eopAt_modOp, eopAt_modStrand, eopAt_modEop, eopAt_of hc he, hcause]
      · rfl
      · exact fun _ h => h

/-- An operation that settles as failed has its cause. -/
theorem eopAt_failEop {s : State} {k u cause : Nat} {e : EOp} (addr detail : BitVec 64) (he : eopAt s k u = some e) (hcause : cause ≠ 0) :
    eopAt (failEop s k u cause addr detail) k u = some { e with cause := cause, addr := addr, detail := detail, state := .failed } := by
  unfold failEop
  rw [eopAt_finishEop, eopAt_modEop, he]
  · simp [endedEop, endCause, hcause]
  · exact fun _ h => h

/-- One that has no cause and no failing byte completes. -/
theorem endedEop_of_clean {e : EOp} (hcause : e.cause = 0) (hbad : e.bad = []) : endedEop e = { e with state := .complete } := by
  simp [endedEop, endCause, hcause, hbad]

end Sys2Proof.Laws

/-!
O49, links, planes, replay, credits and the paths of an Ethernet send (R385, R391 to R393, R395, R402, R415).
-/
namespace Sys2Proof.Laws
open Sys2Proof.Machine Sys2Proof.Safety

/-! ### Stations -/

theorem stationOf_of_modules {s t : State} (h : t.modules = s.modules) (dev st : Nat) : stationOf t dev st = stationOf s dev st := by
  simp only [stationOf, h]

/-- A station that is there changes as asked. -/
theorem stationOf_modStation {s : State} {dev st : Nat} {m : Module} (f : Station → Station) (hm : mget s.modules dev = some m) (hst : st < 16) :
    stationOf (modStation s dev st f) dev st = f (stationOf s dev st) := by
  simp [stationOf, modStation, hm, hst]

/-- A field that the change of a station keeps is kept in all of them. -/
theorem stationOf_modStation_keeps {α : Type} (p : Station → α) {f : Station → Station} (hf : ∀ t, p (f t) = p t) (s : State) (d j dev st : Nat) :
    p (stationOf (modStation s d j f) dev st) = p (stationOf s dev st) := by
  by_cases hd : d = dev
  · subst hd
    simp only [stationOf, modStation, mget_mmod_same]
    cases hm : mget s.modules d with
    | none => rfl
    | some m =>
      by_cases hst : st < 16
      · by_cases hj : j = st
        · subst hj
          simp [hst, hf]
        · simp [hst, Vector.getElem_setIfInBounds_ne, hj]
      · simp [hst]
  · simp only [stationOf, modStation, mget_mmod_other _ _ hd]

theorem stationOf_modDie (s : State) (d die : Nat) (f : Die → Die) (dev st : Nat) : stationOf (modDie s d die f) dev st = stationOf s dev st := by
  by_cases hd : d = dev
  · subst hd
    simp only [stationOf, modDie, mget_mmod_same]
    cases mget s.modules d <;> rfl
  · simp only [stationOf, modDie, mget_mmod_other _ _ hd]

/-! ### Losing packets -/

/-- A change of the machine that may lose packets and forget what a station holds of them, but names no new one and moves no link. -/
structure Sheds (s t : State) : Prop where
  packets : ∀ p ∈ t.packets, ∃ q ∈ s.packets, q.id = p.id
  link : ∀ dev st, (stationOf t dev st).link = (stationOf s dev st).link

theorem Sheds.of_eq {s t : State} (hp : t.packets = s.packets) (hm : t.modules = s.modules) : Sheds s t where
  packets p hmem := ⟨p, hp ▸ hmem, rfl⟩
  link dev st := by rw [stationOf_of_modules hm]

theorem Sheds.refl (s : State) : Sheds s s := .of_eq rfl rfl

theorem Sheds.trans {s t u : State} (h : Sheds s t) (k : Sheds t u) : Sheds s u where
  packets p hp := by
    obtain ⟨q, hq, hqp⟩ := k.packets p hp
    obtain ⟨r, hr, hrq⟩ := h.packets q hq
    exact ⟨r, hr, hrq.trans hqp⟩
  link dev st := (k.link dev st).trans (h.link dev st)

theorem Sheds.after {s t u : State} (h : Sheds t u) (hp : t.packets = s.packets) (hm : t.modules = s.modules) : Sheds s u :=
  Sheds.trans (.of_eq hp hm) h

theorem Sheds.foldl {α : Type} {f : State → α → State} (hf : ∀ s a, Sheds s (f s a)) (s : State) (xs : List α) : Sheds s (xs.foldl f s) := by
  induction xs generalizing s with
  | nil => exact .refl s
  | cons x xs ih => exact (hf s x).trans (ih (f s x))

theorem modCore_sheds (s : State) (dev die core : Nat) (f : Core → Core) : Sheds s (modCore s dev die core f) where
  packets p hp := ⟨p, hp, rfl⟩
  link _ _ := congrArg Station.link (stationOf_modDie ..)

theorem modStrand_sheds (s : State) (k l : Nat) (f : Strand → Strand) : Sheds s (modStrand s k l f) := .of_eq rfl rfl

theorem modOp_sheds (s : State) (k l u : Nat) (f : Op → Op) : Sheds s (modOp s k l u f) := .of_eq rfl rfl

theorem fillReplay_sheds (s : State) (dev st : Nat) : Sheds s (fillReplay s dev st) where
  packets p hp := ⟨p, hp, rfl⟩
  link _ _ := by
    refine stationOf_modStation_keeps (·.link) ?_ s dev st _ _
    exact fun _ => rfl

theorem Sheds.retime {s t : State} (h : Sheds s t) (u : State) : Sheds s (retime u t) where
  packets p hp := by
    obtain ⟨f, hf, hpackets⟩ := retime_packets u t
    rw [hpackets, List.mem_map] at hp
    obtain ⟨q, hq, rfl⟩ := hp
    obtain ⟨r, hr, hrq⟩ := h.packets q hq
    exact ⟨r, hr, hrq.trans (hf.id q).symm⟩
  link := h.link

/-- The packets but those of p's name. -/
theorem filter_sheds (s : State) (p : Packet) : Sheds s { s with packets := s.packets.filter (·.id != p.id) } where
  packets q hq := ⟨q, List.mem_of_mem_filter hq, rfl⟩
  link _ _ := rfl

/-- A dropped packet's name is gone. -/
theorem dropPacket_spec (s : State) (p : Packet) : Sheds s (dropPacket s p) ∧ ∀ q ∈ (dropPacket s p).packets, q.id ≠ p.id := by
  have hgone : ∀ q ∈ s.packets.filter (·.id != p.id), q.id ≠ p.id := fun q hq => by
    simpa using (List.mem_filter.1 hq).2
  unfold dropPacket
  dsimp only
  split
  · refine ⟨((filter_sheds s p).trans (fillReplay_sheds ..)).retime _, fun q hq => ?_⟩
    obtain ⟨f, hf, hpackets⟩ := retime_packets { s with packets := s.packets.filter (·.id != p.id) }
      (fillReplay { s with packets := s.packets.filter (·.id != p.id) } p.src.dev p.plane)
    rw [hpackets, List.mem_map] at hq
    obtain ⟨r, hr, rfl⟩ := hq
    rw [hf.id]
    exact hgone r hr
  · exact ⟨filter_sheds s p, hgone⟩

theorem abandonWait_sheds (s : State) (k l : Nat) : Sheds s (abandonWait s k l) := by
  unfold abandonWait
  split
  · exact .refl s
  · split
    · exact .refl s
    · split
      · exact .refl s
      · split <;> exact .of_eq rfl rfl

theorem finishEop_sheds (s : State) (k u : Nat) : Sheds s (finishEop s k u) := by
  unfold finishEop
  split
  · exact .refl s
  · split
    · exact .refl s
    · dsimp only
      exact (abandonWait_sheds ..).after rfl rfl

theorem landPiece_sheds (s : State) (k u n cause : Nat) (addr detail : BitVec 64) : Sheds s (landPiece s k u n cause addr detail) := by
  unfold landPiece
  dsimp only
  split
  · split
    · exact (finishEop_sheds ..).after rfl rfl
    · exact .of_eq rfl rfl
  · exact .of_eq rfl rfl

theorem settlePiece_sheds (s : State) (p : Packet) (y : Reply) (addr : BitVec 64) : Sheds s (settlePiece s p y addr) :=
  (landPiece_sheds ..).after rfl rfl

theorem noteEngine_sheds (s : State) (p : Packet) (write : Bool) (vas : List Nat) (got : List EByte) (cause : Nat) (detail : BitVec 64) :
    Sheds s (noteEngine s p write vas got cause detail) := .of_eq rfl rfl

theorem mshrLeave_sheds (s : State) (c : Cord) (u : Nat) : Sheds s (mshrLeave s c u) := by
  unfold mshrLeave modCoreOf
  exact modCore_sheds ..

theorem withdraw_sheds (s : State) (r : Req) (gone : Req → Bool) : Sheds s (withdraw s r gone) := by
  refine Sheds.trans (Sheds.foldl (fun s q => ?_) s ((restOf s r).filter gone)) (.of_eq rfl rfl)
  refine Sheds.trans (t := (packetOf s q).elim s (dropPacket s)) ?_ (.of_eq rfl rfl)
  cases packetOf s q with
  | none => exact .refl s
  | some p => exact (dropPacket_spec s p).1

theorem applyReply_sheds (s : State) (r : Req) (y : Reply) : Sheds s (applyReply s r y) := by
  unfold applyReply
  split
  · exact .refl s
  · rename_i c hc
    refine Sheds.trans ?_ ((abandonWait_sheds ..).after rfl rfl)
    split
    · exact .of_eq rfl rfl
    · exact (modStrand_sheds ..).trans ((mshrLeave_sheds ..).trans ((withdraw_sheds ..).trans (modOp_sheds ..)))

theorem fetchFails_sheds (s : State) (core : CoreId) (ctx base cause : Nat) (detail : BitVec 64) :
    Sheds s (fetchFails s core ctx base cause detail) := by
  refine (modCore_sheds ..).trans (.foldl ?_ _ _)
  exact fun _ _ => .of_eq rfl rfl

/-- A lost packet is dropped and its operation told: its name is gone. -/
theorem failPacket_spec (s : State) (down : Bool) (p : Packet) :
    Sheds s (failPacket s down p) ∧ ∀ q ∈ (failPacket s down p).packets, q.id ≠ p.id := by
  unfold failPacket
  split
  · rename_i hnone
    refine ⟨.refl s, fun q hq => ?_⟩
    have hno := List.find?_eq_none.1 (Option.isNone_iff_eq_none.1 hnone) q hq
    simpa using hno
  · obtain ⟨hdrop, hgone⟩ := dropPacket_spec s p
    have hthen : ∀ t, Sheds (dropPacket s p) t → Sheds s t ∧ ∀ q ∈ t.packets, q.id ≠ p.id := by
      refine fun t ht => ⟨hdrop.trans ht, fun q hq => ?_⟩
      obtain ⟨r, hr, hrq⟩ := ht.packets q hq
      exact hrq ▸ hgone r hr
    dsimp only
    split
    · exact hthen _ ((applyReply_sheds ..).after rfl rfl)
    · exact hthen _ (settlePiece_sheds ..)
    · exact hthen _ (noteEngine_sheds ..)
    · split
      · exact hthen _ (modCore_sheds ..)
      · exact hthen _ (fetchFails_sheds ..)
    · exact hthen _ (settlePiece_sheds ..)

/-- All the packets lost are gone. -/
theorem foldl_failPacket_spec (down : Bool) (ps : List Packet) (s : State) :
    Sheds s (ps.foldl (fun s p => failPacket s down p) s) ∧
    ∀ q ∈ (ps.foldl (fun s p => failPacket s down p) s).packets, ∀ p ∈ ps, q.id ≠ p.id := by
  induction ps generalizing s with
  | nil => exact ⟨.refl s, fun _ _ _ hp => absurd hp List.not_mem_nil⟩
  | cons p ps ih =>
    obtain ⟨hfail, hgone⟩ := failPacket_spec s down p
    obtain ⟨hrest, hothers⟩ := ih (failPacket s down p)
    refine ⟨hfail.trans hrest, fun q hq r hr => ?_⟩
    rcases List.mem_cons.1 hr with rfl | hr
    · obtain ⟨x, hx, hxq⟩ := hrest.packets q hq
      exact hxq ▸ hgone x hx
    · exact hothers q hq r hr

/-! ### Links -/

section
variable {s : State} {dev st : Nat} {m : Module}

theorem execLinkReturn_of_started (hm : mget s.modules dev = some m) (hstarted : m.started = true) :
    execLinkReturn dev st s = .next (retime s (modStation s dev st (fun t => { t with link := .up }))) := by
  simp [execLinkReturn, hm, hstarted]

theorem execLinkReturn_of_stopped (hm : mget s.modules dev = some m) (hstopped : m.started = false) : execLinkReturn dev st s = .next s := by
  simp [execLinkReturn, hm, hstopped]

/-- The packets a link that goes down loses. -/
def lostOn (s : State) (dev st : Nat) : List Packet :=
  s.packets.filter (fun p => remotePkt p && p.plane == st && (p.src.dev == dev || p.dst == dev) && !etherPkt p)

/-- A link declared down: the holders beyond it leave the directory. -/
def cutOff (s : State) (dev st : Nat) : State :=
  let down := modStation s dev st (fun t => { t with link := .down })
  { down with directory := down.directory.filter (fun d => !holderOn down dev st d) }

theorem execLinkDownDeclared_of_limit (hout : (stationOf s dev st).link ≠ .up)
    (hlimit : (stationOf s dev st).leftAt + ((mget s.modules dev).map (·.linkLimit)).getD 0 ≤ s.wall) :
    execLinkDownDeclared dev st s = .next ((lostOn s dev st).foldl (fun s p => failPacket s true p) (cutOff s dev st)) := by
  simp [execLinkDownDeclared, hout, Nat.not_lt.2 hlimit, lostOn, cutOff]

theorem stationOf_cutOff (hm : mget s.modules dev = some m) (hst : st < 16) : (stationOf (cutOff s dev st) dev st).link = .down :=
  congrArg Station.link (stationOf_modStation (fun t => { t with link := .down }) hm hst)

/-- What a link declared down leaves: its packets are gone, and it stays down. -/
theorem linkDown_leaves (hm : mget s.modules dev = some m) (hst : st < 16) :
    let y := (lostOn s dev st).foldl (fun s p => failPacket s true p) (cutOff s dev st)
    y.mem = s.mem ∧ (stationOf y dev st).link = .down ∧ ∀ p ∈ y.packets, ∀ q ∈ lostOn s dev st, p.id ≠ q.id := by
  obtain ⟨hsheds, hgone⟩ := foldl_failPacket_spec true (lostOn s dev st) (cutOff s dev st)
  exact ⟨mem_foldl (fun _ _ => failPacket_mem ..) _ _, (hsheds.link dev st).trans (stationOf_cutOff hm hst), hgone⟩

/-! ### Planes -/

variable {plane : Nat} (hm : mget s.modules dev = some m)
include hm

theorem execPlaneRetire_begins (hopen : m.retiring.getLsbD plane = false) :
    execPlaneRetire dev plane s = .next { s with modules := mmod s.modules dev (fun m =>
      { m with retiring := m.retiring ||| BitVec.ofNat 16 (2 ^ plane) }) } := by
  unfold execPlaneRetire
  rw [hm]
  dsimp only
  rw [hopen]
  rfl

theorem execPlaneRetire_waits (hretiring : m.retiring.getLsbD plane = true) (hbusy : planeBusy s dev plane = true) :
    execPlaneRetire dev plane s = .next s := by
  unfold execPlaneRetire
  rw [hm]
  dsimp only
  rw [hretiring, hbusy]
  rfl

theorem execPlaneRetire_retires (hretiring : m.retiring.getLsbD plane = true) (hidle : planeBusy s dev plane = false) :
    execPlaneRetire dev plane s = .next { s with modules := mmod s.modules dev (fun x =>
      { x with planes := x.planes.map (fun q => if q == plane then nextPlane x plane else q)
               retiring := x.retiring &&& ~~~(BitVec.ofNat 16 (2 ^ plane)) }) } := by
  unfold execPlaneRetire
  rw [hm]
  dsimp only
  rw [hretiring, hidle]
  rfl

end

/-! ### Replay and credits -/

section
variable {s : State} {dev st : Nat}

/-- A station that is there changes as asked; one that is not holds nothing. -/
theorem stationOf_modStation_or (s : State) (dev st : Nat) (f : Station → Station) :
    stationOf (modStation s dev st f) dev st = f (stationOf s dev st) ∨ stationOf (modStation s dev st f) dev st = ⟨.down, 0, [], []⟩ := by
  cases hm : mget s.modules dev with
  | none => exact .inr (by simp [stationOf, modStation, hm])
  | some m =>
    by_cases hst : st < 16
    · exact .inl (stationOf_modStation f hm hst)
    · exact .inr (by simp [stationOf, modStation, hm, hst])

/-- The flits of packets that have not arrived. -/
def unreached (s : State) (t : Station) : Station :=
  { t with replay := t.replay.filter (fun n => (packetAt s n).any (fun p => !p.reached)) }

/-- A flit is of a packet that has not arrived. -/
def HeldFlit (s : State) (n : Nat) : Prop := ∃ p ∈ s.packets, p.id = n ∧ p.reached = false

theorem heldFlit_of_unreached {t : Station} {n : Nat} (hn : n ∈ (unreached s t).replay) : HeldFlit s n := by
  obtain ⟨-, hany⟩ := List.mem_filter.1 hn
  cases hp : packetAt s n with
  | none => simp [hp] at hany
  | some p => exact ⟨p, List.mem_of_find?_eq_some hp, by simpa using List.find?_some hp, by simpa [hp] using hany⟩

/-- A buffer that is filled again holds what it held and packets that wait. -/
theorem heldFlit_of_fillReplay {u : State} (hpackets : u.packets = s.packets) (hheld : ∀ n ∈ (stationOf u dev st).replay, HeldFlit s n) :
    ∀ n ∈ (stationOf (fillReplay u dev st) dev st).replay, HeldFlit s n := by
  intro n hn
  unfold fillReplay at hn
  rcases stationOf_modStation_or u dev st _ with hfilled | hnothing
  · rw [hfilled] at hn
    rcases List.mem_append.1 hn with hkept | hnew
    · exact hheld n (List.mem_of_mem_filter hkept)
    · obtain ⟨p, hp, rfl⟩ := List.mem_map.1 (List.mem_of_mem_take hnew)
      obtain ⟨hmem, hwait⟩ := List.mem_filter.1 hp
      refine ⟨p, hpackets ▸ hmem, rfl, ?_⟩
      simp only [Bool.and_eq_true, Bool.not_eq_true'] at hwait
      exact hwait.1.1.2
  · rw [hnothing] at hn
    exact absurd hn List.not_mem_nil

/-- What a replay leaves of its station. -/
theorem linkLevelReplay_leaves (s : State) (dev st : Nat) :
    let y := retime s (fillReplay (modStation s dev st (unreached s)) dev st)
    y.mem = s.mem ∧ (stationOf y dev st).link = (stationOf s dev st).link ∧ ∀ n ∈ (stationOf y dev st).replay, HeldFlit s n := by
  refine ⟨rfl, ?link, ?replay⟩
  case link =>
    refine ((fillReplay_sheds ..).link dev st).trans ?_
    exact stationOf_modStation_keeps (·.link) (fun t => rfl : ∀ t, (unreached s t).link = t.link) s dev st dev st
  case replay =>
    refine heldFlit_of_fillReplay rfl fun n hn => ?_
    rcases stationOf_modStation_or s dev st (unreached s) with hfiltered | hnothing
    · rw [hfiltered] at hn
      exact heldFlit_of_unreached hn
    · rw [hnothing] at hn
      exact absurd hn List.not_mem_nil

theorem execLinkCreditReturn_of_held {ctx : Nat} (hheld : (mget (stationOf s dev st).inUse ctx).getD 0 ≤ slotsHeld s dev st ctx) :
    execLinkCreditReturn dev st ctx s = .next s := if_pos hheld

theorem execLinkCreditReturn_of_free {ctx : Nat} (hfree : slotsHeld s dev st ctx < (mget (stationOf s dev st).inUse ctx).getD 0) :
    execLinkCreditReturn dev st ctx s = .next (retime s (modStation s dev st (fun t => { t with inUse := mmod t.inUse ctx (· - 1) }))) :=
  if_neg (Nat.not_le.2 hfree)

/-- A credit that returns frees one slot of its context. -/
theorem inUse_credit {m : Module} {ctx v : Nat} (hm : mget s.modules dev = some m) (hst : st < 16) (hv : mget (stationOf s dev st).inUse ctx = some v) :
    mget (stationOf (retime s (modStation s dev st (fun t => { t with inUse := mmod t.inUse ctx (· - 1) }))) dev st).inUse ctx = some (v - 1) := by
  have hstation := stationOf_modStation (fun t => { t with inUse := mmod t.inUse ctx (· - 1) }) hm hst
  rw [stationOf_of_modules (retime_modules ..), hstation]
  simp only [mget_mmod_same, hv, Option.map_some]

end

/-! ### Ethernet sends -/

section
variable {s : State} {k u : Nat} {c : Cord} {e : EOp} (hc : mget s.cords k = some c) (he : eopOf c u = some e) (hkind : e.kind = .esend)
  (hstarted : e.state = .started)
include hc he hkind hstarted

/-- An esend sends its next packet on the first path with room. -/
theorem execSprayPacketSend_sends {i j : Nat} {peer : Peer} (hup : etherUp s c.dev c.die = true) (hnext : e.chunks.idxOf? 3 = some i)
    (hroom : sprayStep s c e ((e.sa.drop (4096 * i)).take 4096).length = some j)
    (hpeer : mget (ctxOf s c.ctx).peers (esendPeer e.desc) = some peer) :
    ∃ t p, execSprayPacketSend k u s = .next t ∧ t.packets = s.packets ++ [p] ∧ p.dst = peer.dev ∧ p.dstDie = peer.die ∧ p.chunk = i ∧
      p.payload = .ether ((e.sa.drop (4096 * i)).take 4096) ((dreg e.desc 1).toNat + 4096 * i) (bitsOf (dreg e.desc 2) 32 16)
        (e.spray.getD ((e.sprayK + j) % e.spray.length) 0) (esendPeer e.desc) := by
  simp only [execSprayPacketSend, hc, he, hkind, hstarted, hup, BEq.rfl, Bool.and_self, if_true, hnext, hroom, hpeer]
  cases pathKey s c.ctx c.dev c.die (e.spray.getD ((e.sprayK + j) % e.spray.length) 0) with
  | none => exact ⟨_, _, rfl, rfl, rfl, rfl, rfl, rfl⟩
  | some a => exact ⟨_, _, rfl, rfl, rfl, rfl, rfl, rfl⟩

theorem execEsendRetryLimit_fails {mine : List Packet} (hmine : s.packets.filter (fun p => p.cord == k && p.op == u) = mine) (hsome : mine ≠ []) :
    execEsendRetryLimit k u s = .next (failEop (mine.foldl dropPacket s) k u 21 0
      (deliveryDetail ((mine.map (·.dst)).headD 0) (mine.any (·.reached)) false false)) := by
  subst hmine
  simp [execEsendRetryLimit, hc, he, hkind, hstarted, hsome]

end

theorem dropPacket_cords (s : State) (p : Packet) : (dropPacket s p).cords = s.cords := by
  unfold dropPacket
  dsimp only
  split <;> rfl

theorem foldl_dropPacket_cords (ps : List Packet) (s : State) : (ps.foldl dropPacket s).cords = s.cords := by
  induction ps generalizing s with
  | nil => rfl
  | cons p ps ih => exact (ih _).trans (dropPacket_cords s p)

/-- Settles O49: each event by its guard; what goes down, is lost, replayed or credited by the lemmas of its part. -/
theorem linkEvents : Obligations.LinkEvents := by
  unfold Obligations.LinkEvents
  intro s dev st ctx plane k u i j c e peer m t here down lost used busy bit data spot x mine
  refine ⟨rfl, ?retrain, ?return_, ?down, ?plane, rfl, ?replay, execLinkCreditReturn_of_held, execLinkCreditReturn_of_free, ?credit, ?ether⟩
  case retrain =>
    rintro ⟨hm, hst⟩ hup
    have hstation := stationOf_modStation (fun t => if t.link == .up then { t with link := .retrain, leftAt := s.wall } else t) hm hst
    have hup' : ((stationOf s dev st).link == .up) = true := by simpa using hup
    rw [if_pos hup'] at hstation
    exact ⟨_, rfl, rfl, congrArg Station.link hstation, congrArg Station.leftAt hstation⟩
  case return_ =>
    rintro ⟨hm, hst⟩
    refine ⟨fun hstarted => ⟨execLinkReturn_of_started hm hstarted, _, execLinkReturn_of_started hm hstarted, rfl, ?_⟩,
      fun hstopped => execLinkReturn_of_stopped hm hstopped⟩
    exact congrArg Station.link (stationOf_modStation (fun t => { t with link := .up }) hm hst)
  case down =>
    intro hout hlimit
    have hexec := execLinkDownDeclared_of_limit hout hlimit
    exact ⟨hexec, fun ⟨hm, hst⟩ => ⟨_, hexec, linkDown_leaves hm hst⟩⟩
  case plane =>
    intro hm _
    exact ⟨execPlaneRetire_begins hm, execPlaneRetire_waits hm, execPlaneRetire_retires hm⟩
  case replay => exact ⟨_, rfl, linkLevelReplay_leaves s dev st⟩
  case credit =>
    rintro v ⟨hm, hst⟩ hv hfree
    exact ⟨_, execLinkCreditReturn_of_free (by rw [hv]; exact hfree), rfl, inUse_credit hm hst hv⟩
  case ether =>
    intro hc he hkind hstarted
    refine ⟨execSprayPacketSend_sends hc he hkind hstarted, fun hsome => ?_⟩
    have hexec := execEsendRetryLimit_fails hc he hkind hstarted rfl hsome
    have heop : eopAt (mine.foldl dropPacket s) k u = some e := (eopAt_of_cords (foldl_dropPacket_cords mine s) k u).trans (eopAt_of hc he)
    obtain ⟨c', hc', he'⟩ := eopAt_finds (eopAt_failEop 0
      (deliveryDetail ((mine.map (·.dst)).headD 0) (mine.any (·.reached)) false false) heop (by decide : (21 : Nat) ≠ 0))
    exact ⟨hexec, _, c', _, hexec, (failEop_mem ..).trans (mem_foldl dropPacket_mem s mine), hc', he', rfl, rfl⟩

end Sys2Proof.Laws

/-!
O43, the start of a copy of a box (R298, R300). Its statement keeps, in the operation that has started, the bytes of other modules it had
fetched before; the start forgets them.
-/
namespace Sys2Proof.Laws
open Sys2Proof.Machine Sys2Proof.Safety

section
variable {s : State} {k u : Nat} {c : Cord} {e : EOp}

/-- A tcopy reads nothing as it starts: it asks no other module for a byte before its chunks move. -/
theorem startTouches_of_tcopy (hkind : e.kind = .tcopy) : startTouches e = [] := by
  simp [startTouches, startReads, sendReads, hkind]

theorem sendHeld_of_tcopy (hkind : e.kind = .tcopy) : sendHeld s c e = false := by
  simp [sendHeld, sendTargets, hkind]

theorem engineTrans_nil (s : State) (c : Cord) : engineTrans s c [] = s := rfl

theorem engineTouch_nil (s : State) (c : Cord) (hint : BitVec 32) : engineTouch s c hint [] = s := rfl

theorem missingBytes_nil (s : State) (c : Cord) (e : EOp) : missingBytes s c e [] = [] := rfl

theorem startCopy_of_tcopy (s : State) (k : Nat) (c : Cord) (hkind : e.kind = .tcopy) (hnone : e.chunks = []) :
    startCopy s k c e = modEop s k e.uid (fun _ => { e with
      state := .started, chunks := List.replicate (chunkCount (copyBytes e)) 0, got := [] }) := by
  have hreads : startReads e = [] := by simp [startReads, hkind]
  simp [startCopy, hreads, engineTouch_nil, hnone, hkind]

/-- A tcopy whose turn has come starts with all its chunks to move and nothing fetched. -/
theorem engineStart_of_tcopy (hc : mget s.cords k = some c) (he : eopOf c u = some e) (hrunning : c.life = .running) (hwaits : e.state = .waiting)
    (hnumbered : e.numbered = true) (hready : strandReady c (cycOf s c.dev c.die) e = true) (hturn : startTurn c e = true)
    (hfree : pieceBusy s k u 0 = false) (hkind : e.kind = .tcopy) (hnone : e.chunks = []) :
    execEngineStart k u s = .next (modEop (if e.after = u ∧ e.chunks = [] then releaseStep s (partyOf c e.lane) else s) k u (fun _ =>
      { e with state := .started, chunks := List.replicate (chunkCount (copyBytes e)) 0, got := [] })) := by
  have huid := eopOf_uid he
  have hkindStart : ∀ t, startKind t k c e = modEop t k u (fun _ =>
      { e with state := .started, chunks := List.replicate (chunkCount (copyBytes e)) 0, got := [] }) := fun t => by
    rw [← huid, ← startCopy_of_tcopy t k c hkind hnone]
    simp only [startKind, hkind]
  simp only [execEngineStart, hc, he, hrunning, hwaits, hnumbered, hready, hturn, hfree, sendHeld_of_tcopy hkind, startTouches_of_tcopy hkind,
    engineTrans_nil, missingBytes_nil, hkindStart, huid, hnone]
  by_cases hafter : e.after = u <;> simp [hafter]

end

/-- A copy whose turn has come and that holds a byte fetched from another module, and a cord with it. -/
def fetchedEop : EOp :=
  { blankEOp with uid := 7, after := 7, kind := .tcopy, state := .waiting, numbered := true, got := [⟨0, 0, 0, 0⟩] }
def fetchedCord : Cord := { probeCord with eops := [fetchedEop] }
def fetchedCopy : State := { State.reset with cords := [(0, fetchedCord)] }

theorem fetchedCopy_cord : mget fetchedCopy.cords 0 = some fetchedCord := rfl

theorem fetchedCord_eop : eopOf fetchedCord 7 = some fetchedEop := rfl

theorem fetchedCord_turn : fetchedCord.life = .running ∧
    strandReady fetchedCord (cycOf fetchedCopy fetchedCord.dev fetchedCord.die) fetchedEop = true ∧ startTurn fetchedCord fetchedEop = true ∧
    pieceBusy fetchedCopy 0 7 0 = false := by decide

/-- Refutes O43: its clause on a tcopy that starts leaves the operation the bytes it had fetched, while the start forgets them. It fails of
the state `fetchedCopy`, whose tcopy holds a byte, though by startTouches_of_tcopy it asks for none before it has started. -/
theorem not_engineEvents : ¬ Obligations.EngineEvents := by
  unfold Obligations.EngineEvents
  intro hall
  obtain ⟨hrunning, hready, hturn, hfree⟩ := fetchedCord_turn
  obtain ⟨-, hstarts, -⟩ := hall fetchedCopy 0 7 0 _ _ fetchedCopy_cord fetchedCord_eop
  have hclaim := (hstarts ⟨hrunning, rfl, rfl, hready, hturn⟩ hfree).1 rfl rfl
  have hstate := Host.Outcome.next.inj
    ((engineStart_of_tcopy fetchedCopy_cord fetchedCord_eop hrunning rfl rfl hready hturn hfree rfl rfl).symm.trans hclaim)
  have hreleased : eopAt (releaseStep fetchedCopy (partyOf fetchedCord fetchedEop.lane)) 0 7 = some fetchedEop :=
    eopAt_of fetchedCopy_cord fetchedCord_eop
  have hgot := congrArg (fun t => (eopAt t 0 7).map (·.got)) hstate
  rw [if_pos ⟨rfl, rfl⟩, eopAt_modEop, eopAt_modEop, hreleased] at hgot
  · exact absurd hgot (by decide)
  · exact fun _ _ => rfl
  · exact fun _ _ => rfl

end Sys2Proof.Laws
